-- ==== Sys2Proof/Word.lean ====
section
/-!
DEFINITION. The word types of the Itnos Q7 and their plainest arithmetic (spec 00 R8, R10).
-/

namespace Sys2Proof

/-- 8 bits (R10). -/
abbrev Byte := BitVec 8
/-- 32 bits (R10): one vector register. -/
abbrev Word := BitVec 32
/-- 64 bits (R10): a register pair, an address. -/
abbrev DWord := BitVec 64
/-- 128 bits (R10): the trail. -/
abbrev Quad := BitVec 128
/-- One native instruction slot (R54). -/
abbrev Slot96 := BitVec 96

/-- The 32-bit word of a natural number, taken modulo 2^32. -/
def word (n : Nat) : Word := BitVec.ofNat 32 n
/-- The 64-bit word of a natural number, taken modulo 2^64. -/
def dword (n : Nat) : DWord := BitVec.ofNat 64 n
/-- The byte of a natural number, taken modulo 256. -/
def byte (n : Nat) : Byte := BitVec.ofNat 8 n

/-- A pair of 32-bit registers as one 64-bit value: the even register holds bits 31:0 (R19). -/
def pairOf (lo hi : Word) : DWord := hi ++ lo
/-- Bits 31:0 of a 64-bit value. -/
def loWord (x : DWord) : Word := x.extractLsb' 0 32
/-- Bits 63:32 of a 64-bit value. -/
def hiWord (x : DWord) : Word := x.extractLsb' 32 32

end Sys2Proof
end

