-- ==== Sys2Proof/Syntax.lean ====
section
/-!
DEFINITION. The steps of the Itnos Q7: one constructor of `Instr` for every row of spec/opcode_table.json, in the
table's order. Thread instructions (02, 05, 07, 08, 11, 13, 14, 18), the device's own events, the host's intake
items (18 R435) and the Ranger's commands (18 R444).
-/

namespace Sys2Proof

/-- Type codes of R59. -/
inductive Ty where
  | none | s8 | s16 | s32 | s64 | n8 | n16 | n32 | n64 | b8 | b16 | b32 | b64 | b128
  | f64 | f32 | f16 | bf16 | e4m3 | e5m2 | e2m1 | cb4 | i4 | i8
deriving DecidableEq, Repr, Inhabited

/-- Operand of an instruction (R60, R68): register vN (native 0-127, portable w0-w1023), team constant sN,
inline constant 0xC0+N, fast special register 0xD0+N. -/
inductive Opd where
  | v (n : Fin 1024)
  | s (n : Fin 64)
  | k (c : Fin 16)
  | r (c : Fin 15)
deriving DecidableEq, Repr, Inhabited

/-- Predicate selector with negation (R131), and the guard of an instruction (R55). -/
structure Psel where
  neg : Bool
  p : Fin 8
deriving DecidableEq, Repr, Inhabited

/-- The flag mark SB of R54. -/
inductive Sb where
  | none | fa | fb
deriving DecidableEq, Repr, Inhabited

/-- What every thread instruction carries: its guard and its flag mark. -/
structure X where
  g : Psel
  sb : Sb
deriving DecidableEq, Repr, Inhabited

/-- Rounding modes of R24. -/
inductive Rm where
  | rn | rz | rd | ru
deriving DecidableEq, Repr, Inhabited

/-- Transfer targets: native LOFF and SLOT (R58) or a portable byte offset (R67). -/
inductive Target where
  | line (loff : BitVec 26) (slot : Fin 5)
  | off (o : BitVec 32)
deriving DecidableEq, Repr, Inhabited

/-- Comparison codes of R64. -/
inductive Cmp where
  | eq | ne | lt | le | gt | ge | num | nan | equ | neu | ltu | leu | gtu | geu
deriving DecidableEq, Repr, Inhabited

/-- Combining operator of PCMPI and PCMPF (R112 BOP). -/
inductive Bop where
  | none | and | or | xor
deriving DecidableEq, Repr, Inhabited

/-- Operations of ATOM, RED, SCAN and GRED (R64). -/
inductive Aop where
  | add | min | max | and | or | xor | exch | cas | inc | dec
deriving DecidableEq, Repr, Inhabited

/-- SHFL modes (R64). -/
inductive ShflMode where
  | idx | up | down | xor
deriving DecidableEq, Repr, Inhabited

/-- VOTE modes (R64). -/
inductive VoteMode where
  | all | any | uni
deriving DecidableEq, Repr, Inhabited

/-- Address spaces (R57). -/
inductive Space where
  | g | t | c
deriving DecidableEq, Repr, Inhabited

/-- Scopes (R57, R256). -/
inductive Scope where
  | thr | team | clu | die | mod | dom
deriving DecidableEq, Repr, Inhabited

/-- Core kinds (R3). -/
inductive CoreKind where
  | bramble | larch
deriving DecidableEq, Repr, Inhabited

/-- Target kind of a REORDER (R185). -/
inductive KindSel where
  | keep | b | l
deriving DecidableEq, Repr, Inhabited

/-- The word that TARG reads (R360). -/
inductive TargForm where
  | word (k : Fin 16)
  | pair (k : Fin 16)
  | ext
deriving DecidableEq, Repr, Inhabited

/-- Special and control registers (R124). -/
inductive SReg where
  | fast (c : Fin 15)
  | tid | cycle64 | hcore | glade | die | module | nthr | nteam | nclu | launch
  | fstat | fmode | fseed | spillBase | spillLimit | spillPtr
  | trapBase | trapCause | trapAddr | trapPcn | trapPcx | trapEqp | saveBase | preemptCtl | ctxId
  | specCtl | specCommit | specRollback | migPolicy | mmaThrottle
deriving DecidableEq, Repr, Inhabited

/-- Trap causes of R388. -/
inductive Cause where
  | illegalOpcode | reservedField | illegalTarget | lineParity | roleViolation | privilege
  | notPresent | permission | sealedWrite | alignment | memError | appendOnly
  | arithmetic | teamStall | reorderState | convMismatch | spill | engineFault | lateFrame | staleCut
  | preemption | watchdog | imageLost | userTrap
deriving DecidableEq, Repr, Inhabited

/-- Header fields of an intake message that passed R435's magic, session and TAG tests. -/
structure Hdr where
  session : Nat
  queue : Nat
  seq : Nat
  ctx : Nat
deriving DecidableEq, Repr, Inhabited

/-- Header fields of a Ranger command whose owner signature holds (R443, R444). -/
structure RHdr where
  seq : Nat
deriving DecidableEq, Repr, Inhabited

/-- A token in flight (R428, R432), with the domain context and receive-buffer address it names.
`op` and `entry` name the sender's XSEND and its list entry. -/
structure Token where
  exp : Nat
  alt : Nat
  src : Nat
  round : Nat
  token : Nat
  pos : Nat
  seq : Nat
  xid : Nat
  psz : Nat
  rbuf : DWord
  dctx : Nat
  payload : List Byte
  sender : Nat
  op : Nat
  entry : Nat
deriving DecidableEq, Repr, Inhabited

/-- What a receiving engine answers (R433). -/
inductive TokenResp where
  | admitted (slot : Nat)
  | full
  | fault
deriving DecidableEq, Repr, Inhabited

/-- An access of another module, performed at its local home (R424). -/
inductive RemoteReq where
  | read (pa len : Nat)
  | write (pa : Nat) (data : List Byte)
  | atom (pa : Nat) (op : Aop) (ty : Ty) (b c : DWord)
  | batch (pa : Nat) (op : Aop) (ty : Ty) (b : DWord)
  | walk (pa : Nat)
deriving DecidableEq, Repr, Inhabited

/-- A part that the power manager handles (R446). -/
inductive PowerPart where
  | glade (n : Nat)
  | die (n : Nat)
  | module
deriving DecidableEq, Repr, Inhabited

/-- The steps of the machine. -/
inductive Instr where
  -- control, call and system (05 R116)
  | nop (x : X)
  | bra (x : X) (t : Target)
  | brx (x : X) (a : Opd)
  | call (x : X) (t : Target) (nsl : Fin 16)
  | callx (x : X) (a : Opd) (nsl : Fin 16)
  | ret (x : X)
  | exit (x : X)
  | gexit (x : X)
  | yield (x : X)
  | trap (x : X) (imm : Word)
  | tret (x : X)
  | tretry (x : X)
  | tfence (x : X)
  | getsr (x : X) (d : Opd) (sr : SReg)
  | setsr (x : X) (sr : SReg) (a : Opd)
  | sleep (x : X) (imm : Word)
  -- integer and address (05 R126, R128)
  | iadd (x : X) (ty : Ty) (sat : Bool) (d a b : Opd)
  | iaddImm (x : X) (ty : Ty) (sat : Bool) (d a : Opd) (imm : Word)
  | isub (x : X) (ty : Ty) (sat : Bool) (d a b : Opd)
  | imul (x : X) (ty : Ty) (sat : Bool) (d a b : Opd)
  | imulh (x : X) (ty : Ty) (d a b : Opd)
  | imad (x : X) (ty : Ty) (sat : Bool) (d a b c : Opd)
  | idiv (x : X) (ty : Ty) (sat : Bool) (d a b : Opd)
  | irem (x : X) (ty : Ty) (d a b : Opd)
  | imin (x : X) (ty : Ty) (d a b : Opd)
  | imax (x : X) (ty : Ty) (d a b : Opd)
  | iabs (x : X) (ty : Ty) (sat : Bool) (d a : Opd)
  | ineg (x : X) (ty : Ty) (sat : Bool) (d a : Opd)
  | idot4 (x : X) (ty : Ty) (sat : Bool) (d a b c : Opd)
  | lea (x : X) (sx : Bool) (sh : Fin 8) (d a b : Opd)
  | leaImm (x : X) (d a : Opd) (imm : Word)
  -- logic, shift and bit field (05 R129, R130)
  | and (x : X) (ty : Ty) (d a b : Opd)
  | or (x : X) (ty : Ty) (d a b : Opd)
  | xor (x : X) (ty : Ty) (d a b : Opd)
  | andImm (x : X) (ty : Ty) (d a : Opd) (imm : Word)
  | orImm (x : X) (ty : Ty) (d a : Opd) (imm : Word)
  | xorImm (x : X) (ty : Ty) (d a : Opd) (imm : Word)
  | not (x : X) (ty : Ty) (d a : Opd)
  | lut3 (x : X) (ty : Ty) (lut : Byte) (d a b c : Opd)
  | shl (x : X) (ty : Ty) (d a b : Opd)
  | shr (x : X) (ty : Ty) (d a b : Opd)
  | sar (x : X) (ty : Ty) (d a b : Opd)
  | rot (x : X) (ty : Ty) (d a b : Opd)
  | bfx (x : X) (ty : Ty) (sgn : Bool) (d a b : Opd)
  | bfi (x : X) (ty : Ty) (d a b c : Opd)
  | popc (x : X) (ty : Ty) (d a : Opd)
  | clz (x : X) (ty : Ty) (d a : Opd)
  | brev (x : X) (ty : Ty) (d a : Opd)
  | permb (x : X) (d a b c : Opd)
  -- compare, select and predicates (05 R131, R132)
  | pcmpi (x : X) (cmp : Cmp) (ty : Ty) (bop : Bop) (d : Fin 8) (a b : Opd) (c : Psel)
  | pcmpf (x : X) (cmp : Cmp) (ty : Ty) (bop : Bop) (d : Fin 8) (a b : Opd) (c : Psel)
  | plut (x : X) (lut : Byte) (d a b c : Fin 8)
  | sel (x : X) (ty : Ty) (d a b : Opd) (c : Psel)
  | mov (x : X) (ty : Ty) (d a : Opd)
  | movi (x : X) (ty : Ty) (d : Opd) (imm : Word)
  -- floating point (05 R133, R134)
  | fadd (x : X) (r : Option Rm) (sat : Bool) (d a b : Opd)
  | fsub (x : X) (r : Option Rm) (sat : Bool) (d a b : Opd)
  | fmul (x : X) (r : Option Rm) (sat : Bool) (d a b : Opd)
  | fmad (x : X) (r : Option Rm) (sat : Bool) (d a b c : Opd)
  | fmin (x : X) (d a b : Opd)
  | fmax (x : X) (d a b : Opd)
  | dadd (x : X) (r : Option Rm) (sat : Bool) (d a b : Opd)
  | dmul (x : X) (r : Option Rm) (sat : Bool) (d a b : Opd)
  | dmad (x : X) (r : Option Rm) (sat : Bool) (d a b c : Opd)
  | padd2 (x : X) (ty : Ty) (r : Option Rm) (sat : Bool) (d a b : Opd)
  | pmul2 (x : X) (ty : Ty) (r : Option Rm) (sat : Bool) (d a b : Opd)
  | pfma2 (x : X) (ty : Ty) (r : Option Rm) (sat : Bool) (d a b c : Opd)
  -- conversion, quantisation, nonzero analysis (05 R135 to R138)
  | cvt (x : X) (ty sty : Ty) (di si : Fin 8) (r : Option Rm) (sat : Bool) (d a : Opd)
  | cvtq (x : X) (ty sty : Ty) (slot : Fin 64) (r : Option Rm) (xv sat : Bool) (d b a : Opd)
  | cvtd (x : X) (ty sty : Ty) (slot : Fin 64) (nosc : Bool) (d a b : Opd)
  | nzcnt (x : X) (ty : Ty) (slot : Fin 64) (ftz : Bool) (d a b : Opd)
  | nzmap (x : X) (ty : Ty) (slot : Fin 64) (ftz : Bool) (d a b : Opd)
  -- special functions (05 R139)
  | rcp (x : X) (ty : Ty) (d a : Opd)
  | rsq (x : X) (ty : Ty) (d a : Opd)
  | sqrt (x : X) (ty : Ty) (r : Option Rm) (d a : Opd)
  | ex2 (x : X) (d a : Opd)
  | lg2 (x : X) (d a : Opd)
  | sin (x : X) (d a : Opd)
  | cos (x : X) (d a : Opd)
  | sincos (x : X) (d a : Opd)
  | tanh (x : X) (d a : Opd)
  -- lane collectives (07 R177 to R180)
  | shfl (x : X) (m : ShflMode) (seg : Fin 8) (ty : Ty) (d a b c : Opd)
  | vote (x : X) (m : VoteMode) (d : Fin 8) (a : Psel) (c : Opd)
  | ballot (x : X) (d : Opd) (a : Psel) (c : Opd)
  | matchv (x : X) (ty : Ty) (d a c : Opd)
  | compact (x : X) (d : Opd) (a : Psel) (c : Opd)
  | scan (x : X) (op : Aop) (ty : Ty) (excl : Bool) (d a c : Opd)
  | gred (x : X) (op : Aop) (ty : Ty) (d a c : Opd)
  | convergenceMismatchTimeout (group : Nat) (pc : DWord) (inHandler : Bool)
  | join (x : X) (or : Bool) (n : Fin 16)
  | waitj (x : X) (n : Fin 16)
  -- reorder and migration (07 R185, R192, R195, R198; 06 R171)
  | reorder (x : X) (core : Bool) (n : Fin 8) (key b : Opd) (kind : KindSel) (colours : Byte)
  | reorderGroupPlace (group : Nat)
  | migrate (x : X) (kind : CoreKind) (now : Bool)
  | groupMove (group : Nat)
  | migrationWindowEnd (core : Nat)
  -- the matrix engine (08)
  | mma (x : X) (ta tb : Ty) (sat burst sc : Bool) (d a b : Opd) (tile ha hb : Fin 64) (gr : Fin 8)
  | mmas (x : X) (ta tb : Ty) (s8 sat burst sc : Bool) (d a b c : Opd) (tile ha hb : Fin 64) (gr : Fin 8)
  | accz (x : X) (rel : Bool) (tile : Fin 64) (gr : Fin 8)
  | signatureAbandon (group : Nat) (gr : Fin 8)
  | tileWaitTimeout (group : Nat) (tile : Fin 64)
  | matrixOpStart (core : Nat)
  | matrixOpComplete (core : Nat)
  | accld (x : X) (ty : Ty) (space : Space) (colour : Fin 8) (a : Opd) (tile : Fin 64)
  | accst (x : X) (ty mt : Ty) (space : Space) (colour : Fin 8) (a : Opd) (tile : Fin 64)
  | ldf (x : X) (ty : Ty) (perm scl : Bool) (colour : Fin 8) (d a b : Opd) (off : BitVec 24)
  | fslot (x : X) (slot : Fin 64) (colour : Fin 8) (a : Opd) (off : BitVec 24)
  | powerTokenMove (die : Nat)
  | powerTokenRelease (glade : Nat)
  -- memory (11)
  | ld (x : X) (ty : Ty) (n : Fin 16) (space : Space) (colour : Fin 8) (d a : Opd) (off : BitVec 24)
  | st (x : X) (ty : Ty) (n : Fin 16) (space : Space) (colour : Fin 8) (b a : Opd) (off : BitVec 24)
  | loadComplete (op : Nat)
  | storePerformed (op : Nat)
  | lds (x : X) (ty : Ty) (n : Fin 16) (space : Space) (bar : Bool) (a b c : Opd) (off : BitVec 24)
  | pref (x : X) (l2 : Bool) (n : Fin 16) (a : Opd) (off : BitVec 24)
  | atom (x : X) (op : Aop) (ty : Ty) (acq pub : Bool) (scope : Scope) (space : Space) (colour : Fin 8)
      (d a b c : Opd) (off : BitVec 24)
  | red (x : X) (op : Aop) (ty : Ty) (colour : Fin 8) (a b : Opd) (off : BitVec 24)
  | reductionApply (point : Nat)
  | flushred (x : X)
  | fence (x : X) (acq pub : Bool) (scope : Scope) (colours : Byte)
  | xfence (x : X) (mask : Byte)
  -- barrier objects (11 R298)
  | binit (x : X) (space : Space) (clu cex spec : Bool) (a b c : Opd) (off : BitVec 24)
  | arrive (x : X) (space : Space) (ret : Bool) (d a b c : Opd) (off : BitVec 24)
  | wait (x : X) (space : Space) (ret spec : Bool) (d a b : Opd) (off : BitVec 24)
  | btest (x : X) (space : Space) (d : Fin 8) (a b : Opd) (off : BitVec 24)
  | binval (x : X) (space : Space) (a : Opd) (off : BitVec 24)
  | phaseComplete (team off : Nat)
  | rollback (group : Nat)
  -- engines (13)
  | cpy (x : X) (s2g : Bool) (space : Space) (bar : Bool) (colour : Fin 8) (slot : Fin 64) (r : Rm)
      (a b c : Opd) (hnd : BitVec 16)
  | copyOpStart (glade : Nat)
  | engineOpComplete (op : Nat)
  | fetch (x : X) (lgn : Fin 4) (d a b : Opd) (hnd : BitVec 16)
  | tstep (x : X) (d : Opd) (pe : Fin 8) (a b c : Opd) (hnd : BitVec 16)
  | trailRd (x : X) (d : Opd)
  | trailZ (x : X)
  | trailWr (x : X) (a : Opd)
  | tlog (x : X) (ret : Bool) (d a b c : Opd) (hnd : BitVec 16)
  | logRecordWrite (die : Nat)
  | logSegmentClose (log : Nat)
  | mopen (x : X) (md : Fin 8) (a b : Opd)
  | mint (x : X) (md ma mb : Fin 8)
  | muni (x : X) (md ma mb : Fin 8)
  | msub (x : X) (md ma mb : Fin 8)
  | mmadd (x : X) (ty : Ty) (md ma mb : Fin 8)
  | mnext (x : X) (ma : Fin 8) (d c : Opd)
  | mnextSt (x : X) (colour : Fin 8) (ma : Fin 8) (d b c : Opd)
  | mclose (x : X) (ma : Fin 8)
  -- tasks and duplex streams (14)
  | tpost (x : X) (q : Fin 16) (b : Opd)
  | tpostHoldTimeout (thread : Nat)
  | targ (x : X) (f : TargForm) (d : Opd)
  | taskDispatch
  | taskComplete (team : Nat)
  | dappend (x : X) (ret trap : Bool) (d a b c : Opd)
  | dcut (x : X) (ret : Bool) (d a : Opd)
  | dckpt (x : X) (clr : Bool) (a b c : Opd) (i : Fin 8)
  | dtake (x : X) (d a : Opd)
  | dcurs (x : X) (d a : Opd)
  -- exchange (18 R426 to R434)
  | xlist (x : X) (ret : Bool) (d a b c : Opd)
  | xsend (x : X) (fin ret : Bool) (d a b : Opd)
  | xsendRound2 (op : Nat) (resp : List TokenResp)
  | xrecv (x : X) (a b c : Opd)
  | tokenArrival (t : Token)
  | endMarkerArrival (dctx xid peer : Nat)
  | tokenHoldTimeout (hold : Nat)
  | exchangeRetransmit (peer : Nat)
  | peerUnreachable (op : Nat) (peer : Nat)
  -- control-register writes (05 R123; 01, 06, 11, 16)
  | fseedWrite (x : X) (a : Opd)
  | spillBaseWrite (x : X) (a : Opd)
  | spillLimitWrite (x : X) (a : Opd)
  | trapCauseWrite (x : X) (a : Opd)
  | trapBaseWrite (x : X) (a : Opd)
  | saveBaseWrite (x : X) (a : Opd)
  | preemptCtlWrite (x : X) (a : Opd)
  | migPolicyWrite (x : X) (a : Opd)
  | specCtlWrite (x : X) (a : Opd)
  | controlRegisterWrite (x : X) (sr : SReg) (a : Opd)
  -- issue and scheduling (01 R33, 06)
  | clauseStart
  | bundlerPass
  | sleepEnd (thread : Nat)
  | teamStall (team : Nat)
  | clusterAdmit (die : Nat)
  | teamResident (core : Nat)
  | teamEnd (team : Nat)
  | gridEnd (launch : Nat)
  -- traps and pre-emption (16)
  | handlerEntry (group : Nat)
  | handlerWatchdog (group : Nat)
  | drainDeadline (ctx : Nat)
  | teamImageWrite (team : Nat)
  | trapSaveDeadline (ctx : Nat)
  -- part faults and power (18 R422, R424, R441, R442, R446)
  | hbmStackFault (stack : Nat)
  | dieLinkFailure (link : Nat)
  | canopyLinkFailure (link : Nat)
  | corePartFault (core : Nat)
  | partFaultRecovery
  | powerStateEnter (p : PowerPart)
  | powerStateExit (p : PowerPart)
  -- host intake (18 R435, R437)
  | createContext (h : Hdr) (desc : List Byte)
  | writeContextDescriptor (h : Hdr) (desc : List Byte)
  | destroyContext (h : Hdr)
  | loadCodeObject (h : Hdr) (va : DWord) (size : Nat)
  | launch (h : Hdr) (handle fidx : Nat) (geom : List Byte) (spillBase : DWord) (args : List Word)
  | seedTask (h : Hdr) (queue : Nat) (record : List Byte)
  | writeMemoryVirtual (h : Hdr) (va : DWord) (data : List Byte)
  | writeMemoryPhysical (h : Hdr) (pa : DWord) (data : List Byte)
  | readMemory (h : Hdr) (addr : DWord) (len : Nat)
  | invalidate (h : Hdr) (va : DWord) (pages : Nat)
  | seal (h : Hdr) (va : DWord) (pages : Nat)
  | createLog (h : Hdr) (lbase sigbase : DWord) (nseg : Nat)
  | closeLog (h : Hdr) (log : Nat)
  | bindStream (h : Hdr) (obj : DWord)
  | unbindStream (h : Hdr) (obj : DWord)
  | streamCursor (h : Hdr) (obj p : DWord)
  | streamFrame (h : Hdr) (obj stamp : DWord) (off len : Word) (barge : Bool)
  | preempt (h : Hdr)
  | resume (h : Hdr)
  | query (h : Hdr) (kind : Nat) (arg : DWord)
  | reportAcknowledgement (h : Hdr) (seq queue : Nat)
  | transfer (h : Hdr) (va xdesc remote : DWord) (len peer : Nat)
  | reservedIntakeType (h : Hdr) (type : Nat)
  | reportResend (session queue : Nat)
  -- the Ranger (18 R443, R444)
  | ident (r : RHdr)
  | quote (r : RHdr) (nonce : List Byte)
  | fwupd (r : RHdr) (off total : Nat) (chunk : List Byte)
  | power (r : RHdr) (cap : Nat) (tokens : List Nat)
  | release (r : RHdr) (agent id : Nat)
  | rangerSeal (r : RHdr) (ctx : Nat) (va : DWord) (pages : Nat)
  | rangerPreempt (r : RHdr) (ctx : Nat)
  | session (r : RHdr) (op id : Nat) (key : List Byte)
  | domain (r : RHdr) (no : Nat) (routes : List Nat)
  | errlog (r : RHdr) (first : Nat)
  | reset (r : RHdr)
  | xdir (r : RHdr) (base : DWord) (count : Nat)
  | rangerUnknownCode (r : RHdr) (code : Nat)
  -- translation, publishing, parking, fetch, other modules, power loss
  | translationBuildComplete (key : List Byte) (kind : CoreKind) (image : DWord) (size : Nat)
  | translationBuildTimeout (key : List Byte)
  | publishComplete (publish : Nat)
  | parkImageWritten (team : Nat)
  | instructionCacheFill (core : Nat) (line : DWord)
  | remoteAccessArrival (peer : Nat) (req : RemoteReq)
  | transferDataArrival (dctx : Nat) (va : DWord) (data : List Byte) (peer : Nat)
  | lossOfPower
deriving DecidableEq, Repr, Inhabited

end Sys2Proof
end

