-- ==== Sys2Proof/WellFormed.lean ====
section
/-!
DEFINITION. Which instructions an encoding can hold: the type, sub-operation, operand, pair and run checks of R65 orders
3 to 5, with the field checks of each instruction's own file. `fr` is the number of window entries an operand may name:
112 in native code (R60), the frame size F of the executing function in portable code (R68).
-/

namespace Sys2Proof

namespace Ty

/-- Width in bits (R59, R86); `none` has none. -/
def bits : Ty → Nat
  | .none => 0 | .s8 => 8 | .s16 => 16 | .s32 => 32 | .s64 => 64 | .n8 => 8 | .n16 => 16 | .n32 => 32 | .n64 => 64
  | .b8 => 8 | .b16 => 16 | .b32 => 32 | .b64 => 64 | .b128 => 128 | .f64 => 64 | .f32 => 32 | .f16 => 16
  | .bf16 => 16 | .e4m3 => 8 | .e5m2 => 8 | .e2m1 => 4 | .cb4 => 4 | .i4 => 4 | .i8 => 8

/-- Type code (R59). -/
def code : Ty → Nat
  | .none => 0 | .s8 => 1 | .s16 => 2 | .s32 => 3 | .s64 => 4 | .n8 => 5 | .n16 => 6 | .n32 => 7 | .n64 => 8
  | .b8 => 9 | .b16 => 10 | .b32 => 11 | .b64 => 12 | .b128 => 13 | .f64 => 14 | .f32 => 15 | .f16 => 16
  | .bf16 => 17 | .e4m3 => 18 | .e5m2 => 19 | .e2m1 => 20 | .cb4 => 21 | .i4 => 22 | .i8 => 23

/-- Signed integer types of R93: s8 to s64 (SGN). -/
def sgn (t : Ty) : Bool := 1 ≤ t.code && t.code ≤ 4
/-- INT of R63. -/
def int (t : Ty) : Bool := 1 ≤ t.code && t.code ≤ 8
/-- BIT of R63. -/
def bit (t : Ty) : Bool := 9 ≤ t.code && t.code ≤ 12
/-- b32 or b64. -/
def word (t : Ty) : Bool := t.code == 11 || t.code == 12
/-- MEM of R63. -/
def mem (t : Ty) : Bool := 1 ≤ t.code && t.code ≤ 17
/-- MX of R63. -/
def mx (t : Ty) : Bool := 17 ≤ t.code && t.code ≤ 23
/-- AT of R63. -/
def at_ (t : Ty) : Bool := [3, 4, 7, 8, 11, 12, 14, 15].contains t.code
/-- Code formats 0x12 to 0x17 (CVTQ, CVTD, R330). -/
def quant (t : Ty) : Bool := 18 ≤ t.code && t.code ≤ 23
/-- Floating-point formats of R87. -/
def float (t : Ty) : Bool := 14 ≤ t.code && t.code ≤ 20
/-- f32 or f64. -/
def f3264 (t : Ty) : Bool := t == .f32 || t == .f64
/-- f16 or bf16. -/
def half (t : Ty) : Bool := t == .f16 || t == .bf16
/-- Integer formats of R93 with a value. -/
def isInt (t : Ty) : Bool := t.int || t == .i4 || t == .i8
/-- Signed formats among them. -/
def signed (t : Ty) : Bool := t.sgn || t == .i4 || t == .i8

end Ty

namespace Wf

/-- vN lies in the globals or in the frame (R60, R68). -/
def vOk (fr n : Nat) : Bool := n < 16 + fr
/-- A 32-bit source (R60). -/
def s32 (fr : Nat) : Opd → Bool
  | .v n => vOk fr n
  | _ => true
/-- A 64-bit source: an even register, never a fast special register (R19, R65 order 5). -/
def s64 (fr : Nat) : Opd → Bool
  | .v n => n.val % 2 == 0 && vOk fr n
  | .s n => n.val % 2 == 0
  | .k _ => true
  | .r _ => false
/-- A source of the width of `t`. -/
def src (fr : Nat) (t : Ty) (o : Opd) : Bool := if t.bits == 64 then s64 fr o else s32 fr o
/-- A 32-bit destination (R20). -/
def d32 (fr : Nat) : Opd → Bool
  | .v n => vOk fr n
  | .s _ => true
  | _ => false
/-- A 64-bit destination. -/
def d64 (fr : Nat) : Opd → Bool
  | .v n => n.val % 2 == 0 && vOk fr n
  | .s n => n.val % 2 == 0
  | _ => false
/-- A destination of the width of `t`. -/
def dst (fr : Nat) (t : Ty) (o : Opd) : Bool := if t.bits == 64 then d64 fr o else d32 fr o
/-- An unused operand (R60): byte 0x00. -/
def zero : Opd → Bool
  | .v n => n.val == 0
  | _ => false
/-- A run of n registers in the globals or in the window (R115). -/
def run (fr n : Nat) : Opd → Bool
  | .v k => if k.val < 16 then k.val + n ≤ 16 else k.val + n ≤ 16 + fr
  | _ => false
/-- A run whose start is a multiple of q (R115, R140). -/
def runQ (fr n q : Nat) (o : Opd) : Bool :=
  run fr n o && (match o with | .v k => k.val % q == 0 | _ => false)
/-- Registers of one element (R140). -/
def regsOf (t : Ty) : Nat := if t.bits ≤ 32 then 1 else t.bits / 32
/-- N, the size and the run of LD, ST and LDS (R140). -/
def count (t : Ty) (n : Fin 16) : Bool :=
  [0, 1, 3, 7, 15].contains n.val && (n.val + 1) * (t.bits / 8) ≤ 64 && (n.val + 1) * regsOf t ≤ 16
/-- An even pair of registers: no inline constant (R57, R140). -/
def pair (fr : Nat) : Opd → Bool
  | .k _ => false
  | o => s64 fr o
/-- A base: an even pair for .g, one 32-bit operand for .t and .c (R282). -/
def base (fr : Nat) (sp : Space) (o : Opd) : Bool := match sp with | .g => pair fr o | _ => s32 fr o
/-- SUB and TYPE pairs of ATOM (R289). -/
def atomTy (op : Aop) (t : Ty) : Bool :=
  t.at_ && match op with
  | .add | .min | .max => !(t == .b32 || t == .b64)
  | .and | .or | .xor => !(t == .f32 || t == .f64)
  | .exch | .cas => true
  | .inc | .dec => t == .n32 || t == .n64
/-- TYPE and SUB of SCAN and GRED (R63, R180). -/
def laneTy (op : Aop) (t : Ty) : Bool := match op with
  | .add | .min | .max => t == .s32 || t == .n32 || t == .f32
  | .and | .or | .xor => t == .s32 || t == .n32
  | _ => false
/-- Element count of a register (R86). -/
def elems (t : Ty) : Nat := if t.bits == 0 then 1 else if t.bits ≥ 32 then 1 else 32 / t.bits
/-- Types CVT accepts (R135). -/
def cvtTy (t : Ty) : Bool := t.isInt || (t.float && t != .cb4)
/-- A pair of matrix types (R213). -/
def mmaTy (a b : Ty) : Bool := match a with
  | .bf16 => b == .bf16
  | .e4m3 | .e5m2 => b == .e4m3 || b == .e5m2
  | .e2m1 | .cb4 => b == .e2m1 || b == .cb4
  | .i8 => b == .i8
  | .i4 => b == .i4
  | _ => false
/-- The registers of the control registers that are 64 bits wide (R124). -/
def wide : SReg → Bool
  | .tid | .cycle64 | .launch | .spillBase | .trapBase | .trapAddr | .trapPcn | .trapPcx | .saveBase => true
  | _ => false
/-- Registers with a writer (R123, R124). -/
def writable : SReg → Bool
  | .fstat | .fmode | .fseed | .spillBase | .spillLimit | .trapBase | .trapCause | .trapAddr | .trapPcn | .trapPcx
  | .trapEqp | .saveBase | .preemptCtl | .specCtl | .migPolicy => true
  | _ => false
/-- The destination of CVT: a register, or a pair for a 64-bit T (R135). -/
def cvtDi (t : Ty) (i : Nat) : Bool := i < elems t
/-- An address operand of 3-register duplex results and the like: a run, or byte 0x00 when unused. -/
def opt (used : Bool) (ok : Bool) (o : Opd) : Bool := if used then ok else zero o

end Wf

open Wf in
/-- The checks of R65 orders 3 to 5 on a decoded instruction. Steps of the device itself have none. -/
def Instr.wfIn (fr : Nat) : Instr → Bool
  | .nop _ | .bra _ _ | .ret _ | .exit _ | .gexit _ | .yield _ | .trap _ _ | .tfence _
  | .sleep _ _ => true
  | .tret x | .tretry x => x.g == ⟨false, 7⟩
  | .brx _ a => pair fr a
  | .call _ _ n => 1 ≤ n.val && n.val ≤ 14
  | .callx _ a n => pair fr a && 1 ≤ n.val && n.val ≤ 14
  | .getsr _ d sr => if wide sr then d64 fr d else d32 fr d
  | .setsr _ sr a => writable sr && (if wide sr then s64 fr a else s32 fr a)
  | .iadd _ t _ d a b | .isub _ t _ d a b | .imul _ t _ d a b | .imulh _ t d a b | .idiv _ t _ d a b | .irem _ t d a b
  | .imin _ t d a b | .imax _ t d a b => t.int && dst fr t d && src fr t a && src fr t b
  | .iaddImm _ t _ d a _ => t.int && dst fr t d && src fr t a
  | .imad _ t _ d a b c => t.int && dst fr t d && src fr t a && src fr t b && src fr t c
  | .iabs _ t _ d a | .ineg _ t _ d a => t.sgn && dst fr t d && src fr t a
  | .idot4 _ t _ d a b c => (t == .s32 || t == .n32) && d32 fr d && s32 fr a && s32 fr b && s32 fr c
  | .lea _ _ _ d a b => d64 fr d && s64 fr a && s32 fr b
  | .leaImm _ d a _ => d64 fr d && s64 fr a
  | .and _ t d a b | .or _ t d a b | .xor _ t d a b => t.bit && dst fr t d && src fr t a && src fr t b
  | .andImm _ t d a _ | .orImm _ t d a _ | .xorImm _ t d a _ => t.word && dst fr t d && src fr t a
  | .not _ t d a => t.bit && dst fr t d && src fr t a
  | .lut3 _ t _ d a b c => t.bit && dst fr t d && src fr t a && src fr t b && src fr t c
  | .shl _ t d a b | .shr _ t d a b | .sar _ t d a b | .rot _ t d a b | .bfx _ t _ d a b =>
      t.bit && dst fr t d && src fr t a && s32 fr b
  | .bfi _ t d a b c => t.bit && dst fr t d && src fr t a && s32 fr b && src fr t c
  | .popc _ t d a | .clz _ t d a => t.word && d32 fr d && src fr t a
  | .brev _ t d a => t.word && dst fr t d && src fr t a
  | .permb _ d a b c => d32 fr d && s32 fr a && s32 fr b && s32 fr c
  | .pcmpi _ c t bop _ a b p =>
      t.int && [Cmp.eq, .ne, .lt, .le, .gt, .ge].contains c && src fr t a && src fr t b &&
        (bop != .none || (!p.neg && p.p == 0))
  | .pcmpf _ _ t bop _ a b p =>
      (t.f3264 || t.half) && src fr t a && src fr t b && (bop != .none || (!p.neg && p.p == 0))
  | .plut _ _ _ _ _ _ => true
  | .sel _ t d a b _ => t.word && dst fr t d && src fr t a && src fr t b
  | .mov _ t d a => t.word && dst fr t d && src fr t a
  | .movi _ t d _ => t.word && dst fr t d
  | .fadd _ _ _ d a b | .fsub _ _ _ d a b | .fmul _ _ _ d a b => d32 fr d && s32 fr a && s32 fr b
  | .fmad _ _ _ d a b c => d32 fr d && s32 fr a && s32 fr b && s32 fr c
  | .fmin _ d a b | .fmax _ d a b => d32 fr d && s32 fr a && s32 fr b
  | .dadd _ _ _ d a b | .dmul _ _ _ d a b => d64 fr d && s64 fr a && s64 fr b
  | .dmad _ _ _ d a b c => d64 fr d && s64 fr a && s64 fr b && s64 fr c
  | .padd2 _ t _ _ d a b | .pmul2 _ t _ _ d a b => t.half && d32 fr d && s32 fr a && s32 fr b
  | .pfma2 _ t _ _ d a b c => t.half && d32 fr d && s32 fr a && s32 fr b && s32 fr c
  | .cvt _ t sty di si _ _ d a =>
      cvtTy t && cvtTy sty && cvtDi t di.val && cvtDi sty si.val && dst fr t d && src fr sty a
  | .cvtq _ t sty slot _ xv _ d b a =>
      t.quant && (sty == .f32 || sty == .bf16) && slot != 0 && (!xv || t == .e2m1) && d32 fr b &&
        d32 fr d && s32 fr a
  | .cvtd _ t sty slot nosc d a b =>
      (t == .f32 || t == .bf16) && sty.quant && slot != 0 && s32 fr a && s32 fr b && (!nosc || zero b) &&
        run fr (if t == .f32 then 32 / sty.bits else 16 / sty.bits) d
  | .nzcnt _ t slot _ d a b | .nzmap _ t slot _ d a b =>
      (t.float || t == .cb4 || t == .i4 || t == .i8) && ((t == .cb4) == (slot != 0)) && d32 fr d && src fr t a && s32 fr b
  | .rcp _ t d a | .rsq _ t d a | .sqrt _ t _ d a => t.f3264 && dst fr t d && src fr t a
  | .ex2 _ d a | .lg2 _ d a | .sin _ d a | .cos _ d a | .tanh _ d a => d32 fr d && s32 fr a
  | .sincos _ d a => d64 fr d && run fr 2 d && s32 fr a
  | .shfl _ _ seg t d a b c => seg.val ≤ 5 && t.word && dst fr t d && src fr t a && s32 fr b && s32 fr c
  | .vote _ _ _ _ c => s32 fr c
  | .ballot _ d _ c => d32 fr d && s32 fr c
  | .matchv _ t d a c => t.word && d32 fr d && src fr t a && s32 fr c
  | .compact _ d _ c => run fr 2 d && s32 fr c
  | .scan _ op t _ d a c => laneTy op t && d32 fr d && s32 fr a && s32 fr c
  | .gred _ op t d a c => laneTy op t && d32 fr d && s32 fr a && s32 fr c
  | .join _ _ _ | .waitj _ _ => true
  | .reorder _ core n key b kind _ => s32 fr key && run fr (n.val + 1) b && (!core || kind == .keep)
  | .migrate _ _ _ => true
  | .mma _ ta tb sat _ sc d a b _ _ _ _ =>
      mmaTy ta tb && (!sat || ta == .i8 || ta == .i4) && opt sc (run fr 2 d) d && run fr 8 a && run fr 8 b
  | .mmas _ ta tb s8 sat _ sc d a b c _ _ _ _ =>
      mmaTy ta tb && [Ty.bf16, .e4m3, .e5m2, .i8].contains ta && (!sat || ta == .i8) &&
        opt sc (run fr 2 d) d && run fr 8 a && run fr (if s8 then 12 else 24) b && run fr 4 c
  | .accz _ _ _ _ => true
  | .accld _ t sp _ a _ => (t == .f32 || t == .s32) && base fr sp a
  | .accst _ t mt sp _ a _ =>
      ((t == .f32 && (mt == .none || mt == .f16 || mt == .bf16)) || (t == .s32 && mt == .none)) && base fr sp a
  | .ldf _ t _ scl _ d a b _ => t.mx && run fr (if scl then 9 else 8) d && pair fr a && s32 fr b
  | .fslot _ slot _ a _ => slot != 0 && pair fr a
  | .ld _ t n sp _ d a _ =>
      t.mem && count t n && base fr sp a && runQ fr ((n.val + 1) * regsOf t) (regsOf t) d && d32 fr d
  | .st _ t n sp _ b a _ => t.mem && count t n && base fr sp a && runQ fr ((n.val + 1) * regsOf t) (regsOf t) b && s32 fr b
  | .lds _ t n sp bar a b c _ =>
      t.mem && count t n && sp != .g && pair fr a && s32 fr b && opt bar (s32 fr c) c
  | .pref _ _ _ a _ => pair fr a
  | .atom _ op t acq pub sc sp _ d a b c _ =>
      atomTy op t && base fr sp a && dst fr t d && src fr t b && opt (op == .cas) (src fr t c) c &&
        (acq || pub || sc == .thr)
  | .red _ op t _ a b _ =>
      atomTy op t && [Aop.add, .min, .max, .and, .or, .xor].contains op && pair fr a && src fr t b
  | .flushred _ => true
  | .fence _ acq pub _ col => (acq || pub) && (pub || col == 0)
  | .xfence _ m => m != 0
  | .binit _ sp clu cex _ a b c _ => sp != .g && !(clu && cex) && s32 fr a && s32 fr b && s32 fr c
  | .arrive _ sp rt d a b c _ => sp != .g && opt rt (d32 fr d) d && s32 fr a && s32 fr b && s32 fr c
  | .wait _ sp rt _ d a b _ => sp != .g && opt rt (d32 fr d) d && s32 fr a && s32 fr b
  | .btest _ sp _ a b _ => sp != .g && s32 fr a && s32 fr b
  | .binval _ sp a _ => sp != .g && s32 fr a
  | .cpy _ _ sp bar _ _ _ a b c _ => sp != .g && pair fr a && s32 fr b && opt bar (s32 fr c) c
  | .fetch _ lgn d a b _ => lgn.val ≤ 3 && run fr (2 ^ lgn.val) d && s32 fr a && s32 fr b
  | .tstep _ d _ a b c _ => d64 fr d && pair fr a && s32 fr b && s32 fr c
  | .trailRd _ d => run fr 4 d
  | .trailZ _ => true
  | .trailWr _ a => run fr 4 a
  | .tlog _ rt d a b c _ => opt rt (d64 fr d) d && s32 fr a && s32 fr b && s32 fr c
  | .mopen _ _ a b => pair fr a && s32 fr b
  | .mint _ _ _ _ | .muni _ _ _ _ | .msub _ _ _ _ => true
  | .mmadd _ t _ _ _ => t == .s32 || t == .n32 || t == .f32
  | .mnext x _ d c => x.sb == .none && run fr 3 d && s32 fr c
  | .mnextSt _ _ _ d b c => d32 fr d && pair fr b && s32 fr c
  | .mclose _ _ => true
  | .tpost _ _ b => run fr 16 b
  | .targ _ f d => match f with
      | .pair k => k.val % 2 == 0 && d64 fr d
      | _ => d32 fr d
  | .dappend _ rt _ d a b c => opt rt (d64 fr d) d && pair fr a && s32 fr b && s32 fr c
  | .dcut _ rt d a => opt rt (run fr 3 d) d && pair fr a
  | .dckpt _ clr a b c _ => pair fr a && opt (!clr) (pair fr b) b && opt (!clr) (pair fr c) c
  | .dtake _ d a | .dcurs _ d a => run fr 8 d && pair fr a
  | .xlist _ rt d a b c => opt rt (d32 fr d) d && pair fr a && pair fr b && s32 fr c
  | .xsend _ _ rt d a b => opt rt (run fr 3 d) d && pair fr a && s32 fr b
  | .xrecv _ a b c => pair fr a && s32 fr b && s32 fr c
  | .fseedWrite _ a | .spillLimitWrite _ a | .trapCauseWrite _ a | .preemptCtlWrite _ a | .migPolicyWrite _ a
  | .specCtlWrite _ a => s32 fr a
  | .spillBaseWrite _ a | .trapBaseWrite _ a | .saveBaseWrite _ a => s64 fr a
  | .controlRegisterWrite _ sr a => writable sr && (if wide sr then s64 fr a else s32 fr a)
  | .convergenceMismatchTimeout _ _ _ | .reorderGroupPlace _ | .groupMove _ | .migrationWindowEnd _
  | .signatureAbandon _ _ | .tileWaitTimeout _ _ | .matrixOpStart _ | .matrixOpComplete _ | .powerTokenMove _
  | .powerTokenRelease _ | .loadComplete _ | .storePerformed _ | .reductionApply _ | .phaseComplete _ _ | .rollback _
  | .copyOpStart _ | .engineOpComplete _ | .logRecordWrite _ | .logSegmentClose _ | .tpostHoldTimeout _ | .taskDispatch
  | .taskComplete _ | .xsendRound2 _ _ | .tokenArrival _ | .endMarkerArrival _ _ _ | .tokenHoldTimeout _
  | .exchangeRetransmit _ | .peerUnreachable _ _ | .clauseStart | .bundlerPass | .sleepEnd _ | .teamStall _
  | .clusterAdmit _ | .teamResident _ | .teamEnd _ | .gridEnd _ | .handlerEntry _ | .handlerWatchdog _
  | .drainDeadline _ | .teamImageWrite _ | .trapSaveDeadline _ | .hbmStackFault _ | .dieLinkFailure _
  | .canopyLinkFailure _ | .corePartFault _ | .partFaultRecovery | .powerStateEnter _ | .powerStateExit _ => true
  | .createContext _ d | .writeContextDescriptor _ d => d.length == 192
  | .launch _ _ _ g _ args => g.length == 16 && args.length ≤ 64
  | .seedTask _ q r => q ≤ 255 && r.length == 64
  | .writeMemoryVirtual _ _ d | .writeMemoryPhysical _ _ d => 1 ≤ d.length && d.length ≤ 8184
  | .readMemory _ _ n => 1 ≤ n && n ≤ 8192
  | .destroyContext _ | .loadCodeObject _ _ _ | .invalidate _ _ _ | .seal _ _ _ | .createLog _ _ _ _ | .closeLog _ _
  | .bindStream _ _ | .unbindStream _ _ | .streamCursor _ _ _ | .streamFrame _ _ _ _ _ _ | .preempt _ | .resume _
  | .query _ _ _ | .reportAcknowledgement _ _ _ | .transfer _ _ _ _ _ _ | .reservedIntakeType _ _ | .reportResend _ _ => true
  | .quote _ n => n.length == 32
  | .power _ _ t => t.length == 8
  | .session _ _ _ k => k.length == 32
  | .domain _ _ rs => rs.length == 64
  | .fwupd _ _ _ c => c.length ≤ 8176
  | .ident _ | .release _ _ _ | .rangerSeal _ _ _ _ | .rangerPreempt _ _ | .errlog _ _ | .reset _ | .xdir _ _ _
  | .rangerUnknownCode _ _ => true
  | .translationBuildComplete _ _ _ _ | .translationBuildTimeout _ | .publishComplete _ | .parkImageWritten _
  | .instructionCacheFill _ _ | .remoteAccessArrival _ _ | .transferDataArrival _ _ _ _ | .lossOfPower => true

/-- Native well-formedness (R60): 112 window registers, and no operand of another encoding. -/
def WellFormed (i : Instr) : Prop := i.wfIn 112 = true

end Sys2Proof
end

