-- ==== Sys2Proof/Decode.lean ====
section
/-!
DEFINITION. Decoding of native slots (02 R54 to R65), of portable instructions (02 R66 to R71), of intake messages
(18 R435, R437) and of Ranger datagrams (18 R444), each total on any bits; then the encoders from the same tables.
-/

namespace Sys2Proof

/-- Why a slot is not a legal instruction (R65). -/
inductive Reject where
  | illegalOpcode
  | reservedField
  | illegalTarget
deriving DecidableEq, Repr

/-- Bits lo+n-1 : lo of a number. -/
def bitsAt (w lo n : Nat) : Nat := w / 2 ^ lo % 2 ^ n
/-- One bit of a number. -/
def bitAt (w k : Nat) : Bool := w / 2 ^ k % 2 == 1

/-- Formats of R56. -/
inductive Fmt where
  | R | I | M | B | S | X | Q
deriving DecidableEq, Repr

/-- An operand code: a native byte at or above 0x80 (`k`), or a register number or selector. -/
structure Raw where
  k : Bool
  c : Nat
deriving DecidableEq, Repr

/-- The fields of an instruction of either encoding. `ext` is what bits 95:72 or 95:64 carry (R56, R67), for a B format
LOFF and SLOT or the portable byte offset; `bad` is a reserved bit of the format. -/
structure Flds where
  portable : Bool
  frame : Nat
  op : Nat
  g : Nat
  sb : Nat
  ty : Nat
  sub : Nat
  d : Raw
  a : Raw
  b : Raw
  c : Raw
  md : Nat
  ext : Nat
  bad : Bool
  eqp : Bool
deriving DecidableEq, Repr

/-- One row of the opcode map (R63): the format, whether TYPE is used, the largest SUB, the F mark, the MOD bits the
opcode defines, the operand bytes it may use (1 D, 2 A, 4 B, 8 C) and the `ext` bits it uses. -/
structure OpRow where
  fmt : Fmt
  typed : Bool
  subMax : Nat
  flag : Bool
  md : Nat
  opds : Nat
  ext : Nat
deriving DecidableEq, Repr

/-- Rows 0x0 to 0x3 of the opcode map (R63, R112, R116). -/
def opRowLow (op : Nat) : Option OpRow :=
  match op with
  | 0x00 => some ⟨.S, false, 0, false, 0, 0, 0⟩
  | 0x01 => some ⟨.B, false, 0, false, 0, 0, 2 ^ 32 - 1⟩
  | 0x02 => some ⟨.R, false, 0, false, 0, 2, 0⟩
  | 0x03 => some ⟨.B, false, 0, false, 15, 0, 2 ^ 32 - 1⟩
  | 0x04 => some ⟨.R, false, 0, false, 15, 2, 0⟩
  | 0x05 | 0x06 | 0x07 | 0x08 | 0x0A | 0x0B | 0x0C => some ⟨.S, false, 0, false, 0, 0, 0⟩
  | 0x09 | 0x0F => some ⟨.I, false, 0, false, 0, 0, 2 ^ 32 - 1⟩
  | 0x0D => some ⟨.S, false, 0, false, 0, 1, 0xFFFF⟩
  | 0x0E => some ⟨.S, false, 0, false, 0, 2, 0xFFFF⟩
  | 0x10 | 0x11 | 0x12 | 0x15 => some ⟨.R, true, 0, false, 0x20, 7, 0⟩
  | 0x13 | 0x16 | 0x17 | 0x18 => some ⟨.R, true, 0, false, 0, 7, 0⟩
  | 0x14 | 0x1C => some ⟨.R, true, 0, false, 0x20, 15, 0⟩
  | 0x19 | 0x1A => some ⟨.R, true, 0, false, 0x20, 3, 0⟩
  | 0x1B => some ⟨.R, true, 0, false, 0xF000, 7, 0⟩
  | 0x1D => some ⟨.I, true, 0, false, 0x20, 3, 2 ^ 32 - 1⟩
  | 0x1E => some ⟨.I, true, 0, false, 0, 3, 2 ^ 32 - 1⟩
  | 0x20 | 0x21 | 0x22 | 0x25 | 0x26 | 0x27 | 0x28 => some ⟨.R, true, 0, false, 0, 7, 0⟩
  | 0x23 | 0x2B | 0x2C | 0x2D => some ⟨.R, true, 0, false, 0, 3, 0⟩
  | 0x24 => some ⟨.R, true, 0, false, 0xFF00, 15, 0⟩
  | 0x29 => some ⟨.R, true, 0, false, 0x40, 7, 0⟩
  | 0x2A | 0x2E => some ⟨.R, true, 0, false, 0, 15, 0⟩
  | 0x2F => some ⟨.I, true, 2, false, 0, 3, 2 ^ 32 - 1⟩
  | 0x30 => some ⟨.R, true, 5, false, 0x1800, 15, 0⟩
  | 0x31 => some ⟨.R, true, 13, false, 0x1800, 15, 0⟩
  | 0x32 => some ⟨.R, false, 0, false, 0xFF, 15, 0⟩
  | 0x33 => some ⟨.R, true, 0, false, 0, 15, 0⟩
  | 0x34 => some ⟨.R, true, 0, false, 0, 3, 0⟩
  | 0x35 => some ⟨.I, true, 0, false, 0, 1, 2 ^ 32 - 1⟩
  | _ => none

/-- Rows 0x4 to 0x9 of the opcode map (R63, R112, R177, R181, R185, R195, R211, R212). -/
def opRowMid (op : Nat) : Option OpRow :=
  match op with
  | 0x40 | 0x41 | 0x42 | 0x46 | 0x47 | 0x50 | 0x51 => some ⟨.R, true, 0, false, 0x3A0, 7, 0⟩
  | 0x43 | 0x48 | 0x52 => some ⟨.R, true, 0, false, 0x3A0, 15, 0⟩
  | 0x44 | 0x45 => some ⟨.R, true, 0, false, 0, 7, 0⟩
  | 0x53 => some ⟨.R, true, 0, false, 0xFFBF, 3, 0⟩
  | 0x54 => some ⟨.R, true, 0, false, 0xFFFF, 7, 0⟩
  | 0x55 => some ⟨.R, true, 0, false, 0xFC5F, 7, 0⟩
  | 0x56 | 0x57 => some ⟨.R, true, 0, false, 0xFC40, 7, 0⟩
  | 0x60 | 0x61 | 0x63 | 0x64 | 0x65 | 0x66 | 0x67 | 0x68 => some ⟨.R, true, 0, false, 0, 3, 0⟩
  | 0x62 => some ⟨.R, true, 0, false, 0x380, 3, 0⟩
  | 0x70 => some ⟨.R, true, 3, false, 7, 15, 0⟩
  | 0x71 => some ⟨.R, false, 2, false, 0, 11, 0⟩
  | 0x72 | 0x74 => some ⟨.R, false, 0, false, 0, 11, 0⟩
  | 0x73 => some ⟨.R, true, 0, false, 0, 11, 0⟩
  | 0x75 => some ⟨.R, true, 5, false, 1, 11, 0⟩
  | 0x76 => some ⟨.R, true, 5, false, 0, 11, 0⟩
  | 0x80 => some ⟨.S, false, 0, false, 0x1F, 0, 0⟩
  | 0x81 => some ⟨.S, false, 0, false, 0xF, 0, 0⟩
  | 0x82 => some ⟨.R, false, 1, false, 0xFF1F, 6, 0⟩
  | 0x83 => some ⟨.S, false, 1, false, 1, 0, 0⟩
  | 0x90 => some ⟨.Q, true, 0, true, 0xC05F, 7, 0x1FFFFF⟩
  | 0x91 => some ⟨.Q, true, 0, true, 0xE05F, 15, 0x1FFFFF⟩
  | 0x92 => some ⟨.Q, false, 0, true, 0x80, 0, 0x1C003F⟩
  | 0x93 => some ⟨.Q, true, 0, true, 0x1F00, 2, 0x3F⟩
  | 0x94 => some ⟨.Q, true, 0, true, 0x1F1F, 2, 0x3F⟩
  | 0x95 => some ⟨.M, true, 0, true, 0x1C03, 7, 0xFFFFFF⟩
  | 0x96 => some ⟨.M, false, 0, true, 0x1C00, 3, 0xFFFFFF⟩
  | _ => none

/-- Rows 0xA to 0xE of the opcode map (R63, R282 to R298, R329 to R346, R358, R360, R368, R430). -/
def opRowHigh (op : Nat) : Option OpRow :=
  match op with
  | 0xA0 => some ⟨.M, true, 0, true, 0x1F3C, 3, 0xFFFFFF⟩
  | 0xA1 => some ⟨.M, true, 0, true, 0x1F3C, 6, 0xFFFFFF⟩
  | 0xA2 => some ⟨.M, true, 0, true, 0x033D, 14, 0xFFFFFF⟩
  | 0xA3 => some ⟨.M, false, 0, false, 0x3D, 2, 0xFFFFFF⟩
  | 0xB0 => some ⟨.M, true, 9, true, 0xFFC0, 15, 0xFFFFFF⟩
  | 0xB1 => some ⟨.M, true, 5, false, 0x1C00, 6, 0xFFFFFF⟩
  | 0xB2 => some ⟨.S, false, 0, true, 0, 0, 0⟩
  | 0xB3 => some ⟨.S, false, 0, false, 0xFFF8, 0, 0⟩
  | 0xB4 => some ⟨.S, false, 0, false, 0xFF, 0, 0⟩
  | 0xC0 => some ⟨.M, false, 0, false, 0xE303, 14, 0xFFFFFF⟩
  | 0xC1 => some ⟨.M, false, 0, false, 0x301, 15, 0xFFFFFF⟩
  | 0xC2 => some ⟨.M, false, 0, false, 0x303, 7, 0xFFFFFF⟩
  | 0xC3 => some ⟨.M, false, 0, false, 0x300, 7, 0xFFFFFF⟩
  | 0xC4 => some ⟨.M, false, 0, false, 0x300, 2, 0xFFFFFF⟩
  | 0xD0 => some ⟨.X, false, 0, true, 0xFFF8, 14, 0x3FFFF⟩
  | 0xD1 => some ⟨.X, false, 0, true, 3, 7, 0xFFFF⟩
  | 0xD2 => some ⟨.X, false, 0, true, 0, 15, 0x7FFFF⟩
  | 0xD3 => some ⟨.X, false, 0, true, 1, 15, 0xFFFF⟩
  | 0xD4 => some ⟨.R, false, 0, false, 3, 3, 0⟩
  | 0xD5 => some ⟨.X, false, 0, true, 7, 6, 0⟩
  | 0xD6 | 0xD7 | 0xD8 => some ⟨.X, false, 0, true, 0x1FF, 0, 0⟩
  | 0xD9 => some ⟨.X, false, 0, true, 0x1FF, 0, 0xFF0000⟩
  | 0xDA => some ⟨.X, false, 0, true, 0x1E38, 13, 0⟩
  | 0xDB => some ⟨.X, false, 0, true, 0x38, 0, 0⟩
  | 0xE0 => some ⟨.X, false, 0, true, 0, 4, 0xF0000⟩
  | 0xE1 => some ⟨.R, false, 0, false, 0x3F, 1, 0⟩
  | 0xE2 => some ⟨.X, false, 0, true, 3, 15, 0⟩
  | 0xE3 => some ⟨.X, false, 0, true, 1, 3, 0⟩
  | 0xE4 => some ⟨.X, false, 0, true, 1, 14, 0x70000⟩
  | 0xE5 | 0xE6 => some ⟨.X, false, 0, true, 0, 3, 0⟩
  | 0xE7 => some ⟨.X, false, 0, true, 1, 15, 0⟩
  | 0xE8 => some ⟨.X, false, 0, true, 3, 7, 0⟩
  | 0xE9 => some ⟨.X, false, 0, true, 0, 14, 0⟩
  | _ => none

/-- The opcode map of R63; `none` is a reserved opcode. -/
def opRow (op : Nat) : Option OpRow :=
  if op < 0x40 then opRowLow op else if op < 0xA0 then opRowMid op else opRowHigh op

/-- Every bit of `x` lies in `mask`. -/
def within (x mask : Nat) : Bool := x ||| mask == mask

/-- A native operand byte (R60). -/
def nativeRaw (b : Nat) : Raw := ⟨128 ≤ b, b⟩

/-- The fields of a 96-bit slot (R54, R56). `eqp` tells slot 0 of a line whose EQP is 1. -/
def nativeFlds (fmt : Fmt) (w : Nat) (eqp : Bool) : Flds :=
  let md := match fmt with
    | .I => bitsAt w 56 8
    | .B => bitsAt w 85 11
    | _ => bitsAt w 56 16
  let ext := match fmt with
    | .R => bitsAt w 72 24
    | .I => bitsAt w 64 32
    | .M => bitsAt w 72 24
    | .B => bitsAt w 56 29
    | .S => bitsAt w 72 16
    | .X => bitsAt w 72 24
    | .Q => bitsAt w 72 21
  let bad := match fmt with
    | .R => bitsAt w 72 24 != 0
    | .I => bitsAt w 40 8 != 0
    | .S => bitsAt w 88 8 != 0
    | .Q => bitsAt w 93 3 != 0
    | _ => false
  { portable := false, frame := 112, op := bitsAt w 0 8, g := bitsAt w 8 4, sb := bitsAt w 12 2, ty := bitsAt w 14 5,
    sub := bitsAt w 19 5, d := nativeRaw (bitsAt w 24 8), a := nativeRaw (bitsAt w 32 8), b := nativeRaw (bitsAt w 40 8),
    c := nativeRaw (bitsAt w 48 8), md := md, ext := ext, bad := bad, eqp := eqp }

/-- Length in bytes of a portable instruction whose base word is `w` (R66, R70). One with the reserved XL 3 is fetched whole, 16
bytes, before it is refused (log 64). -/
def portableLen (w : Nat) : Nat :=
  match bitsAt w 12 2 with
  | 0 => 8
  | 1 => 12
  | _ => 16

/-- The fields of a portable instruction (R66 to R68): `w` is its 16 bytes, those beyond its length ignored. -/
def portableFlds (fmt : Fmt) (w frame : Nat) : Flds :=
  let xl := bitsAt w 12 2
  let e := if xl == 0 then 0 else bitsAt w 64 32
  let pay := if xl == 2 then bitsAt w 96 32 else 0
  let modl := bitsAt w 55 9
  let modh := bitsAt e 22 7
  let md := match fmt with
    | .I => modl % 256
    | .B => (modh % 4) * 512 + modl
    | _ => modh * 512 + modl
  let bad := match fmt with
    | .R => pay != 0
    | .I => modl / 256 != 0 || modh != 0 || bitsAt w 45 10 != 0
    | .M => bitsAt pay 24 8 != (if bitAt pay 23 then 255 else 0)
    | .B => modh / 4 != 0
    | .S => bitsAt pay 16 16 != 0
    | .X => bitsAt pay 24 8 != 0
    | .Q => bitsAt pay 21 11 != 0
  let ext := match fmt with
    | .I | .B => pay
    | .Q => bitsAt pay 0 21
    | .S => bitsAt pay 0 16
    | _ => bitsAt pay 0 24
  { portable := true, frame := frame, op := bitsAt w 0 8, g := bitsAt w 8 4, sb := 0, ty := bitsAt w 15 5,
    sub := bitsAt w 20 5, d := ⟨false, bitsAt w 25 10⟩, a := ⟨bitAt e 29, bitsAt w 35 10⟩,
    b := ⟨bitAt e 30, bitsAt w 45 10⟩, c := ⟨bitAt e 31, bitsAt e 12 10⟩, md := md, ext := ext,
    bad := bad || xl == 3 || bitsAt e 0 12 != 0, eqp := bitAt w 14 }

/-- An operand (R60 to R62, R68); `none` is an operand code that is illegal in every position. -/
def Raw.opd (r : Raw) : Option Opd :=
  if r.k then
    if 0x80 ≤ r.c && r.c < 0xC0 then some (.s (Fin.ofNat 64 (r.c - 0x80)))
    else if 0xC0 ≤ r.c && r.c < 0xD0 then some (.k (Fin.ofNat 16 (r.c - 0xC0)))
    else if 0xD0 ≤ r.c && r.c < 0xDF then some (.r (Fin.ofNat 15 (r.c - 0xD0)))
    else none
  else if r.c < 1024 then some (.v (Fin.ofNat 1024 r.c)) else none

/-- A selector byte below `n` (R131, R177, R210). -/
def Raw.sel (r : Raw) (n : Nat) : Option Nat := if !r.k && r.c < n then some r.c else none

/-- Type codes of R59. -/
def Ty.ofCode (n : Nat) : Option Ty :=
  [Ty.none, .s8, .s16, .s32, .s64, .n8, .n16, .n32, .n64, .b8, .b16, .b32, .b64, .b128, .f64, .f32, .f16, .bf16,
    .e4m3, .e5m2, .e2m1, .cb4, .i4, .i8][n]?

/-- Comparison codes of R64. -/
def Cmp.ofCode (n : Nat) : Option Cmp :=
  [Cmp.eq, .ne, .lt, .le, .gt, .ge, .num, .nan, .equ, .neu, .ltu, .leu, .gtu, .geu][n]?
/-- Code of a comparison. -/
def Cmp.code : Cmp → Nat
  | .eq => 0 | .ne => 1 | .lt => 2 | .le => 3 | .gt => 4 | .ge => 5 | .num => 6 | .nan => 7 | .equ => 8 | .neu => 9
  | .ltu => 10 | .leu => 11 | .gtu => 12 | .geu => 13
/-- Operation codes of R64. -/
def Aop.ofCode (n : Nat) : Option Aop := [Aop.add, .min, .max, .and, .or, .xor, .exch, .cas, .inc, .dec][n]?
/-- Code of an operation. -/
def Aop.code : Aop → Nat
  | .add => 0 | .min => 1 | .max => 2 | .and => 3 | .or => 4 | .xor => 5 | .exch => 6 | .cas => 7 | .inc => 8 | .dec => 9
/-- Spaces of R57; 3 is reserved. -/
def Space.ofCode (n : Nat) : Option Space := [Space.g, .t, .c][n]?
/-- Code of a space. -/
def Space.code : Space → Nat
  | .g => 0 | .t => 1 | .c => 2
/-- Scopes of R57; 6 and 7 are reserved. -/
def Scope.ofCode (n : Nat) : Option Scope := [Scope.thr, .team, .clu, .die, .mod, .dom][n]?
/-- Code of a scope. -/
def Scope.code : Scope → Nat
  | .thr => 0 | .team => 1 | .clu => 2 | .die => 3 | .mod => 4 | .dom => 5
/-- Combining operators of R112. -/
def Bop.ofCode (n : Nat) : Bop := match n with
  | 0 => .none | 1 => .and | 2 => .or | _ => .xor
/-- Code of a combining operator. -/
def Bop.code : Bop → Nat
  | .none => 0 | .and => 1 | .or => 2 | .xor => 3
/-- Rounding codes of R24. -/
def Rm.ofCode (n : Nat) : Rm := match n with
  | 0 => .rn | 1 => .rz | 2 => .rd | _ => .ru
/-- Code of a rounding mode. -/
def Rm.code : Rm → Nat
  | .rn => 0 | .rz => 1 | .rd => 2 | .ru => 3

/-- Special and control registers by number (R124). -/
def SReg.ofId (n : Nat) : Option SReg :=
  if n < 15 then some (.fast (Fin.ofNat 15 n)) else
  match n with
  | 0x10 => some .tid | 0x11 => some .cycle64 | 0x12 => some .hcore | 0x13 => some .glade | 0x14 => some .die
  | 0x15 => some .module | 0x16 => some .nthr | 0x17 => some .nteam | 0x18 => some .nclu | 0x19 => some .launch
  | 0x100 => some .fstat | 0x101 => some .fmode | 0x102 => some .fseed | 0x103 => some .spillBase
  | 0x104 => some .spillLimit | 0x105 => some .spillPtr
  | 0x200 => some .trapBase | 0x201 => some .trapCause | 0x202 => some .trapAddr | 0x203 => some .trapPcn
  | 0x204 => some .trapPcx | 0x205 => some .trapEqp | 0x206 => some .saveBase | 0x207 => some .preemptCtl
  | 0x208 => some .ctxId
  | 0x300 => some .specCtl | 0x301 => some .specCommit | 0x302 => some .specRollback
  | 0x400 => some .migPolicy | 0x401 => some .mmaThrottle
  | _ => none

/-- Number of a special or control register (R124). -/
def SReg.id : SReg → Nat
  | .fast c => c.val
  | .tid => 0x10 | .cycle64 => 0x11 | .hcore => 0x12 | .glade => 0x13 | .die => 0x14 | .module => 0x15 | .nthr => 0x16
  | .nteam => 0x17 | .nclu => 0x18 | .launch => 0x19 | .fstat => 0x100 | .fmode => 0x101 | .fseed => 0x102
  | .spillBase => 0x103 | .spillLimit => 0x104 | .spillPtr => 0x105 | .trapBase => 0x200 | .trapCause => 0x201
  | .trapAddr => 0x202 | .trapPcn => 0x203 | .trapPcx => 0x204 | .trapEqp => 0x205 | .saveBase => 0x206
  | .preemptCtl => 0x207 | .ctxId => 0x208 | .specCtl => 0x300 | .specCommit => 0x301 | .specRollback => 0x302
  | .migPolicy => 0x400 | .mmaThrottle => 0x401

namespace Flds

/-- Guard and flag mark. -/
def x (f : Flds) : X :=
  ⟨⟨bitAt f.g 3, Fin.ofNat 8 f.g⟩, match f.sb with
    | 1 => .fa
    | 2 => .fb
    | _ => .none⟩
/-- The target of a B-format instruction (R58, R67). -/
def target (f : Flds) : Target :=
  if f.portable then .off (BitVec.ofNat 32 f.ext) else .line (BitVec.ofNat 26 (f.ext / 8)) (Fin.ofNat 5 (f.ext % 8))
/-- A SLOT of 5 to 7, or a portable offset that is no multiple of 4 (R58, R71 order 6). -/
def badTarget (f : Flds) : Bool := if f.portable then f.ext % 4 != 0 else f.ext % 8 > 4
/-- A field of MOD. -/
def m (f : Flds) (lo n : Nat) : Nat := bitsAt f.md lo n
/-- One bit of MOD. -/
def mb (f : Flds) (k : Nat) : Bool := bitAt f.md k
/-- IMM. -/
def imm (f : Flds) : Word := BitVec.ofNat 32 f.ext
/-- OFF. -/
def off (f : Flds) : BitVec 24 := BitVec.ofNat 24 f.ext
/-- HND. -/
def hnd (f : Flds) : BitVec 16 := BitVec.ofNat 16 f.ext
/-- RMODE and ROVR of R113; RMODE without ROVR is reserved. -/
def rmode (f : Flds) : Option (Option Rm) :=
  if f.mb 7 then some (some (Rm.ofCode (f.m 8 2))) else if f.m 8 2 == 0 then some none else none
/-- A predicate selector with negation (R131, R177). -/
def psel (r : Raw) : Option Psel := (r.sel 16).map fun n => ⟨bitAt n 3, Fin.ofNat 8 n⟩
/-- A destination predicate selector (R131). -/
def pd (r : Raw) : Option (Fin 8) := (r.sel 8).map (Fin.ofNat 8)
/-- TILE, HA, HB and GREG (R56). -/
def tile (f : Flds) : Fin 64 := Fin.ofNat 64 f.ext
/-- HA. -/
def ha (f : Flds) : Fin 64 := Fin.ofNat 64 (f.ext / 64)
/-- HB. -/
def hb (f : Flds) : Fin 64 := Fin.ofNat 64 (f.ext / 4096)
/-- GREG. -/
def greg (f : Flds) : Fin 8 := Fin.ofNat 8 (f.ext / 262144)
/-- `some` when the condition holds. -/
def need (c : Bool) : Option Unit := if c then some () else none

/-- Rows 0x0 to 0x3. -/
def parseLow (f : Flds) (ty : Ty) : Option Instr := do
  let x := f.x
  let sat := f.mb 5
  let imm := f.imm
  match f.op with
  | 0x00 => some (.nop x)
  | 0x01 => some (.bra x f.target)
  | 0x02 => return .brx x (← f.a.opd)
  | 0x03 => some (.call x f.target (Fin.ofNat 16 f.md))
  | 0x04 => return .callx x (← f.a.opd) (Fin.ofNat 16 f.md)
  | 0x05 => some (.ret x)
  | 0x06 => some (.exit x)
  | 0x07 => some (.gexit x)
  | 0x08 => some (.yield x)
  | 0x09 => some (.trap x imm)
  | 0x0A => some (.tret x)
  | 0x0B => some (.tretry x)
  | 0x0C => some (.tfence x)
  | 0x0D => return .getsr x (← f.d.opd) (← SReg.ofId f.ext)
  | 0x0E => return .setsr x (← SReg.ofId f.ext) (← f.a.opd)
  | 0x0F => some (.sleep x imm)
  | 0x10 => return .iadd x ty sat (← f.d.opd) (← f.a.opd) (← f.b.opd)
  | 0x11 => return .isub x ty sat (← f.d.opd) (← f.a.opd) (← f.b.opd)
  | 0x12 => return .imul x ty sat (← f.d.opd) (← f.a.opd) (← f.b.opd)
  | 0x13 => return .imulh x ty (← f.d.opd) (← f.a.opd) (← f.b.opd)
  | 0x14 => return .imad x ty sat (← f.d.opd) (← f.a.opd) (← f.b.opd) (← f.c.opd)
  | 0x15 => return .idiv x ty sat (← f.d.opd) (← f.a.opd) (← f.b.opd)
  | 0x16 => return .irem x ty (← f.d.opd) (← f.a.opd) (← f.b.opd)
  | 0x17 => return .imin x ty (← f.d.opd) (← f.a.opd) (← f.b.opd)
  | 0x18 => return .imax x ty (← f.d.opd) (← f.a.opd) (← f.b.opd)
  | 0x19 => return .iabs x ty sat (← f.d.opd) (← f.a.opd)
  | 0x1A => return .ineg x ty sat (← f.d.opd) (← f.a.opd)
  | 0x1B => do need (ty == .n64); return .lea x (f.mb 15) (Fin.ofNat 8 (f.m 12 3)) (← f.d.opd) (← f.a.opd) (← f.b.opd)
  | 0x1C => return .idot4 x ty sat (← f.d.opd) (← f.a.opd) (← f.b.opd) (← f.c.opd)
  | 0x1D => return .iaddImm x ty sat (← f.d.opd) (← f.a.opd) imm
  | 0x1E => do need (ty == .n64); return .leaImm x (← f.d.opd) (← f.a.opd) imm
  | 0x20 => return .and x ty (← f.d.opd) (← f.a.opd) (← f.b.opd)
  | 0x21 => return .or x ty (← f.d.opd) (← f.a.opd) (← f.b.opd)
  | 0x22 => return .xor x ty (← f.d.opd) (← f.a.opd) (← f.b.opd)
  | 0x23 => return .not x ty (← f.d.opd) (← f.a.opd)
  | 0x24 => return .lut3 x ty (byte (f.m 8 8)) (← f.d.opd) (← f.a.opd) (← f.b.opd) (← f.c.opd)
  | 0x25 => return .shl x ty (← f.d.opd) (← f.a.opd) (← f.b.opd)
  | 0x26 => return .shr x ty (← f.d.opd) (← f.a.opd) (← f.b.opd)
  | 0x27 => return .sar x ty (← f.d.opd) (← f.a.opd) (← f.b.opd)
  | 0x28 => return .rot x ty (← f.d.opd) (← f.a.opd) (← f.b.opd)
  | 0x29 => return .bfx x ty (f.mb 6) (← f.d.opd) (← f.a.opd) (← f.b.opd)
  | 0x2A => return .bfi x ty (← f.d.opd) (← f.a.opd) (← f.b.opd) (← f.c.opd)
  | 0x2B => return .popc x ty (← f.d.opd) (← f.a.opd)
  | 0x2C => return .clz x ty (← f.d.opd) (← f.a.opd)
  | 0x2D => return .brev x ty (← f.d.opd) (← f.a.opd)
  | 0x2E => do need (ty == .b32); return .permb x (← f.d.opd) (← f.a.opd) (← f.b.opd) (← f.c.opd)
  | 0x2F => match f.sub with
    | 0 => return .andImm x ty (← f.d.opd) (← f.a.opd) imm
    | 1 => return .orImm x ty (← f.d.opd) (← f.a.opd) imm
    | _ => return .xorImm x ty (← f.d.opd) (← f.a.opd) imm
  | 0x30 => return .pcmpi x (← Cmp.ofCode f.sub) ty (Bop.ofCode (f.m 11 2)) (← pd f.d) (← f.a.opd) (← f.b.opd) (← psel f.c)
  | 0x31 => return .pcmpf x (← Cmp.ofCode f.sub) ty (Bop.ofCode (f.m 11 2)) (← pd f.d) (← f.a.opd) (← f.b.opd) (← psel f.c)
  | 0x32 => return .plut x (byte (f.m 0 8)) (← pd f.d) (← pd f.a) (← pd f.b) (← pd f.c)
  | 0x33 => return .sel x ty (← f.d.opd) (← f.a.opd) (← f.b.opd) (← psel f.c)
  | 0x34 => return .mov x ty (← f.d.opd) (← f.a.opd)
  | 0x35 => return .movi x ty (← f.d.opd) imm
  | _ => none

/-- Rows 0x4 to 0x9. -/
def parseMid (f : Flds) (ty : Ty) : Option Instr := do
  let x := f.x
  let sat := f.mb 5
  match f.op with
  | 0x40 => do need (ty == .f32); return .fadd x (← f.rmode) sat (← f.d.opd) (← f.a.opd) (← f.b.opd)
  | 0x41 => do need (ty == .f32); return .fsub x (← f.rmode) sat (← f.d.opd) (← f.a.opd) (← f.b.opd)
  | 0x42 => do need (ty == .f32); return .fmul x (← f.rmode) sat (← f.d.opd) (← f.a.opd) (← f.b.opd)
  | 0x43 => do need (ty == .f32); return .fmad x (← f.rmode) sat (← f.d.opd) (← f.a.opd) (← f.b.opd) (← f.c.opd)
  | 0x44 => do need (ty == .f32); return .fmin x (← f.d.opd) (← f.a.opd) (← f.b.opd)
  | 0x45 => do need (ty == .f32); return .fmax x (← f.d.opd) (← f.a.opd) (← f.b.opd)
  | 0x46 => do need (ty == .f64); return .dadd x (← f.rmode) sat (← f.d.opd) (← f.a.opd) (← f.b.opd)
  | 0x47 => do need (ty == .f64); return .dmul x (← f.rmode) sat (← f.d.opd) (← f.a.opd) (← f.b.opd)
  | 0x48 => do need (ty == .f64); return .dmad x (← f.rmode) sat (← f.d.opd) (← f.a.opd) (← f.b.opd) (← f.c.opd)
  | 0x50 => return .padd2 x ty (← f.rmode) sat (← f.d.opd) (← f.a.opd) (← f.b.opd)
  | 0x51 => return .pmul2 x ty (← f.rmode) sat (← f.d.opd) (← f.a.opd) (← f.b.opd)
  | 0x52 => return .pfma2 x ty (← f.rmode) sat (← f.d.opd) (← f.a.opd) (← f.b.opd) (← f.c.opd)
  | 0x53 => return .cvt x ty (← Ty.ofCode (f.m 0 5)) (Fin.ofNat 8 (f.m 13 3)) (Fin.ofNat 8 (f.m 10 3)) (← f.rmode) sat (← f.d.opd) (← f.a.opd)
  | 0x54 => return .cvtq x ty (← Ty.ofCode (f.m 0 5)) (Fin.ofNat 64 (f.m 10 6)) (← f.rmode) (f.mb 6) sat (← f.d.opd) (← f.b.opd) (← f.a.opd)
  | 0x55 => return .cvtd x ty (← Ty.ofCode (f.m 0 5)) (Fin.ofNat 64 (f.m 10 6)) (f.mb 6) (← f.d.opd) (← f.a.opd) (← f.b.opd)
  | 0x56 => return .nzcnt x ty (Fin.ofNat 64 (f.m 10 6)) (f.mb 6) (← f.d.opd) (← f.a.opd) (← f.b.opd)
  | 0x57 => return .nzmap x ty (Fin.ofNat 64 (f.m 10 6)) (f.mb 6) (← f.d.opd) (← f.a.opd) (← f.b.opd)
  | 0x60 => return .rcp x ty (← f.d.opd) (← f.a.opd)
  | 0x61 => return .rsq x ty (← f.d.opd) (← f.a.opd)
  | 0x62 => return .sqrt x ty (← f.rmode) (← f.d.opd) (← f.a.opd)
  | 0x63 => do need (ty == .f32); return .ex2 x (← f.d.opd) (← f.a.opd)
  | 0x64 => do need (ty == .f32); return .lg2 x (← f.d.opd) (← f.a.opd)
  | 0x65 => do need (ty == .f32); return .sin x (← f.d.opd) (← f.a.opd)
  | 0x66 => do need (ty == .f32); return .cos x (← f.d.opd) (← f.a.opd)
  | 0x67 => do need (ty == .f32); return .sincos x (← f.d.opd) (← f.a.opd)
  | 0x68 => do need (ty == .f32); return .tanh x (← f.d.opd) (← f.a.opd)
  | 0x70 => do
      let mode ← [ShflMode.idx, .up, .down, .xor][f.sub]?
      return .shfl x mode (Fin.ofNat 8 (f.m 0 3)) ty (← f.d.opd) (← f.a.opd) (← f.b.opd) (← f.c.opd)
  | 0x71 => do
      let mode ← [VoteMode.all, .any, .uni][f.sub]?
      return .vote x mode (← pd f.d) (← psel f.a) (← f.c.opd)
  | 0x72 => return .ballot x (← f.d.opd) (← psel f.a) (← f.c.opd)
  | 0x73 => return .matchv x ty (← f.d.opd) (← f.a.opd) (← f.c.opd)
  | 0x74 => return .compact x (← f.d.opd) (← psel f.a) (← f.c.opd)
  | 0x75 => return .scan x (← Aop.ofCode f.sub) ty (f.mb 0) (← f.d.opd) (← f.a.opd) (← f.c.opd)
  | 0x76 => return .gred x (← Aop.ofCode f.sub) ty (← f.d.opd) (← f.a.opd) (← f.c.opd)
  | 0x80 => some (.join x (f.mb 4) (Fin.ofNat 16 f.md))
  | 0x81 => some (.waitj x (Fin.ofNat 16 f.md))
  | 0x82 => do
      let kind ← [KindSel.keep, .b, .l][f.m 3 2]?
      return .reorder x (f.sub == 1) (Fin.ofNat 8 f.md) (← f.a.opd) (← f.b.opd) kind (byte (f.m 8 8))
  | 0x83 => do need f.eqp; return .migrate x (if f.sub == 1 then .larch else .bramble) (f.mb 0)
  | 0x90 => return .mma x ty (← Ty.ofCode (f.m 0 5)) (f.mb 14) (f.mb 15) (f.mb 6) (← f.d.opd) (← f.a.opd) (← f.b.opd) f.tile f.ha f.hb f.greg
  | 0x91 => return .mmas x ty (← Ty.ofCode (f.m 0 5)) (f.mb 13) (f.mb 14) (f.mb 15) (f.mb 6) (← f.d.opd) (← f.a.opd) (← f.b.opd) (← f.c.opd) f.tile f.ha f.hb f.greg
  | 0x92 => some (.accz x (f.mb 7) f.tile f.greg)
  | 0x93 => return .accld x ty (← Space.ofCode (f.m 8 2)) (Fin.ofNat 8 (f.m 10 3)) (← f.a.opd) f.tile
  | 0x94 => return .accst x ty (← Ty.ofCode (f.m 0 5)) (← Space.ofCode (f.m 8 2)) (Fin.ofNat 8 (f.m 10 3)) (← f.a.opd) f.tile
  | 0x95 => return .ldf x ty (f.mb 0) (f.mb 1) (Fin.ofNat 8 (f.m 10 3)) (← f.d.opd) (← f.a.opd) (← f.b.opd) f.off
  | 0x96 => return .fslot x (Fin.ofNat 64 (← f.d.sel 64)) (Fin.ofNat 8 (f.m 10 3)) (← f.a.opd) f.off
  | _ => none

/-- Rows 0xA to 0xE. -/
def parseHigh (f : Flds) (ty : Ty) : Option Instr := do
  let x := f.x
  let col : Fin 8 := Fin.ofNat 8 (f.m 10 3)
  let n : Fin 16 := Fin.ofNat 16 (f.m 2 4)
  let ma : Fin 8 := Fin.ofNat 8 (f.m 3 3)
  let md : Fin 8 := Fin.ofNat 8 f.md
  let mb : Fin 8 := Fin.ofNat 8 (f.m 6 3)
  match f.op with
  | 0xA0 => return .ld x ty n (← Space.ofCode (f.m 8 2)) col (← f.d.opd) (← f.a.opd) f.off
  | 0xA1 => return .st x ty n (← Space.ofCode (f.m 8 2)) col (← f.b.opd) (← f.a.opd) f.off
  | 0xA2 => return .lds x ty n (← Space.ofCode (f.m 8 2)) (f.mb 0) (← f.a.opd) (← f.b.opd) (← f.c.opd) f.off
  | 0xA3 => return .pref x (f.mb 0) n (← f.a.opd) f.off
  | 0xB0 => return .atom x (← Aop.ofCode f.sub) ty (f.mb 6) (f.mb 7) (← Scope.ofCode (f.m 13 3)) (← Space.ofCode (f.m 8 2)) col (← f.d.opd) (← f.a.opd) (← f.b.opd) (← f.c.opd) f.off
  | 0xB1 => return .red x (← Aop.ofCode f.sub) ty col (← f.a.opd) (← f.b.opd) f.off
  | 0xB2 => some (.flushred x)
  | 0xB3 => return .fence x (f.mb 3) (f.mb 4) (← Scope.ofCode (f.m 5 3)) (byte (f.m 8 8))
  | 0xB4 => some (.xfence x (byte f.md))
  | 0xC0 => do
      need (f.m 13 3 == 1 || f.m 13 3 == 2)
      return .binit x (← Space.ofCode (f.m 8 2)) (f.m 13 3 == 2) (f.mb 0) (f.mb 1) (← f.a.opd) (← f.b.opd) (← f.c.opd) f.off
  | 0xC1 => return .arrive x (← Space.ofCode (f.m 8 2)) (f.mb 0) (← f.d.opd) (← f.a.opd) (← f.b.opd) (← f.c.opd) f.off
  | 0xC2 => return .wait x (← Space.ofCode (f.m 8 2)) (f.mb 0) (f.mb 1) (← f.d.opd) (← f.a.opd) (← f.b.opd) f.off
  | 0xC3 => return .btest x (← Space.ofCode (f.m 8 2)) (← pd f.d) (← f.a.opd) (← f.b.opd) f.off
  | 0xC4 => return .binval x (← Space.ofCode (f.m 8 2)) (← f.a.opd) f.off
  | 0xD0 => return .cpy x (f.mb 7) (← Space.ofCode (f.m 8 2)) (f.mb 6) (Fin.ofNat 8 (f.m 3 3)) (Fin.ofNat 64 (f.m 10 6)) (Rm.ofCode (bitsAt f.ext 16 2)) (← f.a.opd) (← f.b.opd) (← f.c.opd) f.hnd
  | 0xD1 => return .fetch x (Fin.ofNat 4 f.md) (← f.d.opd) (← f.a.opd) (← f.b.opd) f.hnd
  | 0xD2 => return .tstep x (← f.d.opd) (Fin.ofNat 8 (f.ext / 65536)) (← f.a.opd) (← f.b.opd) (← f.c.opd) f.hnd
  | 0xD3 => return .tlog x (f.mb 0) (← f.d.opd) (← f.a.opd) (← f.b.opd) (← f.c.opd) f.hnd
  | 0xD4 => match f.md with
    | 0 => do need (f.a == ⟨false, 0⟩); return .trailRd x (← f.d.opd)
    | 1 => do need (f.a == ⟨false, 0⟩ && f.d == ⟨false, 0⟩); return .trailZ x
    | 2 => do need (f.d == ⟨false, 0⟩); return .trailWr x (← f.a.opd)
    | _ => none
  | 0xD5 => return .mopen x md (← f.a.opd) (← f.b.opd)
  | 0xD6 => some (.mint x md ma mb)
  | 0xD7 => some (.muni x md ma mb)
  | 0xD8 => some (.msub x md ma mb)
  | 0xD9 => return .mmadd x (← Ty.ofCode (f.ext / 65536)) md ma mb
  | 0xDA =>
      if f.mb 9 then do return .mnextSt x col ma (← f.d.opd) (← f.b.opd) (← f.c.opd)
      else do need (f.m 10 3 == 0 && f.b == ⟨false, 0⟩); return .mnext x ma (← f.d.opd) (← f.c.opd)
  | 0xDB => some (.mclose x ma)
  | 0xE0 => return .tpost x (Fin.ofNat 16 (f.ext / 65536)) (← f.b.opd)
  | 0xE1 =>
      if f.mb 5 then do need (f.m 0 5 == 0); return .targ x .ext (← f.d.opd)
      else if f.mb 4 then do return .targ x (.pair (Fin.ofNat 16 f.md)) (← f.d.opd)
      else do return .targ x (.word (Fin.ofNat 16 f.md)) (← f.d.opd)
  | 0xE2 => return .dappend x (f.mb 0) (f.mb 1) (← f.d.opd) (← f.a.opd) (← f.b.opd) (← f.c.opd)
  | 0xE3 => return .dcut x (f.mb 0) (← f.d.opd) (← f.a.opd)
  | 0xE4 => return .dckpt x (f.mb 0) (← f.a.opd) (← f.b.opd) (← f.c.opd) (Fin.ofNat 8 (f.ext / 65536))
  | 0xE5 => return .dtake x (← f.d.opd) (← f.a.opd)
  | 0xE6 => return .dcurs x (← f.d.opd) (← f.a.opd)
  | 0xE7 => return .xlist x (f.mb 0) (← f.d.opd) (← f.a.opd) (← f.b.opd) (← f.c.opd)
  | 0xE8 => return .xsend x (f.mb 1) (f.mb 0) (← f.d.opd) (← f.a.opd) (← f.b.opd)
  | 0xE9 => return .xrecv x (← f.a.opd) (← f.b.opd) (← f.c.opd)
  | _ => none

/-- The instruction that the fields name, before the checks of `checkFields`. -/
def parse (f : Flds) (ty : Ty) : Option Instr :=
  if f.op < 0x40 then f.parseLow ty else if f.op < 0xA0 then f.parseMid ty else f.parseHigh ty

/-- An operand byte the opcode does not use is 0x00 (R60). -/
def opdZero (r : Raw) (used : Bool) : Bool := used || r == ⟨false, 0⟩

/-- The zero requirements of R55 to R57, R60 and R63 for the opcode's row, with SB (R55, order 2). -/
def fieldsOk (f : Flds) (row : OpRow) (seta setb : Nat) : Bool :=
  !f.bad && f.sb < 3 && (row.flag || f.sb == 0) && !(f.sb == 1 && seta == 15) && !(f.sb == 2 && setb == 15) &&
    f.sub ≤ row.subMax && (row.typed || f.ty == 0) && within f.md row.md && within f.ext row.ext &&
    opdZero f.d (bitAt row.opds 0) && opdZero f.a (bitAt row.opds 1) && opdZero f.b (bitAt row.opds 2) &&
    opdZero f.c (bitAt row.opds 3)

/-- Orders 2 to 6 of R65 and R71. -/
def check (f : Flds) (row : OpRow) (seta setb : Nat) : Except Reject Instr :=
  if !f.fieldsOk row seta setb then .error .reservedField else
  match Ty.ofCode f.ty with
  | none => .error .reservedField
  | some ty =>
    match f.parse ty with
    | none => .error .reservedField
    | some i =>
      if !i.wfIn f.frame then .error .reservedField
      else if row.fmt == .B && f.badTarget then .error .illegalTarget
      else .ok i

end Flds

/-- Decode one native slot (R65 orders 1 to 6); `seta` and `setb` are the line's, `eqp` tells slot 0 of an EQP line. -/
def decodeNative (w seta setb : Nat) (eqp : Bool) : Except Reject Instr :=
  match opRow (bitsAt w 0 8) with
  | none => .error .illegalOpcode
  | some row => (nativeFlds row.fmt w eqp).check row seta setb

/-- Decode one portable instruction from its 16 bytes (R71), in a frame of F = `frame` window entries. -/
def decodePortable (w frame : Nat) : Except Reject Instr :=
  match opRow (bitsAt w 0 8) with
  | none => .error .illegalOpcode
  | some row => (portableFlds row.fmt w frame).check row 15 15

/-- What a slot that is decoded for issue needs of the thread: order 7 of R65 (R20, R338, R396). -/
def Instr.needsPrivilege : Instr → Bool
  | .tret _ | .tretry _ | .trailWr _ _ => true
  | _ => false

/-- The instruction this decoder reads from one native slot whose bits are `w` (bit i of `w` is instruction bit i, R47),
in slot 0 of an EQP line with SETA 0 and SETB 1. -/
def decodeTableWord (nbits w : Nat) : Option Instr :=
  match decodeNative (w % 2 ^ nbits % 2 ^ 96) 0 1 true with
  | .ok i => some i
  | .error _ => none

/-! ## Messages of the host and of the Ranger's owner -/

/-- A little-endian number (R8). -/
def leNat : List Byte → Nat
  | [] => 0
  | b :: r => b.toNat + 256 * leNat r

/-- The `n` low bytes of a number, little-endian (R8). -/
def leBytes : Nat → Nat → List Byte
  | 0, _ => []
  | n + 1, x => byte x :: leBytes n (x / 256)

/-- Bytes off to off + n - 1 of a list. -/
def slice (l : List Byte) (off n : Nat) : List Byte := (l.drop off).take n

/-- The little-endian field at bytes off to off + n - 1. -/
def field (l : List Byte) (off n : Nat) : Nat := leNat (slice l off n)

/-- Every byte of a list is zero. -/
def allZero (l : List Byte) : Bool := l.all (· == 0)

/-- 4-byte words of a list. -/
def words4 : Nat → List Byte → List Word
  | 0, _ => []
  | n + 1, l => word (field l 0 4) :: words4 n (l.drop 4)

/-- The fields of an intake message's header (R435). -/
structure RawHdr where
  magicOk : Bool
  versionOk : Bool
  type : Nat
  len : Nat
  session : Nat
  queue : Nat
  zeroOk : Bool
  seq : Nat
  ctx : Nat
  tag : List Byte
deriving DecidableEq, Repr

/-- Bytes 0 to 47 of a message (R435). -/
def decodeHdr (m : List Byte) : RawHdr :=
  { magicOk := slice m 0 4 == [0x4E, 0x51, 0x37, 0x49], versionOk := field m 4 1 == 1, type := field m 5 1,
    len := field m 6 2, session := field m 8 4, queue := field m 12 2, zeroOk := allZero (slice m 14 2),
    seq := field m 16 8, ctx := field m 24 8, tag := slice m 32 16 }

/-- The item or acknowledgement that a body of `type` holds (R437); a body that breaks its layout is an item that fails
with report code 0x80, as a reserved type is. -/
def decodeBody (h : Hdr) (type : Nat) (d : List Byte) : Instr :=
  let n := d.length
  let f := field d
  let q (off : Nat) : DWord := dword (f off 8)
  let z (off k : Nat) : Bool := allZero (slice d off k)
  let pick (ok : Bool) (i : Instr) : Instr := if ok then i else .reservedIntakeType h type
  match type with
  | 0x01 => pick (n == 192) (.createContext h d)
  | 0x02 => pick (n == 192) (.writeContextDescriptor h d)
  | 0x03 => pick (n == 0) (.destroyContext h)
  | 0x04 => pick (n == 16) (.loadCodeObject h (q 0) (f 8 8))
  | 0x05 => pick (40 ≤ n && n ≤ 296 && n % 4 == 0 && z 12 4)
      (.launch h (f 0 8) (f 8 4) (slice d 16 16) (q 32) (words4 ((n - 40) / 4) (d.drop 40)))
  | 0x06 => pick (n == 72 && z 1 7) (.seedTask h (f 0 1) (d.drop 8))
  | 0x07 => pick (9 ≤ n && n ≤ 8192) (.writeMemoryVirtual h (q 0) (d.drop 8))
  | 0x08 => pick (9 ≤ n && n ≤ 8192) (.writeMemoryPhysical h (q 0) (d.drop 8))
  | 0x09 => pick (n == 16 && z 12 4 && 1 ≤ f 8 4 && f 8 4 ≤ 8192) (.readMemory h (q 0) (f 8 4))
  | 0x0A => pick (n == 16 && z 12 4) (.invalidate h (q 0) (f 8 4))
  | 0x0B => pick (n == 16 && z 12 4) (.seal h (q 0) (f 8 4))
  | 0x0C => pick (n == 24 && z 20 4) (.createLog h (q 0) (q 8) (f 16 4))
  | 0x0D => pick (n == 8 && z 4 4) (.closeLog h (f 0 4))
  | 0x0E => pick (n == 8) (.bindStream h (q 0))
  | 0x0F => pick (n == 8) (.unbindStream h (q 0))
  | 0x10 => pick (n == 16) (.streamCursor h (q 0) (q 8))
  | 0x11 => pick (n == 32 && z 28 4 && f 24 4 ≤ 1) (.streamFrame h (q 0) (q 8) (word (f 16 4)) (word (f 20 4)) (f 24 4 == 1))
  | 0x12 => pick (n == 0) (.preempt h)
  | 0x13 => pick (n == 0) (.resume h)
  | 0x14 => pick (n == 16 && z 4 4) (.query h (f 0 4) (q 8))
  | 0x15 => if n == 16 && z 10 6 then .reportAcknowledgement h (f 0 8) (f 8 2) else .reportAcknowledgement h 0 h.queue
  | 0x16 => pick (n == 40 && z 33 7 && f 24 8 % 64 == 0 && f 24 8 ≤ 2 ^ 32) (.transfer h (q 0) (q 8) (q 16) (f 24 8) (f 32 1))
  | t => .reservedIntakeType h t

/-- The fields of a Ranger datagram (R444). -/
structure RawRanger where
  magicOk : Bool
  headOk : Bool
  code : Nat
  seq : Nat
  len : Nat
deriving DecidableEq, Repr

/-- Bytes 0 to 31 of a Ranger datagram (R444). -/
def decodeRangerHdr (m : List Byte) : RawRanger :=
  { magicOk := slice m 0 4 == [0x4E, 0x51, 0x37, 0x52],
    headOk := field m 4 1 == 1 && field m 6 2 == 0 && allZero (slice m 20 12), code := field m 5 1, seq := field m 8 8,
    len := field m 16 4 }

/-- 8-byte little-endian numbers of a list. -/
def words8 : Nat → List Byte → List Nat
  | 0, _ => []
  | n + 1, l => field l 0 8 :: words8 n (l.drop 8)

/-- The Ranger command that a code and body name (R444); any other code, or a body that breaks its layout, is answered
with status 2. -/
def decodeRanger (r : RHdr) (code : Nat) (d : List Byte) : Instr :=
  let n := d.length
  let f := field d
  let q (off : Nat) : DWord := dword (f off 8)
  let z (off k : Nat) : Bool := allZero (slice d off k)
  let pick (ok : Bool) (i : Instr) : Instr := if ok then i else .rangerUnknownCode r code
  match code with
  | 0x01 => pick (n == 0) (.ident r)
  | 0x02 => pick (n == 32) (.quote r d)
  | 0x03 => pick (16 ≤ n && n ≤ 8192) (.fwupd r (f 0 8) (f 8 8) (d.drop 16))
  | 0x04 => pick (n == 16 && z 4 4 && f 0 4 ≤ 15000 && (d.drop 8).all fun b => 1 ≤ b.toNat && b.toNat ≤ 12)
      (.power r (f 0 4) ((d.drop 8).map BitVec.toNat))
  | 0x05 => pick (n == 8 && z 1 3 && (f 0 1 == 1 || f 0 1 == 2)) (.release r (f 0 1) (f 4 4))
  | 0x06 => pick (n == 24 && z 4 4 && z 20 4) (.rangerSeal r (f 0 4) (q 8) (f 16 4))
  | 0x07 => pick (n == 8 && z 4 4) (.rangerPreempt r (f 0 4))
  | 0x08 => pick (n == 40 && z 1 3 && (f 0 1 == 1 || (f 0 1 == 2 && z 8 32))) (.session r (f 0 1) (f 4 4) (d.drop 8))
  | 0x09 => pick (n == 520 && z 1 7 && f 0 1 ≤ 63 && (words8 64 (d.drop 8)).all (· < 2 ^ 48))
      (.domain r (f 0 1) (words8 64 (d.drop 8)))
  | 0x0A => pick (n == 8) (.errlog r (f 0 8))
  | 0x0B => pick (n == 0) (.reset r)
  | 0x0C =>
      let k := f 8 4
      pick (n == 16 && z 12 4 && ((k == 0 && f 0 8 == 0) || (1024 ≤ k && k ≤ 2 ^ 24 && 2 ^ k.log2 == k))) (.xdir r (q 0) k)
  | c => .rangerUnknownCode r c

/-! ## The native encoder, from the tables of R54 to R63 -/

namespace Enc

/-- The operand byte (R60). -/
def opd : Opd → Nat
  | .v n => n.val
  | .s n => 0x80 + n.val
  | .k n => 0xC0 + n.val
  | .r n => 0xD0 + n.val
/-- The byte of a predicate selector (R131). -/
def psel (p : Psel) : Nat := (if p.neg then 8 else 0) + p.p.val
/-- A flag as a number. -/
def b (c : Bool) : Nat := if c then 1 else 0
/-- RMODE and ROVR (R113). -/
def rm : Option Rm → Nat
  | none => 0
  | some r => r.code * 256 + 128
/-- Code of a flag mark (R54). -/
def sb : Sb → Nat
  | .none => 0 | .fa => 1 | .fb => 2
/-- The common fields of R54 with the bits 95:56. -/
def pack (x : X) (op ty sub d a b c hi : Nat) : Nat :=
  op + 2 ^ 8 * psel x.g + 2 ^ 12 * sb x.sb + 2 ^ 14 * ty + 2 ^ 19 * sub + 2 ^ 24 * d + 2 ^ 32 * a + 2 ^ 40 * b + 2 ^ 48 * c +
    2 ^ 56 * hi
/-- R, M, S, X and Q formats: MOD, then what stands above it. -/
def gen (x : X) (op ty sub d a b c md ext : Nat) : Nat := pack x op ty sub d a b c (md + 65536 * ext)
/-- I format. -/
def immf (x : X) (op ty sub d a md : Nat) (imm : Word) : Nat := pack x op ty sub d a 0 0 (md + 256 * imm.toNat)
/-- Three-operand R format of a typed instruction. -/
def r3 (x : X) (op : Nat) (t : Ty) (d a b : Opd) (md : Nat) : Nat := gen x op t.code 0 (opd d) (opd a) (opd b) 0 md 0
/-- Four-operand R format. -/
def r4 (x : X) (op : Nat) (t : Ty) (d a b c : Opd) (md : Nat) : Nat :=
  gen x op t.code 0 (opd d) (opd a) (opd b) (opd c) md 0
/-- Two-operand R format. -/
def r2 (x : X) (op : Nat) (t : Ty) (d a : Opd) (md : Nat) : Nat := gen x op t.code 0 (opd d) (opd a) 0 0 md 0
/-- S format with MOD alone. -/
def sys (x : X) (op sub md : Nat) : Nat := gen x op 0 sub 0 0 0 0 md 0
/-- MOD of the M format (R57). -/
def mmod (scope : Scope) (colour : Nat) (space : Space) (ord count low : Nat) : Nat :=
  scope.code * 8192 + colour * 1024 + space.code * 256 + ord * 64 + count * 4 + low
/-- ORD (R57). -/
def ord (acq pub : Bool) : Nat := b acq + 2 * b pub

end Enc

open Enc in
/-- The 96 bits of a native thread instruction; `none` for a portable target and for the device's own steps. -/
def encodeNative : Instr → Option Nat
  | .nop x => some (sys x 0x00 0 0)
  | .bra x (.line l k) => some (pack x 0x01 0 0 0 0 0 0 (k.val + 8 * l.toNat))
  | .bra _ (.off _) => none
  | .brx x a => some (gen x 0x02 0 0 0 (opd a) 0 0 0 0)
  | .call x (.line l k) n => some (pack x 0x03 0 0 0 0 0 0 (k.val + 8 * l.toNat + 2 ^ 29 * n.val))
  | .call _ (.off _) _ => none
  | .callx x a n => some (gen x 0x04 0 0 0 (opd a) 0 0 n.val 0)
  | .ret x => some (sys x 0x05 0 0)
  | .exit x => some (sys x 0x06 0 0)
  | .gexit x => some (sys x 0x07 0 0)
  | .yield x => some (sys x 0x08 0 0)
  | .trap x imm => some (immf x 0x09 0 0 0 0 0 imm)
  | .tret x => some (sys x 0x0A 0 0)
  | .tretry x => some (sys x 0x0B 0 0)
  | .tfence x => some (sys x 0x0C 0 0)
  | .getsr x d sr => some (gen x 0x0D 0 0 (opd d) 0 0 0 0 sr.id)
  | .setsr x sr a => some (gen x 0x0E 0 0 0 (opd a) 0 0 0 sr.id)
  | .sleep x imm => some (immf x 0x0F 0 0 0 0 0 imm)
  | .iadd x t s d a c => some (r3 x 0x10 t d a c (32 * b s))
  | .iaddImm x t s d a imm => some (immf x 0x1D t.code 0 (opd d) (opd a) (32 * b s) imm)
  | .isub x t s d a c => some (r3 x 0x11 t d a c (32 * b s))
  | .imul x t s d a c => some (r3 x 0x12 t d a c (32 * b s))
  | .imulh x t d a c => some (r3 x 0x13 t d a c 0)
  | .imad x t s d a c e => some (r4 x 0x14 t d a c e (32 * b s))
  | .idiv x t s d a c => some (r3 x 0x15 t d a c (32 * b s))
  | .irem x t d a c => some (r3 x 0x16 t d a c 0)
  | .imin x t d a c => some (r3 x 0x17 t d a c 0)
  | .imax x t d a c => some (r3 x 0x18 t d a c 0)
  | .iabs x t s d a => some (r2 x 0x19 t d a (32 * b s))
  | .ineg x t s d a => some (r2 x 0x1A t d a (32 * b s))
  | .idot4 x t s d a c e => some (r4 x 0x1C t d a c e (32 * b s))
  | .lea x sx sh d a c => some (r3 x 0x1B .n64 d a c (32768 * b sx + 4096 * sh.val))
  | .leaImm x d a imm => some (immf x 0x1E 8 0 (opd d) (opd a) 0 imm)
  | .and x t d a c => some (r3 x 0x20 t d a c 0)
  | .or x t d a c => some (r3 x 0x21 t d a c 0)
  | .xor x t d a c => some (r3 x 0x22 t d a c 0)
  | .andImm x t d a imm => some (immf x 0x2F t.code 0 (opd d) (opd a) 0 imm)
  | .orImm x t d a imm => some (immf x 0x2F t.code 1 (opd d) (opd a) 0 imm)
  | .xorImm x t d a imm => some (immf x 0x2F t.code 2 (opd d) (opd a) 0 imm)
  | .not x t d a => some (r2 x 0x23 t d a 0)
  | .lut3 x t l d a c e => some (r4 x 0x24 t d a c e (256 * l.toNat))
  | .shl x t d a c => some (r3 x 0x25 t d a c 0)
  | .shr x t d a c => some (r3 x 0x26 t d a c 0)
  | .sar x t d a c => some (r3 x 0x27 t d a c 0)
  | .rot x t d a c => some (r3 x 0x28 t d a c 0)
  | .bfx x t s d a c => some (r3 x 0x29 t d a c (64 * b s))
  | .bfi x t d a c e => some (r4 x 0x2A t d a c e 0)
  | .popc x t d a => some (r2 x 0x2B t d a 0)
  | .clz x t d a => some (r2 x 0x2C t d a 0)
  | .brev x t d a => some (r2 x 0x2D t d a 0)
  | .permb x d a c e => some (r4 x 0x2E .b32 d a c e 0)
  | .pcmpi x c t bop d a e p => some (gen x 0x30 t.code c.code d.val (opd a) (opd e) (psel p) (2048 * bop.code) 0)
  | .pcmpf x c t bop d a e p => some (gen x 0x31 t.code c.code d.val (opd a) (opd e) (psel p) (2048 * bop.code) 0)
  | .plut x l d a c e => some (gen x 0x32 0 0 d.val a.val c.val e.val l.toNat 0)
  | .sel x t d a c p => some (gen x 0x33 t.code 0 (opd d) (opd a) (opd c) (psel p) 0 0)
  | .mov x t d a => some (r2 x 0x34 t d a 0)
  | .movi x t d imm => some (immf x 0x35 t.code 0 (opd d) 0 0 imm)
  | .fadd x r s d a c => some (r3 x 0x40 .f32 d a c (rm r + 32 * b s))
  | .fsub x r s d a c => some (r3 x 0x41 .f32 d a c (rm r + 32 * b s))
  | .fmul x r s d a c => some (r3 x 0x42 .f32 d a c (rm r + 32 * b s))
  | .fmad x r s d a c e => some (r4 x 0x43 .f32 d a c e (rm r + 32 * b s))
  | .fmin x d a c => some (r3 x 0x44 .f32 d a c 0)
  | .fmax x d a c => some (r3 x 0x45 .f32 d a c 0)
  | .dadd x r s d a c => some (r3 x 0x46 .f64 d a c (rm r + 32 * b s))
  | .dmul x r s d a c => some (r3 x 0x47 .f64 d a c (rm r + 32 * b s))
  | .dmad x r s d a c e => some (r4 x 0x48 .f64 d a c e (rm r + 32 * b s))
  | .padd2 x t r s d a c => some (r3 x 0x50 t d a c (rm r + 32 * b s))
  | .pmul2 x t r s d a c => some (r3 x 0x51 t d a c (rm r + 32 * b s))
  | .pfma2 x t r s d a c e => some (r4 x 0x52 t d a c e (rm r + 32 * b s))
  | .cvt x t y di si r s d a => some (r2 x 0x53 t d a (8192 * di.val + 1024 * si.val + rm r + 32 * b s + y.code))
  | .cvtq x t y h r xv s d c a => some (r3 x 0x54 t d a c (1024 * h.val + rm r + 64 * b xv + 32 * b s + y.code))
  | .cvtd x t y h ns d a c => some (r3 x 0x55 t d a c (1024 * h.val + 64 * b ns + y.code))
  | .nzcnt x t h f d a c => some (r3 x 0x56 t d a c (1024 * h.val + 64 * b f))
  | .nzmap x t h f d a c => some (r3 x 0x57 t d a c (1024 * h.val + 64 * b f))
  | .rcp x t d a => some (r2 x 0x60 t d a 0)
  | .rsq x t d a => some (r2 x 0x61 t d a 0)
  | .sqrt x t r d a => some (r2 x 0x62 t d a (rm r))
  | .ex2 x d a => some (r2 x 0x63 .f32 d a 0)
  | .lg2 x d a => some (r2 x 0x64 .f32 d a 0)
  | .sin x d a => some (r2 x 0x65 .f32 d a 0)
  | .cos x d a => some (r2 x 0x66 .f32 d a 0)
  | .sincos x d a => some (r2 x 0x67 .f32 d a 0)
  | .tanh x d a => some (r2 x 0x68 .f32 d a 0)
  | .shfl x m seg t d a c e =>
      some (gen x 0x70 t.code (match m with | .idx => 0 | .up => 1 | .down => 2 | .xor => 3) (opd d) (opd a) (opd c) (opd e)
        seg.val 0)
  | .vote x m d a c => some (gen x 0x71 0 (match m with | .all => 0 | .any => 1 | .uni => 2) d.val (psel a) 0 (opd c) 0 0)
  | .ballot x d a c => some (gen x 0x72 0 0 (opd d) (psel a) 0 (opd c) 0 0)
  | .matchv x t d a c => some (gen x 0x73 t.code 0 (opd d) (opd a) 0 (opd c) 0 0)
  | .compact x d a c => some (gen x 0x74 0 0 (opd d) (psel a) 0 (opd c) 0 0)
  | .scan x op t e d a c => some (gen x 0x75 t.code op.code (opd d) (opd a) 0 (opd c) (b e) 0)
  | .gred x op t d a c => some (gen x 0x76 t.code op.code (opd d) (opd a) 0 (opd c) 0 0)
  | .join x o n => some (sys x 0x80 0 (16 * b o + n.val))
  | .waitj x n => some (sys x 0x81 0 n.val)
  | .reorder x core n key c kind cols =>
      some (gen x 0x82 0 (b core) 0 (opd key) (opd c) 0
        (256 * cols.toNat + 8 * (match kind with | .keep => 0 | .b => 1 | .l => 2) + n.val) 0)
  | .migrate x k now => some (sys x 0x83 (match k with | .bramble => 0 | .larch => 1) (b now))
  | .mma x ta tb s bu sc d a c tile ha hb gr =>
      some (gen x 0x90 ta.code 0 (opd d) (opd a) (opd c) 0 (32768 * b bu + 16384 * b s + 64 * b sc + tb.code)
        (tile.val + 64 * ha.val + 4096 * hb.val + 262144 * gr.val))
  | .mmas x ta tb s8 s bu sc d a c e tile ha hb gr =>
      some (gen x 0x91 ta.code 0 (opd d) (opd a) (opd c) (opd e)
        (32768 * b bu + 16384 * b s + 8192 * b s8 + 64 * b sc + tb.code)
        (tile.val + 64 * ha.val + 4096 * hb.val + 262144 * gr.val))
  | .accz x rel tile gr => some (gen x 0x92 0 0 0 0 0 0 (128 * b rel) (tile.val + 262144 * gr.val))
  | .accld x t sp col a tile => some (gen x 0x93 t.code 0 0 (opd a) 0 0 (1024 * col.val + 256 * sp.code) tile.val)
  | .accst x t mt sp col a tile =>
      some (gen x 0x94 t.code 0 0 (opd a) 0 0 (1024 * col.val + 256 * sp.code + mt.code) tile.val)
  | .ldf x t perm scl col d a c off =>
      some (gen x 0x95 t.code 0 (opd d) (opd a) (opd c) 0 (1024 * col.val + 2 * b scl + b perm) off.toNat)
  | .fslot x slot col a off => some (gen x 0x96 0 0 slot.val (opd a) 0 0 (1024 * col.val) off.toNat)
  | .ld x t n sp col d a off => some (gen x 0xA0 t.code 0 (opd d) (opd a) 0 0 (mmod .thr col.val sp 0 n.val 0) off.toNat)
  | .st x t n sp col c a off => some (gen x 0xA1 t.code 0 0 (opd a) (opd c) 0 (mmod .thr col.val sp 0 n.val 0) off.toNat)
  | .lds x t n sp bar a c e off =>
      some (gen x 0xA2 t.code 0 0 (opd a) (opd c) (opd e) (mmod .thr 0 sp 0 n.val (b bar)) off.toNat)
  | .pref x l2 n a off => some (gen x 0xA3 0 0 0 (opd a) 0 0 (mmod .thr 0 .g 0 n.val (b l2)) off.toNat)
  | .atom x op t acq pub sc sp col d a c e off =>
      some (gen x 0xB0 t.code op.code (opd d) (opd a) (opd c) (opd e) (mmod sc col.val sp (ord acq pub) 0 0) off.toNat)
  | .red x op t col a c off =>
      some (gen x 0xB1 t.code op.code 0 (opd a) (opd c) 0 (mmod .thr col.val .g 0 0 0) off.toNat)
  | .flushred x => some (sys x 0xB2 0 0)
  | .fence x acq pub sc cols => some (sys x 0xB3 0 (256 * cols.toNat + 32 * sc.code + 8 * ord acq pub))
  | .xfence x m => some (sys x 0xB4 0 m.toNat)
  | .binit x sp clu cex spec a c e off =>
      some (gen x 0xC0 0 0 0 (opd a) (opd c) (opd e)
        (mmod (if clu then .clu else .team) 0 sp 0 0 (b cex + 2 * b spec)) off.toNat)
  | .arrive x sp rt d a c e off =>
      some (gen x 0xC1 0 0 (opd d) (opd a) (opd c) (opd e) (mmod .thr 0 sp 0 0 (b rt)) off.toNat)
  | .wait x sp rt spec d a c off =>
      some (gen x 0xC2 0 0 (opd d) (opd a) (opd c) 0 (mmod .thr 0 sp 0 0 (b rt + 2 * b spec)) off.toNat)
  | .btest x sp d a c off => some (gen x 0xC3 0 0 d.val (opd a) (opd c) 0 (mmod .thr 0 sp 0 0 0) off.toNat)
  | .binval x sp a off => some (gen x 0xC4 0 0 0 (opd a) 0 0 (mmod .thr 0 sp 0 0 0) off.toNat)
  | .cpy x s2g sp bar col slot r a c e hnd =>
      some (gen x 0xD0 0 0 0 (opd a) (opd c) (opd e)
        (1024 * slot.val + 256 * sp.code + 128 * b s2g + 64 * b bar + 8 * col.val) (hnd.toNat + 65536 * r.code))
  | .fetch x n d a c hnd => some (gen x 0xD1 0 0 (opd d) (opd a) (opd c) 0 n.val hnd.toNat)
  | .tstep x d pe a c e hnd => some (gen x 0xD2 0 0 (opd d) (opd a) (opd c) (opd e) 0 (hnd.toNat + 65536 * pe.val))
  | .trailRd x d => some (gen x 0xD4 0 0 (opd d) 0 0 0 0 0)
  | .trailZ x => some (gen x 0xD4 0 0 0 0 0 0 1 0)
  | .trailWr x a => some (gen x 0xD4 0 0 0 (opd a) 0 0 2 0)
  | .tlog x rt d a c e hnd => some (gen x 0xD3 0 0 (opd d) (opd a) (opd c) (opd e) (b rt) hnd.toNat)
  | .mopen x md a c => some (gen x 0xD5 0 0 0 (opd a) (opd c) 0 md.val 0)
  | .mint x md ma mb => some (gen x 0xD6 0 0 0 0 0 0 (md.val + 8 * ma.val + 64 * mb.val) 0)
  | .muni x md ma mb => some (gen x 0xD7 0 0 0 0 0 0 (md.val + 8 * ma.val + 64 * mb.val) 0)
  | .msub x md ma mb => some (gen x 0xD8 0 0 0 0 0 0 (md.val + 8 * ma.val + 64 * mb.val) 0)
  | .mmadd x t md ma mb => some (gen x 0xD9 0 0 0 0 0 0 (md.val + 8 * ma.val + 64 * mb.val) (65536 * t.code))
  | .mnext x ma d c => some (gen x 0xDA 0 0 (opd d) 0 0 (opd c) (8 * ma.val) 0)
  | .mnextSt x col ma d c e => some (gen x 0xDA 0 0 (opd d) 0 (opd c) (opd e) (1024 * col.val + 512 + 8 * ma.val) 0)
  | .mclose x ma => some (gen x 0xDB 0 0 0 0 0 0 (8 * ma.val) 0)
  | .tpost x q c => some (gen x 0xE0 0 0 0 0 (opd c) 0 0 (65536 * q.val))
  | .targ x f d =>
      some (gen x 0xE1 0 0 (opd d) 0 0 0 (match f with | .word k => k.val | .pair k => 16 + k.val | .ext => 32) 0)
  | .dappend x rt tr d a c e => some (gen x 0xE2 0 0 (opd d) (opd a) (opd c) (opd e) (b rt + 2 * b tr) 0)
  | .dcut x rt d a => some (gen x 0xE3 0 0 (opd d) (opd a) 0 0 (b rt) 0)
  | .dckpt x clr a c e i => some (gen x 0xE4 0 0 0 (opd a) (opd c) (opd e) (b clr) (65536 * i.val))
  | .dtake x d a => some (gen x 0xE5 0 0 (opd d) (opd a) 0 0 0 0)
  | .dcurs x d a => some (gen x 0xE6 0 0 (opd d) (opd a) 0 0 0 0)
  | .xlist x rt d a c e => some (gen x 0xE7 0 0 (opd d) (opd a) (opd c) (opd e) (b rt) 0)
  | .xsend x fin rt d a c => some (gen x 0xE8 0 0 (opd d) (opd a) (opd c) 0 (b rt + 2 * b fin) 0)
  | .xrecv x a c e => some (gen x 0xE9 0 0 0 (opd a) (opd c) (opd e) 0 0)
  | .fseedWrite _ _ | .spillBaseWrite _ _ | .spillLimitWrite _ _ | .trapCauseWrite _ _ | .trapBaseWrite _ _
  | .saveBaseWrite _ _ | .preemptCtlWrite _ _ | .migPolicyWrite _ _ | .specCtlWrite _ _ | .controlRegisterWrite _ _ _
  | .convergenceMismatchTimeout _ _ _ | .reorderGroupPlace _ | .groupMove _ | .migrationWindowEnd _
  | .signatureAbandon _ _ | .tileWaitTimeout _ _ | .matrixOpStart _ | .matrixOpComplete _ | .powerTokenMove _
  | .powerTokenRelease _ | .loadComplete _ | .storePerformed _ | .reductionApply _ | .phaseComplete _ _ | .rollback _
  | .copyOpStart _ | .engineOpComplete _ | .logRecordWrite _ | .logSegmentClose _ | .tpostHoldTimeout _ | .taskDispatch
  | .taskComplete _ | .xsendRound2 _ _ | .tokenArrival _ | .endMarkerArrival _ _ _ | .tokenHoldTimeout _
  | .exchangeRetransmit _ | .peerUnreachable _ _ | .clauseStart | .bundlerPass | .sleepEnd _ | .teamStall _
  | .clusterAdmit _ | .teamResident _ | .teamEnd _ | .gridEnd _ | .handlerEntry _ | .handlerWatchdog _
  | .drainDeadline _ | .teamImageWrite _ | .trapSaveDeadline _ | .hbmStackFault _ | .dieLinkFailure _
  | .canopyLinkFailure _ | .corePartFault _ | .partFaultRecovery | .powerStateEnter _ | .powerStateExit _
  | .createContext _ _ | .writeContextDescriptor _ _ | .destroyContext _ | .loadCodeObject _ _ _ | .launch _ _ _ _ _ _
  | .seedTask _ _ _ | .writeMemoryVirtual _ _ _ | .writeMemoryPhysical _ _ _ | .readMemory _ _ _ | .invalidate _ _ _
  | .seal _ _ _ | .createLog _ _ _ _ | .closeLog _ _ | .bindStream _ _ | .unbindStream _ _ | .streamCursor _ _ _
  | .streamFrame _ _ _ _ _ _ | .preempt _ | .resume _ | .query _ _ _ | .reportAcknowledgement _ _ _
  | .transfer _ _ _ _ _ _ | .reservedIntakeType _ _ | .reportResend _ _ | .ident _ | .quote _ _ | .fwupd _ _ _ _
  | .power _ _ _ | .release _ _ _ | .rangerSeal _ _ _ _ | .rangerPreempt _ _ | .session _ _ _ _ | .domain _ _ _
  | .errlog _ _ | .reset _ | .xdir _ _ _ | .rangerUnknownCode _ _ | .translationBuildComplete _ _ _ _
  | .translationBuildTimeout _ | .publishComplete _ | .parkImageWritten _ | .instructionCacheFill _ _
  | .remoteAccessArrival _ _ | .transferDataArrival _ _ _ _ | .lossOfPower => none

end Sys2Proof
end

