-- ==== Sys2Proof/Machine/Shake.lean ====
section
/-!
DEFINITION. SHAKE256 (00 R3, 09 R245, 13 R336, R341, 18 R435, R447): the sponge over Keccak-f[1600] of FIPS 202
(PRESUMED, log 8: the spec names the function and does not restate it).
-/

namespace Sys2Proof.Machine

/-- One step of the generator of the round constants (FIPS 202, 3.2.5): eight bits, shifted up, bit 8 fed back. -/
def rcStep (r : Nat) : Nat := if 128 ≤ r then (2 * r - 256) ^^^ 0x71 else 2 * r

/-- Bits `j` to 6 of a round's constant, bit `j` at place 2^j - 1, and the generator after them. -/
def rcBits : Nat → Nat → Nat → Nat × Nat
  | 0, _, r => (0, r)
  | n + 1, j, r =>
    let (v, r') := rcBits n (j + 1) (rcStep r)
    (r % 2 * 2 ^ (2 ^ j - 1) + v, r')

/-- The constants of `n` rounds, from a state of the generator on. -/
def rcList : Nat → Nat → List DWord
  | 0, _ => []
  | n + 1, r =>
    let (v, r') := rcBits 7 0 r
    dword v :: rcList n r'

/-- The walk of rho through the lanes but (0, 0): each lane it meets, with its rotation (FIPS 202, 3.2.2). -/
def rhoWalk : Nat → Nat → Nat → Nat → List (Nat × Nat)
  | 0, _, _, _ => []
  | n + 1, t, x, y => (x + 5 * y, (t + 1) * (t + 2) / 2 % 64) :: rhoWalk n (t + 1) y ((2 * x + 3 * y) % 5)

/-- The rotation of a lane under rho. -/
def rhoOf (i : Nat) : Nat := ((rhoWalk 24 0 1 0).find? fun p => p.1 == i).elim 0 (·.2)

/-- Lane (x, y) of a state. -/
def laneAt (a : List DWord) (x y : Nat) : DWord := a.getD (x % 5 + 5 * (y % 5)) 0

/-- A state from its lanes. -/
def stateOf (f : Nat → Nat → DWord) : List DWord := (List.range 25).map fun i => f (i % 5) (i / 5)

/-- Theta: each lane with the parities of its two neighbouring columns. -/
def thetaStep (a : List DWord) : List DWord :=
  let par := (List.range 5).map fun x => (List.range 5).foldl (fun v y => v ^^^ laneAt a x y) 0
  stateOf fun x y => laneAt a x y ^^^ par.getD ((x + 4) % 5) 0 ^^^ (par.getD ((x + 1) % 5) 0).rotateLeft 1

/-- Rho and pi: lane (x, y), rotated, comes to stand at (y, 2x + 3y). -/
def rhoPiStep (a : List DWord) : List DWord :=
  stateOf fun x y => (laneAt a (x + 3 * y) x).rotateLeft (rhoOf ((x + 3 * y) % 5 + 5 * x))

/-- Chi. -/
def chiStep (a : List DWord) : List DWord :=
  stateOf fun x y => laneAt a x y ^^^ (~~~ laneAt a (x + 1) y &&& laneAt a (x + 2) y)

/-- One round of Keccak-f[1600], with iota at its end. -/
def keccakRound (a : List DWord) (rc : DWord) : List DWord :=
  (chiStep (rhoPiStep (thetaStep a))).modify 0 (· ^^^ rc)

/-- Keccak-f[1600]. -/
def keccakF (a : List DWord) : List DWord := (rcList 24 1).foldl keccakRound a

/-- The block xored into the first lanes of the state. -/
def keccakXor : List DWord → List Byte → List DWord
  | [], _ => []
  | a :: r, b => (a ^^^ dword (leNat (b.take 8))) :: keccakXor r (b.drop 8)

/-- Absorb n further whole blocks of 136 bytes. -/
def shakeAbsorb : Nat → List DWord → List Byte → List DWord
  | 0, a, _ => a
  | n + 1, a, m => shakeAbsorb n (keccakF (keccakXor a (m.take 136))) (m.drop 136)

/-- Squeeze at most n blocks. -/
def shakeSqueeze : Nat → List DWord → List Byte
  | 0, _ => []
  | n + 1, a => ((a.take 17).flatMap fun x => leBytes 8 x.toNat) ++ shakeSqueeze n (keccakF a)

/-- SHAKE256 of a message with an output of `out` bytes. -/
def shake256 (m : List Byte) (out : Nat) : List Byte :=
  let n := m.length / 136 + 1
  let fill := n * 136 - m.length
  let padded := if fill == 1 then m ++ [0x9F] else m ++ [0x1F] ++ List.replicate (fill - 2) 0 ++ [0x80]
  (shakeSqueeze (out / 136 + 1) (shakeAbsorb n (List.replicate 25 0) padded)).take out

/-- The bytes of an ASCII string. -/
def ascii (s : String) : List Byte := s.toList.map fun c => byte c.toNat

end Sys2Proof.Machine
end

