-- ==== Sys2Proof/Config.lean ====
section
/-!
DEFINITION. What one implementation fixes, and the free values: constants with no body, so that nothing
in Lean can evaluate them or prove a value of them (notes/assumptions/3.md names each).
-/

namespace Sys2Proof.Config

/-- Compute dies of the module (R3). -/
def nDies : Nat := 8
/-- Glades of the module (R3). -/
def nGlades : Nat := 96
/-- Cores of the module (R3). -/
def nCores : Nat := 1152
/-- Cycles of one millisecond at 3.6 GHz (R4, R10). -/
def cyclesPerMs : Nat := 3600000
/-- Cycles of one microsecond at 3.6 GHz (R4, R10). -/
def cyclesPerUs : Nat := 3600
/-- The 2^20-cycle limit that R169, R176, R202, R216, R359 and R433 share. -/
def longWait : Nat := 1048576
/-- Feature bits 8:0 of R82. -/
def features : Nat := 0x1FF
/-- The feature version of the Itnos Q7 (R443). -/
def featureVersion : Nat := 1

/-- Free 32-bit values, by the counter `freeCount` of the state. -/
opaque freeWord : Nat → Word
/-- Free bytes: what another module's memory answers to a read (R424). -/
opaque freeByte : Nat → Byte
/-- Free choices between two outcomes that the spec allows. -/
opaque freeBool : Nat → Bool

/-- A result of a special function whose bits the spec leaves within R109, by function number, input
and FZ bit: "each result is a fixed function of the input bits and the FZ bits" (R109). -/
opaque special : Nat → Word → Bool → Word
/-- Which of the results that R109 allows RCP and RSQ give (f32 and f64 alike, the input zero-extended). -/
opaque specialPick : Nat → DWord → Bool → Nat

/-- The per-boot save key K of 32 bytes (R410), by boot count. -/
opaque saveKey : Nat → BitVec 256
/-- The device's Ed448 signature with its identity key over a message (R341, R443): 114 bytes. -/
opaque ed448Sign : List Byte → BitVec 912
/-- Whether a 114-byte signature over a message holds under the owner's key (R443). -/
opaque ownerVerify : List Byte → BitVec 912 → Bool
/-- Whether a firmware image bears a good signature of the Norsan firmware key (R443). -/
opaque firmwareVerify : List Byte → Bool
/-- The serial number of the device, 16 bytes (R444). -/
opaque serial : BitVec 128
/-- The 57-byte identity public key (R444). -/
opaque identityKey : BitVec 456
/-- The version of the firmware in the active bank: the image that FWUPD stored there, none for the one the device came with
(R443, R444). -/
opaque firmwareVersion : Option (List Byte) → Word
/-- The 64-byte measurement of the firmware in the active bank (R445). -/
opaque firmwareMeasurement : Option (List Byte) → BitVec 512
/-- What the background builder writes as a function's native image, by key: its bytes (R448). -/
opaque builtByte : Nat → Nat → Byte
/-- What the builder writes as an image's line and state-mapping tables (R83, R448), by key: for each line its offset, number,
portable offset and map. -/
opaque builtLines : Nat → List (Nat × Nat × Nat × List (Nat × Bool × Nat))
/-- Whether a line that was not inserted tests present in the 4,096-bit filter of a barrier object
(R275), by the inserted line and the tested line. -/
opaque filterAlias : Nat → Nat → Bool

end Sys2Proof.Config
end

