-- ==== Sys2Proof/Machine/State.lean ====
section
/-!
DEFINITION. The state of one Itnos Q7 module, as plain data, and the state after module reset (INVENTORY.md, '## State',
names the rule behind every field).
-/

namespace Sys2Proof.Machine

/-- Sparse storage by key, in one canonical form: keys strictly rise and no entry is zero; an unlisted key reads 0. -/
abbrev Sparse (w : Nat) := List (Nat × BitVec w)

/-- Bytes by physical address (R237) or by window offset (R230). -/
abbrev Mem := List Host.Cell

/-- The hidden part of one caller frame that is still resident (R38): the call's return PC and slide n, the
window base of the frame, the hidden registers v16 to v(15+n). A window base (R36, R39) is an integer: a return through an entry
of the spill stack that a store has changed may lower it below 0. -/
structure Hidden where
  ret : DWord
  n : Nat
  base : Int
  regs : List Word
deriving DecidableEq, Repr, Inhabited

/-- The clause a thread executes, as fetched at its start (R51): a native line, or one portable instruction. -/
inductive Clause where
  | line (bits : BitVec 512)
  | portable (bits : BitVec 128)
deriving DecidableEq, Repr, Inhabited

/-- The last equivalence point a thread began, with the function that holds it (R199). -/
structure EqpRec where
  num : Nat
  fn : Nat
  handle : Nat
deriving DecidableEq, Repr, Inhabited

/-- A held fault record (R386): cause, failing byte, the operation's instruction and its word, PC, source values, flag, the
window base of its destinations, its marked run, and the privilege of its accesses; `ord` is the issue order of operations (R387). -/
structure FaultRec where
  ord : Nat
  word : BitVec 128
  cause : Cause
  addr : DWord
  instr : Instr
  pc : DWord
  src : List Word
  flag : Option (Fin 12)
  wbase : Int
  dreg : Nat
  dcnt : Nat
  replay : Bool
  priv : Bool
deriving DecidableEq, Repr, Inhabited

/-- A trap raised by a thread and not yet entered in a handler (R394); `stamp` tells the bundle and cycle. -/
structure PendTrap where
  cause : Cause
  addr : DWord
  pcn : DWord
  res : Bool
  defer : Bool
  flag : Option (Fin 12)
  dreg : Nat
  dcnt : Nat
  replay : Option FaultRec
  stamp : Nat
deriving DecidableEq, Repr, Inhabited

/-- A handler that a thread runs (R393): the call depth before the entry. -/
structure HandlerRec where
  depth : Nat
  cause : Cause
  since : Nat
deriving DecidableEq, Repr, Inhabited

/-- One entry of a reduction buffer (R266); `leaf` is the page entry that translated its first contribution (R244). -/
structure RedEntry where
  leaf : Nat
  pa : Nat
  va : Nat
  op : Aop
  ty : Ty
  colour : Fin 8
  value : DWord
deriving DecidableEq, Repr, Inhabited

/-- A batch at its home slice (R266): its key and contribution, and the flush point that sent it. -/
structure Batch where
  core : Nat
  grp : Nat
  seq : Nat
  point : Nat
  thread : Nat
  ctx : Nat
  entry : RedEntry
deriving DecidableEq, Repr, Inhabited

/-- A buffered store of a speculating thread (R274). -/
structure SpecStore where
  space : Space
  addr : Nat
  team : Nat
  data : List Byte
  colour : Fin 8
deriving DecidableEq, Repr, Inhabited

/-- What a speculating thread holds (R274): the object, the shadowed state and its buffered stores; `ord` parts the operations
that it issued before it speculated from those after. -/
structure SpecRec where
  ord : Nat
  team : Nat
  off : Nat
  pc : DWord
  portable : Bool
  operand : Word
  regs : Vector Word 128
  preds : BitVec 7
  fstat : Word
  fseed : Word
  trail : Quad
  clause : Option Clause
  dst : Option Opd
  o : Nat
  stores : List SpecStore
  held : Option PendTrap
deriving DecidableEq, Repr, Inhabited

/-- What a thread that waits at a REORDER arrived with (R188, R190): the domain, key, payload with its first virtual register,
target kind, colours, the resumption point, whether the code is portable, the participants when it arrived, and its
flush point. -/
structure ReorderRec where
  core : Bool
  key : Word
  kbase : Nat
  payload : List Word
  kind : KindSel
  colours : Byte
  point : EqpRec
  portable : Bool
  parts : List Nat
  flush : Nat
deriving DecidableEq, Repr, Inhabited

/-- Why a thread does not issue (R158). -/
inductive Hold where
  | none
  | sleep (wake : Nat)
  | lane
  | sign
  | tile (n : Fin 64) (since : Nat)
  | waitObj (team off : Nat) (o : Nat) (operand : Word) (dst : Option Opd)
  | waitj (n : Fin 16)
  | flags
  | op (id : Nat)
  | publish (id : Nat)
  | point (id : Nat)
  | trap
  | reorder
  | bead
  | spec
  | tpost (since : Nat)
  | move
deriving DecidableEq, Repr, Inhabited

/-- What a stalled thread waits for before it executes its instruction again (R158): the count of a flag or a free fault record
(R34, R387); the words of a recorded range, or an entry for one on a core (R311); an arrival of its own that is not yet counted
(R301); its group's commit (R279); operations of the classes of a mask (R294); a convergence register at its PC (R218); the
operations on a tile (R222); its TSTEPs (R338); the MNEXT.st of a merge tree (R347); for an operation that it replays, a tile
(R202) or a task queue (R359); the writes that a publish of scope `.dom` carries to other modules (R424). -/
inductive Stall where
  | flag (f : Option (Fin 12))
  | records
  | range (team lo n : Nat)
  | room (core : Nat)
  | arrival (team off : Nat)
  | spec
  | classes (mask : Byte)
  | conv (r : Fin 8) (pc : DWord)
  | tile (n : Nat)
  | trail
  | merge (ma : Nat)
  | firstUse (n : Nat)
  | queue (q : Nat)
  | far
deriving DecidableEq, Repr, Inhabited

/-- Life of a thread. -/
inductive ThreadStatus where
  | live
  | exited
  | failed
deriving DecidableEq, Repr, Inhabited

/-- One launched thread (R18, R46, R146, R149). `frames` gives F and the offset of the overflow block of each active
frame (R68, R69), innermost first; `ovf` holds overflow entries while one instruction uses them; `preempt` is the
resumption PC of a thread that has taken 0x50 and waits for its group's entry (R402). -/
structure Thread where
  id : Nat
  tid : DWord
  team : Nat
  group : Nat
  rank : Nat
  tindex : Nat
  status : ThreadStatus
  regs : Vector Word 128
  wbase : Int
  depth : Nat
  hidden : List Hidden
  late : List (Int × Word)
  frames : List (Nat × Nat)
  pushBlock : Bool
  ovf : List (Nat × Word)
  preds : BitVec 7
  flags : Vector Nat 12
  trail : Quad
  fstat : Word
  fmode : Word
  fseed : Word
  spillBase : DWord
  spillLimit : Word
  spillPtr : Word
  pc : DWord
  portable : Bool
  entered : Bool
  byTransfer : Bool
  clause : Option Clause
  hold : Hold
  stall : Option Stall
  skipPass : Bool
  waitCount : Nat
  trapCause : Word
  trapAddr : DWord
  trapPcn : DWord
  trapPcx : DWord
  trapEqp : Word
  replay : Option FaultRec
  faults : List FaultRec
  pend : Option PendTrap
  preempt : Option DWord
  handler : Option HandlerRec
  eqp : Option EqpRec
  redBuf : List RedEntry
  redBatch : Nat
  spec : Option SpecRec
  noSpec : List (Nat × Nat × Nat)
  reorder : Option ReorderRec
deriving DecidableEq, Repr, Inhabited

/-- One arrival at a rendezvous (R172); `ovf` holds the overflow entries that its operands name, as read at the arrival (R69). -/
structure Arrival where
  ovf : List (Nat × Word)
  pc : DWord
  mask : Word
  thread : Nat
  rank : Nat
  guard : Bool
  inHandler : Bool
  since : Nat
  instr : Instr
deriving DecidableEq, Repr, Inhabited

/-- Operands that a signer captured (R214), and the order of its signing among the module's operations. -/
structure Capture where
  ord : Nat
  rank : Nat
  thread : Nat
  a : List Word
  b : List Word
  md : List Word
  scale : List Word
  flag : Option (Fin 12)
deriving DecidableEq, Repr, Inhabited

/-- A convergence register (R214); `offs` holds the guarded-off signers, each with the number of its signing (R222). -/
structure ConvReg where
  offs : List (Nat × Nat)
  pc : DWord
  signed : Word
  present : Word
  since : Nat
  instr : Option Instr
  caps : List Capture
deriving DecidableEq, Repr, Inhabited

/-- Role of a group (R166). -/
inductive Role where
  | none | load | matrix | vector
deriving DecidableEq, Repr, Inhabited

/-- Pending migration target of a group (R196, R171): the kind and whether the program set it. -/
structure MigTarget where
  kind : CoreKind
  program : Bool
deriving DecidableEq, Repr, Inhabited

/-- One group (R143): its host core and position, and the state of 06, 07 and 08. -/
structure Group where
  id : Nat
  core : Nat
  grp : Nat
  resident : Bool
  role : Role
  stamp : Nat
  slices : BitVec 4
  j : Vector Word 16
  g : Vector ConvReg 8
  tiles : List (Nat × Sparse 32)
  target : Option MigTarget
  moveHold : Bool
  arrivals : List Arrival
  beadNo : Nat
  beadCores : List Nat
  statS : Nat
  statP : Nat
  saved : Bool
deriving DecidableEq, Repr, Inhabited

/-- State of a merge register (R342). -/
inductive MergeReg where
  | closed
  | array (addr : DWord) (count cursor : Nat) (last : Option Word) (bound : Option (Fin 8))
  | stream (op : Fin 4) (a b : Fin 8) (ty : Ty) (last : Option Word) (bound : Option (Fin 8))
deriving DecidableEq, Repr, Inhabited

/-- Residency of a team (R153). -/
inductive TeamState where
  | waiting
  | resident
  | parking
  | parkingReady
  | parked
  | readyParked
  | saved
  | ended
deriving DecidableEq, Repr, Inhabited

/-- Who a task belongs to (R357). -/
inductive Owner where
  | launch (id : Nat)
  | item (session queue seq : Nat) (number : DWord)
deriving DecidableEq, Repr, Inhabited

/-- A task record in the distributor or with its team (R348, R355): its owner, the glade and core of its origin, its queue and
sequence once it has entered one, whether its ring write has been performed and whether that write failed (R359). -/
structure TaskRec where
  bytes : List Byte
  owner : Owner
  glade : Option Nat
  core : Option Nat
  q : Nat
  seq : Nat
  entryBad : Bool
  written : Bool
deriving DecidableEq, Repr, Inhabited

/-- What a barrier object's speculation holds (R275): read lines with the groups that read them; `doomed` lists the groups that a
checked write has implicated and that are not yet rolled back (R276). -/
structure SpecObj where
  doomed : List Nat
  off : Nat
  groups : List Nat
  exact : List (Nat × List Nat)
  filter : List (Nat × List Nat)
deriving DecidableEq, Repr, Inhabited

/-- One team (R143) with its window, registers and residency; `lastCore` hosted its last group (R354), `parkOrder` is its
place in parking order (R154). -/
structure Team where
  id : Nat
  ctx : Nat
  cluster : Nat
  launch : Owner
  number : DWord
  hteam : Nat
  nthr : Nat
  tsize : Nat
  regsB : Nat
  spadK : Nat
  specS : Nat
  hasRoles : Bool
  prio : Nat
  kinds : List CoreKind
  home : Nat
  base : Nat
  spad : Mem
  consts : List Word
  state : TeamState
  seqNo : Nat
  specCtl : Word
  specCommit : Word
  specRollback : Word
  merge : List MergeReg
  stallAt : Option Nat
  blockedAt : Option Nat
  task : Option TaskRec
  specObjs : List SpecObj
  objs : List Nat
  lastCore : Nat
  parkOrder : Nat
deriving DecidableEq, Repr, Inhabited

/-- Where a cluster stands. -/
inductive ClusterState where
  | queued
  | placed
  | ended
deriving DecidableEq, Repr, Inhabited

/-- One cluster (R143, R149, R151); `rect` is its rectangle of cores and `fuse` tells whether its L1s are fused (R236). -/
structure Cluster where
  fuse : Bool
  rect : List Nat
  id : Nat
  ctx : Nat
  launch : Nat
  hclu : Nat
  lx : Nat
  ly : Nat
  lz : Nat
  die : Nat
  cores : List Nat
  state : ClusterState
  restored : Bool
  order : Nat
deriving DecidableEq, Repr, Inhabited

/-- A team declaration of R462. -/
structure TeamDecl where
  fidx : Nat
  tsize : Nat
  regsB : Nat
  spadK : Nat
  specS : Nat
  spillP : Nat
  fmode : Word
  roles : List Nat
  hasRoles : Bool
deriving DecidableEq, Repr, Inhabited

/-- One launch (R147, R437): `left` clusters have not ended, cluster `next` is the next to be admitted from the queue of `die`
(R152), and `tasks` of its tasks are outstanding (R357). -/
structure Launch where
  id : Nat
  ctx : Nat
  number : DWord
  handle : Nat
  fidx : Nat
  geom : List Byte
  spill : DWord
  args : List Word
  decl : TeamDecl
  edition1 : Bool
  left : Nat
  next : Nat
  die : Nat
  order : Nat
  tasks : Nat
  failed : Option Cause
  done : Bool
  session : Nat
  queue : Nat
  seq : Nat
deriving DecidableEq, Repr, Inhabited

/-- An entry of a native line table with its state map (R83). -/
structure LineEnt where
  off : Nat
  num : Nat
  port : Nat
  map : List (Nat × Bool × Nat)
deriving DecidableEq, Repr, Inhabited

/-- One image of a loaded code object (R81): its placed extent, ranges, start map and line table; `pool` tells that the
background builder made it and that it lies in pooled memory (R447). -/
structure Image where
  kind : Nat
  base : Nat
  size : Nat
  ranges : List (Nat × Nat)
  starts : List Nat
  lines : List LineEnt
  pool : Bool
deriving DecidableEq, Repr, Inhabited

/-- One function of a loaded code object (R81). -/
structure Func where
  portable : Nat
  bramble : Nat
  larch : Nat
  frame : Nat
  kernel : Bool
deriving DecidableEq, Repr, Inhabited

/-- A loaded code object (R80 to R85, R450). Points are the portable instruction offsets and numbers of R461; `joined`
lists the functions (index, image kind) whose native image the background builder added (R449). -/
structure CodeObj where
  handle : Nat
  edition1 : Bool
  version : Nat
  images : List Image
  funcs : List Func
  points : List (Nat × Nat)
  decls : List TeamDecl
  joined : List (Nat × Nat)
deriving DecidableEq, Repr, Inhabited

/-- One task queue of a context (R352). -/
structure TaskQueue where
  ring : DWord
  lgCap : Nat
  head : Nat
  tail : Nat
  recs : List TaskRec
deriving DecidableEq, Repr, Inhabited

/-- A posting that waits while its queue is full, in the order in which it reached the distributor (R352): one that the
distributor keeps, or a held TPOST with its thread and instruction (R359). -/
structure Posting where
  q : Nat
  task : TaskRec
  post : Option (Nat × Instr)
deriving DecidableEq, Repr, Inhabited

/-- A bead with its status entry (R190); `spill` is its place in the context's save area when its glade's bead store was full
(R189, R405). -/
structure Bead where
  spill : Option Nat
  thread : Nat
  key : Nat
  eqp : Nat
  kbase : Nat
  payload : List Word
  fromPortable : Bool
deriving DecidableEq, Repr, Inhabited

/-- An image of the save area (R405, R406): offset, length, kind (1 team, 2 group), reason (1 saved, 2 parked), owner. -/
structure SaveImg where
  off : Nat
  len : Nat
  kind : Nat
  reason : Nat
  team : Nat
  group : Nat
deriving DecidableEq, Repr, Inhabited

/-- A context (R440) with all that it owns. -/
structure Context where
  id : Nat
  root : DWord
  handles : DWord
  handleCount : Nat
  lattol : Nat
  dctx : Nat
  trapBase : DWord
  saveBase : DWord
  preemptCtl : Word
  preemptLive : Word
  slots : List (BitVec 512)
  objs : List CodeObj
  queues : List TaskQueue
  kept : List Posting
  taskCount : List (Owner × Nat)
  startGlade : Nat
  taskGlade : Nat
  images : List SaveImg
  frozen : Bool
  frozenSince : Nat
  frozenAt : DWord
  frozenFaults : List (Nat × PendTrap)
  errNo : Nat
  session : Nat
  queue : Nat
  destroyed : Bool
  ladderAt : Nat
  saveItem : Option (Nat × Nat × Nat)
deriving DecidableEq, Repr, Inhabited

/-- An engine or long-latency operation in flight: who issued it, from where, the instruction with its source
values as they stood at issue, its flag or hold, what it will write, its fault (R326), the privilege of its accesses, and
the table entries it read (R328). -/
structure Op where
  progress : Nat
  id : Nat
  thread : Nat
  team : Nat
  ctx : Nat
  core : Nat
  instr : Instr
  pc : DWord
  src : List Word
  flag : Option (Fin 12)
  held : Bool
  wbase : Int
  depth : Nat
  writes : List (Nat × Word)
  slot : BitVec 512
  fault : Option (Cause × DWord)
  started : Bool
  since : Nat
  data : List Nat
  priv : Bool
  bytes : List Byte
  word : BitVec 128
deriving DecidableEq, Repr, Inhabited

/-- Class of an operation, and of the paths of R294. -/
inductive Path where
  | core | copy | fetch | tree | merge | exch | duplex | task
deriving DecidableEq, Repr, Inhabited

/-- The descriptor that a core still reads from a format slot of a context, though another agent has written the slot (R209); with a
path, the one that the engines of that path still read for the commands of threads other than the `writer`. -/
structure SlotView where
  path : Option Path
  writer : Nat
  core : Nat
  ctx : Nat
  slot : Nat
  bits : BitVec 512
deriving DecidableEq, Repr, Inhabited

/-- A line of an L1 data cache (R235), of an instruction cache (2048 + the core), or of a fused set (4096 + 16 * the cluster +
the list entry of R236). For each 8-byte part, `own` names the team and the virtual line of the last store, which R276 compares
with read sets (no line for a store that a commit performed, R278); `pref` tells that a PREF brought the line and no access has
used it since (R288), and `passed` that another thread of the core may have read a write that its writer made after its dirty
bytes, which that thread's publishes then carry (R253). -/
structure L1Line where
  pref : Bool
  passed : Bool
  core : Nat
  pa : Nat
  data : List Byte
  valid : BitVec 64
  dirty : BitVec 64
  colours : List (Fin 8)
  own : List (Nat × Option Nat)
deriving DecidableEq, Repr, Inhabited

/-- A cached entry (R244) of a context: in the TLB of a core (its number) or of a glade (2048 + its number) the leaf of a page;
in the walker pool of a die (4096 + its number) a table entry, `size` being the lowest bit of its level's index. -/
structure TlbEnt where
  core : Nat
  ctx : Nat
  page : Nat
  size : Nat
  leaf : Quad
deriving DecidableEq, Repr, Inhabited

/-- A sealed region (R245, R336). -/
structure SealRec where
  id : Nat
  ctx : Nat
  base : DWord
  pages : Nat
  frames : List Nat
  m : BitVec 512
  h : Quad
deriving DecidableEq, Repr, Inhabited

/-- A recorded scratchpad range (R272, R311): the core, the team whose window it is, words, and the operation. -/
structure RangeRec where
  op : Nat
  team : Nat
  lo : Nat
  hi : Nat
deriving DecidableEq, Repr, Inhabited

/-- One operation in a core's matrix engine (R215, R225): its tile's first use may wait since a cycle (R202), and `done`
is the cycle of its completion once it has started; `rows` are the rows that ACCLD has written since the issue of an ACCZ (R220). -/
structure MatOp where
  rows : List (Nat × List Word)
  lost : Bool
  id : Nat
  tileWait : Option Nat
  since : Nat
  done : Nat
  group : Nat
  instr : Instr
  present : Word
  caps : List Capture
  slotA : BitVec 512
  slotB : BitVec 512
  waitLoads : List Nat
deriving DecidableEq, Repr, Inhabited

/-- A core's own state (R170, R225 to R229, R442); `parkWait` names the context whose save area had no room for a park, until a
range of it is freed (R156); `throttle` counts to the end of the latest throttled operation's occupancy, which is at `thrUntil`. -/
structure Core where
  parkWait : Option Nat
  id : Nat
  migPolicy : Word
  migNext : Option Word
  throttle : Word
  thrUntil : Nat
  matQueue : List MatOp
  matRun : List MatOp
  matFree : Nat
  runLen : Nat
  runEnd : Nat
  failed : Bool
deriving DecidableEq, Repr, Inhabited

/-- A die's power-token ring (R228): N, free tokens by station as they stood at cycle `moved`, holders with the cycle taken,
requests, for each station the end of its latest long run, and the stations bound to release their token, with the cycle. -/
structure Ring where
  leaving : List (Nat × Nat)
  moved : Nat
  n : Nat
  free : List Nat
  held : List (Nat × Nat)
  requests : List Nat
  idleSince : List (Nat × Nat)
deriving DecidableEq, Repr, Inhabited

/-- A log (R339); `segs` counts the segments signed. -/
structure LogRec where
  id : Nat
  owner : Nat
  die : Nat
  lbase : DWord
  sigbase : DWord
  nseg : Nat
  ap : Nat
  chain : BitVec 512
  opened : Bool
  segs : Nat
deriving DecidableEq, Repr, Inhabited

/-- A bound duplex stream as its unit holds it (R361, R362). -/
structure Stream where
  ctx : Nat
  obj : DWord
  g : Nat
  p : Nat
  k : Nat
  overplay : Bool
  hq : Nat
  outBase : DWord
  outCap : Nat
  nblk : Nat
  tagBase : DWord
  logBase : DWord
  logCap : Nat
  logWr : Nat
  logRd : Nat
  payBase : DWord
  hrec : DWord
  ckpt : List (DWord × DWord)
  nstale : Nat
  nlate : Nat
  owner : Owner
deriving DecidableEq, Repr, Inhabited

/-- State of an exchange descriptor (R426): context, address, heads, tails, sequence counter. -/
structure XDesc where
  ctx : Nat
  addr : DWord
  heads : List (Nat × Nat)
  tails : List (Nat × Nat)
  seq : Nat
deriving DecidableEq, Repr, Inhabited

/-- A bound receive buffer (R434): its XRECV, and the object it credits. -/
structure RecvBuf where
  ctx : Nat
  addr : DWord
  op : Nat
  team : Nat
  off : Nat
  credited : Nat
deriving DecidableEq, Repr, Inhabited

/-- A token held at an unbound buffer (R433). -/
structure HeldToken where
  id : Nat
  tok : Token
  since : Nat
deriving DecidableEq, Repr, Inhabited

/-- State of an intake item (R438, R439): accepted; next to be performed; being performed; started and running on; terminal;
reported; acknowledged. -/
inductive ItemState where
  | accepted
  | ready
  | started
  | running
  | terminal
  | reported
  | acknowledged
deriving DecidableEq, Repr, Inhabited

/-- One entry of an intake log (R438). -/
structure ItemRec where
  seq : Nat
  instr : Instr
  state : ItemState
  cause : Nat
  result : List Byte
  number : Option DWord
  sentAt : Nat
deriving DecidableEq, Repr, Inhabited

/-- A scale-out pair as the peer table names it (R427): the port, the UDP port and the IPv6 address. -/
structure Wire where
  port : Nat
  udp : Nat
  ip : Nat
deriving DecidableEq, Repr, Inhabited

/-- Where an exchange message goes (R427): over Canopy to a module, or as a frame of a pair with its sequence number. -/
inductive Dest where
  | canopy (module : Nat)
  | frame (w : Wire) (seq : Nat)
deriving DecidableEq, Repr, Inhabited

/-- A scale-out pair: the sequence number of its next frame, and the cycle of the peer's last answer (R427, R432). -/
structure Pair where
  wire : Wire
  seq : Nat
  heard : Nat
deriving DecidableEq, Repr, Inhabited

/-- A message as it was sent: its destination, and the cycles of its first and its last transmission (R427, R432). -/
structure Sent where
  dest : Dest
  since : Nat
  last : Nat
deriving DecidableEq, Repr, Inhabited

/-- One entry of an XSEND's list (R432): its list address, header and payload address, its peer, the response it waits for,
whether a peer's fault answered it, and how it was sent. -/
structure SendTok where
  sent : Option Sent
  addr : Nat
  tok : Token
  status : Nat
  slot : Nat
  peer : Nat
  resp : Option TokenResp
  fault : Bool
deriving DecidableEq, Repr, Inhabited

/-- An XSEND at the exchange engine (R432): its round, its entries and the peers whose end marker has not been answered, with
the first peer entry whose marker was answered with a fault. -/
structure SendRec where
  op : Nat
  round : Nat
  toks : List SendTok
  ends : List (Nat × Sent)
  endFault : Option Nat
deriving DecidableEq, Repr, Inhabited

/-- A transfer of R437 whose bytes a scale-out peer has not acknowledged: its item and the item's event, the peer, how its bytes were
sent, and what it carries. -/
structure XferRec where
  session : Nat
  queue : Nat
  seq : Nat
  item : Instr
  peer : Nat
  sent : Sent
  dctx : Nat
  va : DWord
  data : List Byte
deriving DecidableEq, Repr, Inhabited

/-- One intake queue (R438, R439). -/
structure IntakeQ where
  session : Nat
  queue : Nat
  expected : Nat
  heldMsgs : List Instr
  log : List ItemRec
deriving DecidableEq, Repr, Inhabited

/-- An intake session (R435, R443). -/
structure Session where
  id : Nat
  key : List Byte
  frozen : Bool
  frozenAt : DWord
deriving DecidableEq, Repr, Inhabited

/-- A message that leaves the module. -/
inductive Out where
  | host (session queue type seq : Nat) (body tag : List Byte)
  | ranger (code status seq : Nat) (body : List Byte)
  | remote (module : Nat) (req : RemoteReq)
  | token (dst : Dest) (t : Token)
  | endMarker (dst : Dest) (dctx xid : Nat)
  | endMarkerAck (peer dctx xid : Nat) (ok : Bool)
  | tokenResp (module op entry : Nat) (r : TokenResp)
  | transfer (dst : Dest) (dctx : Nat) (va : DWord) (data : List Byte)
  | transferAck (peer : Nat)
  | remoteAns (peer : Nat) (data : Option (List Byte))
deriving DecidableEq, Repr, Inhabited

/-- A bundle that a pass selected (R159): its core and port, the threads still to issue the current slot, those
that go on to the next slot, whether it must end, the slots it may still issue and a stamp; `begun` tells that one of its
threads has issued the current slot, so that the others follow before any other agent moves (R232, R233). -/
structure Issue where
  begun : Bool
  core : Nat
  port : Nat
  todo : List Nat
  done : List Nat
  all : List Nat
  ends : Bool
  left : Nat
  stamp : Nat
deriving DecidableEq, Repr, Inhabited

/-- Moves that the environment may order before the default ones (log 4). -/
inductive Turn where
  | advance (op k : Nat)
  | seeSlots (core : Nat)
  | issue
  | take (k : Nat)
  | rotate
  | evict (k : Nat)
  | evictTlb (k : Nat)
  | land (op : Nat)
  | corrupt (line : Nat)
  | recv
  | recvRanger
  | happen (i : Instr)
deriving DecidableEq, Repr, Inhabited

/-- An arrival that waits for its publish (R301): the object, n and c, and the register run that receives the phase. -/
structure ArriveRec where
  team : Nat
  off : Nat
  n : Nat
  c : Nat
  dst : Option Opd
  point : Nat
deriving DecidableEq, Repr, Inhabited

/-- A publish in progress (R257): the thread, the core whose writes it performs, scope and colours, and whether an
acquire follows; `arrive` holds the counting that waits for it. -/
structure PubRec where
  id : Nat
  thread : Nat
  core : Nat
  colours : Byte
  scope : Scope
  acq : Bool
  arrive : Option ArriveRec
deriving DecidableEq, Repr, Inhabited

/-- A flush point whose batches are not yet applied (R267): the thread it holds and its flag, and the object whose
phase, by number, closes it; `errs` lists the batches that were applied with those of another point and failed (R291). -/
structure PointRec where
  errs : List (Cause × Nat)
  id : Nat
  thread : Nat
  held : Bool
  flag : Option (Fin 12)
  object : Option (Nat × Nat)
  phase : Option Nat
  pc : DWord
  word : BitVec 128
deriving DecidableEq, Repr, Inhabited

/-- A phase that has completed and is not yet observable (R302). -/
structure PhaseRec where
  team : Nat
  off : Nat
deriving DecidableEq, Repr, Inhabited

/-- A translation request of the background builder (R447). -/
structure XReq where
  key : List Byte
  entry : Nat
  kind : CoreKind
  since : Nat
  handle : Nat
  ctx : Nat
  fidx : Nat
deriving DecidableEq, Repr, Inhabited

/-- Part faults recorded (R441). -/
inductive PartFault where
  | hbm (n : Nat)
  | dieLink (n : Nat)
  | canopy (n : Nat)
  | core (n : Nat)
deriving DecidableEq, Repr, Inhabited

/-- The whole module. `meetDue` lists the groups in which a cycle's issue is over and whose rendezvous are to be tested (R173); `errLog` holds the cycle, kind and body of each record of the machine error log (R443); `mended` the
ranges of memory that a recovery has mirrored again (R441); `powerDown` the parts in a power state, with its number in the order
of R446's table. -/
structure State where
  cycle : Nat
  boot : Nat
  moduleNo : Nat
  routes : List Nat
  packageCap : Nat
  fwBuffer : List Byte
  fwActive : Option (List Byte)
  fwPending : Option (List Byte)
  rangerSeq : Nat
  rangerLast : Option Out
  xdirBase : DWord
  xdirCount : Nat
  xreqs : List XReq
  launchCounter : Nat
  sealCounter : Nat
  imageSeq : Nat
  errLog : List (Nat × Nat × List Byte)
  partFaults : List PartFault
  recovering : Bool
  mended : List (Nat × Nat)
  powerDown : List (PowerPart × Nat)
  mem : Mem
  poison : List Nat
  l1 : List L1Line
  tlb : List TlbEnt
  icache : List (Nat × DWord)
  icacheMiss : List (Nat × DWord)
  oldSlots : List SlotView
  seals : List SealRec
  ranges : List RangeRec
  cores : List Core
  rings : List Ring
  contexts : List Context
  launches : List Launch
  clusters : List Cluster
  teams : List Team
  groups : List Group
  threads : List Thread
  beads : List Bead
  ops : List Op
  batches : List Batch
  points : List PointRec
  publishes : List PubRec
  phases : List PhaseRec
  logs : List LogRec
  logQueue : List Nat
  streams : List Stream
  xdescs : List XDesc
  recvBufs : List RecvBuf
  sends : List SendRec
  xfers : List XferRec
  pairs : List Pair
  far : List Nat
  heldToks : List HeldToken
  endMarks : List (Nat × Nat × Nat)
  sessions : List Session
  intake : List IntakeQ
  inbox : List (List Byte)
  rangerInbox : List (List Byte)
  outbox : List Out
  issues : List Issue
  meetDue : List Nat
  agenda : List Instr
  timers : List (Nat × Instr)
  turns : List Turn
  nextId : Nat
  freeCount : Nat
deriving DecidableEq, Repr, Inhabited

/-- Why the machine stops. No meaning of this model faults: every architectural trap, freeze and failure of the
spec is a next state. -/
inductive Fault where
  /-- Raised by no meaning (safe): it stands for a state the spec does not describe, if one is ever found. -/
  | undescribed
deriving DecidableEq, Repr, Inhabited

/-- Why the machine has no answer. -/
inductive Refusal where
  /-- Raised by an arm of exec whose instruction has no meaning yet (safe). -/
  | notModelled (mnemonic : String)
deriving DecidableEq, Repr, Inhabited

/-- A core after module reset: MIG_POLICY at its reset value (R170), MMA_THROTTLE 0 (R229), the engine idle. -/
def Core.fresh (i : Nat) : Core :=
  { parkWait := none, id := i, migPolicy := 0x0000C080#32, migNext := none, throttle := 0, thrUntil := 0, matQueue := [], matRun := [],
    matFree := 0, runLen := 0, runEnd := 0, failed := false }

/-- A die's ring after module reset: 9 tokens (R228), here free at stations 0 to 8 (log 2). -/
def Ring.fresh : Ring :=
  { leaving := [], moved := 0, n := 9, free := [0, 1, 2, 3, 4, 5, 6, 7, 8], held := [], requests := [], idleSince := [] }

/-- The machine right after module reset: no context, no session, no work; counters at the values R125, R170, R228,
R229, R245, R423 and R435 give, the rest as log 2 names. A core that is not listed in `cores` is in the state of
`Core.fresh`. -/
def State.reset : State :=
  { cycle := 0, boot := 1, moduleNo := 0, routes := [], packageCap := 15000, fwBuffer := [], fwActive := none, fwPending := none,
    rangerSeq := 0, rangerLast := none, xdirBase := 0, xdirCount := 0, xreqs := [], launchCounter := 1,
    sealCounter := 1, imageSeq := 0, errLog := [], partFaults := [], recovering := false, mended := [], powerDown := [],
    mem := [], poison := [], l1 := [], tlb := [], icache := [], icacheMiss := [], oldSlots := [], seals := [], ranges := [],
    cores := [], rings := [Ring.fresh, Ring.fresh, Ring.fresh, Ring.fresh, Ring.fresh, Ring.fresh, Ring.fresh, Ring.fresh],
    contexts := [], launches := [], clusters := [], teams := [], groups := [], threads := [], beads := [], ops := [],
    batches := [], points := [], publishes := [], phases := [], logs := [], logQueue := [], streams := [],
    xdescs := [], recvBufs := [], sends := [], xfers := [], pairs := [], far := [], heldToks := [], endMarks := [], sessions := [], intake := [], inbox := [],
    rangerInbox := [], outbox := [], issues := [], meetDue := [], agenda := [], timers := [], turns := [], nextId := 1,
    freeCount := 0 }

end Sys2Proof.Machine
end

