-- ==== Sys2Proof/Machine/Lookup.lean ====
section
/-!
DEFINITION. Named accessors of the machine's records, by number, and the updates of one record.
-/

namespace Sys2Proof.Machine

/-- Replaces every record with key `k` by its image. -/
def updBy {α : Type} (key : α → Nat) (l : List α) (k : Nat) (f : α → α) : List α :=
  l.map fun x => if key x == k then f x else x

/-- Removes the records with key `k`. -/
def dropBy {α : Type} (key : α → Nat) (l : List α) (k : Nat) : List α := l.filter fun x => key x != k

/-- The value of the first pair with key `k`. -/
def assoc {κ α : Type} [BEq κ] (l : List (κ × α)) (k : κ) : Option α := (l.find? fun p => p.1 == k).map (·.2)

/-- Sets the value of key `k` in a list of pairs. -/
def assocSet {κ α : Type} [BEq κ] (l : List (κ × α)) (k : κ) (v : α) : List (κ × α) := l.filter (fun p => p.1 != k) ++ [(k, v)]

/-- The thread numbered `t`. -/
def State.thread? (s : State) (t : Nat) : Option Thread := s.threads.find? fun u => u.id == t
/-- The thread numbered `t`; the empty record if there is none. -/
def State.th (s : State) (t : Nat) : Thread := (s.thread? t).getD default
/-- Updates one thread. -/
def State.modTh (s : State) (t : Nat) (f : Thread → Thread) : State := { s with threads := updBy Thread.id s.threads t f }
/-- Stores a thread's new record. -/
def State.setTh (s : State) (u : Thread) : State := s.modTh u.id fun _ => u

/-- The group numbered `g`. -/
def State.group (s : State) (g : Nat) : Group := (s.groups.find? fun x => x.id == g).getD default
/-- Updates one group. -/
def State.modGroup (s : State) (g : Nat) (f : Group → Group) : State := { s with groups := updBy Group.id s.groups g f }
/-- The team numbered `t`. -/
def State.team (s : State) (t : Nat) : Team := (s.teams.find? fun x => x.id == t).getD default
/-- Updates one team. -/
def State.modTeam (s : State) (t : Nat) (f : Team → Team) : State := { s with teams := updBy Team.id s.teams t f }
/-- The cluster numbered `c`. -/
def State.cluster (s : State) (c : Nat) : Cluster := (s.clusters.find? fun x => x.id == c).getD default
/-- Updates one cluster. -/
def State.modCluster (s : State) (c : Nat) (f : Cluster → Cluster) : State :=
  { s with clusters := updBy Cluster.id s.clusters c f }
/-- The launch numbered `l`. -/
def State.launchOf (s : State) (l : Nat) : Launch := (s.launches.find? fun x => x.id == l).getD default
/-- Updates one launch. -/
def State.modLaunch (s : State) (l : Nat) (f : Launch → Launch) : State :=
  { s with launches := updBy Launch.id s.launches l f }
/-- The context numbered `c`. -/
def State.ctx? (s : State) (c : Nat) : Option Context := s.contexts.find? fun x => x.id == c
/-- The context numbered `c`; the empty record if there is none. -/
def State.ctx (s : State) (c : Nat) : Context := (s.ctx? c).getD default
/-- Updates one context. -/
def State.modCtx (s : State) (c : Nat) (f : Context → Context) : State :=
  { s with contexts := updBy Context.id s.contexts c f }
/-- A core's own state; `Core.fresh` while nothing has changed it. -/
def State.core (s : State) (c : Nat) : Core := (s.cores.find? fun x => x.id == c).getD (Core.fresh c)
/-- `MMA_THROTTLE` at a cycle (R229): the cycles in which the engine has been occupied with throttled operations so far. -/
def Core.throttled (c : Core) (now : Nat) : Word := c.throttle - BitVec.ofNat 32 (c.thrUntil - now)
/-- Updates one core. -/
def State.modCore (s : State) (c : Nat) (f : Core → Core) : State :=
  { s with cores := if s.cores.any fun x => x.id == c then updBy Core.id s.cores c f else s.cores ++ [f (Core.fresh c)] }
/-- An operation in flight. -/
def State.op? (s : State) (o : Nat) : Option Op := s.ops.find? fun x => x.id == o
/-- Updates one operation in flight. -/
def State.modOp (s : State) (o : Nat) (f : Op → Op) : State := { s with ops := updBy Op.id s.ops o f }

/-- A fresh number (log 2). -/
def State.fresh (s : State) : Nat × State := (s.nextId, { s with nextId := s.nextId + 1 })
/-- Counts one move: the counter that free values are applied to (log 3). -/
def State.tick (s : State) : State := { s with freeCount := s.freeCount + 1 }
/-- Replaces the moves that the environment orders. -/
def State.setTurns (s : State) (r : List Turn) : State := { s with turns := r }
/-- Puts an event at the end of the agenda. -/
def State.later (s : State) (i : Instr) : State := { s with agenda := s.agenda ++ [i] }
/-- Puts an event at the end of the agenda unless it stands there. -/
def State.once (s : State) (i : Instr) : State := if s.agenda.contains i then s else s.later i
/-- Makes an event due a number of cycles from now. -/
def State.after (s : State) (cycles : Nat) (i : Instr) : State := { s with timers := s.timers ++ [(s.cycle + cycles, i)] }
/-- Makes an event due at a cycle. -/
def State.due (s : State) (cycle : Nat) (i : Instr) : State := { s with timers := s.timers ++ [(cycle, i)] }
/-- Drops a timer. -/
def State.unTimer (s : State) (p : Instr → Bool) : State := { s with timers := s.timers.filter fun x => !p x.2 }
/-- Sends a message out of the module. -/
def State.send (s : State) (o : Out) : State := { s with outbox := s.outbox ++ [o] }

/-- A convergence register that holds nothing (R214). -/
def ConvReg.empty : ConvReg := { offs := [], pc := 0, signed := 0, present := 0, since := 0, instr := none, caps := [] }

/-- Context of a thread. -/
def State.ctxOf (s : State) (th : Thread) : Context := s.ctx (s.team th.team).ctx
/-- Host core of a thread (R146). -/
def State.hostOf (s : State) (th : Thread) : Nat := (s.group th.group).core
/-- Glade of a core (R144). -/
def gladeOf (core : Nat) : Nat := core / 12
/-- Die of a core (R144). -/
def dieOf (core : Nat) : Nat := core / 144
/-- Kind of a core: cores 0, 3, 8 and 11 of a glade are Larch cores (R144). -/
def kindOf (core : Nat) : CoreKind := if [0, 3, 8, 11].contains (core % 12) then .larch else .bramble
/-- `%kind` (R62). -/
def kindNum : CoreKind → Nat
  | .bramble => 0
  | .larch => 1
/-- The live threads of a group, in rank order as created. -/
def State.liveOf (s : State) (g : Nat) : List Thread := s.threads.filter fun u => u.group == g && u.status == .live
/-- The live threads of a team. -/
def State.liveTeam (s : State) (t : Nat) : List Thread := s.threads.filter fun u => u.team == t && u.status == .live
/-- R46: a thread runs privileged while it is in a handler. -/
def Thread.privileged (th : Thread) : Bool := th.handler.isSome
/-- Bit r set for each rank of a list. -/
def rankMask (l : List Nat) : Word := l.foldl (fun m r => m ||| (1#32 <<< r)) 0#32
/-- Bit r of a 32-bit mask. -/
def hasBit (m : Word) (r : Nat) : Bool := m.getLsbD r

end Sys2Proof.Machine
end

