-- ==== Sys2Proof/Machine/Number.lean ====
section
/-!
DEFINITION. Number formats and exact arithmetic (04 R86 to R111): formats, exact dyadic and rational values, rounding,
conversion, block scales, codebooks, fixed sum orders, matrix sums and special functions.
-/

namespace Sys2Proof.Machine

/-- Flag bits of FSTAT (R22). -/
def fINV : Nat := 1
/-- DVZ. -/
def fDVZ : Nat := 2
/-- OVF. -/
def fOVF : Nat := 4
/-- UFL. -/
def fUFL : Nat := 8
/-- INX. -/
def fINX : Nat := 16
/-- SAT. -/
def fSAT : Nat := 32

/-- A floating-point format (R87): mantissa bits, exponent bits, bias; `ieee` has infinities and the NaNs of f64. -/
structure FFmt where
  mant : Nat
  ebits : Nat
  bias : Nat
  ieee : Bool
deriving DecidableEq, Repr

/-- The format of a floating-point type (R87). -/
def ffmt : Ty → FFmt
  | .f64 => ⟨52, 11, 1023, true⟩
  | .f16 => ⟨10, 5, 15, true⟩
  | .bf16 => ⟨7, 8, 127, true⟩
  | .e4m3 => ⟨3, 4, 7, false⟩
  | .e5m2 => ⟨2, 5, 15, true⟩
  | .e2m1 => ⟨1, 2, 1, false⟩
  | _ => ⟨23, 8, 127, true⟩

/-- An exact value: a NaN, an infinity or (-1)^neg * m * 2^e. -/
inductive FVal where
  | nan (sig : Bool)
  | inf (neg : Bool)
  | fin (neg : Bool) (m : Nat) (e : Int)
deriving DecidableEq, Repr

/-- 2^k for a natural or negative exponent, as numerator and denominator. -/
def pow2 (k : Int) : Nat × Nat := match k with
  | .ofNat n => (2 ^ n, 1)
  | .negSucc n => (1, 2 ^ (n + 1))

namespace FFmt

/-- Width of a format. -/
def width (f : FFmt) : Nat := 1 + f.ebits + f.mant
/-- Exponent of the smallest normal value. -/
def emin (f : FFmt) : Int := 1 - (f.bias : Int)
/-- The sign bit. -/
def signBit (f : FFmt) : Nat := 2 ^ (f.ebits + f.mant)
/-- Exponent field all ones. -/
def emax (f : FFmt) : Nat := 2 ^ f.ebits - 1
/-- Encoding of the largest finite magnitude (R87). -/
def maxFin (f : FFmt) : Nat :=
  if f.ieee then (f.emax - 1) * 2 ^ f.mant + (2 ^ f.mant - 1)
  else if f.mant == 3 then 0x7E else 7
/-- Encoding of infinity for the formats that have one. -/
def infBits (f : FFmt) : Nat := f.emax * 2 ^ f.mant
/-- The canonical NaN (R88); e2m1 has none and a NaN becomes 0 (R91). -/
def nanBits (f : FFmt) : Nat :=
  if f.ieee then f.infBits + 2 ^ (f.mant - 1) else if f.mant == 3 then 0x7F else 0
/-- A magnitude with a sign. -/
def signed (f : FFmt) (neg : Bool) (m : Nat) : Nat := if neg then f.signBit + m else m

/-- The exact value of an encoding (R87, R88); e2m1's code 0b1000 is handled by its readers (R90). -/
def decode (f : FFmt) (bits : Nat) : FVal :=
  let neg := bits / f.signBit % 2 == 1
  let e := bits / 2 ^ f.mant % 2 ^ f.ebits
  let m := bits % 2 ^ f.mant
  if f.ieee && e == f.emax then
    if m == 0 then .inf neg else .nan (m < 2 ^ (f.mant - 1))
  else if !f.ieee && f.mant == 3 && e == 15 && m == 7 then .nan false
  else if e == 0 then .fin neg m (f.emin - f.mant)
  else .fin neg (2 ^ f.mant + m) ((e : Int) - f.bias - f.mant)

/-- A subnormal encoding (R101). -/
def subnormal (f : FFmt) (bits : Nat) : Bool := bits / 2 ^ f.mant % 2 ^ f.ebits == 0 && bits % 2 ^ f.mant != 0

end FFmt

/-- The canonical NaN of a type (R88). -/
def canonicalNaN (t : Ty) : Nat := (ffmt t).nanBits

/-- The rounding in force: a mode of R100, or stochastic rounding with its new seed (R102). -/
inductive Rnd where
  | rm (r : Rm)
  | stoch (seed : Nat)
deriving DecidableEq, Repr

/-- Whether a magnitude with integer part `i` and remainder `r` over `d` rounds up (R100, R102). -/
def roundsUp (rnd : Rnd) (neg : Bool) (i r d : Nat) : Bool :=
  if r == 0 then false else
  match rnd with
  | .rm .rn => if 2 * r == d then i % 2 == 1 else d < 2 * r
  | .rm .rz => false
  | .rm .rd => neg
  | .rm .ru => !neg
  | .stoch s => s - 1 < r * 2 ^ 32 / d

/-- Floor of log2 of n/d, both positive. -/
def log2Ratio (n d : Nat) : Int :=
  let k : Int := (n.log2 : Int) - d.log2
  let (p, q) := pow2 k
  if n * q < d * p then k - 1 else k

/-- The overflow result of R100 with its flags. -/
def overflowTo (f : FFmt) (rnd : Rnd) (sat neg : Bool) : Nat × Nat :=
  if sat then (f.signed neg f.maxFin, fOVF + fINX + fSAT)
  else if !f.ieee then (if f.mant == 3 then 0x7F else f.signed neg 7, fOVF + fINX)
  else
    let big := match rnd with
      | .rm .rz => false
      | .rm .rd => neg
      | .rm .ru => !neg
      | _ => true
    (f.signed neg (if big then f.infBits else f.maxFin), fOVF + fINX)

/-- RoundToFormat of the positive rational n/d * 2^e with sign `neg` (R99 to R101); fz is the result flush of the class. -/
def roundRat (f : FFmt) (rnd : Rnd) (sat fz neg : Bool) (n d : Nat) (e : Int) : Nat × Nat :=
  let lg := log2Ratio n d + e
  let tiny := lg < f.emin
  if tiny && fz then (f.signed neg 0, fUFL + fINX) else
  let q := max lg f.emin - f.mant
  let (p, r) := pow2 (e - q)
  let num := n * p
  let den := d * r
  let i := num / den
  let rem := num % den
  let up := roundsUp rnd neg i rem den
  let m := if up then i + 1 else i
  let inx := if rem == 0 then 0 else fINX + (if tiny then fUFL else 0)
  -- m * 2^q, with 2^mant ≤ m ≤ 2^(mant+1) when normal
  let ef : Int := q - (f.emin - f.mant)
  let mag : Int := if m < 2 ^ f.mant then (m : Int) else (ef + 1) * 2 ^ f.mant + ((m : Int) - 2 ^ f.mant)
  if (f.maxFin : Int) < mag then overflowTo f rnd sat neg
  else
    let mag := mag.toNat
    (if f.mant == 1 && mag == 0 then 0 else f.signed neg mag, inx)

/-- RoundToFormat of an exact value (R88 to R91, R99 to R101): encoding and flags. -/
def roundTo (t : Ty) (rnd : Rnd) (sat fz : Bool) (x : FVal) : Nat × Nat :=
  let f := ffmt t
  match x with
  | .nan sig => (f.nanBits, if sig || t == .e2m1 then fINV else 0)
  | .inf neg =>
    if f.ieee then (if sat then (f.signed neg f.maxFin, fSAT) else (f.signed neg f.infBits, 0))
    else if sat then (f.signed neg f.maxFin, fOVF + fSAT)
    else (if f.mant == 3 then 0x7F else f.signed neg 7, fOVF)
  | .fin neg m e => if m == 0 then (if t == .e2m1 then 0 else f.signed neg 0, 0) else roundRat f rnd sat fz neg m 1 e

/-- A finite value as an integer multiple of 2^e. -/
def FVal.scaled (x : FVal) (e : Int) : Int := match x with
  | .fin neg m k => let v : Int := m * 2 ^ (k - e).toNat; if neg then -v else v
  | _ => 0

/-- The value is a NaN. -/
def FVal.isNan : FVal → Bool
  | .nan _ => true
  | _ => false
/-- The value is a signalling NaN. -/
def FVal.isSnan : FVal → Bool
  | .nan s => s
  | _ => false
/-- The value is an infinity. -/
def FVal.isInf : FVal → Bool
  | .inf _ => true
  | _ => false
/-- The value is zero. -/
def FVal.isZero : FVal → Bool
  | .fin _ m _ => m == 0
  | _ => false
/-- The sign. -/
def FVal.neg : FVal → Bool
  | .fin n _ _ => n
  | .inf n => n
  | .nan _ => false
/-- The value with its sign reversed. -/
def FVal.negate : FVal → FVal
  | .fin n m e => .fin (!n) m e
  | .inf n => .inf (!n)
  | x => x
/-- Exponent of a finite value. -/
def FVal.exp : FVal → Int
  | .fin _ _ e => e
  | _ => 0

/-- Exact sum; `rd` tells rounding toward minus infinity, for the sign of an exact zero (R99). INV tells inf - inf. -/
def FVal.add (rd : Bool) (x y : FVal) : FVal × Bool :=
  match x, y with
  | .nan s, .nan t => (.nan (s || t), false)
  | .nan s, _ => (.nan s, false)
  | _, .nan s => (.nan s, false)
  | .inf a, .inf b => if a == b then (.inf a, false) else (.nan false, true)
  | .inf a, _ => (.inf a, false)
  | _, .inf a => (.inf a, false)
  | .fin a m e, .fin b n k =>
    if m == 0 && n == 0 then (.fin (if a == b then a else rd) 0 0, false) else
    let lo := min e k
    let s := (FVal.fin a m e).scaled lo + (FVal.fin b n k).scaled lo
    if s == 0 then (.fin rd 0 0, false) else (.fin (s < 0) s.natAbs lo, false)

/-- Exact product; INV tells 0 * inf. -/
def FVal.mul (x y : FVal) : FVal × Bool :=
  match x, y with
  | .nan s, .nan t => (.nan (s || t), false)
  | .nan s, _ => (.nan s, false)
  | _, .nan s => (.nan s, false)
  | .inf a, y => if y.isZero then (.nan false, true) else (.inf (a != y.neg), false)
  | x, .inf b => if x.isZero then (.nan false, true) else (.inf (b != x.neg), false)
  | .fin a m e, .fin b n k => (.fin (a != b) (m * n) (e + k), false)

/-- Compare two values that are no NaN: whether x < y. -/
def FVal.lt (x y : FVal) : Bool :=
  match x, y with
  | .inf a, .inf b => a && !b
  | .inf a, _ => a
  | _, .inf b => !b
  | x, y => let lo := min x.exp y.exp; x.scaled lo < y.scaled lo

/-- Equality of two values that are no NaN; zeros compare equal. -/
def FVal.eq (x y : FVal) : Bool := !x.lt y && !y.lt x

/-- The FZ bit of a type's class in FMODE (R24, R101). -/
def fzBit (fmode : Word) (t : Ty) : Bool := match t with
  | .f64 => fmode.getLsbD 2
  | .f32 => fmode.getLsbD 3
  | .f16 | .bf16 => fmode.getLsbD 4
  | .e4m3 | .e5m2 => fmode.getLsbD 5
  | _ => false

/-- FlushIn on the encoding (R101). -/
def flushIn (fz : Bool) (t : Ty) (bits : Nat) : Nat :=
  let f := ffmt t
  if fz && f.subnormal bits then (if f.signBit ≤ bits % 2 ^ f.width then f.signBit else 0) else bits

/-- One step of the generator (R102). -/
def xorshiftStep (s : Word) : Word :=
  let a := s ^^^ (s <<< 13)
  let b := a ^^^ (a >>> 17)
  b ^^^ (b <<< 5)

/-- What an arithmetic instruction reads and writes of the thread's mode (R24, R26, R113): RM or the static mode, SR in
force, FMODE for the FZ bits, FSEED, and the sticky flags raised. -/
structure Arith where
  rm : Rm
  sr : Bool
  fmode : Word
  seed : Word
  flags : Nat
deriving DecidableEq, Repr

namespace Arith

/-- The arithmetic environment of FMODE and FSEED with a static mode or none (R113). -/
def of (fmode seed : Word) (st : Option Rm) : Arith :=
  match st with
  | some r => ⟨r, false, fmode, seed, 0⟩
  | none => ⟨Rm.ofCode (fmode.toNat % 4), fmode.getLsbD 6, fmode, seed, 0⟩
/-- OR flags in. -/
def raise (a : Arith) (fl : Nat) : Arith := { a with flags := a.flags ||| fl }
/-- FZ bit of a type's class. -/
def fz (a : Arith) (t : Ty) : Bool := fzBit a.fmode t
/-- An input, flushed and decoded; a signalling NaN sets INV (R88, R101). -/
def input (a : Arith) (t : Ty) (bits : Nat) : FVal := (ffmt t).decode (flushIn (a.fz t) t bits)
/-- A result rounded under RM (R99). -/
def round (a : Arith) (t : Ty) (sat : Bool) (x : FVal) : Nat × Arith :=
  let (r, fl) := roundTo t (.rm a.rm) sat (a.fz t) x
  (r, a.raise fl)
/-- A result of an operation that R102 lists: stochastic when SR is in force. -/
def roundS (a : Arith) (t : Ty) (sat : Bool) (x : FVal) : Nat × Arith :=
  if a.sr then
    let s := xorshiftStep a.seed
    let (r, fl) := roundTo t (.stoch s.toNat) sat (a.fz t) x
    (r, { a with seed := s }.raise fl)
  else a.round t sat x

end Arith

/-- Floating-point operations of R133. -/
inductive Fop where
  | add | sub | mul | mad
deriving DecidableEq, Repr

/-- The exact result of an operation on encodings of type t, INV raised as R133 says. -/
def fopExact (a : Arith) (op : Fop) (t : Ty) (stoch : Bool) (x y z : Nat) : FVal × Arith :=
  let fx := a.input t x
  let fy := a.input t y
  let fc := if op == .mad then a.input t z else .fin false 0 0
  let rd := a.rm == .rd && !(stoch && a.sr)
  let (r, inv) := match op with
    | .add => fx.add rd fy
    | .sub => fx.add rd fy.negate
    | .mul => fx.mul fy
    | .mad =>
      let (p, i) := fx.mul fy
      if fc.isNan && !(fx.isNan || fy.isNan) && i then (.nan false, false)
      else if i then (.nan false, true) else p.add rd fc
  let snan := fx.isSnan || fy.isSnan || fc.isSnan
  (r, a.raise (if inv || snan then fINV else 0))

/-- One result of R133. `stoch` tells an operation that R102 lists. -/
def fop (a : Arith) (op : Fop) (t : Ty) (sat stoch : Bool) (x y z : Nat) : Nat × Arith :=
  let (r, a) := fopExact a op t stoch x y z
  let r := match r with
    | .nan _ => FVal.nan false
    | v => v
  if stoch then a.roundS t sat r else a.round t sat r

/-- FMIN and FMAX of R134 on encodings of f32 or f64: flushed inputs, -0 below +0. -/
def fminmax (a : Arith) (t : Ty) (isMax : Bool) (x y : Nat) : Nat × Arith :=
  let f := ffmt t
  let bx := flushIn (a.fz t) t x
  let byy := flushIn (a.fz t) t y
  let vx := f.decode bx
  let vy := f.decode byy
  let a := a.raise (if vx.isSnan || vy.isSnan then fINV else 0)
  let lt := vx.lt vy || (vx.isZero && vy.isZero && vx.neg && !vy.neg)
  (if vx.isNan && vy.isNan then f.nanBits else if vx.isNan then byy else if vy.isNan then bx
   else if isMax then (if lt then byy else bx) else (if lt then bx else byy), a)

/-- Compare codes of R64 on decoded values. -/
def cmpF (c : Cmp) (x y : FVal) : Bool :=
  let un := x.isNan || y.isNan
  match c with
  | .num => !un
  | .nan => un
  | .eq => !un && x.eq y
  | .ne => !un && !x.eq y
  | .lt => !un && x.lt y
  | .le => !un && !y.lt x
  | .gt => !un && y.lt x
  | .ge => !un && !x.lt y
  | .equ => un || x.eq y
  | .neu => un || !x.eq y
  | .ltu => un || x.lt y
  | .leu => un || !y.lt x
  | .gtu => un || y.lt x
  | .geu => un || !x.lt y

/-- Signed or unsigned value of the low w bits. -/
def intVal (sgn : Bool) (w x : Nat) : Int :=
  let v := x % 2 ^ w
  if sgn && 2 ^ (w - 1) ≤ v then (v : Int) - 2 ^ w else v

/-- An integer modulo 2^w. -/
def wrapTo (w : Nat) (x : Int) : Nat := (x % (2 ^ w : Int)).toNat

/-- Range of an integer format (R93). -/
def intRange (sgn : Bool) (w : Nat) : Int × Int :=
  if sgn then (-(2 ^ (w - 1) : Int), 2 ^ (w - 1) - 1) else (0, 2 ^ w - 1)

/-- The type's integer value of an encoding. -/
def tyInt (t : Ty) (x : Nat) : Int := intVal t.signed t.bits x

/-- SaturateToFormat for an integer format (R94): the clamped encoding, and SAT when it clamps. -/
def saturateInt (t : Ty) (x : Int) : Nat × Nat :=
  let (lo, hi) := intRange t.signed t.bits
  if x < lo then (wrapTo t.bits lo, fSAT) else if hi < x then (wrapTo t.bits hi, fSAT) else (wrapTo t.bits x, 0)

/-- The write of R127: clamp or wrap. -/
def intWrite (t : Ty) (sat : Bool) (x : Int) : Nat × Nat := if sat then saturateInt t x else (wrapTo t.bits x, 0)

/-- A rational n/d * 2^e rounded to an integer magnitude: the integer and whether it is inexact. -/
def roundInt (rnd : Rm) (neg : Bool) (n d : Nat) (e : Int) : Nat × Bool :=
  let (p, q) := pow2 e
  let num := n * p
  let den := d * q
  let i := num / den
  let r := num % den
  (if roundsUp (.rm rnd) neg i r den then i + 1 else i, r != 0)

/-- ConvertToInt of a rational (R103). -/
def ratToInt (t : Ty) (rnd : Rm) (sat neg : Bool) (n d : Nat) (e : Int) : Nat × Nat :=
  let (i, inx) := roundInt rnd neg n d e
  let v : Int := if neg then -(i : Int) else i
  let (lo, hi) := intRange t.signed t.bits
  if v < lo then (wrapTo t.bits lo, fINV + if sat then fSAT else 0)
  else if hi < v then (wrapTo t.bits hi, fINV + if sat then fSAT else 0)
  else (wrapTo t.bits v, if inx then fINX else 0)

/-- ConvertToInt (R103). -/
def convertToInt (t : Ty) (rnd : Rm) (sat : Bool) (x : FVal) : Nat × Nat :=
  let (lo, hi) := intRange t.signed t.bits
  match x with
  | .nan _ => (0, fINV)
  | .inf neg => (wrapTo t.bits (if neg then lo else hi), fINV + if sat then fSAT else 0)
  | .fin neg m e => ratToInt t rnd sat neg m 1 e

/-! ## Block scales, extra values and codebooks -/

/-- A format slot's descriptor, read as R207 lays it out. -/
structure SlotD where
  fmt : Nat
  scaled : Bool
  bl32 : Bool
  plen : Nat
  xv : Nat
  ebase : Nat
  sbase : Nat
  pbase : Nat
  cb : List Nat
deriving DecidableEq, Repr

/-- A slot descriptor from its 512 bits, little-endian (R207). -/
def slotOf (w : BitVec 512) : SlotD :=
  let n := w.toNat
  let f (off len : Nat) : Nat := n / 2 ^ (8 * off) % 2 ^ (8 * len)
  { fmt := f 0 1, scaled := f 1 1 % 2 == 1, bl32 := f 1 1 / 2 % 2 == 1, plen := f 2 2, xv := f 4 2, ebase := f 8 8,
    sbase := f 16 8, pbase := f 24 8,
    cb := [f 32 2, f 34 2, f 36 2, f 38 2, f 40 2, f 42 2, f 44 2, f 46 2, f 48 2, f 50 2, f 52 2, f 54 2, f 56 2, f 58 2,
      f 60 2, f 62 2] }

/-- The plain descriptor of slot h0 (R206). -/
def plainSlot : BitVec 512 := BitVec.ofNat 512 (0x7FC0 * 2 ^ 32)

/-- Block length of a slot (R207). -/
def SlotD.blockLen (s : SlotD) : Nat := if s.bl32 then 32 else 16

/-- Canonical: bits 63:57 all equal bit 56 (R27). -/
def canonicalVa (a : Nat) : Bool := a % 2 ^ 64 < 2 ^ 56 || 2 ^ 64 - 2 ^ 56 ≤ a % 2 ^ 64

/-- The canonical address (R27) whose bits 56:0 a register holds: bits 63:57 take the value of bit 56. -/
def canonVa (a : Nat) : Nat := if bitAt a 56 then a % 2 ^ 57 + (2 ^ 64 - 2 ^ 57) else a % 2 ^ 57

/-- An invalid descriptor (R208). -/
def slotInvalid (w : BitVec 512) : Bool :=
  let s := slotOf w
  let n := w.toNat
  !(s.fmt == 0 || (0x11 ≤ s.fmt && s.fmt ≤ 0x17)) || n / 2 ^ 10 % 64 != 0 || n / 2 ^ 48 % 2 ^ 16 != 0 ||
    (s.plen == 0 && s.pbase != 0) || (!s.scaled && (s.sbase != 0 || s.bl32)) ||
    (s.scaled && (s.fmt == 0 || s.fmt == 0x11)) || 8192 < s.plen || !canonicalVa s.ebase ||
    (s.scaled && !canonicalVa s.sbase) || (0 < s.plen && (s.pbase % 2 == 1 || !canonicalVa s.pbase))

/-- An S12 scale (R95): zero, NaN, or m * 2^e. -/
inductive S12 where
  | zero
  | nan
  | val (m : Nat) (e : Int)
deriving DecidableEq, Repr

/-- S12Value (R95). -/
def s12Value (bits : Nat) : S12 :=
  let e := bits / 16 % 256
  if e == 0 then .zero else if e == 255 then .nan else .val (16 + bits % 16) ((e : Int) - 131)

/-- Scale k of a plane from the 3-byte group that holds it (R96). -/
def scaleFrom (group k : Nat) : Nat := if k % 2 == 0 then group % 4096 else group / 4096 % 4096

/-- The exact value of one element (R87 to R92, R97 without its rounding); `sc` is its scale. -/
def decodeElem (t : Ty) (s : SlotD) (sc : Option Nat) (code : Nat) : FVal :=
  let xv := (ffmt .bf16).decode s.xv
  let c := code % 2 ^ t.bits
  let plain : FVal := match t with
    | .cb4 => (ffmt .bf16).decode (s.cb.getD c 0)
    | .i4 | .i8 => let v := tyInt t c; .fin (v < 0) v.natAbs 0
    | _ => (ffmt t).decode c
  let isX := t == .e2m1 && c == 8
  match sc.map s12Value with
  | some .nan => if t == .e2m1 then xv else .nan false
  | some .zero => if isX then xv else .fin false 0 0
  | some (.val m e) => if isX then xv else (plain.mul (.fin false m e)).1
  | none => if isX then xv else plain

/-- Decode into f32 or bf16 (R97): RN, subnormals kept, no flag. -/
def decodeTo (dst t : Ty) (s : SlotD) (sc : Option Nat) (code : Nat) : Nat :=
  match decodeElem t s sc code with
  | .nan _ => canonicalNaN dst
  | v => (roundTo dst (.rm .rn) false false v).1

/-- Distance test for the codebook: |x - y| as a multiple of 2^lo. -/
def absDiff (x y : FVal) (lo : Int) : Nat := (x.scaled lo - y.scaled lo).natAbs

/-- Rational n/d * 2^e compared with entries: the index of the nearest finite entry (R92). The list holds the indices and
values still to try. -/
def cbNearest (neg : Bool) (n d : Nat) (e : Int) : List (Nat × FVal) → Option (Nat × Nat × Bool) → Option (Nat × Nat × Bool)
  | [], best => best
  | (i, v) :: r, best =>
    match v with
    | .fin _ _ k =>
      -- distance * d * 2^-lo with a common lo below every exponent in use
      let lo : Int := min (min e k) (-200)
      let x : Int := (n : Int) * 2 ^ (e - lo).toNat * (if neg then -1 else 1)
      let dist := (x - v.scaled lo * d).natAbs
      -- keep the distance at the fixed scale -1400, below which no entry or input of this machine lies
      let dist' := dist * 2 ^ (lo + 1400).toNat
      match best with
      | none => cbNearest neg n d e r (some (i, dist', dist == 0))
      | some (_, b, _) => cbNearest neg n d e r (if dist' < b then some (i, dist', dist == 0) else best)
    | _ => cbNearest neg n d e r best

/-- Position of the first element that satisfies p. -/
def findIdx? {α : Type} (p : α → Bool) : List α → Nat → Option Nat
  | [], _ => none
  | a :: r, i => if p a then some i else findIdx? p r (i + 1)

/-- The indices 0 to n - 1. -/
def upto (n : Nat) : List Nat := List.range n

/-- EncodeCodebook of a rational (R92): index and flags. -/
def cbRat (s : SlotD) (neg : Bool) (n d : Nat) (e : Int) : Nat × Nat :=
  let es := s.cb.map (ffmt .bf16).decode
  match cbNearest neg n d e ((upto 16).zip es) none with
  | some (i, _, exact) => (i, if exact then 0 else fINX)
  | none =>
    -- no finite entry: an infinite entry lies at infinite distance, lowest index first
    match findIdx? FVal.isInf es 0 with
    | some i => (i, fINX)
    | none => (0, fINV + fINX)

/-- EncodeCodebook (R92). -/
def encodeCodebook (s : SlotD) (x : FVal) : Nat × Nat :=
  let es := s.cb.map (ffmt .bf16).decode
  match x with
  | .nan _ => match findIdx? FVal.isNan es 0 with
    | some i => (i, 0)
    | none => (0, fINV + fINX)
  | .inf neg =>
    match findIdx? (fun v => v == .inf neg) es 0 with
    | some i => (i, 0)
    | none => let (i, fl) := cbRat s neg 255 1 120; (i, if fl == 0 then fINX else fl)
  | .fin neg m e => cbRat s neg m 1 e

/-- Fmax of R98 as m * 2^e; none when a cb4 slot holds no finite entry of nonzero magnitude. -/
def fmaxOf (t : Ty) (s : SlotD) : Option (Nat × Int) :=
  match t with
  | .e4m3 => some (448, 0)
  | .e5m2 => some (57344, 0)
  | .e2m1 => some (6, 0)
  | .i8 => some (127, 0)
  | .i4 => some (7, 0)
  | _ =>
    (s.cb.map (ffmt .bf16).decode).foldl (fun b v => match v, b with
      | .fin _ m e, none => if m == 0 then none else some (m, e)
      | .fin _ m e, some (m', e') =>
        if (FVal.fin false m' e').lt (.fin false m e) then some (m, e) else b
      | _, b => b) none

/-- ChooseScale (R98) for the counted inputs: the 12 bits and its flags. -/
def chooseScale (xs : List FVal) (t : Ty) (s : SlotD) : Nat × Nat :=
  if xs.any fun x => x.isNan || x.isInf then (0xFF0, 0) else
  let amax := xs.foldl (fun (b : FVal) x => match x with
    | .fin _ m e => if b.lt (.fin false m e) then .fin false m e else b
    | _ => b) (.fin false 0 0)
  if amax.isZero then (0, 0) else
  match fmaxOf t s with
  | none => (0x7F0, 0)
  | some (fm, fe) =>
    match amax with
    | .fin _ m e =>
      -- ratio m/fm * 2^(e-fe)
      let lg := log2Ratio m fm + (e - fe)
      let (p, q) := pow2 (e - fe - lg + 4)
      let num := m * p
      let den := fm * q
      let k := if num % den == 0 then num / den else num / den + 1
      let (lg, k) := if k == 32 then (lg + 1, 16) else (lg, k)
      if lg < -126 then (0x010, 0) else if 127 < lg then (0xFEF, fOVF)
      else (((lg + 127).toNat) * 16 + (k - 16), 0)
    | _ => (0, 0)

/-- x / S12Value(sc) encoded as one element of type t (R136), as a rational. -/
def quantElem (a : Arith) (t : Ty) (s : SlotD) (sat stoch : Bool) (x : FVal) (m : Nat) (e : Int) : Nat × Arith :=
  match x with
  | .fin neg n k =>
    if t == .cb4 then let (c, fl) := cbRat s neg n m (k - e); (c, a.raise fl)
    else if t == .i4 || t == .i8 then let (c, fl) := ratToInt t a.rm sat neg n m (k - e); (c, a.raise fl)
    else
      let sr := stoch && a.sr
      let seed := if sr then xorshiftStep a.seed else a.seed
      let rnd := if sr then Rnd.stoch seed.toNat else .rm a.rm
      let (c, fl) := if n == 0 then (if t == .e2m1 then 0 else (ffmt t).signed neg 0, 0)
        else roundRat (ffmt t) rnd sat (a.fz t) neg n m (k - e)
      (c, { a with seed := seed }.raise fl)
  | v => if stoch then a.roundS t sat v else a.round t sat v

/-! ## Fixed sum orders (R104, R105) -/

/-- A combining operation of GRED and SCAN on words: result and flags. -/
def laneOp (a : Arith) (op : Aop) (t : Ty) (x y : Nat) : Nat × Nat :=
  if t == .f32 then
    match op with
    | .min => ((fminmax { a with flags := 0 } t false x y).1, (fminmax { a with flags := 0 } t false x y).2.flags)
    | .max => ((fminmax { a with flags := 0 } t true x y).1, (fminmax { a with flags := 0 } t true x y).2.flags)
    | _ => let (r, b) := fop { a with sr := false, flags := 0 } .add t false false x y 0; (r, b.flags)
  else
    let ix := tyInt t x
    let iy := tyInt t y
    (match op with
    | .add => wrapTo 32 (ix + iy)
    | .min => if ix ≤ iy then x else y
    | .max => if ix ≤ iy then y else x
    | .and => x &&& y
    | .or => x ||| y
    | _ => x ^^^ y, 0)

/-- A node of the tree: absent, or a value with the flags of its own and lower nodes. -/
abbrev Node := Option (Nat × Nat)

/-- Combine two nodes, left then right (R104). -/
def combine (a : Arith) (op : Aop) (t : Ty) (l r : Node) : Node :=
  match l, r with
  | some (x, f), some (y, g) => let (z, h) := laneOp a op t x y; some (z, f ||| g ||| h)
  | some x, none => some x
  | none, r => r

/-- One level of the tree: pairs of neighbours. -/
def treeLevel (a : Arith) (op : Aop) (t : Ty) : List Node → List Node
  | l :: r :: rest => combine a op t l r :: treeLevel a op t rest
  | l => l

/-- The levels 0 (the leaves) to 5 of the tree over 32 ranks. -/
def treeLevels (a : Arith) (op : Aop) (t : Ty) : Nat → List Node → List (List Node)
  | 0, l => [l]
  | n + 1, l => l :: treeLevels a op t n (treeLevel a op t l)

/-- TreeReduce (R104). -/
def treeReduce (a : Arith) (op : Aop) (t : Ty) (vals : List Node) : Node :=
  ((treeLevels a op t 5 vals).getD 5 []).headD none

/-- Combination of the blocks of ranks start to start + n - 1, largest block first (R105). -/
def scanFrom (a : Arith) (op : Aop) (t : Ty) (lv : List (List Node)) : Nat → Nat → Nat → Node → Node
  | 0, _, _, acc => acc
  | fuel + 1, start, n, acc =>
    if n == 0 then acc else
    let k := n.log2
    scanFrom a op t lv fuel (start + 2 ^ k) (n - 2 ^ k) (combine a op t acc ((lv.getD k []).getD (start / 2 ^ k) none))

/-- TreeScan for rank k (R105); `none` asks for the identity. -/
def treeScan (a : Arith) (op : Aop) (t : Ty) (vals : List Node) (k : Nat) (excl : Bool) : Node :=
  scanFrom a op t (treeLevels a op t 5 vals) 6 0 (if excl then k else k + 1) none

/-- The identity of R105. -/
def laneIdentity (op : Aop) (t : Ty) : Nat :=
  match op, t with
  | .and, _ => 0xFFFFFFFF
  | .min, .s32 => 0x7FFFFFFF
  | .min, .n32 => 0xFFFFFFFF
  | .min, _ => 0x7F800000
  | .max, .s32 => 0x80000000
  | .max, .n32 => 0
  | .max, _ => 0xFF800000
  | _, _ => 0

/-! ## Matrix sums (R106, R107) -/

/-- A value truncated toward zero to a multiple of 2^q, as that multiple. -/
def truncAt (x : FVal) (q : Int) : Int := match x with
  | .fin neg m e =>
    let (p, d) := pow2 (e - q)
    let v : Int := (m * p / d : Nat)
    if neg then -v else v
  | _ => 0

/-- MmaSum (R106): the f32 encoding. -/
def mmaSum (c : FVal) (terms : List (FVal × Bool)) : Nat :=
  let all := c :: terms.map (·.1)
  if all.any FVal.isNan || terms.any (·.2) || (all.contains (.inf false) && all.contains (.inf true)) then 0x7FC00000
  else if all.contains (.inf false) then 0x7F800000
  else if all.contains (.inf true) then 0xFF800000
  else
    let nz := all.filter fun x => !x.isZero
    match nz.map fun x => match x with
      | .fin _ m e => (m.log2 : Int) + e
      | _ => 0 with
    | [] => if all.all FVal.neg then 0x80000000 else 0
    | e0 :: es =>
      let q := es.foldl max e0 - 48
      let s := nz.foldl (fun acc x => acc + truncAt x q) 0
      (roundTo .f32 (.rm .rn) false false (.fin (s < 0) s.natAbs q)).1

/-- IntMmaWrite (R107). -/
def intMmaWrite (x : Int) (sat : Bool) : Nat := if sat then (saturateInt .s32 x).1 else wrapTo 32 x

/-! ## Nonzero analysis (R108) -/

/-- NonzeroElement. A cb4 element counts as subnormal when the slot entry that it indexes is one (log 62: R108's `.ftz` names every
subnormal element, and R25 lets arithmetic never flush cb4). -/
def nonzeroElem (t : Ty) (s : SlotD) (ftz : Bool) (code : Nat) : Bool :=
  let c := code % 2 ^ t.bits
  match t with
  | .i4 | .i8 => c != 0
  | .cb4 => let v := s.cb.getD c 0; !(v % 0x8000 == 0) && !(ftz && (ffmt .bf16).subnormal v)
  | .e2m1 => c != 0 && !(ftz && c % 8 == 1)
  | _ => let f := ffmt t; c % f.signBit != 0 && !(ftz && f.subnormal c)

/-! ## Special functions (R109, R110) -/

/-- Integer square root by binary digits: the root of n with at most `k` bits. -/
def isqrtAux (n : Nat) : Nat → Nat → Nat
  | 0, r => r
  | k + 1, r => let c := r + 2 ^ k; isqrtAux n k (if c * c ≤ n then c else r)
/-- Floor of the square root. -/
def isqrt (n : Nat) : Nat := isqrtAux n (n.log2 / 2 + 1) 0

/-- Square root of m * 2^e as a value with a sticky last bit: exact to more bits than any format holds. -/
def sqrtVal (m : Nat) (e : Int) : FVal :=
  let (m, e) := if e % 2 == 0 then (m, e) else (2 * m, e - 1)
  let n := m * 2 ^ 256
  let r := isqrt n
  .fin false (2 * r + if r * r == n then 0 else 1) (e / 2 - 128 - 1)

/-- Fraction bits of the reference evaluation. -/
def spP : Nat := 512
/-- pi * 2^512. -/
def spPi : Nat :=
  0x3243f6a8885a308d313198a2e03707344a4093822299f31d0082efa98ec4e6c89452821e638d01377be5466cf34e90c6cc0ac29b7c97c50dd3f84d5b5b5470917
/-- ln 2 * 2^512. -/
def spLn2 : Nat :=
  0xb17217f7d1cf79abc9e3b39803f2f6af40f343267298b62d8a0d175b8baafa2be7b876206debac98559552fb4afa1b10ed2eae35c138214427573b291169b825

/-- Sum of x^k/k! from term `t` on, k counting up. -/
def expSeries (x : Int) : Nat → Nat → Int → Int → Int
  | 0, _, _, acc => acc
  | n + 1, k, t, acc => let t' := t * x / 2 ^ spP / (k + 1 : Int); expSeries x n (k + 1) t' (acc + t')

/-- e^x for |x| ≤ 1, scaled by 2^512. -/
def expFix (x : Int) : Int := expSeries x 110 0 (2 ^ spP) (2 ^ spP)

/-- 2^x for a scaled x: mantissa scaled by 2^512 in [1, 2) and exponent. -/
def exp2Fix (x : Int) : Nat × Int :=
  let i := x / 2 ^ spP
  let f := x % 2 ^ spP
  ((expFix (f * spLn2 / 2 ^ spP)).toNat, i)

/-- Odd series for ln((1+z)/(1-z))/2 and the like: sum of s^k z^(2k+1)/(2k+1). -/
def oddSeries (z2 sgn : Int) : Nat → Nat → Int → Int → Int
  | 0, _, _, acc => acc
  | n + 1, k, t, acc =>
    let t' := sgn * (t * z2 / 2 ^ spP)
    oddSeries z2 sgn n (k + 1) t' (acc + t' / (2 * k + 3 : Int))

/-- log2 of m * 2^e (m positive), scaled by 2^512. -/
def log2Fix (m : Nat) (e : Int) : Int :=
  let k := m.log2
  let x : Int := m * 2 ^ spP / 2 ^ k
  let z := (x - 2 ^ spP) * 2 ^ spP / (x + 2 ^ spP)
  let ln := 2 * oddSeries (z * z / 2 ^ spP) 1 170 0 z z
  ln * 2 ^ spP / spLn2 + ((k : Int) + e) * 2 ^ spP

/-- Sum of (-1)^k x^(2k+a)/(2k+a)! from the term t with exponent k. -/
def trigSeries (x2 : Int) : Nat → Nat → Int → Int → Int
  | 0, _, _, acc => acc
  | n + 1, k, t, acc =>
    let t' := -(t * x2 / 2 ^ spP / (((k + 1) * (k + 2) : Nat) : Int))
    trigSeries x2 n (k + 2) t' (acc + t')

/-- sin and cos of (-1)^neg * m * 2^e, scaled by 2^512, after exact range reduction by quarter turns. -/
def sinCosFix (neg : Bool) (m : Nat) (e : Int) : Int × Int :=
  let (p, q) := pow2 (e + spP)
  let x : Int := (m * p / q : Nat)
  let half : Int := spPi / 2
  let k := x / half
  -- the error of pi grows with k; k stays below 2^130 and 2^512 keeps more than 300 good bits
  let r := x - k * spPi / 2
  let r2 := r * r / 2 ^ spP
  let s := trigSeries r2 60 1 r r
  let c := trigSeries r2 60 0 (2 ^ spP) (2 ^ spP)
  let (s, c) := match (k % 4).toNat with
    | 0 => (s, c)
    | 1 => (c, -s)
    | 2 => (-s, -c)
    | _ => (-c, s)
  (if neg then -s else s, c)

/-- tanh of m * 2^e, scaled by 2^512. -/
def tanhFix (m : Nat) (e : Int) : Int :=
  if (FVal.fin false 64 0).lt (.fin false m e) then 2 ^ spP - 2 ^ (spP - 180) else
  let (p, q) := pow2 (e + spP + 1)
  let x : Int := (m * p / q : Nat)
  let (mt, i) := exp2Fix (x * 2 ^ spP / spLn2)
  let y : Int := mt * 2 ^ i.toNat
  (y - 2 ^ spP) * 2 ^ spP / (y + 2 ^ spP)

/-- The value y = (-1)^neg * n/d * 2^e of a special function, rounded within R109: the free word `w` where it lies within
`bound` ulp(y), or within 2^-22 and of magnitude at most 1 when `absTol`, else y rounded to nearest. Flags: INX, and UFL
with the flush of R101 when y is tiny. -/
def boundedResult (t : Ty) (fz : Bool) (w : Nat) (bound : Nat) (absTol neg : Bool) (n d : Nat) (e : Int) : Nat × Nat :=
  let f := ffmt t
  if n == 0 then (0, fINX) else
  let lg := log2Ratio n d + e
  let tiny := lg < f.emin
  let (rn, fl) := roundRat f (.rm .rn) false fz neg n d e
  if (tiny && fz) || (fl &&& fOVF) != 0 then (rn, fl) else
  let q := max lg f.emin - f.mant
  let ok := match f.decode w with
    | .fin wn m k =>
      -- |w - y| * d ≤ tol * d, all scaled by 2^-lo
      let lo := min (min k e) (min q (-60))
      let y : Int := (if neg then -1 else 1) * (n : Int) * 2 ^ (e - lo).toNat
      let v : Int := (if wn then -1 else 1) * (m : Int) * 2 ^ (k - lo).toNat * d
      let ulp : Int := (bound : Int) * 2 ^ (q - lo).toNat * d
      let tol : Int := if absTol then 2 ^ ((-22 : Int) - lo).toNat * (d : Int) else ulp
      decide (((v - y).natAbs : Int) ≤ tol) && (!absTol || !(FVal.fin false 1 0).lt (.fin false m k))
    | _ => false
  (if ok then w % 2 ^ f.width else rn, fINX ||| (if tiny then fUFL else 0))

/-- A scaled value (512 fraction bits) as the arguments of `boundedResult`. -/
def boundedFix (fn : Nat) (fz : Bool) (input : Word) (bound : Nat) (absTol : Bool) (y : Int) (e : Int) : Nat × Nat :=
  boundedResult .f32 fz (Config.special fn input fz).toNat bound absTol (y < 0) y.natAbs 1 (e - spP)

/-- Function numbers of the free values of special functions. -/
inductive SpFn where
  | rcp | rsq | ex2 | lg2 | sin | cos | tanh
deriving DecidableEq, Repr

/-- Number of a function. -/
def SpFn.no : SpFn → Nat
  | .rcp => 0 | .rsq => 1 | .ex2 => 2 | .lg2 => 3 | .sin => 4 | .cos => 5 | .tanh => 6

/-- RCP and RSQ of f32 and f64 (R109, R110). -/
def rcpRsq (fn : SpFn) (t : Ty) (fz : Bool) (bits : Nat) : Nat × Nat :=
  let f := ffmt t
  let b := flushIn fz t bits
  let w := (Config.specialPick (fn.no * 2 + if t == .f64 then 1 else 0) (dword b) fz)
  match f.decode b with
  | .nan s => (f.nanBits, if s then fINV else 0)
  | .inf neg =>
    if fn == .rcp then (f.signed neg 0, 0) else if neg then (f.nanBits, fINV) else (0, 0)
  | .fin neg m e =>
    if m == 0 then (f.signed neg f.infBits, fDVZ)
    else if fn == .rcp then boundedResult t fz w 1 false neg 1 m (-e)
    else if neg then (f.nanBits, fINV)
    else match sqrtVal m e with
      | .fin _ r k => boundedResult t fz w 1 false false 1 r (-k)
      | _ => (0, 0)

/-- SQRT (R109, R110), rounded under `rm`. -/
def sqrtOp (a : Arith) (t : Ty) (bits : Nat) : Nat × Arith :=
  let f := ffmt t
  match a.input t bits with
  | .nan s => (f.nanBits, a.raise (if s then fINV else 0))
  | .inf neg => if neg then (f.nanBits, a.raise fINV) else (f.infBits, a)
  | .fin neg m e =>
    if m == 0 then (f.signed neg 0, a)
    else if neg then (f.nanBits, a.raise fINV)
    else a.round t false (sqrtVal m e)

/-- An integer value of m * 2^e, if it is one. -/
def intOf? (neg : Bool) (m : Nat) (e : Int) : Option Int :=
  let (p, q) := pow2 e
  if m * p % q == 0 then some ((if neg then -1 else 1) * (m * p / q : Nat)) else none

/-- The f32 special functions without RCP, RSQ and SQRT (R109, R110). -/
def special32 (fn : SpFn) (fz : Bool) (bits : Nat) : Nat × Nat :=
  let b := flushIn fz .f32 bits
  match (ffmt .f32).decode b with
  | .nan s => (0x7FC00000, if s then fINV else 0)
  | .inf neg => match fn with
    | .ex2 => (if neg then 0 else 0x7F800000, 0)
    | .lg2 => if neg then (0x7FC00000, fINV) else (0x7F800000, 0)
    | .tanh => (if neg then 0xBF800000 else 0x3F800000, 0)
    | _ => (0x7FC00000, fINV)
  | .fin neg m e =>
    match fn with
    | .ex2 =>
      if m == 0 then (0x3F800000, 0) else
      match intOf? neg m e with
      | some k =>
        if -149 ≤ k && k ≤ 127 then roundTo .f32 (.rm .rn) false fz (.fin false 1 k)
        else if 127 < k then overflowTo (ffmt .f32) (.rm .rn) false false
        else let c := max k (-400); boundedFix fn.no fz (word b) 1 false (2 ^ spP) c
      | none =>
        if !neg && (FVal.fin false 128 0).lt (.fin false m e) then overflowTo (ffmt .f32) (.rm .rn) false false else
        let (p, q) := pow2 (e + spP)
        let x : Int := if neg && (FVal.fin false 400 0).lt (.fin false m e) then -400 * 2 ^ spP
          else (if neg then -1 else 1) * (m * p / q : Nat)
        let (y, i) := exp2Fix x
        boundedFix fn.no fz (word b) 1 false y i
    | .lg2 =>
      if m == 0 then (0xFF800000, fDVZ) else if neg then (0x7FC00000, fINV)
      else if b == 0x3F800000 then (0, 0) else boundedFix fn.no fz (word b) 1 false (log2Fix m e) 0
    | .sin =>
      if m == 0 then ((ffmt .f32).signed neg 0, 0)
      else boundedFix fn.no fz (word b) 2 ((FVal.fin false 1048576 0).lt (.fin false m e)) (sinCosFix neg m e).1 0
    | .cos =>
      if m == 0 then (0x3F800000, 0)
      else boundedFix fn.no fz (word b) 2 ((FVal.fin false 1048576 0).lt (.fin false m e)) (sinCosFix neg m e).2 0
    | _ =>
      if m == 0 then ((ffmt .f32).signed neg 0, 0)
      else let y := tanhFix m e; boundedFix fn.no fz (word b) 2 false (if neg then -y else y) 0

end Sys2Proof.Machine
end

