-- ==== Sys2Proof/Machine/Mem.lean ====
section
/-!
DEFINITION. Memory: sparse storage in its canonical form, home slices (R237, R238, R250), remote modules (R424) and
the five-level walk (R239 to R241).
-/

namespace Sys2Proof.Machine

namespace Sparse

/-- What a key holds; 0 when it is not listed (log 1). -/
def read {w : Nat} : Sparse w → Nat → BitVec w
  | [], _ => 0
  | (k, v) :: r, a => if a = k then v else if a < k then 0 else read r a

/-- Stores a value at a key and keeps the canonical form: a zero removes the entry. -/
def write {w : Nat} : Sparse w → Nat → BitVec w → Sparse w
  | [], a, x => if x = 0 then [] else [(a, x)]
  | (k, v) :: r, a, x =>
    if a < k then (if x = 0 then (k, v) :: r else (a, x) :: (k, v) :: r)
    else if a = k then (if x = 0 then r else (a, x) :: r)
    else (k, v) :: write r a x

/-- Every key of the list is above `lo`, keys rise and no entry is zero. -/
def wfFrom {w : Nat} : Nat → Sparse w → Bool
  | _, [] => true
  | lo, (k, v) :: r => lo ≤ k && v != 0 && wfFrom (k + 1) r

/-- The canonical form: keys strictly rise and no entry is zero. -/
def wf {w : Nat} (m : Sparse w) : Bool := wfFrom 0 m

/-- `n` entries from key a upward. -/
def readN {w : Nat} (m : Sparse w) (a : Nat) : Nat → List (BitVec w)
  | 0 => []
  | n + 1 => read m a :: readN m (a + 1) n

/-- Stores a list from key a upward. -/
def writeN {w : Nat} (m : Sparse w) (a : Nat) : List (BitVec w) → Sparse w
  | [] => m
  | x :: r => writeN (write m a x) (a + 1) r

end Sparse

/-- The canonical form of a byte memory. -/
def Memory.wf (m : Mem) : Bool := Sparse.wf (w := 8) m

/-- The module number that a physical address selects (R237). -/
def paModule (pa : Nat) : Nat := pa / 2 ^ 46 % 64
/-- R237: the HBM and CXL ranges of PA[45:0]. -/
def paMapped (pa : Nat) : Bool :=
  let k := pa % 2 ^ 46
  pa < 2 ^ 52 && (k < 0x18000000000 || (0x100000000000 ≤ k && k < 0x200000000000))
/-- Whether an address lies on this module (R237). -/
def State.localPa (s : State) (pa : Nat) : Bool := paModule pa == s.moduleNo
/-- The Canopy links in service that the routing table names for a module (R423, R424). -/
def State.links (s : State) (m : Nat) : Nat :=
  s.partFaults.foldl (fun l f => match f with
    | .canopy n => if bitAt l n then l - 2 ^ n else l
    | _ => l) ((s.routes[m]?).getD 0)
/-- Whether a module can be reached (R423, R425): at least one link in service leads to it. -/
def State.reaches (s : State) (m : Nat) : Bool := m == s.moduleNo || s.links m != 0
/-- HBM stack, 0 to 23, of a local physical address (R237). -/
def stackOf (pa : Nat) : Nat := pa % 2 ^ 46 / 0x3000000000 * 3 + pa / 4096 % 3

/-- The byte at its home slice. A remote module's memory answers with a free byte (R424, log 3, log 12). -/
def State.homeByte (s : State) (pa : Nat) : Byte :=
  if s.localPa pa then Sparse.read s.mem (pa % 2 ^ 46) else Config.freeByte (s.freeCount * 2 ^ 52 + pa)
/-- `n` bytes at their home slice. -/
def State.homeRead (s : State) (pa : Nat) : Nat → List Byte
  | 0 => []
  | n + 1 => s.homeByte pa :: s.homeRead (pa + 1) n
/-- A write that goes to another module: it is performed there a free number of cycles later (R424, log 12). -/
def State.sendFar (s : State) (m : Nat) (r : RemoteReq) : State :=
  { s.send (.remote m r) with
    far := s.far.filter (fun c => s.cycle < c) ++ [s.cycle + (Config.freeWord (s.freeCount * 2 ^ 20 + 2 ^ 14)).toNat] }
/-- Whether a write of this module is not yet performed at another one (R424). -/
def State.farBusy (s : State) : Bool := s.far.any fun c => s.cycle < c
/-- Bytes performed at their home slice, or sent to the module that holds it (R424). -/
def State.homeWrite (s : State) (pa : Nat) (bs : List Byte) : State :=
  if s.localPa pa then { s with mem := Sparse.writeN s.mem (pa % 2 ^ 46) bs }
  else s.sendFar (paModule pa) (.write pa bs)
/-- A little-endian value at its home slice. -/
def State.homeNat (s : State) (pa n : Nat) : Nat := leNat (s.homeRead pa n)

/-- Lines of 64 bytes that a range touches. -/
def linesOf (a n : Nat) : List Nat := if n == 0 then [] else (upto ((a + n - 1) / 64 - a / 64 + 1)).map fun i => (a / 64 + i) * 64
/-- Whether a line lies on an HBM stack that has failed and has not been mirrored again (R441, log 20). -/
def State.lineLost (s : State) (l : Nat) : Bool :=
  s.partFaults.any (fun f => f == .hbm (stackOf l)) && s.localPa l && !s.mended.any fun r => r.1 ≤ l && l < r.1 + r.2
/-- The first byte of a physical range whose data cannot be read or reached (R243 order 8, R425). -/
def State.dataError (s : State) (pa n : Nat) : Option Nat :=
  ((linesOf pa n).find? fun l => s.poison.contains l || s.lineLost l || !s.reaches (paModule l)).map fun l => max l pa

/-- The identifier of the sealed region that holds a frame (R245). -/
def State.sealOf (s : State) (pa : Nat) : Option Nat :=
  (s.seals.find? fun r => r.frames.contains (pa / 65536)).map SealRec.id

/-- A translated page: physical address of the byte, its leaf entry and the base-two logarithm of the page size. -/
structure Leaf where
  pa : Nat
  bits : Nat
  shift : Nat
  at_ : Nat
deriving DecidableEq, Repr, Inhabited

namespace Leaf
/-- Field FRAME of R240 as a physical address. -/
def frame (e : Nat) : Nat := bitsAt e 32 36 * 65536
/-- Format slot FS (R240). -/
def fs (l : Leaf) : Nat := bitsAt l.bits 16 6
/-- AO (R240). -/
def ao (l : Leaf) : Bool := bitAt l.bits 8
/-- CMP (R240). -/
def cmp (l : Leaf) : Bool := bitAt l.bits 6
/-- U (R240). -/
def user (l : Leaf) : Bool := bitAt l.bits 5
/-- X (R240). -/
def x (l : Leaf) : Bool := bitAt l.bits 4
/-- W (R240). -/
def w (l : Leaf) : Bool := bitAt l.bits 3
/-- R (R240). -/
def r (l : Leaf) : Bool := bitAt l.bits 2
end Leaf

/-- R240, R241: the zero fields, HH, SEALID, alignment and range of a leaf entry of page size 2^shift. -/
def leafOk (e shift : Nat) : Bool :=
  bitsAt e 68 28 == 0 && bitsAt e 22 10 == 0 && bitsAt e 11 5 == 0 && bitsAt e 9 2 < 2
    && (bitAt e 7 || bitsAt e 96 32 == 0) && Leaf.frame e % 2 ^ shift == 0 && paMapped (Leaf.frame e)

/-- R240: the zero fields of a table entry and the alignment of the next node, of level `next`. -/
def tableOk (e next : Nat) : Bool :=
  bitsAt e 52 76 == 0 && bitsAt e 2 7 == 0 && (next == 0 || bitsAt e 9 4 == 0) && paMapped (bitsAt e 9 43 * 512)

/-- The levels of R239: level, lowest index bit, index bits. -/
def walkLevels : List (Nat × Nat × Nat) := [(4, 48, 9), (3, 39, 9), (2, 30, 9), (1, 21, 9), (0, 16, 5)]

/-- R241: the walk from a node, one entry for each level; `kept` gives the table entry that the walker's cache holds at a level
(R244). Beside the leaf stand the table entries that the walk used, with their levels' lowest index bits. -/
def State.walkVia (s : State) (kept : Nat → Option Nat) (va : Nat) :
    List (Nat × Nat × Nat) → Nat → Except Cause (Leaf × List (Nat × Nat))
  | [], _ => .error .notPresent
  | (lvl, sh, w) :: rest, node =>
    let pa := node + 16 * bitsAt va sh w
    match kept sh, s.dataError pa 16 with
    | none, some _ => .error .memError
    | k, _ =>
      let e := k.getD (s.homeNat pa 16)
      if !bitAt e 0 then .error .notPresent
      else if bitAt e 1 then
        if lvl ≤ 2 && leafOk e sh then .ok (⟨Leaf.frame e + va % 2 ^ sh, e, sh, pa⟩, []) else .error .notPresent
      else if lvl == 0 || !tableOk e (lvl - 1) then .error .notPresent
      else (s.walkVia kept va rest (bitsAt e 9 43 * 512)).map fun r => (r.1, (sh, e) :: r.2)

/-- The walk of R241 by the entries as they stand at home. -/
def State.walkFrom (s : State) (va : Nat) (levels : List (Nat × Nat × Nat)) (node : Nat) : Except Cause Leaf :=
  (s.walkVia (fun _ => none) va levels node).map (·.1)

/-- The 16-byte entries of a node of n entries in this module's memory that are not all zero. -/
def State.entriesOf (s : State) (node n : Nat) : List Nat :=
  if !s.localPa node then []
  else
    let a := node % 2 ^ 46
    ((s.mem.filter fun c => a ≤ c.1 && c.1 < a + 16 * n).map fun c => node + (c.1 - a) / 16 * 16).eraseDups

/-- The leaves below a node: where each stands, with its entry and its page size. -/
def State.leavesBelow (s : State) : List (Nat × Nat × Nat) → Nat → List (Nat × Nat × Nat)
  | [], _ => []
  | (lvl, sh, w) :: rest, node => (s.entriesOf node (2 ^ w)).flatMap fun pa =>
    let e := s.homeNat pa 16
    if !bitAt e 0 then []
    else if bitAt e 1 then (if lvl ≤ 2 && leafOk e sh then [(pa, e, sh)] else [])
    else if lvl == 0 || !tableOk e (lvl - 1) then []
    else s.leavesBelow rest (bitsAt e 9 43 * 512)

/-- The leaves of every context whose pages take in one of some frames (R246, R247). -/
def State.leavesOf (s : State) (frames : List Nat) : List (Nat × Nat × Nat) :=
  s.contexts.flatMap fun c => (s.leavesBelow walkLevels c.root.toNat).filter fun l =>
    let f := Leaf.frame l.2.1 / 65536
    frames.any fun x => f ≤ x && x < f + 2 ^ (l.2.2 - 16)

/-- R246: a walk that meets a leaf whose frame is in the seal table sets SEAL and SEALID in it. -/
def State.sealLeaf (s : State) (l : Leaf) : State × Leaf :=
  let f := Leaf.frame l.bits / 65536
  match s.seals.find? fun r => r.frames.any fun x => f ≤ x && x < f + 2 ^ (l.shift - 16) with
  | some r =>
    let e := bitsAt l.bits 0 7 + 128 + bitsAt l.bits 8 88 * 256 + r.id % 2 ^ 32 * 2 ^ 96
    (if e == l.bits then s else s.homeWrite l.at_ (leBytes 16 e), { l with bits := e })
  | none => (s, l)

/-- R244: the entries of a core's TLB, a glade's, and a die's walker pool. -/
def tlbSize (tlb : Nat) : Nat := if tlb < 2048 then 256 else if tlb < 4096 then 4096 else 1024

/-- The glade TLB in which an agent's misses are looked up (R244). -/
def gladeTlb (tlb : Nat) : Nat := if tlb < 2048 then 2048 + gladeOf tlb else tlb
/-- The walker pool of an agent's die; the device's own units outside the glades use that of die 0 (log 7). -/
def walkTlb (tlb : Nat) : Nat := 4096 + (let g := gladeTlb tlb - 2048; if g < Config.nGlades then g / 12 else 0)

/-- The cached entry of a TLB for an address. -/
def State.tlbEnt? (s : State) (tlb ctx va : Nat) : Option TlbEnt :=
  s.tlb.find? fun e => e.core == tlb && e.ctx == ctx && va % 2 ^ 57 / 2 ^ e.size == e.page

/-- Keeps an entry; a full TLB drops its oldest one (R244, log 7). -/
def State.tlbPut (s : State) (e : TlbEnt) : State :=
  if s.tlb.contains e then s
  else
    let full := tlbSize e.core ≤ (s.tlb.filter fun x => x.core == e.core).length
    { s with tlb := (if full then s.tlb.eraseP fun x => x.core == e.core else s.tlb) ++ [e] }

/-- A cached leaf as the translation of an address. -/
def TlbEnt.at_ (e : TlbEnt) (va : Nat) : Leaf := ⟨Leaf.frame e.leaf.toNat + va % 2 ^ e.size, e.leaf.toNat, e.size, 0⟩

/-- The table entry of a level that a walker pool holds for an address (R244). -/
def State.walkEnt? (s : State) (pool ctx va sh : Nat) : Option Nat :=
  (s.tlb.find? fun e => e.core == pool && e.ctx == ctx && e.size == sh && va % 2 ^ 57 / 2 ^ sh == e.page).map fun e => e.leaf.toNat

/-- R241, R244: translation for an agent (`tlb`: a core, or 2048 + glade for an engine): its TLB, its glade's, then a walk that
uses the table entries its die's walker pool holds. Only what a successful translation used is kept. -/
def State.translate (s : State) (tlb ctx va : Nat) : State × Except Cause Leaf :=
  match s.tlbEnt? tlb ctx va with
  | some e => (s, .ok (e.at_ va))
  | none => match s.tlbEnt? (gladeTlb tlb) ctx va with
    | some e => (s.tlbPut { e with core := tlb }, .ok (e.at_ va))
    | none =>
      match s.walkVia (s.walkEnt? (walkTlb tlb) ctx va) va walkLevels (s.ctx ctx).root.toNat with
      | .error c => (s, .error c)
      | .ok (l, used) =>
        let (s, l) := s.sealLeaf l
        let page : TlbEnt := ⟨gladeTlb tlb, ctx, va % 2 ^ 57 / 2 ^ l.shift, l.shift, BitVec.ofNat 128 l.bits⟩
        let s := used.foldl (fun s u => s.tlbPut ⟨walkTlb tlb, ctx, va % 2 ^ 57 / 2 ^ u.1, u.1, BitVec.ofNat 128 u.2⟩) s
        ((s.tlbPut page).tlbPut { page with core := tlb }, .ok l)

/-- How an access uses memory (R243). -/
inductive Acc where
  | read | write | atomic | fetch | append
deriving DecidableEq, Repr, Inhabited

/-- Whether an access writes. -/
def Acc.writes : Acc → Bool
  | .write | .atomic | .append => true
  | .read | .fetch => false

/-- R243 orders 4 to 7 on a translated access. -/
def State.permit (s : State) (priv : Bool) (acc : Acc) (l : Leaf) : Option Cause :=
  if acc.writes && (s.sealOf l.pa).isSome then some .sealedWrite
  else if !l.user && !priv then some .permission
  else if (match acc with
      | .read => !l.r
      | .write => !l.w
      | .atomic => !(l.r && l.w)
      | .fetch => !l.x
      | .append => !l.w) then some .permission
  else if acc.writes && acc != .append && l.ao then some .appendOnly
  else none

/-- R243 orders 1 to 7 for one naturally aligned access of `size` bytes at the 64-bit address `va`. The error gives the first
failing byte. That the module which holds the frame can be reached is asked here of a plain write; of a read, an atomic and a
reduction it is asked with the data (R142, R291, R425). -/
def State.checkVa (s : State) (tlb ctx : Nat) (priv : Bool) (acc : Acc) (va size : Nat) :
    State × Except (Cause × Nat) Leaf :=
  if !canonicalVa va then (s, .error (.notPresent, va))
  else if va % max size 1 != 0 then (s, .error (.alignment, va))
  else match s.translate tlb ctx va with
    | (s, .error c) => (s, .error (c, va))
    | (s, .ok l) => match s.permit priv acc l with
      | some c => (s, .error (c, va))
      | none => if (acc == .write || acc == .append) && !s.reaches (paModule l.pa) then (s, .error (.memError, va)) else (s, .ok l)

/-- The pieces of a virtual range that lie in one 64 KiB page each. -/
def pagePieces : Nat → Nat → Nat → List (Nat × Nat)
  | 0, _, _ => []
  | fuel + 1, va, n =>
    if n == 0 then [] else
      let k := min n (65536 - va % 65536)
      (va, k) :: pagePieces fuel ((va + k) % 2 ^ 64) (n - k)

/-- The page pieces of [va, va + n). -/
def piecesOf (va n : Nat) : List (Nat × Nat) := pagePieces (n / 65536 + 2) va n

/-- Reads one page piece at home for an engine (R243, R249). -/
def State.engPiece (s : State) (tlb ctx : Nat) (priv : Bool) (acc : Acc) (va n : Nat) : State × Except (Cause × Nat) (List Byte) :=
  match s.checkVa tlb ctx priv acc va 1 with
  | (s, .error f) => (s, .error f)
  | (s, .ok l) => match s.dataError l.pa n with
    | some e => (s, .error (.memError, va + (e - l.pa)))
    | none => (s, .ok (s.homeRead l.pa n))

/-- TLB number of the engines of a core's glade (log 7). -/
def engTlb (core : Nat) : Nat := 2048 + gladeOf core

/-- Reads page pieces in turn; the first failing piece ends the read. -/
def State.engPieces (s : State) (tlb ctx : Nat) (priv : Bool) (acc : Acc) : List (Nat × Nat) → State × Except (Cause × Nat) (List Byte)
  | [] => (s, .ok [])
  | (va, n) :: r => match s.engPiece tlb ctx priv acc va n with
    | (s, .error f) => (s, .error f)
    | (s, .ok b) => match s.engPieces tlb ctx priv acc r with
      | (s, .error f) => (s, .error f)
      | (s, .ok c) => (s, .ok (b ++ c))

/-- An engine's read of a virtual range at its points of coherence (R249, R250). -/
def State.engRead (s : State) (tlb ctx : Nat) (priv : Bool) (va n : Nat) : State × Except (Cause × Nat) (List Byte) :=
  s.engPieces tlb ctx priv .read (piecesOf va n)

/-- The die that homes a local address (R237, R238). -/
def homeDie (pa : Nat) : Nat := if pa % 2 ^ 46 < 0x1000_0000_0000 then pa % 2 ^ 46 / 0x3000000000 else 7

/-- Whether a die of this module homes what a context maps at an address (R238). -/
def State.homedOn (s : State) (die ctx va : Nat) : Bool := match s.walkFrom va walkLevels (s.ctx ctx).root.toNat with
  | .ok l => s.localPa l.pa && homeDie l.pa == die
  | .error _ => false

/-- Where each page piece of a range lies, if every check of R243 passes for a write. -/
def State.placePieces (s : State) (tlb ctx : Nat) (priv : Bool) (acc : Acc) :
    List (Nat × Nat) → State × Except (Cause × Nat) (List (Nat × Nat))
  | [] => (s, .ok [])
  | (va, n) :: r => match s.checkVa tlb ctx priv acc va 1 with
    | (s, .error f) => (s, .error f)
    | (s, .ok l) => match s.placePieces tlb ctx priv acc r with
      | (s, .error f) => (s, .error f)
      | (s, .ok c) => (s, .ok ((l.pa, n) :: c))

/-- A write by a physical address of a part that is no context's agent: none is made into a sealed frame (R246). -/
def State.homePut (s : State) (pa : Nat) (bs : List Byte) : State :=
  let f := pa / 65536
  if (List.range ((pa + bs.length - 1) / 65536 + 1 - f)).any fun i => (s.sealOf ((f + i) * 65536)).isSome then s else s.homeWrite pa bs

/-- Bytes laid over placed pieces, performed at home. -/
def State.putPieces (s : State) : List (Nat × Nat) → List Byte → State
  | [], _ => s
  | (pa, n) :: r, bs => (s.homeWrite pa (bs.take n)).putPieces r (bs.drop n)

/-- An engine's write of a virtual range as a whole: nothing is written when any byte fails. -/
def State.engWrite (s : State) (tlb ctx : Nat) (priv : Bool) (acc : Acc) (va : Nat) (bs : List Byte) :
    State × Except (Cause × Nat) Unit :=
  match s.placePieces tlb ctx priv acc (piecesOf va bs.length) with
  | (s, .error f) => (s, .error f)
  | (s, .ok ps) => (s.putPieces ps bs, .ok ())

end Sys2Proof.Machine
end

