-- ==== Sys2Proof/Machine/Barrier.lean ====
section
/-!
DEFINITION. Barrier objects in scratchpad (R295 to R297, R302, R307), the guard on their bytes, and the read sets of
speculative phases (R275, R276).
-/

namespace Sys2Proof.Machine

/-- `n` bytes of a team's window. -/
def State.spadRead (s : State) (team q n : Nat) : List Byte := Sparse.readN (w := 8) (s.team team).spad q n
/-- A little-endian field of a team's window. -/
def State.spadNat (s : State) (team q n : Nat) : Nat := leNat (s.spadRead team q n)
/-- Bytes performed at a window's banks, with no further check. -/
def State.spadPut (s : State) (team q : Nat) (bs : List Byte) : State :=
  s.modTeam team fun t => { t with spad := Sparse.writeN (w := 8) t.spad q bs }

/-- Field offsets of R296, in 4-byte words. -/
def oPHASE : Nat := 0
def oEXPA : Nat := 4
def oARRV : Nat := 8
def oFLAGS : Nat := 12
def oEXPB : Nat := 16
def oLAND : Nat := 20
def oXC : Nat := 24
def oWCNT : Nat := 28
def oPEND : Nat := 32
def oSGRP : Nat := 36
def oEADDR : Nat := 40

/-- A 4-byte field of the object at window offset `o` (R296). -/
def State.obj (s : State) (team o f : Nat) : Nat := s.spadNat team (o + f) 4
/-- The device's own write of a 4-byte field, modulo 2^32. -/
def State.objSet (s : State) (team o f v : Nat) : State := s.spadPut team (o + f) (leBytes 4 (v % 2 ^ 32))
/-- FLAGS.VALID. -/
def State.objValid (s : State) (team o : Nat) : Bool := bitAt (s.obj team o oFLAGS) 3
/-- FLAGS.ERR. -/
def State.objErr (s : State) (team o : Nat) : Bool := bitAt (s.obj team o oFLAGS) 2
/-- FLAGS.SPEC. -/
def State.objSpec (s : State) (team o : Nat) : Bool := bitAt (s.obj team o oFLAGS) 1
/-- FLAGS.CEX. -/
def State.objCex (s : State) (team o : Nat) : Bool := bitAt (s.obj team o oFLAGS) 0
/-- FLAGS.COLOURS: the colours that each phase names. -/
def State.objColours (s : State) (team o : Nat) : Byte := byte (s.obj team o oFLAGS / 65536)
/-- FLAGS.SCOPE. -/
def State.objScope (s : State) (team o : Nat) : Scope := if bitsAt (s.obj team o oFLAGS) 4 3 == 2 then .clu else .team
/-- Bytes of a CEX object's map: T/4 rounded up to a multiple of 64 (R296). -/
def mapBytes (tsize : Nat) : Nat := (tsize / 4 + 63) / 64 * 64
/-- Bytes of an object with its map, if it has one. -/
def State.objLen (s : State) (team o : Nat) : Nat := if s.objCex team o then 64 + mapBytes (s.team team).tsize else 64
/-- Map bit `k` of a CEX object. -/
def State.mapBit (s : State) (team o k : Nat) : Bool := bitAt (s.spadNat team (o + 64 + k / 8) 1) (k % 8)
/-- Sets a map bit of a CEX object. -/
def State.setMap (s : State) (team o k : Nat) (v : Bool) : State :=
  let a := o + 64 + k / 8
  let x := s.spadNat team a 1
  let x := if bitAt x (k % 8) then x - 2 ^ (k % 8) else x
  s.spadPut team a (leBytes 1 (if v then x + 2 ^ (k % 8) else x))

/-- `Complete(obj)` of R302: re-arms the object at once and notes that a phase has completed; the phase becomes
observable at PHASE_COMPLETE. -/
def State.objComplete (s : State) (team o : Nat) : State :=
  let s := s.objSet team o oEXPA (s.obj team o oEXPA + 2 ^ 32 - s.obj team o oXC)
  let s := ((s.objSet team o oXC 0).objSet team o oARRV 0).objSet team o oLAND 0
  let s := if s.objCex team o then (upto (s.team team).tsize).foldl (fun s t => s.setMap team o (2 * t) false) s else s
  { s with phases := s.phases ++ [⟨team, o⟩], agenda := s.agenda ++ [.phaseComplete team o] }

/-- `SetError(obj, code, addr)` of R307. -/
def State.objError (s : State) (team o code addr : Nat) : State :=
  if s.objErr team o then s
  else
    let f := s.obj team o oFLAGS
    let s := s.objSet team o oFLAGS (f % 2 ^ 24 + 4 + code * 2 ^ 24)
    (s.spadPut team (o + oEADDR) (leBytes 8 addr)).objComplete team o

/-- `Count(obj, n, c)` of R302. -/
def State.objCount (s : State) (team o n c : Nat) : State :=
  if s.obj team o oARRV + n > s.obj team o oEXPA then s.objError team o 4 0
  else if s.obj team o oLAND + c > s.obj team o oEXPB then s.objError team o 2 0
  else
    let s := (s.objSet team o oARRV (s.obj team o oARRV + n)).objSet team o oLAND (s.obj team o oLAND + c)
    if s.obj team o oARRV == s.obj team o oEXPA && s.obj team o oLAND == s.obj team o oEXPB then s.objComplete team o
    else s

/-- The phase in which an arrival counted now falls: PHASE and the completions not yet observable (R302). -/
def State.objPhase (s : State) (team o : Nat) : Nat :=
  (s.obj team o oPHASE + (s.phases.filter fun p => p.team == team && p.off == o).length) % 2 ^ 32

/-- Read-set tag of a global line, by virtual line (R275). -/
def tagG (va : Nat) : Nat := va / 64 * 2
/-- Read-set tag of a scratchpad line, by window and offset (R275). -/
def tagT (team q : Nat) : Nat := (team * 2 ^ 26 + q / 64) * 2 + 1

/-- R275: whether a line that was inserted in the filter makes a tested line present. -/
def filterHit (ins test : Nat) : Bool := ins == test || Config.filterAlias ins test

/-- The groups that a write to a tagged line implicates in one object's read set (R275). -/
def SpecObj.implicated (o : SpecObj) (tag : Nat) : List Nat :=
  ((o.exact.filter fun e => e.1 == tag).flatMap (·.2))
    ++ (if o.filter.any fun e => filterHit e.1 tag then o.filter.flatMap (·.2) else [])

/-- A group is to be rolled back from its speculation on an object (R276). -/
def State.doom (s : State) (team off g : Nat) : State := s.modTeam team fun t =>
  { t with specObjs := t.specObjs.map fun o =>
      if o.off == off && !o.doomed.contains g then { o with doomed := o.doomed ++ [g] } else o }

/-- R276: a checked write to a tagged line by a non-speculating thread of team `team`; `colour` for a global write.
Each group that the read set implicates is rolled back, and does not commit from here on. -/
def State.checkedWrite (s : State) (team tag : Nat) (colour : Option (Fin 8)) : State :=
  (s.team team).specObjs.foldl (fun s o =>
    let named := match colour with
      | none => true
      | some c => (s.objColours team o.off).getLsbD c.val
    if named then (o.implicated tag).foldl (fun s g => (s.doom team o.off g).once (.rollback g)) s else s) s

/-- R275: adds a line that a group reads to the read set of the object on which it speculates. -/
def SpecObj.addRead (o : SpecObj) (tag g : Nat) : SpecObj :=
  match assoc o.exact tag with
  | some gs => if gs.contains g then o else { o with exact := assocSet o.exact tag (gs ++ [g]) }
  | none =>
    if o.exact.length < 512 then { o with exact := o.exact ++ [(tag, [g])] }
    else { o with filter := o.filter ++ [(tag, [g])] }

/-- R274: every line a speculating thread reads enters the object's read set under its group. -/
def State.noteRead (s : State) (th : Thread) (tags : List Nat) : State :=
  match th.spec with
  | none => s
  | some r => s.modTeam r.team fun t =>
    { t with specObjs := t.specObjs.map fun o => if o.off == r.off then tags.foldl (fun o k => o.addRead k th.group) o else o }

/-- R297: the lowest guarded byte of an object that a write of [q, q + n) overwrites. -/
def State.guarded (s : State) (team o q n : Nat) : Option Nat :=
  if s.objValid team o && o < q + n && q < o + s.objLen team o then some (max o q) else none

/-- A write to a window by a thread or an engine: it is performed at the banks, sets the error of every valid object
that it overwrites (R297) and, when a thread of team `by_` makes it outside speculation, is checked against read
sets (R276). -/
def State.spadWrite (s : State) (by_ : Option Nat) (team q : Nat) (bs : List Byte) : State :=
  let hit := (s.team team).objs.filterMap fun o => (s.guarded team o q bs.length).map fun e => (o, e)
  let s := s.spadPut team q bs
  let s := hit.foldl (fun s h => s.objError team h.1 3 h.2) s
  match by_ with
  | some w => (linesOf q bs.length).foldl (fun s l => s.checkedWrite w (tagT team l) none) s
  | none => s

/-- R311: whether a CORE access to [q, q + n) of a window touches a word of a recorded range. -/
def State.rangeBusy (s : State) (team q n : Nat) : Bool :=
  s.ranges.any fun r => r.team == team && q / 4 * 4 < r.hi && r.lo < (q + n + 3) / 4 * 4

end Sys2Proof.Machine
end

