-- ==== Sys2Proof/Machine/Access.lean ====
section
/-!
DEFINITION. The CORE path: L1 data caches with publish and acquire (R235, R249 to R265, R281), scratchpad windows
(R231), and the accesses of speculating threads (R274).
-/

namespace Sys2Proof.Machine

/-- An access that does not complete: a fault with its first failing byte, or a stall with what it waits for. -/
inductive Stop where
  | fault (c : Cause) (a : Nat)
  | stall (w : Stall)
deriving DecidableEq, Repr, Inhabited

/-- An empty line. -/
def L1Line.fresh (core pa : Nat) : L1Line :=
  { pref := false, passed := false, core := core, pa := pa, data := List.replicate 64 0#8, valid := 0, dirty := 0, colours := List.replicate 8 0,
    own := List.replicate 8 (0, none) }

/-- The line at a line address in a core's L1. -/
def State.l1Line? (s : State) (core line : Nat) : Option L1Line := s.l1.find? fun l => l.core == core && l.pa == line
/-- Stores a line; a line with no valid byte leaves the cache, unless a PREF has brought it. -/
def State.setL1 (s : State) (l : L1Line) : State :=
  let rest := s.l1.filter fun x => !(x.core == l.core && x.pa == l.pa)
  { s with l1 := if l.valid == 0 && !l.pref then rest else rest ++ [l] }

/-- Runs of dirty bytes of a line in the parts that `p` selects. -/
def L1Line.runs (l : L1Line) (p : Nat → Bool) : List (Nat × List Byte) :=
  (upto 64).foldr (fun i acc =>
    if l.dirty.getLsbD i && p (i / 8) then
      let b := l.data.getD i 0
      match acc with
      | (o, bs) :: r => if o == i + 1 then (i, b :: bs) :: r else (i, [b]) :: acc
      | [] => [(i, [b])]
    else acc) []

/-- The bytes of the parts that `p` selects. -/
def partMask (p : Nat → Bool) : BitVec 64 := (upto 8).foldl (fun m k => if p k then m ||| (0xFF#64 <<< (8 * k)) else m) 0#64

/-- Number of a core's instruction cache among the caches (R235). -/
def iKey (core : Nat) : Nat := 2048 + core
/-- Number of the part of a cluster's fused set that its list entry `k` holds (R236). -/
def fusedKey (cluster k : Nat) : Nat := 4096 + 16 * cluster + k

/-- Drops the bytes of a line that are not dirty from the caches that `p` selects. -/
def State.dropClean (s : State) (p : Nat → Bool) (line : Nat) : State :=
  { s with l1 := (s.l1.map fun l => if l.pa == line && p l.core then { l with valid := l.dirty } else l).filter fun l =>
      l.valid != 0 || l.pref }

/-- Copies of a line that a core's threads may read and that do not hold what the core has written: those of fused sets and of
its instruction cache. They go when the core's write is performed (R29, R51, R253). -/
def State.freshen (s : State) (core line : Nat) : State := s.dropClean (fun k => fusedKey 0 0 ≤ k || k == iKey core) line

/-- A write of each of these teams may now be read by any thread of the core: what those teams have dirtied there before is for its
publishes to carry (R253, R260). -/
def State.passOn (s : State) (core : Nat) (teams : List Nat) : State :=
  if teams.isEmpty then s
  else { s with l1 := s.l1.map fun l =>
    if l.core == core && l.dirty != 0 && l.own.any fun o => teams.contains o.1 then { l with passed := true } else l }

/-- The teams whose dirty bytes stand in the parts of a line that `p` selects. -/
def L1Line.writers (l : L1Line) (p : Nat → Bool) : List Nat :=
  ((upto 8).filter fun k => p k && (l.dirty.extractLsb' (8 * k) 8) != 0#8).map fun k => (l.own.getD k (0, none)).1

/-- Writes the dirty bytes of selected parts back to their home slice (R235, R257); each such write is performed at its
point of coherence now, and checked under R276. -/
def State.writeBack (s : State) (l : L1Line) (p : Nat → Bool) : State × L1Line :=
  let runs := l.runs p
  let s := if runs.isEmpty then s else (s.freshen l.core l.pa).passOn l.core (l.writers p)
  let s := runs.foldl (fun s r => s.homeWrite (l.pa + r.1) r.2) s
  let s := (upto 8).foldl (fun s k =>
    if p k && (l.dirty.extractLsb' (8 * k) 8) != 0#8 then
      match l.own.getD k (0, none) with
      | (t, some a) => s.checkedWrite t (tagG a) (some (l.colours.getD k 0))
      | (_, none) => s
    else s) s
  let dirty := l.dirty &&& ~~~(partMask p)
  (s, { l with dirty := dirty, passed := (l.passed || !runs.isEmpty) && dirty != 0 })

/-- The bits of bytes o to o + n - 1. -/
def byteMask (o n : Nat) : BitVec 64 := ((1#64 <<< n) - 1#64) <<< o

/-- Replaces bytes o to o + bs.length - 1 of a list. -/
def patch (l : List Byte) (o : Nat) (bs : List Byte) : List Byte := l.take o ++ bs ++ l.drop (o + bs.length)

/-- Every dirty byte of a core whose part carries a colour of the mask is performed at home (R257). A store to code is published in
the colour that it names, as one to data is (R51, log 64). -/
def State.publishCore (s : State) (core : Nat) (colours : Byte) : State :=
  (s.l1.filter fun l => l.core == core && l.dirty != 0).foldl (fun s l =>
    let (s, l') := s.writeBack ((s.l1Line? core l.pa).getD l) fun k => colours.getLsbD (l.colours.getD k 0).val
    s.setL1 l') s

/-- The publishes of a core that are not complete are performed: before a write of a core reaches its home by another way, what
its publishes carry has reached it (R257). -/
def State.settlePubs (s : State) (core : Nat) : State :=
  (s.publishes.filter fun p => p.core == core && p.scope != .thr).foldl (fun s p => s.publishCore core p.colours) s

/-- The core whose L1 holds a line: its own, or the list entry of a fused set (R236). -/
def State.l1Place (s : State) (core : Nat) : Nat :=
  if core < fusedKey 0 0 then core else (s.cluster ((core - 4096) / 16)).cores.getD ((core - 4096) % 16) 0

/-- Lines that an L1 holds: 256 KiB on a Bramble core, 512 KiB on a Larch core (R235). -/
def l1Lines : CoreKind → Nat
  | .bramble => 4096
  | .larch => 8192

/-- The lines that fill the L1 in which a line of `core` is held; an instruction cache has no given size (R235). -/
def State.l1Held (s : State) (core : Nat) : List L1Line :=
  if iKey 0 ≤ core && core < fusedKey 0 0 then []
  else s.l1.filter fun l => (l.core < iKey 0 || fusedKey 0 0 ≤ l.core) && s.l1Place l.core == s.l1Place core

/-- Whether a new line of `core` needs another line's place (R235). -/
def State.l1Full (s : State) (core : Nat) : Bool := l1Lines (kindOf (s.l1Place core)) ≤ (s.l1Held core).length

/-- Writes a line back and drops it. -/
def State.dropLine (s : State) (l : L1Line) : State :=
  let (s, l) := (s.settlePubs l.core).writeBack l fun _ => true
  s.setL1 { l with valid := 0, pref := false }

/-- Makes room for a new line: a full L1 writes back and drops the line that has stood unchanged for longest (R235, log 7). -/
def State.makeRoom (s : State) (core line : Nat) : State :=
  if (s.l1Line? core line).isSome || !s.l1Full core then s
  else match s.l1Held core with
    | l :: _ => s.dropLine l
    | [] => s

/-- Cores that host threads of a cluster. -/
def State.clusterHosts (s : State) (c : Nat) : List Nat :=
  ((s.threads.filter fun u => u.status == .live && (s.team u.team).cluster == c).map fun u => (s.group u.group).core).eraseDups

/-- Which copies of a line may not stay behind a new one filled at `core`, so that no reader goes back in coherence order (R251):
behind a fused copy those of the cores that read through the set and of other sets, behind a core's own one the fused ones. -/
def State.behind (s : State) (core k : Nat) : Bool :=
  if core < iKey 0 then fusedKey 0 0 ≤ k
  else fusedKey 0 0 ≤ core && k != core && (fusedKey 0 0 ≤ k || (s.clusterHosts ((core - 4096) / 16)).contains k)

/-- A read of bytes within one line through an L1: bytes that are not valid are filled from home (R235, R251). -/
def State.l1ReadLine (s : State) (core pa n : Nat) : State × Except Nat (List Byte) :=
  let line := pa / 64 * 64
  let o := pa % 64
  let l := (s.l1Line? core line).getD (L1Line.fresh core line)
  let m := if n == 64 then ~~~0#64 else byteMask o n
  if l.valid &&& m == m then (s, .ok (slice l.data o n))
  else match s.dataError pa n with
    | some e => (s, .error e)
    | none =>
      let s := s.makeRoom core line
      let home := s.homeRead line 64
      let d := (upto 64).map fun i => if l.valid.getLsbD i then l.data.getD i 0 else home.getD i 0
      ((s.dropClean (s.behind core) line).setL1 { l with data := d, valid := ~~~0#64, pref := false }, .ok (slice d o n))

/-- A store of bytes within one line into an L1. A part whose dirty bytes carry another colour, or that another team
or another virtual line dirtied, is written back first (R235). -/
def State.l1WriteLine (s : State) (core pa : Nat) (colour : Fin 8) (own : Nat × Option Nat) (bs : List Byte) : State :=
  let line := pa / 64 * 64
  let o := pa % 64
  let s := s.makeRoom core line
  let touched := fun k => decide (8 * k < o + bs.length) && decide (o < 8 * k + 8)
  let old := (s.l1Line? core line).getD (L1Line.fresh core line)
  let clash := fun k => touched k && (old.colours.getD k 0 != colour || old.own.getD k (0, none) != own)
  let s := if (old.runs clash).isEmpty then s else s.settlePubs core
  let l := (s.l1Line? core line).getD (L1Line.fresh core line)
  let (s, l) := s.writeBack l clash
  let m := if bs.length == 64 then ~~~0#64 else byteMask o bs.length
  s.setL1 { l with
    pref := false
    data := patch l.data o bs
    valid := l.valid ||| m
    dirty := l.dirty ||| m
    colours := (upto 8).map fun k => if touched k then colour else l.colours.getD k 0
    own := (upto 8).map fun k => if touched k then own else l.own.getD k (0, none) }

/-- The pieces of a range in one line each. -/
def linePieces (pa n : Nat) : List (Nat × Nat) :=
  (linesOf pa n).map fun l => (max l pa, min (l + 64) (pa + n) - max l pa)

/-- The bytes that a core's L1 holds dirty, laid over bytes read elsewhere (R236). -/
def State.dirtyOver (s : State) (core pa : Nat) (bs : List Byte) : List Byte :=
  match s.l1Line? core (pa / 64 * 64) with
  | none => bs
  | some l => bs.mapIdx fun i b => if l.dirty.getLsbD (pa % 64 + i) then l.data.getD (pa % 64 + i) 0 else b

/-- Reads pieces of lines, each through the L1 that `via` names; bytes that the host core has dirtied take precedence. -/
def State.l1ReadPieces (s : State) (host : Nat) (via : Nat → Nat) : List (Nat × Nat) → State × Except Nat (List Byte)
  | [] => (s, .ok [])
  | (pa, n) :: r => match s.l1ReadLine (via pa) pa n with
    | (s, .error e) => (s, .error e)
    | (s, .ok b) => match s.l1ReadPieces host via r with
      | (s, .error e) => (s, .error e)
      | (s, .ok c) => (s, .ok (s.dirtyOver host pa b ++ c))

/-- The cache in which a thread's loads find a line: its host core's L1, or in a fused cluster the part of the set that the list
entry of R236 holds. A set holds clean bytes alone, so that no store is visible through it before it is performed. -/
def State.readVia (s : State) (th : Thread) (pa : Nat) : Nat :=
  let c := s.cluster (s.team th.team).cluster
  if c.fuse && !c.cores.isEmpty then fusedKey c.id (pa / 64 % 64 % c.cores.length) else s.hostOf th

/-- The other teams whose dirty bytes in a thread's host core a read of a range returns (R253). -/
def State.readFrom (s : State) (th : Thread) (pa n : Nat) : List Nat :=
  (linePieces pa n).flatMap fun p => match s.l1Line? (s.hostOf th) (p.1 / 64 * 64) with
    | none => []
    | some l => (l.writers fun k => decide (8 * k < p.1 % 64 + p.2) && decide (p.1 % 64 < 8 * k + 8)).filter fun t => t != th.team

/-- A thread's read through an L1 (R235, R236); the error is the first physical byte that cannot be read. -/
def State.l1Read (s : State) (th : Thread) (pa n : Nat) : State × Except Nat (List Byte) :=
  (s.passOn (s.hostOf th) (s.readFrom th pa n)).l1ReadPieces (s.hostOf th) (s.readVia th) (linePieces pa n)

/-- A thread's instruction fetch, through its host core's instruction cache (R51, R235). -/
def State.codeRead (s : State) (th : Thread) (pa n : Nat) : State × Except Nat (List Byte) :=
  s.l1ReadPieces (s.hostOf th) (fun _ => iKey (s.hostOf th)) (linePieces pa n)

/-- A store through an L1, line by line; `checked` unless a commit performs it (R276, R278). -/
def State.l1Write (s : State) (core pa va : Nat) (colour : Fin 8) (team : Nat) (checked : Bool) (bs : List Byte) : State :=
  (linePieces pa bs.length).foldl (fun s p =>
    s.l1WriteLine core p.1 colour (team, if checked then some ((va + (p.1 - pa)) / 64 * 64) else none) (slice bs (p.1 - pa) p.2)) s

/-- A PREF brings a line into a cache (R236, R288). It takes its place there; its bytes are read from home by the access that first
uses them, so that no PREF changes what a read returns. -/
def State.l1Bring (s : State) (core line : Nat) : State :=
  if (s.l1Line? core line).isSome then s
  else (s.makeRoom core line).setL1 { L1Line.fresh core line with pref := true }

/-- The lines of fused sets whose cluster has ended leave with it (R236). -/
def State.unfuse (s : State) : State :=
  { s with l1 := s.l1.filter fun l => l.core < fusedKey 0 0 || s.clusters.any fun c => c.id == (l.core - 4096) / 16 }

/-- An acquire of a core: bytes that are not dirty are dropped, there, in its instruction cache and in the fused sets, so that
later reads see their home slice (R51, R236, R258); writes of format slots are seen there from then on (R209). -/
def State.acquireCore (s : State) (core : Nat) : State :=
  { s with l1 := (s.l1.map fun l =>
      if l.core == core || l.core == iKey core || fusedKey 0 0 ≤ l.core then { l with valid := l.dirty } else l).filter fun l =>
        l.valid != 0 || l.pref
           oldSlots := s.oldSlots.filter fun x => x.path.isSome || x.core != core }

/-- R265: the dirty bytes of a physical range in a core's L1 are written back, and the range leaves the core's view. -/
def State.settle (s : State) (core pa n : Nat) : State :=
  (linePieces pa n).foldl (fun s p =>
    let s := (s.settlePubs core).freshen core (p.1 / 64 * 64)
    match s.l1Line? core (p.1 / 64 * 64) with
    | none => s
    | some l =>
      let o := p.1 % 64
      let (s, l) := s.writeBack l fun k => decide (8 * k < o + p.2) && decide (o < 8 * k + 8)
      s.setL1 { l with valid := l.valid &&& (~~~(byteMask o p.2) ||| l.dirty) }) s

/-- R280: fence-strengthening mode of a context. -/
def State.strong (s : State) (ctx : Nat) : Bool := s.launches.any fun l => l.ctx == ctx && l.edition1 && !l.done

/-- R281: after a CORE load in fence-strengthening mode. -/
def State.afterLoad (s : State) (th : Thread) : State :=
  if s.strong (s.team th.team).ctx then s.acquireCore (s.hostOf th) else s
/-- R281: after a CORE store in fence-strengthening mode. -/
def State.afterStore (s : State) (th : Thread) : State :=
  if s.strong (s.team th.team).ctx then s.publishCore (s.hostOf th) 0xFF#8 else s

/-- R243 orders 1 to 7 for a thread's CORE access; the thread's privilege is `priv`. -/
def State.checkCore (s : State) (th : Thread) (priv : Bool) (acc : Acc) (va size : Nat) : State × Except Stop Leaf :=
  match s.checkVa (s.hostOf th) (s.team th.team).ctx priv acc va size with
  | (s, .error (c, a)) => (s, .error (.fault c a))
  | (s, .ok l) => (s, .ok l)

/-- The bytes of a speculating thread's buffered stores laid over read bytes (R274). -/
def overlay (st : List SpecStore) (sp : Space) (team a : Nat) (bs : List Byte) : List Byte :=
  st.foldl (fun bs x =>
    if x.space == sp && x.team == team then
      bs.mapIdx fun i b => if x.addr ≤ a + i && a + i < x.addr + x.data.length then x.data.getD (a + i - x.addr) 0 else b
    else bs) bs

/-- Code bytes at `va` as a thread sees them: its own buffered stores too (R51, R274). -/
def Thread.seesCode (th : Thread) (va : Nat) (bs : List Byte) : List Byte := match th.spec with
  | some r => overlay r.stores .g 0 va bs
  | none => bs

/-- Reads the bytes of a translated global range for a thread on the CORE path. -/
def State.readLeaf (s : State) (th : Thread) (va n : Nat) (l : Leaf) : State × Except Stop (List Byte) :=
  match th.spec with
  | none => match s.l1Read th l.pa n with
    | (s, .error e) => (s, .error (.fault .memError (va + (e - l.pa))))
    | (s, .ok b) => (s.afterLoad th, .ok b)
  | some r =>
    let s := s.settle (s.hostOf th) l.pa n
    match s.dataError l.pa n with
    | some e => (s, .error (.fault .memError (va + (e - l.pa))))
    | none =>
      let b := overlay r.stores .g 0 va (s.homeRead l.pa n)
      (s.noteRead th ((linesOf va n).map tagG), .ok b)

/-- A CORE load of `n` bytes at the global address `va`, aligned to `n` (R29, R141, R243). -/
def State.loadG (s : State) (th : Thread) (priv : Bool) (va n : Nat) : State × Except Stop (List Byte) :=
  match s.checkCore th priv .read va n with
  | (s, .error e) => (s, .error e)
  | (s, .ok l) => s.readLeaf th va n l

/-- Room left in a team's speculative buffer for another store (R274). -/
def State.specRoom (s : State) (team n : Nat) : Bool :=
  let used := (s.threads.filter fun u => u.team == team).foldl
    (fun a u => match u.spec with
      | some r => a + (r.stores.map fun x => 16 + (x.data.length + 15) / 16 * 16).sum
      | none => a) 0
  used + 16 + (n + 15) / 16 * 16 ≤ (s.team team).specS * 1024

/-- Enters a store in a speculating thread's buffer; a store that does not fit stalls (R274, R279). -/
def State.specStore (s : State) (th : Thread) (r : SpecRec) (x : SpecStore) : State × Except Stop Unit :=
  if s.specRoom th.team x.data.length then
    (s.modTh th.id fun u => { u with spec := some { r with stores := r.stores ++ [x] } }, .ok ())
  else (s, .error (.stall .spec))

/-- A CORE store of bytes at the global address `va`, aligned to their number (R29, R141, R243, R255). -/
def State.storeG (s : State) (th : Thread) (priv : Bool) (va : Nat) (colour : Fin 8) (bs : List Byte) :
    State × Except Stop Unit :=
  match s.checkCore th priv .write va bs.length with
  | (s, .error e) => (s, .error e)
  | (s, .ok l) => match th.spec with
    | some r => s.specStore th r ⟨.g, va, 0, bs, colour⟩
    | none => ((s.l1Write (s.hostOf th) l.pa va colour th.team true bs).afterStore th, .ok ())

/-- Team i of a cluster. -/
def State.teamAt (s : State) (cluster i : Nat) : Option Team := s.teams.find? fun t => t.cluster == cluster && t.hteam == i

/-- The window check of R231 on offset `o` for `size` bytes: the window's team and the offset in it. -/
def State.window (s : State) (th : Thread) (sp : Space) (o : Int) (size : Nat) : Except Stop (Nat × Nat) :=
  let a := (o % 2 ^ 64).toNat
  if o < 0 || 2 ^ 32 ≤ o then .error (.fault .notPresent a)
  else
    let n := o.toNat
    if sp == .c && n / 2 ^ 24 != 0 then .error (.fault .notPresent a)
    else
      let q := if sp == .c then n % 2 ^ 20 else n
      match (if sp == .c then s.teamAt (s.team th.team).cluster (n / 2 ^ 20) else some (s.team th.team)) with
      | none => .error (.fault .notPresent a)
      | some t =>
        if q + size > t.spadK * 1024 then .error (.fault .notPresent a)
        else if q + size > (t.spadK - t.specS) * 1024 then .error (.fault .permission a)
        else .ok (t.id, q)

/-- R28, R231 and R283: alignment, then the window. -/
def State.windowAligned (s : State) (th : Thread) (sp : Space) (o : Int) (size : Nat) : Except Stop (Nat × Nat) :=
  if o % (max size 1 : Nat) != 0 then .error (.fault .alignment (o % 2 ^ 64).toNat) else s.window th sp o size

/-- A CORE load from a scratchpad window (R254, R283, R311). -/
def State.loadW (s : State) (th : Thread) (sp : Space) (o : Int) (n : Nat) : State × Except Stop (List Byte) :=
  match s.windowAligned th sp o n with
  | .error e => (s, .error e)
  | .ok (t, q) =>
    if s.rangeBusy t q n then (s, .error (.stall (.range t q n)))
    else match th.spec with
      | none => (s, .ok (s.spadRead t q n))
      | some r => (s.noteRead th ((linesOf q n).map (tagT t)), .ok (overlay r.stores .t t q (s.spadRead t q n)))

/-- A CORE store to a scratchpad window (R254, R283, R297, R311). -/
def State.storeW (s : State) (th : Thread) (sp : Space) (o : Int) (bs : List Byte) : State × Except Stop Unit :=
  match s.windowAligned th sp o bs.length with
  | .error e => (s, .error e)
  | .ok (t, q) =>
    if s.rangeBusy t q bs.length then (s, .error (.stall (.range t q bs.length)))
    else match th.spec with
      | some r => s.specStore th r ⟨.t, q, t, bs, 0⟩
      | none => (s.spadWrite (some th.team) t q bs, .ok ())

/-- A publish performed at once by a core's thread, after those of the core that are not complete: every write of the named colours
reaches its home; scope `.thr` carries none (R256, R257). -/
def State.publish (s : State) (core : Nat) (scope : Scope) (colours : Byte) : State :=
  if scope == .thr then s else (s.settlePubs core).publishCore core colours
/-- An acquire by a core's thread; scope `.thr` orders nothing (R256, R258). -/
def State.acquire (s : State) (core : Nat) (scope : Scope) : State := if scope == .thr then s else s.acquireCore core
/-- Whether every thread that a scope contains is hosted on a thread's own core, those that have ended too (R256). A cluster of
which a team has ended, and the scopes wider than it, may have had threads elsewhere. -/
def State.scopeHere (s : State) (th : Thread) (scope : Scope) : Bool :=
  let core := s.hostOf th
  let here := fun (t : Nat) => s.threads.all fun u => u.team != t || s.groups.any fun g => g.id == u.group && g.core == core
  match scope with
  | .thr => true
  | .team => here th.team
  | .clu =>
    let c := s.cluster (s.team th.team).cluster
    let ts := s.teams.filter fun t => t.cluster == c.id
    ts.length == c.cores.length && ts.all fun t => t.home == core && here t.id
  | _ => false
/-- An acquire that pairs with publishes of its scope's threads alone (R256, R259): one whose scope lies on the thread's own core
finds their writes in that core's L1, and drops nothing. -/
def State.acquireBy (s : State) (th : Thread) (scope : Scope) : State :=
  if s.scopeHere th scope then s else s.acquire (s.hostOf th) scope
/-- R252: a rebinding performs every earlier write of the core and acquires at the new host. -/
def State.rebind (s : State) (old new : Nat) : State := (s.publishCore old 0xFF#8).acquireCore new

end Sys2Proof.Machine
end

