-- ==== Sys2Proof/Machine/Operands.lean ====
section
/-!
DEFINITION. Operands: registers, pairs, team constants, inline constants (R61), fast special registers (R62), the run
of registers each instruction names (R115), and reads and writes of every operand form (R19, R20, R114).
-/

namespace Sys2Proof.Machine

/-- A register vN of the current view; entries above v127 belong to a portable frame and stand in `ovf` while an
instruction uses them (R68, R69). -/
def Thread.get (th : Thread) (n : Nat) : Word := if n < 128 then th.regs.getD n 0 else (assoc th.ovf n).getD 0
/-- Writes a register of the current view. -/
def Thread.put (th : Thread) (n : Nat) (v : Word) : Thread :=
  if n < 128 then { th with regs := th.regs.setIfInBounds n v } else { th with ovf := assocSet th.ovf n v }
/-- The pair vN, vN+1 (R19). -/
def Thread.get64 (th : Thread) (n : Nat) : DWord := pairOf (th.get n) (th.get (n + 1))
/-- A run of registers. -/
def Thread.getRun (th : Thread) (n : Nat) : Nat → List Word
  | 0 => []
  | k + 1 => th.get n :: th.getRun (n + 1) k
/-- Writes a run of registers. -/
def Thread.putRun (th : Thread) (n : Nat) : List Word → Thread
  | [] => th
  | w :: r => (th.put n w).putRun (n + 1) r
/-- p0 to p6, and the constant p7 (R18). -/
def Thread.pred (th : Thread) (p : Fin 8) : Bool := p == 7 || th.preds.getLsbD p.val
/-- A predicate selector (R131), and a guard (R45 GuardPasses). -/
def Thread.psel (th : Thread) (p : Psel) : Bool := th.pred p.p != p.neg
/-- Writes a predicate; selector 7 discards (R131). -/
def Thread.setPred (th : Thread) (p : Fin 8) (v : Bool) : Thread :=
  if p == 7 then th
  else { th with preds := if v then th.preds ||| (1#7 <<< p.val) else th.preds &&& ~~~(1#7 <<< p.val) }

/-- The integer that an inline constant names in a type of `w` bits (R61). -/
def constInt (c : Fin 16) (w : Nat) : Nat :=
  if c == 14 then 2 ^ (w - 1) else if c == 15 then 2 ^ (w - 1) - 1
  else wrapTo w (([0, 1, -1, 2, 3, 4, 7, 8, 15, 16, 31, 32, 63, 255] : List Int).getD c.val 0)

/-- The exact value n/d * 2^e with its sign of a floating-point inline constant below 0xCE (R61). -/
def constRat (c : Fin 16) : Bool × Nat × Nat × Int :=
  ([(false, 0, 1, 0), (false, 1, 1, 0), (true, 1, 1, 0), (false, 2, 1, 0), (false, 1, 1, -1), (true, 2, 1, 0),
    (false, 4, 1, 0), (false, 1, 1, -2), (false, spPi, 1, -513), (false, spPi, 1, -512), (false, spPi, 1, -511),
    (false, spLn2, 1, -512), (false, 2 ^ 512, spLn2, 0), (false, 2 ^ 511, spPi, 0)] : List (Bool × Nat × Nat × Int)).getD
    c.val (false, 0, 1, 0)

/-- A floating-point inline constant rounded into a format (R61). -/
def constFloat (t : Ty) (c : Fin 16) : Nat :=
  let f := ffmt t
  if c == 14 then (match t with | .e4m3 => 0x7F | .e2m1 => 7 | _ => f.infBits)
  else if c == 15 then (match t with | .e4m3 => 0x7F | .e2m1 => 8 | _ => f.nanBits)
  else if c == 0 then 0
  else
    let (neg, n, d, e) := constRat c
    (roundRat f (.rm .rn) false false neg n d e).1

/-- An inline constant delivered in a type (R61). -/
def constBits (t : Ty) (c : Fin 16) : Nat := match t with
  | .f64 | .f32 | .f16 | .bf16 | .e4m3 | .e5m2 | .e2m1 => constFloat t c
  | .cb4 => constInt c 4
  | .i4 => constInt c 4
  | .i8 => constInt c 8
  | .none => constInt c 32
  | _ => constInt c t.bits

/-- `n` copies of a `w`-bit element. -/
def replicateBits (w x : Nat) : Nat → Nat
  | 0 => 0
  | n + 1 => x + 2 ^ w * replicateBits w x n

/-- An inline constant of an operand read as packed elements (R61). -/
def constPacked (t : Ty) (c : Fin 16) : Nat :=
  if t.bits == 0 || 32 ≤ t.bits then constBits t c else replicateBits t.bits (constBits t c) (32 / t.bits)

/-- `%cycle64` of a thread's host core: the cycle of the slot that issues (R125). Each slot takes one cycle of its pass,
each portable instruction two (R159, R70). -/
def State.nowCycle (s : State) : Nat := match s.issues with
  | i :: _ => s.cycle + (4 - i.left)
  | [] => s.cycle

/-- Position fields of R144. -/
def laneOf (core grp rank : Nat) : Nat := match kindOf core with
  | .bramble => grp % 2 * 32 + rank
  | .larch => rank
/-- `%slot` (R144). -/
def slotNo (core grp : Nat) : Nat := match kindOf core with
  | .bramble => grp / 2
  | .larch => grp

/-- A fast special register (R62). -/
def State.fastSr (s : State) (th : Thread) (c : Nat) : Word :=
  let g := s.group th.group
  let t := s.team th.team
  let cl := s.cluster t.cluster
  match c with
  | 0 => word th.rank
  | 1 => loWord th.tid
  | 2 => hiWord th.tid
  | 3 => word (laneOf g.core g.grp th.rank)
  | 4 => word (slotNo g.core g.grp)
  | 5 => word g.grp
  | 6 => word g.core
  | 7 => word t.hteam
  | 8 => word cl.hclu
  | 9 => word cl.lx
  | 10 => word cl.ly
  | 11 => word cl.lz
  | 12 => word (kindNum (kindOf g.core))
  | 13 => word (th.depth % 2 ^ 24)
  | _ => word s.nowCycle

/-- A team constant (R20). -/
def State.const (s : State) (th : Thread) (n : Nat) : Word := (s.team th.team).consts.getD n 0

/-- A 32-bit operand whose inline constant is `k` (R20, R60). -/
def State.rd32k (s : State) (th : Thread) (k : Fin 16 → Nat) : Opd → Word
  | .v n => th.get n
  | .s n => s.const th n
  | .k c => word (k c)
  | .r c => s.fastSr th c

/-- A 64-bit operand whose inline constant is `k` (R19). -/
def State.rd64k (s : State) (th : Thread) (k : Fin 16 → Nat) : Opd → DWord
  | .v n => th.get64 n
  | .s n => pairOf (s.const th n) (s.const th (n + 1))
  | .k c => dword (k c)
  | .r c => (s.fastSr th c).zeroExtend 64

/-- A 32-bit integer or bits operand. -/
def State.rd32 (s : State) (th : Thread) (o : Opd) : Word := s.rd32k th (constInt · 32) o
/-- A 64-bit integer operand. -/
def State.rd64 (s : State) (th : Thread) (o : Opd) : DWord := s.rd64k th (constInt · 64) o
/-- An operand of type `t` as a natural number of that type's width (R114). -/
def State.rd (s : State) (th : Thread) (t : Ty) (o : Opd) : Nat :=
  if t.bits == 64 then (s.rd64k th (constBits t) o).toNat
  else
    let x := (s.rd32k th (constBits t) o).toNat
    if t.bits < 32 then x % 2 ^ t.bits else x
/-- A register read as packed elements of type `t` (R61, R86). -/
def State.rdP (s : State) (th : Thread) (t : Ty) (o : Opd) : Nat := (s.rd32k th (constPacked t) o).toNat

/-- R114: the 32-bit destination value of a result of type `t`. -/
def extWrite (t : Ty) (x : Nat) : Word :=
  if t.sgn && t.bits < 32 then word (wrapTo 32 (intVal true t.bits x)) else word x

/-- Writes a 32-bit destination (R20). -/
def State.wr32 (s : State) (t : Nat) (o : Opd) (v : Word) : State := match o with
  | .v n => s.modTh t fun u => u.put n v
  | .s n => s.modTeam (s.th t).team fun m => { m with consts := m.consts.set n v }
  | _ => s
/-- Writes a 64-bit destination (R19). -/
def State.wr64 (s : State) (t : Nat) (o : Opd) (v : DWord) : State := match o with
  | .v n => s.modTh t fun u => (u.put n (loWord v)).put (n + 1) (hiWord v)
  | .s n => s.modTeam (s.th t).team fun m => { m with consts := (m.consts.set n (loWord v)).set (n + 1) (hiWord v) }
  | _ => s
/-- Writes a result of type `ty` (R114). -/
def State.wr (s : State) (t : Nat) (ty : Ty) (o : Opd) (x : Nat) : State :=
  if ty.bits == 64 then s.wr64 t o (dword x) else s.wr32 t o (extWrite ty x)
/-- Writes a run of registers. -/
def State.wrRun (s : State) (t : Nat) (o : Opd) (ws : List Word) : State := match o with
  | .v n => s.modTh t fun u => u.putRun n ws
  | .s n => match ws with
    | [w] => s.wr32 t (.s n) w
    | [a, b] => s.wr64 t (.s n) (pairOf a b)
    | _ => s
  | _ => s
/-- Reads a run of registers; a single register may be any operand (log 13). -/
def State.rdRun (s : State) (th : Thread) (ty : Ty) (o : Opd) (n : Nat) : List Word := match o with
  | .v k => th.getRun k n
  | o => if ty.bits == 64 then let x := s.rd64k th (constBits ty) o; [loWord x, hiWord x]
    else [s.rd32k th (constBits ty) o]

/-- The effective address of `.g` (R141). -/
def State.addrG (s : State) (th : Thread) (a : Opd) (off : BitVec 24) : Nat :=
  ((s.rd64 th a) + off.signExtend 64).toNat
/-- The offset of `.t` and `.c`, as an exact integer (R231). -/
def State.offT (s : State) (th : Thread) (a : Opd) (off : BitVec 24) : Int := (s.rd32 th a).toNat + off.toInt

/-- Class of an instruction for roles (R166). -/
inductive Cls where
  | common | load | matrix | vector | barred
deriving DecidableEq, Repr

/-- R166: a group's role admits a class. -/
def Role.admits (r : Role) (c : Cls) : Bool := match r, c with
  | .none, _ => true
  | _, .common => true
  | .load, .load => true
  | .matrix, .matrix => true
  | .vector, .vector => true
  | _, _ => false

end Sys2Proof.Machine

namespace Sys2Proof

open Machine

/-- What an instruction carries: guard and flag mark; none for a step of the device. -/
def Instr.x : Instr → Option X
  | .nop x | .bra x _ | .brx x _ | .call x _ _ | .callx x _ _ | .ret x | .exit x | .gexit x | .yield x | .trap x _
  | .tret x | .tretry x | .tfence x | .getsr x _ _ | .setsr x _ _ | .sleep x _ | .iadd x _ _ _ _ _
  | .iaddImm x _ _ _ _ _ | .isub x _ _ _ _ _ | .imul x _ _ _ _ _ | .imulh x _ _ _ _ | .imad x _ _ _ _ _ _
  | .idiv x _ _ _ _ _ | .irem x _ _ _ _ | .imin x _ _ _ _ | .imax x _ _ _ _ | .iabs x _ _ _ _ | .ineg x _ _ _ _
  | .idot4 x _ _ _ _ _ _ | .lea x _ _ _ _ _ | .leaImm x _ _ _ | .and x _ _ _ _ | .or x _ _ _ _ | .xor x _ _ _ _
  | .andImm x _ _ _ _ | .orImm x _ _ _ _ | .xorImm x _ _ _ _ | .not x _ _ _ | .lut3 x _ _ _ _ _ _ | .shl x _ _ _ _
  | .shr x _ _ _ _ | .sar x _ _ _ _ | .rot x _ _ _ _ | .bfx x _ _ _ _ _ | .bfi x _ _ _ _ _ | .popc x _ _ _
  | .clz x _ _ _ | .brev x _ _ _ | .permb x _ _ _ _ | .pcmpi x _ _ _ _ _ _ _ | .pcmpf x _ _ _ _ _ _ _
  | .plut x _ _ _ _ _ | .sel x _ _ _ _ _ | .mov x _ _ _ | .movi x _ _ _ | .fadd x _ _ _ _ _ | .fsub x _ _ _ _ _
  | .fmul x _ _ _ _ _ | .fmad x _ _ _ _ _ _ | .fmin x _ _ _ | .fmax x _ _ _ | .dadd x _ _ _ _ _ | .dmul x _ _ _ _ _
  | .dmad x _ _ _ _ _ _ | .padd2 x _ _ _ _ _ _ | .pmul2 x _ _ _ _ _ _ | .pfma2 x _ _ _ _ _ _ _
  | .cvt x _ _ _ _ _ _ _ _ | .cvtq x _ _ _ _ _ _ _ _ _ | .cvtd x _ _ _ _ _ _ _ | .nzcnt x _ _ _ _ _ _
  | .nzmap x _ _ _ _ _ _ | .rcp x _ _ _ | .rsq x _ _ _ | .sqrt x _ _ _ _ | .ex2 x _ _ | .lg2 x _ _ | .sin x _ _
  | .cos x _ _ | .sincos x _ _ | .tanh x _ _ | .shfl x _ _ _ _ _ _ _ | .vote x _ _ _ _ | .ballot x _ _ _
  | .matchv x _ _ _ _ | .compact x _ _ _ | .scan x _ _ _ _ _ _ | .gred x _ _ _ _ _ | .join x _ _ | .waitj x _
  | .reorder x _ _ _ _ _ _ | .migrate x _ _ | .mma x _ _ _ _ _ _ _ _ _ _ _ _ | .mmas x _ _ _ _ _ _ _ _ _ _ _ _ _ _
  | .accz x _ _ _ | .accld x _ _ _ _ _ | .accst x _ _ _ _ _ _ | .ldf x _ _ _ _ _ _ _ _ | .fslot x _ _ _ _
  | .ld x _ _ _ _ _ _ _ | .st x _ _ _ _ _ _ _ | .lds x _ _ _ _ _ _ _ _ | .pref x _ _ _ _
  | .atom x _ _ _ _ _ _ _ _ _ _ _ _ | .red x _ _ _ _ _ _ | .flushred x | .fence x _ _ _ _ | .xfence x _
  | .binit x _ _ _ _ _ _ _ _ | .arrive x _ _ _ _ _ _ _ | .wait x _ _ _ _ _ _ _ | .btest x _ _ _ _ _
  | .binval x _ _ _ | .cpy x _ _ _ _ _ _ _ _ _ _ | .fetch x _ _ _ _ _ | .tstep x _ _ _ _ _ _ | .trailRd x _
  | .trailZ x | .trailWr x _ | .tlog x _ _ _ _ _ _ | .mopen x _ _ _ | .mint x _ _ _ | .muni x _ _ _ | .msub x _ _ _
  | .mmadd x _ _ _ _ | .mnext x _ _ _ | .mnextSt x _ _ _ _ _ | .mclose x _ | .tpost x _ _ | .targ x _ _
  | .dappend x _ _ _ _ _ _ | .dcut x _ _ _ | .dckpt x _ _ _ _ _ | .dtake x _ _ | .dcurs x _ _ | .xlist x _ _ _ _ _
  | .xsend x _ _ _ _ _ | .xrecv x _ _ _ | .fseedWrite x _ | .spillBaseWrite x _ | .spillLimitWrite x _
  | .trapCauseWrite x _ | .trapBaseWrite x _ | .saveBaseWrite x _ | .preemptCtlWrite x _ | .migPolicyWrite x _
  | .specCtlWrite x _ | .controlRegisterWrite x _ _ => some x
  | _ => none

/-- Registers of one operand of type `t`. -/
def opLen (t : Ty) : Nat := if t.bits == 64 then 2 else 1

/-- The operands of an instruction that can name registers of an overflow block (R68): destination or not, the operand,
its length; the length of a run that depends on a format slot is taken from `slot`. -/
def Instr.opds (slot : Nat → SlotD) : Instr → List (Bool × Opd × Nat)
  | .brx _ a | .callx _ a _ => [(false, a, 2)]
  | .getsr _ d sr => [(true, d, if Wf.wide sr then 2 else 1)]
  | .setsr _ sr a | .controlRegisterWrite _ sr a => [(false, a, if Wf.wide sr then 2 else 1)]
  | .fseedWrite _ a | .spillLimitWrite _ a | .trapCauseWrite _ a | .preemptCtlWrite _ a | .migPolicyWrite _ a
  | .specCtlWrite _ a => [(false, a, 1)]
  | .spillBaseWrite _ a | .trapBaseWrite _ a | .saveBaseWrite _ a => [(false, a, 2)]
  | .iadd _ t _ d a b | .isub _ t _ d a b | .imul _ t _ d a b | .imulh _ t d a b | .idiv _ t _ d a b | .irem _ t d a b
  | .imin _ t d a b | .imax _ t d a b | .and _ t d a b | .or _ t d a b | .xor _ t d a b | .sel _ t d a b _ =>
      [(true, d, opLen t), (false, a, opLen t), (false, b, opLen t)]
  | .iaddImm _ t _ d a _ | .iabs _ t _ d a | .ineg _ t _ d a | .andImm _ t d a _ | .orImm _ t d a _ | .xorImm _ t d a _
  | .not _ t d a | .brev _ t d a | .mov _ t d a | .rcp _ t d a | .rsq _ t d a | .sqrt _ t _ d a =>
      [(true, d, opLen t), (false, a, opLen t)]
  | .imad _ t _ d a b c | .lut3 _ t _ d a b c =>
      [(true, d, opLen t), (false, a, opLen t), (false, b, opLen t), (false, c, opLen t)]
  | .idot4 _ _ _ d a b c | .permb _ d a b c | .fmad _ _ _ d a b c | .pfma2 _ _ _ _ d a b c =>
      [(true, d, 1), (false, a, 1), (false, b, 1), (false, c, 1)]
  | .lea _ _ _ d a b => [(true, d, 2), (false, a, 2), (false, b, 1)]
  | .leaImm _ d a _ => [(true, d, 2), (false, a, 2)]
  | .shl _ t d a b | .shr _ t d a b | .sar _ t d a b | .rot _ t d a b | .bfx _ t _ d a b =>
      [(true, d, opLen t), (false, a, opLen t), (false, b, 1)]
  | .bfi _ t d a b c => [(true, d, opLen t), (false, a, opLen t), (false, b, 1), (false, c, opLen t)]
  | .popc _ t d a | .clz _ t d a => [(true, d, 1), (false, a, opLen t)]
  | .pcmpi _ _ t _ _ a b _ | .pcmpf _ _ t _ _ a b _ => [(false, a, opLen t), (false, b, opLen t)]
  | .movi _ t d _ => [(true, d, opLen t)]
  | .fadd _ _ _ d a b | .fsub _ _ _ d a b | .fmul _ _ _ d a b | .fmin _ d a b | .fmax _ d a b | .padd2 _ _ _ _ d a b
  | .pmul2 _ _ _ _ d a b => [(true, d, 1), (false, a, 1), (false, b, 1)]
  | .dadd _ _ _ d a b | .dmul _ _ _ d a b => [(true, d, 2), (false, a, 2), (false, b, 2)]
  | .dmad _ _ _ d a b c => [(true, d, 2), (false, a, 2), (false, b, 2), (false, c, 2)]
  | .cvt _ t sty _ _ _ _ d a =>
      [(true, d, opLen t), (false, a, opLen sty)] ++ (if t.bits < 32 then [(false, d, 1)] else [])
  | .cvtq _ t sty h _ _ _ d b a =>
      let l := (slot h.val).blockLen
      [(true, d, l * t.bits / 32), (true, b, 1), (false, a, if sty == .f32 then l else l / 2)]
  | .cvtd _ t sty _ nosc d a b =>
      [(true, d, if t == .f32 then 32 / sty.bits else 16 / sty.bits), (false, a, 1)] ++ (if nosc then [] else [(false, b, 1)])
  | .nzcnt _ t _ _ d a b | .nzmap _ t _ _ d a b => [(true, d, 1), (false, a, opLen t), (false, b, 1)]
  | .ex2 _ d a | .lg2 _ d a | .sin _ d a | .cos _ d a | .tanh _ d a => [(true, d, 1), (false, a, 1)]
  | .sincos _ d a => [(true, d, 2), (false, a, 1)]
  | .shfl _ _ _ t d a b c => [(true, d, opLen t), (false, a, opLen t), (false, b, 1), (false, c, 1)]
  | .vote _ _ _ _ c => [(false, c, 1)]
  | .ballot _ d _ c => [(true, d, 1), (false, c, 1)]
  | .matchv _ t d a c => [(true, d, 1), (false, a, opLen t), (false, c, 1)]
  | .compact _ d _ c => [(true, d, 2), (false, c, 1)]
  | .scan _ _ _ _ d a c | .gred _ _ _ d a c => [(true, d, 1), (false, a, 1), (false, c, 1)]
  | .reorder _ _ n key b _ _ => [(false, key, 1), (false, b, n.val + 1)]
  | .mma _ _ _ _ _ sc d a b _ _ _ _ => (if sc then [(false, d, 2)] else []) ++ [(false, a, 8), (false, b, 8)]
  | .mmas _ _ _ s8 _ _ sc d a b c _ _ _ _ =>
      (if sc then [(false, d, 2)] else []) ++ [(false, a, 8), (false, b, if s8 then 12 else 24), (false, c, 4)]
  | .accld _ _ sp _ a _ | .accst _ _ _ sp _ a _ => [(false, a, if sp == .g then 2 else 1)]
  | .ldf _ _ _ scl _ d a b _ => [(true, d, if scl then 9 else 8), (false, a, 2), (false, b, 1)]
  | .fslot _ _ _ a _ | .pref _ _ _ a _ => [(false, a, 2)]
  | .ld _ t n sp _ d a _ => [(true, d, (n.val + 1) * Wf.regsOf t), (false, a, if sp == .g then 2 else 1)]
  | .st _ t n sp _ b a _ => [(false, b, (n.val + 1) * Wf.regsOf t), (false, a, if sp == .g then 2 else 1)]
  | .lds _ _ _ _ bar a b c _ => [(false, a, 2), (false, b, 1)] ++ (if bar then [(false, c, 1)] else [])
  | .atom _ op t _ _ _ sp _ d a b c _ =>
      [(true, d, opLen t), (false, a, if sp == .g then 2 else 1), (false, b, opLen t)]
        ++ (if op == .cas then [(false, c, opLen t)] else [])
  | .red _ _ t _ a b _ => [(false, a, 2), (false, b, opLen t)]
  | .binit _ _ _ _ _ a b c _ => [(false, a, 1), (false, b, 1), (false, c, 1)]
  | .arrive _ _ rt d a b c _ => (if rt then [(true, d, 1)] else []) ++ [(false, a, 1), (false, b, 1), (false, c, 1)]
  | .wait _ _ rt _ d a b _ => (if rt then [(true, d, 1)] else []) ++ [(false, a, 1), (false, b, 1)]
  | .btest _ _ _ a b _ => [(false, a, 1), (false, b, 1)]
  | .binval _ _ a _ => [(false, a, 1)]
  | .cpy _ _ _ bar _ _ _ a b c _ => [(false, a, 2), (false, b, 1)] ++ (if bar then [(false, c, 1)] else [])
  | .fetch _ lgn d a b _ => [(true, d, 2 ^ lgn.val), (false, a, 1), (false, b, 1)]
  | .tstep _ d _ a b c _ => [(true, d, 2), (false, a, 2), (false, b, 1), (false, c, 1)]
  | .trailRd _ d => [(true, d, 4)]
  | .trailWr _ a => [(false, a, 4)]
  | .tlog _ rt d a b c _ => (if rt then [(true, d, 2)] else []) ++ [(false, a, 1), (false, b, 1), (false, c, 1)]
  | .mopen _ _ a b => [(false, a, 2), (false, b, 1)]
  | .mnext _ _ d c => [(true, d, 3), (false, c, 1)]
  | .mnextSt _ _ _ d b c => [(true, d, 1), (false, b, 2), (false, c, 1)]
  | .tpost _ _ b => [(false, b, 16)]
  | .targ _ f d => [(true, d, match f with | .pair _ => 2 | _ => 1)]
  | .dappend _ rt _ d a b c => (if rt then [(true, d, 2)] else []) ++ [(false, a, 2), (false, b, 1), (false, c, 1)]
  | .dcut _ rt d a => (if rt then [(true, d, 3)] else []) ++ [(false, a, 2)]
  | .dckpt _ clr a b c _ => (false, a, 2) :: if clr then [] else [(false, b, 2), (false, c, 2)]
  | .dtake _ d a | .dcurs _ d a => [(true, d, 8), (false, a, 2)]
  | .xlist _ rt d a b c => (if rt then [(true, d, 1)] else []) ++ [(false, a, 2), (false, b, 2), (false, c, 1)]
  | .xsend _ _ rt d a b => (if rt then [(true, d, 3)] else []) ++ [(false, a, 2), (false, b, 1)]
  | .xrecv _ a b c => [(false, a, 2), (false, b, 1), (false, c, 1)]
  | _ => []

/-- R166: the class of an instruction, from its encoding alone. -/
def Instr.cls : Instr → Cls
  | .reorder _ _ _ _ _ _ _ => .barred
  | .ld _ _ _ sp _ _ _ _ | .st _ _ _ sp _ _ _ _ => if sp == .g then .load else .common
  | .lds _ _ _ _ _ _ _ _ _ | .pref _ _ _ _ _ | .atom _ _ _ _ _ _ _ _ _ _ _ _ _ | .red _ _ _ _ _ _ _ | .flushred _
  | .cpy _ _ _ _ _ _ _ _ _ _ _ | .fetch _ _ _ _ _ _ | .mopen _ _ _ _ | .mint _ _ _ _ | .muni _ _ _ _ | .msub _ _ _ _
  | .mmadd _ _ _ _ _ | .mnext _ _ _ _ | .mnextSt _ _ _ _ _ _ | .mclose _ _ => .load
  | .mma _ _ _ _ _ _ _ _ _ _ _ _ _ | .mmas _ _ _ _ _ _ _ _ _ _ _ _ _ _ _ | .accz _ _ _ _ | .accld _ _ _ _ _ _
  | .accst _ _ _ _ _ _ _ | .ldf _ _ _ _ _ _ _ _ _ | .fslot _ _ _ _ _ => .matrix
  | .fadd _ _ _ _ _ _ | .fsub _ _ _ _ _ _ | .fmul _ _ _ _ _ _ | .fmad _ _ _ _ _ _ _ | .fmin _ _ _ _ | .fmax _ _ _ _
  | .dadd _ _ _ _ _ _ | .dmul _ _ _ _ _ _ | .dmad _ _ _ _ _ _ _ | .padd2 _ _ _ _ _ _ _ | .pmul2 _ _ _ _ _ _ _
  | .pfma2 _ _ _ _ _ _ _ _ | .cvt _ _ _ _ _ _ _ _ _ | .cvtq _ _ _ _ _ _ _ _ _ _ | .cvtd _ _ _ _ _ _ _ _
  | .nzcnt _ _ _ _ _ _ _ | .nzmap _ _ _ _ _ _ _ | .rcp _ _ _ _ | .rsq _ _ _ _ | .sqrt _ _ _ _ _ | .ex2 _ _ _
  | .lg2 _ _ _ | .sin _ _ _ | .cos _ _ _ | .sincos _ _ _ | .tanh _ _ _ | .tstep _ _ _ _ _ _ _ | .tlog _ _ _ _ _ _ _
  | .trailRd _ _ | .trailZ _ | .trailWr _ _ | .tpost _ _ _ | .targ _ _ _ | .dappend _ _ _ _ _ _ _ | .dcut _ _ _ _
  | .dckpt _ _ _ _ _ _ | .dtake _ _ _ | .dcurs _ _ _ | .xlist _ _ _ _ _ _ | .xsend _ _ _ _ _ _ | .xrecv _ _ _ _ =>
      .vector
  | _ => .common

/-- R279: instructions at which a speculating thread stalls. EXIT and GEXIT make TFENCE's check and arrive on barrier
objects, so they stall with TFENCE (log 14). -/
def Instr.specStalls : Instr → Bool
  | .atom _ _ _ _ _ _ _ _ _ _ _ _ _ | .red _ _ _ _ _ _ _ | .flushred _ | .cpy _ _ _ _ _ _ _ _ _ _ _
  | .lds _ _ _ _ _ _ _ _ _ | .fetch _ _ _ _ _ _ | .tstep _ _ _ _ _ _ _ | .tlog _ _ _ _ _ _ _ | .mopen _ _ _ _
  | .mint _ _ _ _ | .muni _ _ _ _ | .msub _ _ _ _ | .mmadd _ _ _ _ _ | .mnext _ _ _ _ | .mnextSt _ _ _ _ _ _
  | .mclose _ _ | .tpost _ _ _ | .dappend _ _ _ _ _ _ _ | .dcut _ _ _ _ | .dckpt _ _ _ _ _ _ | .dtake _ _ _
  | .dcurs _ _ _ | .xlist _ _ _ _ _ _ | .xsend _ _ _ _ _ _ | .xrecv _ _ _ _ | .binit _ _ _ _ _ _ _ _ _
  | .arrive _ _ _ _ _ _ _ _ | .wait _ _ _ _ _ _ _ _ | .btest _ _ _ _ _ _ | .binval _ _ _ _ | .tfence _ | .exit _
  | .gexit _ | .reorder _ _ _ _ _ _ _ | .migrate _ _ _ | .call _ _ _ | .callx _ _ _ | .ret _ => true
  | _ => false

/-- R20: a team constant named as a destination. -/
def Instr.writesConst (i : Instr) : Bool :=
  (i.opds fun _ => slotOf plainSlot).any fun p => p.1 && (match p.2.1 with | .s _ => true | _ => false)

end Sys2Proof
end

