-- ==== Sys2Proof/Machine/Flags.lean ====
section
/-!
DEFINITION. Flags: the sticky arithmetic flags of FSTAT (R22, R23), stochastic state, and completion flags (R34, R48).
-/

namespace Sys2Proof.Machine

/-- SetSticky: ORs a mask into FSTAT (R23, R45). -/
def Thread.sticky (th : Thread) (m : Nat) : Thread := { th with fstat := th.fstat ||| word (m % 64) }
/-- The arithmetic environment of a thread (R24, R26, R113). -/
def Thread.arith (th : Thread) (st : Option Rm) : Arith := Arith.of th.fmode th.fseed st
/-- Writes back what arithmetic raised: FSTAT and FSEED (R23, R26). -/
def Thread.arithDone (th : Thread) (a : Arith) : Thread := { th.sticky a.flags with fseed := a.seed }
/-- The bits of FSTAT that FMODE.TE enables; FMODE.TE is 0 in a handler (R122, R393). -/
def Thread.pendArith (th : Thread) : Nat :=
  if th.handler.isSome then 0 else (th.fstat &&& (th.fmode >>> 8) &&& 0x3F#32).toNat

/-- The count of a completion flag. -/
def Thread.flagCount (th : Thread) (f : Fin 12) : Nat := th.flags.getD f.val 0
/-- FlagBits: the flags whose counts are above 0 (R45). -/
def Thread.flagBits (th : Thread) : Nat :=
  (upto 12).foldl (fun m k => if 0 < th.flags.getD k 0 then m + 2 ^ k else m) 0
/-- FlagIssue (R34). -/
def Thread.flagUp (th : Thread) (f : Fin 12) : Thread :=
  { th with flags := th.flags.setIfInBounds f.val (th.flagCount f + 1) }
/-- FlagComplete (R34). -/
def Thread.flagDown (th : Thread) (f : Fin 12) : Thread :=
  { th with flags := th.flags.setIfInBounds f.val (th.flagCount f - 1) }

/-- The line word of a native clause (R48). -/
def lineWord (b : BitVec 512) : Nat := b.toNat / 2 ^ 480
/-- EQP of a line (R48). -/
def lineEqp (b : BitVec 512) : Bool := bitAt (lineWord b) 29
/-- The 96 bits of slot k of a line (R47). -/
def slotWord (b : BitVec 512) (k : Nat) : Nat := b.toNat / 2 ^ (96 * k) % 2 ^ 96
/-- The word of the instruction at which a thread stands in its open clause. -/
def Thread.curWord (th : Thread) : BitVec 128 := match th.clause with
  | some (.line b) => BitVec.ofNat 128 (slotWord b (th.pc.toNat % 8))
  | some (.portable b) => b
  | none => 0
/-- SETA of the line that a thread executes; 15 in portable code. -/
def Thread.setA (th : Thread) : Nat := match th.clause with
  | some (.line b) => bitsAt (lineWord b) 12 4
  | _ => 15
/-- SETB. -/
def Thread.setB (th : Thread) : Nat := match th.clause with
  | some (.line b) => bitsAt (lineWord b) 16 4
  | _ => 15
/-- The flag that an instruction's mark names (R34, R54). -/
def Thread.flagOf (th : Thread) (sb : Sb) : Option (Fin 12) :=
  let f := fun n => if h : n < 12 then some (⟨n, h⟩ : Fin 12) else none
  match sb with
  | .none => none
  | .fa => f th.setA
  | .fb => f th.setB

end Sys2Proof.Machine
end

