-- ==== Sys2Proof/Machine/Report.lean ====
section
/-!
DEFINITION. Messages to the host that answer no item: context error records and FREEZE messages (R437, R464).
-/

namespace Sys2Proof.Machine

/-- Header bytes 0 to 31 of a device message (R435); its target `CTX_ID` is 0 (log 2). -/
def hostHeader (session queue type seq len : Nat) : List Byte :=
  [0x4E#8, 0x51#8, 0x37#8, 0x49#8, 1#8, byte type] ++ leBytes 2 len ++ leBytes 4 session ++ leBytes 2 queue ++ leBytes 2 0 ++ leBytes 8 seq
    ++ leBytes 8 0

/-- The TAG of a message: its session key, header bytes 0 to 31 and body (R435). -/
def messageTag (key head body : List Byte) : List Byte := shake256 (key ++ head ++ body) 16

/-- Sends a device message on a session and queue while the session is open (R435, R464). -/
def State.toHost (s : State) (session queue type seq : Nat) (body : List Byte) : State :=
  match s.sessions.find? fun x => x.id == session with
  | some x => s.send (.host session queue type seq body (messageTag x.key (hostHeader session queue type seq body.length) body))
  | none => s

/-- An error record of a context (R437): the record is kept for ERRLOG and sent once on the context's session and
queue. Records are numbered from 1 (log 2). -/
def State.ctxError (s : State) (ctx kind cause addr : Nat) (launch : DWord) (detail : Nat) : State :=
  let c := s.ctx ctx
  let n := c.errNo + 1
  let body := leBytes 4 ctx ++ leBytes 4 n ++ leBytes 1 kind ++ leBytes 1 cause ++ leBytes 6 0 ++ leBytes 8 addr
    ++ leBytes 8 launch.toNat ++ leBytes 8 detail
  let s := s.modCtx ctx fun c => { c with errNo := n }
  { s with errLog := s.errLog ++ [(s.cycle, kind, body)] }.toHost c.session c.queue 0x84 n body

/-- The body of the FREEZE message of a context (R437). -/
def freezeBody (ctx addr : Nat) : List Byte := leBytes 1 1 ++ leBytes 1 0x12 ++ leBytes 2 0 ++ leBytes 4 ctx ++ leBytes 8 addr

/-- The FREEZE message of a context (R464). -/
def State.freezeMsg (s : State) (ctx addr : Nat) : State :=
  let c := s.ctx ctx
  s.toHost c.session c.queue 0x85 0 (freezeBody ctx addr)

/-- The FREEZE message of this cycle names a lower byte (R464): it leaves when the cycle is over (log 26). -/
def State.freezeAgain (s : State) (ctx old addr : Nat) : State :=
  let stale : Out → Bool := fun o => match o with
    | .host _ _ 0x85 _ body _ => body == freezeBody ctx old
    | _ => false
  if s.outbox.any stale then { s with outbox := s.outbox.filter fun o => !stale o }.freezeMsg ctx addr else s

end Sys2Proof.Machine
end

