-- ==== Sys2Proof/Machine/Ops.lean ====
section
/-!
DEFINITION. Shared operations of thread instructions: transfer targets (R117), the register window with spilling (R36 to
R40, R69), traps, the ONE handler entry (R392 to R394) and the return beside it (R397), and how an instruction of the
current bundle ends (R32, R159).
-/

namespace Sys2Proof.Machine

/-- What a meaning answers. -/
abbrev Result := Host.Outcome State Fault Refusal

/-! ## Code -/

/-- The image, with its object, in whose ranges an address lies (R70, R81). -/
def State.imageAt (s : State) (ctx : Nat) (pc : Nat) : Option (CodeObj × Image) :=
  (s.ctx ctx).objs.findSome? fun o =>
    (o.images.find? fun im => im.ranges.any fun r => r.1 ≤ pc && pc < r.2).map fun im => (o, im)

/-- R31: a valid native PC. -/
def nativePc (pc : Nat) : Bool := pc / 8 % 8 == 0 && pc % 8 ≤ 4

/-- CheckTarget of R117: the image that a legal target lies in. -/
def State.target (s : State) (ctx : Nat) (pc : DWord) : Option (CodeObj × Image) :=
  match s.imageAt ctx pc.toNat with
  | none => none
  | some (o, im) =>
    if im.kind == 1 then (if im.starts.contains pc.toNat then some (o, im) else none)
    else if nativePc pc.toNat then some (o, im) else none

/-- The function of an object that holds an address of one of its images: the last entry not above it. -/
def CodeObj.fnAt (o : CodeObj) (kind pc : Nat) : Option Nat :=
  let entry := fun (f : Func) => if kind == 1 then f.portable else if kind == 2 then f.bramble else f.larch
  (o.funcs.zipIdx.foldl (fun (best : Option (Nat × Nat)) p =>
    let e := entry p.1
    if e ≤ pc && (kind == 1 || e != 0) && (match best with | some b => b.2 ≤ e | none => true) then some (p.2, e) else best)
    none).map (·.1)

/-- Frame size F of the portable function that a target lies in (R68, R69); 0 for native code. -/
def State.frameOf (s : State) (ctx : Nat) (pc : DWord) : Nat :=
  match s.imageAt ctx pc.toNat with
  | some (o, im) => if im.kind == 1 then ((o.fnAt 1 pc.toNat).bind fun k => (o.funcs[k]?).map Func.frame).getD 0 else 0
  | none => 0

/-- The image of an object of one kind. -/
def CodeObj.image? (o : CodeObj) (kind : Nat) : Option Image := o.images.find? fun im => im.kind == kind
/-- Image kind code of a core kind (R81). -/
def imageKind : CoreKind → Nat
  | .bramble => 2
  | .larch => 3

/-- PC of an equivalence point in the portable image (R461). -/
def CodeObj.pointPortable (o : CodeObj) (num fn : Nat) : Option Nat := do
  let im ← o.image? 1
  let p ← o.points.find? fun p => p.2 == num && o.fnAt 1 (im.base + p.1) == some fn
  pure (im.base + p.1)
/-- PC of an equivalence point in an image kind (R83, R461). -/
def CodeObj.pointPc (o : CodeObj) (kind num fn : Nat) : Option Nat :=
  if kind == 1 then o.pointPortable num fn
  else do
    let pb ← o.image? 1
    o.images.findSome? fun im => if im.kind != kind then none else
      (im.lines.find? fun l => l.num == num && o.fnAt 1 (pb.base + l.port) == some fn).map fun l => im.base + l.off

/-- R199: TRAP_EQP and TRAP_PCX for a thread's recorded point. -/
def State.eqpRegs (s : State) (th : Thread) : Word × DWord :=
  match th.eqp with
  | none => (0xFFFFFFFF#32, 0#64)
  | some e =>
    let host := kindOf (s.hostOf th)
    let other := if host == .bramble then CoreKind.larch else .bramble
    let pc := match (s.ctxOf th).objs.find? fun o => o.handle == e.handle with
      | none => none
      | some o =>
        let there := if th.portable then none else o.pointPc (imageKind other) e.num e.fn
        (there.orElse fun _ => o.pointPc (imageKind host) e.num e.fn).orElse fun _ => o.pointPc 1 e.num e.fn
    (word e.num, dword (pc.getD 0))

/-- The PC that follows `pc` (R32, R70), and whether it leaves the line. -/
def nextNative (pc : DWord) : DWord × Bool :=
  if pc.toNat % 8 < 4 then (pc + 1#64, false) else (dword (pc.toNat / 64 * 64 + 64), true)
/-- The PC that follows a thread's current instruction (R32, R70). -/
def Thread.nextPc (th : Thread) : DWord :=
  if th.portable then
    th.pc + dword (match th.clause with
      | some (.portable b) => portableLen b.toNat
      | _ => 8)
  else (nextNative th.pc).1

/-! ## The register window (R36 to R40, R69) -/

/-- Size of a spill entry (R39). -/
def entrySize (n : Nat) : Nat := (16 + 4 * n + 63) / 64 * 64
/-- Size of an overflow block (R69). -/
def blockSize (f : Nat) : Nat := (16 + 4 * (f - 112) + 63) / 64 * 64
/-- Bytes of words, little-endian. -/
def wordsBytes (ws : List Word) : List Byte := ws.flatMap fun w => leBytes 4 w.toNat
/-- A spill entry (R39). -/
def entryBytes (h : Hidden) : List Byte :=
  leBytes 8 h.ret.toNat ++ leBytes 8 h.n ++ wordsBytes h.regs
    ++ List.replicate (entrySize h.n - 24 - 4 * h.n) 0#8 ++ leBytes 8 h.n
/-- An overflow block as pushed (R69). -/
def blockBytes (f : Nat) : List Byte := leBytes 8 f ++ List.replicate (blockSize f - 16) 0#8 ++ leBytes 8 f

/-- R40: the cause and address of a failed spill or reload access. A speculating thread stalls at CALL and RET (R279), so that
no access of theirs stalls. -/
def spillStop : Stop → Cause × Nat
  | .fault .sealedWrite a => (.sealedWrite, a)
  | .fault _ a => (.spill, a)
  | .stall _ => (.spill, 0)

/-- Address of the first byte of a thread's spill stack: bits 63:57 of SPILL_BASE read 0, and the address is canonical (R41). -/
def Thread.spillVa (th : Thread) : Nat := canonVa th.spillBase.toNat

/-- Stores the 64-byte lines of a spill entry on the CORE path, colour c0 (R38). Lines stored before one that fails stay in
memory (R40, log 27). -/
def State.spillLines (s : State) (t : Nat) (va : Nat) : Nat → List Byte → State × Option (Cause × Nat)
  | 0, _ => (s, none)
  | k + 1, bs => match s.storeG (s.th t) (s.th t).privileged va 0 (bs.take 64) with
    | (s, .error e) => (s, some (spillStop e))
    | (s, .ok _) => s.spillLines t (va + 64) k (bs.drop 64)

/-- Pushes an entry or a block on the spill stack (R39, R40, R69). -/
def State.spillPush (s : State) (t : Nat) (bs : List Byte) : State × Option (Cause × Nat) :=
  let th := s.th t
  let base := th.spillVa
  if th.spillPtr.toNat + bs.length > th.spillLimit.toNat then (s, some (.spill, base + th.spillLimit.toNat))
  else match s.spillLines t (base + th.spillPtr.toNat) (bs.length / 64) bs with
    | (s, some e) => (s, some e)
    | (s, none) => (s.modTh t fun u => { u with spillPtr := u.spillPtr + word bs.length }, none)

/-- Registers that resident hidden parts hold. -/
def residentRegs (hs : List Hidden) : Nat := (hs.map Hidden.n).sum

/-- The largest call depth (R18). -/
def maxDepth : Nat := 2 ^ 24 - 1

/-- R38: spills the oldest resident hidden parts, one at a time, until the rest fit in B - 128 registers. -/
def State.spillOld (s : State) (t room : Nat) : Nat → State × Option (Cause × Nat)
  | 0 => (s, none)
  | k + 1 =>
    let th := s.th t
    match th.hidden.getLast? with
    | none => (s, none)
    | some h =>
      if residentRegs th.hidden ≤ room then (s, none)
      else match s.spillPush t (entryBytes h) with
        | (s, some e) => (s, some e)
        | (s, none) => (s.modTh t fun u => { u with hidden := u.hidden.dropLast }).spillOld t room k

/-- The window registers of a view, v16 to v127. -/
def Thread.windowRegs (th : Thread) : List Word := th.getRun 16 112
/-- Replaces the window registers of a view. -/
def Thread.setWindow (th : Thread) (ws : List Word) : Thread := th.putRun 16 ws

/-- SlideWindow(n, ret) with the overflow block of a function of frame size F (R36 to R40, R69). On a fault the thread
is unchanged; entries already written stay in memory. -/
def State.slideWindow (s : State) (t n : Nat) (ret : DWord) (frame : Nat) : State × Option (Cause × Nat) :=
  let old := s.th t
  let h : Hidden := { ret := ret, n := n, base := old.wbase, regs := old.getRun 16 n }
  let s := s.modTh t fun u => { u with hidden := h :: u.hidden }
  let room := (s.team old.team).regsB - 128
  match s.spillOld t room (old.hidden.length + 1) with
  | (s, some e) => (s.setTh old, some e)
  | (s, none) =>
    let off := (s.th t).spillPtr.toNat
    let pushed := if frame > 112 then s.spillPush t (blockBytes frame) else (s, none)
    match pushed with
    | (s, some e) => (s.setTh old, some e)
    | (s, none) =>
      (s.modTh t fun u =>
        let ws := old.windowRegs.drop n ++ List.replicate n 0#32
        { u.setWindow ws with wbase := old.wbase + n, depth := old.depth + 1, frames := (frame, off) :: old.frames }, none)

/-- Reads bytes of the spill stack on the CORE path in aligned 8-byte loads (R38). -/
def State.spillRead (s : State) (t va : Nat) : Nat → State × Except (Cause × Nat) (List Byte)
  | 0 => (s, .ok [])
  | k + 1 => match s.loadG (s.th t) (s.th t).privileged va 8 with
    | (s, .error e) => (s, .error (spillStop e))
    | (s, .ok b) => match s.spillRead t (va + 8) k with
      | (s, .error e) => (s, .error e)
      | (s, .ok c) => (s, .ok (b ++ c))

/-- Pops the overflow block of the returning frame (R69). -/
def State.popBlock (s : State) (t : Nat) : State × Option (Cause × Nat) :=
  let th := s.th t
  let top := th.spillVa + th.spillPtr.toNat
  match s.spillRead t (top - 8) 1 with
  | (s, .error e) => (s, some e)
  | (s, .ok b) =>
    let f := leNat b
    if f < 120 || 1008 < f || f % 8 != 0 || th.spillPtr.toNat < blockSize f then (s, some (.spill, top - 8))
    else
      let base := top - blockSize f
      match s.spillRead t base 2 with
      | (s, .error e) => (s, some e)
      | (s, .ok b) =>
        if field b 0 8 != f || field b 8 8 != 0 then (s, some (.spill, base))
        else (s.modTh t fun u => { u with spillPtr := u.spillPtr - word (blockSize f) }, none)

/-- The entry on top of the spill stack, checked as R39 lays down, and the bytes it takes. -/
def State.topEntry (s : State) (t : Nat) : State × Except (Cause × Nat) (Hidden × Nat) :=
  let th := s.th t
  let top := th.spillVa + th.spillPtr.toNat
  match s.spillRead t (top - 8) 1 with
  | (s, .error e) => (s, .error e)
  | (s, .ok b) =>
    let n := field b 0 1
    if n < 8 || 112 < n || n % 8 != 0 || th.spillPtr.toNat < entrySize n then (s, .error (.spill, top - 8))
    else
      let base := top - entrySize n
      match s.spillRead t base (entrySize n / 8) with
      | (s, .error e) => (s, .error e)
      | (s, .ok e) =>
        if field e 8 1 != n || !allZero (slice e 9 7) || !allZero (slice b 1 7) then (s, .error (.spill, base))
        else (s, .ok ({ ret := dword (field e 0 8), n := n, base := th.wbase - n, regs := words4 n (slice e 16 (4 * n)) },
          entrySize n))

/-- Applies the late writes of R34 to a reloaded part. -/
def applyLate (late : List (Int × Word)) (base : Int) (regs : List Word) : List Word :=
  regs.mapIdx fun i w => (assoc late (base + i)).getD w

/-- UnslideWindow (R36, R38, R69): the caller's frame with the PC that its record holds. On a fault the thread is
unchanged. `ok` is asked of the recorded PC before anything changes (R39). -/
def State.unslideWindow (s : State) (t : Nat) (ok : DWord → Bool) : State × Except (Cause × Nat) DWord :=
  let old := s.th t
  if old.depth == 0 then (s, .error (.spill, 0))
  else
    let (s, e) := if (old.frames.headD (0, 0)).1 > 112 then s.popBlock t else (s, none)
    match e with
    | some e => (s.setTh old, .error e)
    | none =>
      let found : State × Except (Cause × Nat) (Hidden × Nat) := match (s.th t).hidden with
        | h :: _ => (s, .ok (h, 0))
        | [] => s.topEntry t
      match found with
      | (s, .error e) => (s.setTh old, .error e)
      | (s, .ok (h, size)) =>
        if !ok h.ret then (s.setTh old, .error (.illegalTarget, h.ret.toNat))
        else
          (s.modTh t fun u =>
            let base := old.wbase - h.n
            let regs := applyLate u.late base h.regs
            let ws := regs ++ old.windowRegs.take (112 - h.n)
            { u.setWindow ws with
              wbase := base, depth := old.depth - 1, frames := old.frames.tail
              hidden := u.hidden.tail, late := u.late.filter fun p => p.1 < base
              spillPtr := u.spillPtr - word size }, .ok h.ret)

/-- Address of the overflow entry that register wN names (R69). -/
def Thread.ovfAddr (th : Thread) (n : Nat) : Nat :=
  th.spillVa + (th.frames.headD (0, 0)).2 + 16 + 4 * (n - 128)

/-- The registers of a run with their values, as an operation writes them: register wK under K, and a team constant sK, which
only privileged code names (R20), under 1024 + K. -/
def runWrites (d : Opd) (ws : List Word) : List (Nat × Word) := match d with
  | .v n => ws.mapIdx fun i w => (n.val + i, w)
  | .s n => ws.mapIdx fun i w => (1024 + n.val + i, w)
  | _ => []

/-- Where a landed register stands (R34): a global, a window register of the view, a resident hidden part, an overflow
entry of the frame, an entry of the spill stack, or a team constant. `n` is the register as `runWrites` numbers it and `base`
the window base it was named under. The result of an operation that was issued before a thread speculates enters its buffer
whatever room is left (log 29). The error is that of an overflow entry that cannot be stored (R69). -/
def State.land (s : State) (t : Nat) (base : Int) (n : Nat) (w : Word) : State × Option (Cause × Nat) :=
  let th := s.th t
  if 1024 ≤ n then (s.modTeam th.team fun m => { m with consts := m.consts.set (n - 1024) w }, none)
  else if n < 16 then (s.modTh t fun u => u.put n w, none)
  else
    let e := base + (n - 16 : Nat)
    if th.wbase ≤ e then
      if e < th.wbase + 112 then (s.modTh t fun u => u.put ((e - th.wbase).toNat + 16) w, none)
      else if base == th.wbase then
        match s.storeG th th.privileged (th.ovfAddr n) 0 (leBytes 4 w.toNat) with
        | (s, .ok _) => (s, none)
        | (s, .error (.stall _)) => (s.modTh t fun u => { u with
            spec := u.spec.map fun r => { r with stores := r.stores ++ [⟨.g, th.ovfAddr n, 0, leBytes 4 w.toNat, 0⟩] } }, none)
        | (s, .error e) => (s, some (spillStop e))
      else (s, none)
    else if th.hidden.any fun h => h.base ≤ e && e < h.base + h.n then
      (s.modTh t fun u => { u with hidden := u.hidden.map fun h =>
        if h.base ≤ e && e < h.base + h.n then { h with regs := h.regs.set (e - h.base).toNat w } else h }, none)
    else (s.modTh t fun u => { u with late := assocSet u.late e w }, none)

/-- Lands the registers of a result in turn; the first that cannot be stored ends it (R69). -/
def State.landAll (s : State) (t : Nat) (base : Int) : List (Nat × Word) → State × Option (Cause × Nat)
  | [] => (s, none)
  | w :: r => match s.land t base w.1 w.2 with
    | (s, none) => s.landAll t base r
    | (s, some e) => (s, some e)

/-! ## Traps -/

/-- Codes of R388. -/
def causeCode : Cause → Nat
  | .illegalOpcode => 0x01 | .reservedField => 0x02 | .illegalTarget => 0x03 | .lineParity => 0x04
  | .roleViolation => 0x05 | .privilege => 0x06 | .notPresent => 0x10 | .permission => 0x11 | .sealedWrite => 0x12
  | .alignment => 0x13 | .memError => 0x14 | .appendOnly => 0x15 | .arithmetic => 0x20 | .teamStall => 0x30
  | .reorderState => 0x31 | .convMismatch => 0x32 | .spill => 0x33 | .engineFault => 0x40 | .lateFrame => 0x41
  | .staleCut => 0x42 | .preemption => 0x50 | .watchdog => 0x51 | .imageLost => 0x52 | .userTrap => 0x60

/-- A trap with no replay record (R385). -/
def plainTrap (c : Cause) (a pcn : DWord) (res : Bool) (stamp : Nat) : PendTrap :=
  { cause := c, addr := a, pcn := pcn, res := res, defer := false, flag := none, dreg := 0, dcnt := 0, replay := none,
    stamp := stamp }

/-- The stamp that tells the bundle and the cycle of a trap (R394). -/
def State.trapStamp (s : State) : Nat := match s.issues with
  | i :: _ => i.stamp * 8 + i.left
  | [] => s.nextId * 8

/-- A launch takes its first failure cause (R357, R395). -/
def State.failLaunch (s : State) (o : Owner) (c : Cause) : State := match o with
  | .launch l => s.modLaunch l fun x => { x with failed := some (x.failed.getD c) }
  | .item _ _ _ _ => s

/-- Address of a record's ring entry (R352). -/
def State.ringEntry (s : State) (ctx : Nat) (r : TaskRec) : Nat :=
  match (s.ctx ctx).queues[r.q]? with
  | some q => q.ring.toNat + 64 * (r.seq % 2 ^ q.lgCap)
  | none => 0

/-- A task fails (R357): an error record of kind 2, and its launch ends failed with the first cause. -/
def State.taskFail (s : State) (ctx : Nat) (o : Owner) (number : DWord) (c : Cause) (a q : Nat) : State :=
  (s.ctxError ctx 2 (causeCode c) a number q).failLaunch o c

/-- The failure of a team's work: of its launch, and of its task if it runs one (R357, R395). -/
def State.failTeam (s : State) (t : Nat) (c : Cause) : State :=
  let m := s.team t
  match m.task with
  | some r => s.taskFail m.ctx m.launch m.number c (s.ringEntry m.ctx r) r.q
  | none => s.failLaunch m.launch c

/-- Arrivals of threads that no longer stand at their collective (R176, R277, R395). -/
def State.dropArrivals (s : State) (g : Nat) (ts : List Nat) : State :=
  s.modGroup g fun x => { x with arrivals := x.arrivals.filter fun r => !ts.contains r.thread }

/-- Threads that end while TPOST holds them withdraw their postings (R359). -/
def State.dropHeld (s : State) (ts : List Nat) : State :=
  { s with contexts := s.contexts.map fun c => { c with kept := c.kept.filter fun p => !p.post.any fun x => ts.contains x.1 } }

/-- R395: the handler of a group fails: every thread of its bundle ends failed, and so does the launch. What the end of
these threads brings about, and the choice of the next entry, follow at HANDLER_ENTRY. -/
def State.failHandler (s : State) (g : Nat) (c : Cause) : State :=
  let ts := (s.liveOf g).filter fun u => u.handler.isSome
  let s := ts.foldl (fun s u => s.modTh u.id fun x => { x with status := .failed, hold := .none, pend := none }) s
  let s := (s.dropArrivals g (ts.map Thread.id)).dropHeld (ts.map Thread.id)
  let s := (ts.map Thread.team).eraseDups.foldl (fun s t => s.failTeam t c) s
  let s := s.unTimer fun i => i == .handlerWatchdog g
  s.once (.handlerEntry g)

/-- R248: a context freezes in the cycle in which a refused write of its agents is met. Of the writes that one cycle refuses, the
FREEZE message names the lowest first failing byte (R464). -/
def State.freezeCtx (s : State) (ctx : Nat) (a : DWord) : State :=
  let c := s.ctx ctx
  if !c.frozen then
    (s.freezeMsg ctx a.toNat).modCtx ctx fun c => { c with frozen := true, frozenSince := s.cycle, frozenAt := a }
  else if c.frozenSince == s.cycle && a < c.frozenAt then
    (s.freezeAgain ctx c.frozenAt.toNat a.toNat).modCtx ctx fun c => { c with frozenAt := a }
  else s

/-- A refused write of an engine freezes its context at the moment it is met (R248, R326); another fault does not. -/
def State.sealStop (s : State) (ctx : Nat) (f : Cause × Nat) : State :=
  if f.1 == .sealedWrite then s.freezeCtx ctx (dword f.2) else s

/-- R248: a context freezes at a refused write; its thread's fault is delivered on release. -/
def State.freeze (s : State) (ctx t : Nat) (p : PendTrap) : State :=
  ((s.freezeCtx ctx p.addr).modTh t fun u => { u with hold := .trap }).modCtx ctx fun c =>
    { c with frozenFaults := c.frozenFaults ++ [(t, p)] }

/-- A trap is raised: it fails a running handler (R395), waits for the end of a speculation (R279), freezes the context
(R248) or is held until its handler is entered (R394). -/
def State.raise (s : State) (t : Nat) (p : PendTrap) : State :=
  let th := s.th t
  if th.spec.isSome && p.cause != .preemption && p.cause != .teamStall then
    s.modTh t fun u => { u with spec := u.spec.map fun r => { r with held := some p }, hold := .spec }
  else if p.cause == .sealedWrite && !p.defer then s.freeze (s.team th.team).ctx t p
  else if th.handler.isSome then s.failHandler th.group p.cause
  else s.modTh t fun u => { u with pend := some p, hold := .trap }

/-- TRAP_CAUSE of a delivery (R389). -/
def PendTrap.word (p : PendTrap) : Word :=
  Sys2Proof.word ((if p.dcnt == 0 then 0 else p.dreg % 256) * 2 ^ 24 + p.dcnt * 2 ^ 19
    + (match p.flag with | some f => f.val | none => 15) * 2 ^ 15 + (if p.replay.isSome then 2 ^ 14 else 0)
    + (if p.res then 2 ^ 13 else 0) + (if p.defer then 2 ^ 12 else 0) + causeCode p.cause)

/-- The address of a vector (R391): TRAP_BASE holds bits 56:12 of the table's canonical address. -/
def Context.vector (c : Context) (kind : CoreKind) (cause : Cause) : Nat :=
  canonVa c.trapBase.toNat + 8 * (256 * kindNum kind + causeCode cause)

/-- R392: the handler PC of a cause on the thread's host kind, with whether it is portable. -/
def State.readVector (s : State) (t : Nat) (cause : Cause) : State × Option (DWord × Bool) :=
  let th := s.th t
  let c := s.ctxOf th
  let kind := kindOf (s.hostOf th)
  if c.trapBase == 0 then (s, none)
  else match s.loadG { th with spec := none } true (c.vector kind cause) 8 with
    | (s, .error _) => (s, none)
    | (s, .ok b) =>
      let pc := dword (leNat b)
      match s.target c.id pc with
      | none => (s, none)
      | some (_, im) =>
        if pc == 0 || (im.kind != 1 && im.kind != imageKind kind) then (s, none) else (s, some (pc, im.kind == 1))

/-- TAKING AN EXCEPTION, for one thread (R392, R393): the vector is read, the window slides as a CALL with n = 112, the
fault record registers are written, and the thread stands at the handler's entry, privileged. The error is the cause
with which the handler fails (R395), with the address of a sealed frame that the slide's spill met (R40): the depth has no
room for one more call at its largest value (R18, R118, log 27). -/
def State.takeTrap (s : State) (t : Nat) (p : PendTrap) : State × Option (Cause × Option Nat) :=
  match s.readVector t p.cause with
  | (s, none) => (s, some (p.cause, none))
  | (s, some (pc, portable)) =>
    let depth := (s.th t).depth
    if depth == maxDepth then (s, some (.spill, none))
    else match s.slideWindow t 112 (s.th t).pc (s.frameOf (s.team (s.th t).team).ctx pc) with
    | (s, some (c, a)) => (s, some (.spill, if c == .sealedWrite then some a else none))
    | (s, none) =>
      let (eqp, pcx) := s.eqpRegs (s.th t)
      (s.modTh t fun u => { u with
        trapCause := p.word, trapAddr := p.addr, trapPcn := p.pcn, trapPcx := pcx, trapEqp := eqp
        replay := p.replay, pend := if p.cause == .preemption then u.pend else none, preempt := none, hold := .none
        stall := none, handler := some { depth := depth, cause := p.cause, since := s.cycle }
        pc := pc, portable := portable, clause := none, entered := false, byTransfer := true }, none)

/-- Puts a thread in the handler state with its cause when its entry fails, so that the handler then fails (R395): now, or, when
its spill met a sealed frame, on the release of the context that freezes (R40, R248, R395). -/
def State.takeOrFail (s : State) (t : Nat) (p : PendTrap) : State × Option Cause :=
  match s.takeTrap t p with
  | (s, none) => (s, none)
  | (s, some (c, sealed_)) =>
    let s := s.modTh t fun u => { u with
      handler := some { depth := u.depth, cause := p.cause, since := s.cycle }, pend := none, preempt := none }
    match sealed_ with
    | none => (s, some c)
    | some a => (s.freeze (s.team (s.th t).team).ctx t (plainTrap c (dword a) p.pcn false s.trapStamp), none)

/-- R400: the watchdog limit of a context in cycles, as the last ladder start or the creation left it; none for WDOG 16
to 31. -/
def Context.watchdog (c : Context) : Option Nat :=
  let w := c.preemptLive.toNat / 2 ^ 16 % 32
  if w < 16 then some (2 ^ (w + 16)) else none

/-- Enters a set of threads in their handler as one bundle (R393, R394). -/
def State.enterSet (s : State) (g : Nat) (ts : List (Nat × PendTrap)) : State :=
  let (s, err) := ts.foldl (fun (acc : State × Option Cause) tp =>
    let (s, e) := acc.1.takeOrFail tp.1 tp.2
    (s, acc.2.orElse fun _ => e)) (s, none)
  match err with
  | some c => s.failHandler g c
  | none => match ts with
    | [] => s
    | (t, _) :: _ => match (s.ctxOf (s.th t)).watchdog with
      | some n => s.after n (.handlerWatchdog g)
      | none => s

/-- Threads of a group with a trap that waits for its handler. -/
def State.pendOf (s : State) (g : Nat) : List (Nat × Nat × PendTrap) :=
  (s.liveOf g).filterMap fun u => u.pend.map fun p => (u.rank, u.id, p)

/-- The order of R394 on waiting traps: lowest code, then lowest rank. -/
def trapBefore (a b : Nat × Nat × PendTrap) : Bool :=
  let x := causeCode a.2.2.cause
  let y := causeCode b.2.2.cause
  x < y || (x == y && a.1 < b.1)

/-- The waiting trap that R394 chooses. -/
def chooseTrap : List (Nat × Nat × PendTrap) → Option (Nat × Nat × PendTrap)
  | [] => none
  | p :: r => match chooseTrap r with
    | some q => if trapBefore q p then some q else some p
    | none => some p

/-- The one operation that begins a handler of a group (R394, R402): nothing while a handler runs or the context is
frozen; 0x50 once every live thread has taken it; else the chosen entry with every thread of its bundle, cause, PC and
cycle. -/
def State.enterHandlers (s : State) (g : Nat) : State :=
  let live := s.liveOf g
  match live with
  | [] => s
  | u :: _ =>
    let c := s.ctxOf u
    if c.frozen || live.any (fun u => u.handler.isSome) then s
    else if live.all fun u => u.preempt.isSome then
      s.enterSet g (live.map fun u => (u.id, plainTrap .preemption 0 (u.preempt.getD 0) false 0))
    else if c.preemptCtl.toNat / 2 ^ 29 == 2 then s
    else match chooseTrap (s.pendOf g) with
      | none => s
      | some (_, _, p) =>
        s.enterSet g ((s.pendOf g).filterMap fun q =>
          if q.2.2.cause == p.cause && q.2.2.pcn == p.pcn && q.2.2.stamp == p.stamp then some (q.2.1, q.2.2) else none)

/-- RETURN FROM AN EXCEPTION, for one thread (R397): the user's frame is reloaded and the thread stands at `pc` as a
clause start entered by a trap return. The error is the trap of a failed reload. -/
def State.leaveTrap (s : State) (t : Nat) (pc : DWord) (portable : Bool) : State × Option (Cause × Nat) :=
  match s.unslideWindow t (fun _ => true) with
  | (s, .error e) => (s, some e)
  | (s, .ok _) =>
    (s.modTh t fun u => { u with
      handler := none, replay := none, pc := pc, portable := portable, clause := none, entered := false
      byTransfer := false }, none)

/-- When no thread of a group is left in a handler, its watchdog stops and the next entry is chosen (R394). -/
def State.handlerOver (s : State) (g : Nat) : State :=
  if (s.liveOf g).any fun u => u.handler.isSome then s
  else (s.unTimer fun i => i == .handlerWatchdog g).enterHandlers g

end Sys2Proof.Machine

namespace Sys2Proof

open Machine

/-- The class of an operation in flight (R270, R294); none for one that no XFENCE names. -/
def Instr.path : Instr → Option Path
  | .ld _ _ _ _ _ _ _ _ | .st _ _ _ _ _ _ _ _ | .atom _ _ _ _ _ _ _ _ _ _ _ _ _ | .flushred _ | .accld _ _ _ _ _ _
  | .accst _ _ _ _ _ _ _ | .ldf _ _ _ _ _ _ _ _ _ | .fslot _ _ _ _ _ => some .core
  | .lds _ _ _ _ _ _ _ _ _ | .cpy _ _ _ _ _ _ _ _ _ _ _ => some .copy
  | .fetch _ _ _ _ _ _ => some .fetch
  | .tstep _ _ _ _ _ _ _ | .tlog _ _ _ _ _ _ _ => some .tree
  | .mopen _ _ _ _ | .mint _ _ _ _ | .muni _ _ _ _ | .msub _ _ _ _ | .mmadd _ _ _ _ _ | .mnext _ _ _ _
  | .mnextSt _ _ _ _ _ _ | .mclose _ _ => some .merge
  | .xlist _ _ _ _ _ _ | .xsend _ _ _ _ _ _ | .xrecv _ _ _ _ => some .exch
  | .dappend _ _ _ _ _ _ _ | .dcut _ _ _ _ | .dckpt _ _ _ _ _ _ | .dtake _ _ _ | .dcurs _ _ _ => some .duplex
  | .tpost _ _ _ => some .task
  | _ => none

end Sys2Proof

namespace Sys2Proof.Machine

/-- The engine paths of R168. -/
def Path.engine (p : Path) : Bool := p != .core

/-- The first fault of an engine operation that a thread holds (R326). -/
def Thread.engineFault (u : Thread) : Option FaultRec := u.faults.find? fun f => f.instr.path.any Path.engine

/-- Delivers a held fault record at a delivery point (R386, R387). -/
def State.deliver (s : State) (t : Nat) (f : FaultRec) (stamp : Nat) : State :=
  let s := s.modTh t fun u => { u with faults := u.faults.erase f }
  s.raise t
    { cause := f.cause, addr := f.addr, pcn := (s.th t).pc, res := false, defer := true, flag := f.flag, dreg := f.dreg,
      dcnt := f.dcnt, replay := if f.replay then some f else none, stamp := stamp }

/-! ## The current bundle -/

/-- How an instruction of a thread ends: the next slot, a taken transfer, a hold with the PC at the instruction, another
try at a later pass, a stall with what it waits for (R158), an exact trap, or the end of the thread. -/
inductive Next where
  | next
  | goto (pc : DWord) (portable : Bool)
  | wait (h : Hold)
  | retry
  | stall (w : Stall)
  | trap (c : Cause) (a : DWord)
  | gone
deriving DecidableEq, Repr

/-- The thread that issues now: the first of the first selected bundle. -/
def State.cur (s : State) : Option Thread := match s.issues with
  | i :: _ => match i.todo with
    | t :: _ => s.thread? t
    | [] => none
  | [] => none

/-- Moves a thread past its current instruction (R32, R70). -/
def Thread.advance (u : Thread) : Thread :=
  let closes := u.portable || (nextNative u.pc).2
  { u with pc := u.nextPc, clause := if closes then none else u.clause, entered := u.entered && !closes, byTransfer := false }
/-- Moves a thread past its current instruction. -/
def State.advance (s : State) (t : Nat) : State := s.modTh t Thread.advance
/-- Releases a held thread, which has completed its instruction. -/
def State.release (s : State) (t : Nat) : State := s.modTh t fun u => { u.advance with hold := .none }
/-- Releases a held thread with the registers that its instruction gives and what else `f` says of it. When an overflow entry
does not take one, the instruction raises its trap and has written nothing (R69). -/
def State.releaseWith (s : State) (t : Nat) (ws : List (Nat × Word)) (f : Thread → Thread) : State :=
  match s.landAll t (s.th t).wbase ws with
  | (s, none) => (s.modTh t f).release t
  | (_, some (c, a)) =>
    (s.modTh t fun u => { u with hold := .none }).raise t (plainTrap c (dword a) (s.th t).pc true (s.nextId * 8))
/-- Releases a held thread, which executes its instruction again. -/
def State.rerun (s : State) (t : Nat) : State := s.modTh t fun u => { u with hold := .none }

/-- Replaces the bundles that still issue in this pass. -/
def State.setIssues (s : State) (q : List Issue) : State := { s with issues := q }
/-- Changes the first selected bundle. -/
def State.modIssue (s : State) (f : Issue → Issue) : State := match s.issues with
  | i :: r => s.setIssues (f i :: r)
  | [] => s

/-- Whether no further thread of a group issues in the current cycle, the thread that issues now apart (R159). -/
def State.cycleOver (s : State) (g : Nat) : Bool := match s.issues with
  | [] => true
  | i :: rest =>
    let of (j : Issue) : Bool := (s.th (j.all.headD 0)).group == g
    !of i || (i.todo.tail.isEmpty && !rest.any fun j => i.left ≤ j.left && of j)

/-- A group's issue in a cycle is over (R173, R394): its rendezvous are tested next, or traps raised in the cycle enter their
handler. -/
def State.cycleEnd (s : State) (g : Nat) : State :=
  if !(s.group g).arrivals.isEmpty then { s with meetDue := s.meetDue ++ [g] }
  else if (s.pendOf g).isEmpty then s else s.enterHandlers g

/-- The end of a slot of the first selected bundle once each of its threads has issued it (R159): the bundle goes on to
its next slot in the next cycle, or ends; the group's rendezvous are then tested (R173), and traps raised in this cycle enter their handler. -/
def State.slotEnd (s : State) : State := match s.issues with
  | [] => s
  | i :: rest =>
    if !i.todo.isEmpty then s
    else
      let us := i.done.map s.th
      let left := i.left - (if us.any Thread.portable then 2 else 1)
      let go := !i.ends && 0 < left && !us.isEmpty && us.all fun u => u.portable || u.clause.isSome
      let s := s.setIssues (if go then rest ++ [{ i with todo := i.done, done := [], left := left, begun := false }] else rest)
      let g := (s.th (i.all.headD 0)).group
      if rest.any fun j => j.left ≥ i.left && (s.th (j.all.headD 0)).group == g then s else s.cycleEnd g

/-- One thread's instruction ends; the bundle's next thread follows (R159). -/
def State.finish (s : State) (t : Nat) (n : Next) : State :=
  let s := match n with
    | .next =>
      let s := s.advance t
      if (s.th t).hold == Hold.none then s.modIssue fun i => { i with done := i.done ++ [t] }
      else s.modIssue fun i => { i with ends := true }
    | .goto pc portable =>
      (s.modTh t fun u => { u with pc := pc, portable := portable, clause := none, entered := false, byTransfer := true }).modIssue
        fun i => { i with ends := true }
    | .wait h => (s.modTh t fun u => { u with hold := h }).modIssue fun i => { i with ends := true }
    | .retry => s.modIssue fun i => { i with ends := true }
    | .stall w => (s.modTh t fun u => { u with stall := some w }).modIssue fun i => { i with ends := true }
    | .trap c a => (s.raise t (plainTrap c a (s.th t).pc true s.trapStamp)).modIssue fun i => { i with ends := true }
    | .gone => s.modIssue fun i => { i with ends := true }
  (s.modIssue fun i => { i with todo := i.todo.tail, begun := true }).slotEnd

/-! ## Instructions in portable code that name entries of an overflow block (R68, R69) -/

/-- The overflow entries that an instruction's operands name. -/
def ovfRegs (dst : Bool) (l : List (Bool × Opd × Nat)) : List Nat :=
  l.flatMap fun p => if p.1 == dst then (match p.2.1 with
    | .v n => ((upto p.2.2).map (n.val + ·)).filter (128 ≤ ·)
    | _ => []) else []

/-- A format slot of a context as a core sees it (R206, R209): the whole descriptor that it holds, or the old one where a write to
it is not yet visible. -/
def State.slotBits (s : State) (core ctx h : Nat) : BitVec 512 :=
  match s.oldSlots.find? fun x => x.path.isNone && x.core == core && x.ctx == ctx && x.slot == h with
  | some x => x.bits
  | none => ((s.ctx ctx).slots[h]?).getD plainSlot
/-- A format slot of a context as a core sees it. -/
def State.slot (s : State) (core ctx h : Nat) : SlotD := slotOf (s.slotBits core ctx h)

/-- The cores that host live threads of a context. -/
def State.coresOfCtx (s : State) (ctx : Nat) : List Nat :=
  ((s.threads.filter fun u => u.status == .live && (s.team u.team).ctx == ctx).map s.hostOf).eraseDups

/-- The view of a format slot that the engines of a path have for commands of threads other than its writer (R209). -/
def State.engView (s : State) (ctx h : Nat) (p : Path) : Option SlotView :=
  s.oldSlots.find? fun x => x.path == some p && x.ctx == ctx && x.slot == h
/-- A format slot as the engines of a path see it for a command of a thread (R209): the writing thread's commands use the new
contents, those of other threads the old ones until an XFENCE. -/
def State.engSlotBits (s : State) (th : Thread) (p : Path) (h : Nat) : BitVec 512 :=
  let ctx := (s.team th.team).ctx
  match (s.engView ctx h p).filter fun x => x.writer != th.id with
  | some x => x.bits
  | none => s.slotBits (s.hostOf th) ctx h

/-- A format slot is written (R85, R209): the writer's core sees it at once; the other cores with threads of the context see the old
descriptor until they acquire, and the engines that decode by slots until an XFENCE (log 35). The writer is a core and a thread, none
for a load. -/
def State.writeSlot (s : State) (writer : Option (Nat × Nat)) (ctx h : Nat) (w : BitVec 512) : State :=
  let core := writer.map Prod.fst
  let others := (s.coresOfCtx ctx).filter fun c => some c != core
  let old := others.map fun c => ({ path := none, writer := 0, core := c, ctx := ctx, slot := h, bits := s.slotBits c ctx h } : SlotView)
  let eng := match writer with
    | none => []
    | some (c, t) => [Path.copy, Path.fetch, Path.tree].map fun p =>
      ({ path := some p, writer := t, core := c, ctx := ctx, slot := h
         bits := ((s.engView ctx h p).map SlotView.bits).getD (((s.ctx ctx).slots[h]?).getD plainSlot) } : SlotView)
  let kept := s.oldSlots.filter fun x => !(x.ctx == ctx && x.slot == h &&
    if x.path.isSome then !eng.isEmpty else some x.core == core || others.contains x.core)
  { s.modCtx ctx fun c => { c with slots := c.slots.set h w } with oldSlots := kept ++ old ++ eng }

/-- The slot writes of a context become visible to every core: to one of them, or to all (R85, R209). -/
def State.seeSlots (s : State) (p : SlotView → Bool) : State := { s with oldSlots := s.oldSlots.filter fun x => !p x }

/-- A stall as an instruction's end (R158): a store that does not fit a speculation's buffer holds its thread until its group
commits or is rolled back (R279). -/
def Stall.next : Stall → Next
  | .spec => .wait .spec
  | w => .stall w

/-- How an access to an overflow entry that does not complete ends its instruction: 0x33 or 0x12 (R69), and a store that does
not fit a speculation's buffer stalls (R279). -/
def Stop.ovfNext : Stop → Next
  | .stall w => w.next
  | e => .trap (spillStop e).1 (dword (spillStop e).2)

/-- Loads the overflow entries that an instruction reads. -/
def State.loadOvf (s : State) (t : Nat) : List Nat → State × Option Next
  | [] => (s, none)
  | n :: r =>
    let th := s.th t
    match s.loadG th th.privileged (th.ovfAddr n) 4 with
    | (s, .error e) => (s, some e.ovfNext)
    | (s, .ok b) => (s.modTh t fun u => u.put n (word (leNat b))).loadOvf t r

/-- Stores the overflow entries that an instruction wrote. -/
def State.storeOvf (s : State) (t : Nat) : List Nat → State × Option Next
  | [] => (s, none)
  | n :: r =>
    let th := s.th t
    match s.storeG th th.privileged (th.ovfAddr n) 0 (leBytes 4 (th.get n).toNat) with
    | (s, .error e) => (s, some e.ovfNext)
    | (s, .ok _) => s.storeOvf t r

/-- Drops the overflow entries that an instruction used. -/
def State.dropOvf (s : State) (t : Nat) : State := s.modTh t fun u => { u with ovf := [] }

/-- The operands whose overflow entries an instruction reads: all of them, and in a thread whose guard fails only the member
mask that it reads all the same (R21, R172). -/
def ovfOpds (i : Instr) (guard : Bool) (slot : Nat → SlotD) : List (Bool × Opd × Nat) :=
  if guard then i.opds slot
  else match i with
    | .shfl _ _ _ _ _ _ _ c | .vote _ _ _ _ c | .ballot _ _ _ c | .matchv _ _ _ _ c | .compact _ _ _ c
    | .scan _ _ _ _ _ _ c | .gred _ _ _ _ _ c | .mnext _ _ _ c => [(false, c, 1)]
    | _ => []

/-- Runs an instruction with the overflow entries it names; native code names none (R60). A thread whose guard fails raises
no trap for an entry of its mask: the mask then reads 0 (R21, log 27). -/
def State.withOvf (s : State) (t : Nat) (i : Instr) (guard : Bool) (f : State → Thread → State × Next) : State × Next :=
  let ctx := (s.team (s.th t).team).ctx
  let l := if (s.th t).portable then ovfOpds i guard (s.slot (s.hostOf (s.th t)) ctx) else []
  match s.loadOvf t (ovfRegs false l) with
  | (s', some n) => if guard then (s'.dropOvf t, n) else
    let (s, n) := f s (s.th t)
    (s.dropOvf t, n)
  | (s, none) =>
    let (s', n) := f s (s.th t)
    match s'.storeOvf t ((ovfRegs true l).filter fun k => (assoc (s'.th t).ovf k).isSome) with
    | (_, some n) => (s.dropOvf t, n)
    | (s', none) => (s'.dropOvf t, n)

/-- Whether the slot that issues now has begun: a thread of its bundle has issued it (R159). -/
def State.slotBegun (s : State) : Bool := match s.issues with
  | i :: _ => i.begun
  | [] => false

/-- R248: whether a thread's context has stopped issuing. In the cycle in which a write freezes it, the threads of that bundle
that have still to issue the slot issue it (R243). -/
def State.stopped (s : State) (th : Thread) : Bool := (s.ctxOf th).frozen && !s.slotBegun

/-- Whether a group may issue an instruction of a class (R166): a group with a role the common class and its role's, and none
of a team with roles the barred class. -/
def State.roleAdmits (s : State) (th : Thread) (c : Cls) : Bool :=
  (s.group th.group).role.admits c && !(c == .barred && (s.team th.team).hasRoles)

/-- The checks of a thread instruction that do not depend on its guard: the freeze of its context (R248), order 7 of
R65, and its group's role (R167). -/
def State.preIssue (s : State) (th : Thread) (i : Instr) : Option Next :=
  if s.stopped th then some .retry
  else if !th.privileged && (i.needsPrivilege || i.writesConst) then some (.trap .privilege th.pc)
  else if !th.privileged && !s.roleAdmits th i.cls then some (.trap .roleViolation th.pc)
  else none

/-- One thread instruction whose meaning sees its guard: the shared checks, then `f`. -/
def State.issueG (s : State) (i : Instr) (x : X) (f : Bool → State → Thread → State × Next) : State :=
  match s.cur with
  | none => s
  | some th => match s.preIssue th i with
    | some n => s.finish th.id n
    | none =>
      let g := th.psel x.g
      if g && th.spec.isSome && i.specStalls then s.finish th.id (.wait .spec)
      else
        let r := s.withOvf th.id i g (f g)
        r.1.finish th.id r.2

/-- One thread instruction (R21): a guard that fails makes it a no-operation. -/
def State.issue (s : State) (i : Instr) (x : X) (f : State → Thread → State × Next) : State :=
  s.issueG i x fun g s th => if g then f s th else (s, .next)

/-- An access's stop as an instruction's end (R142 exact delivery, R311 stall). -/
def Stop.next : Stop → Next
  | .fault c a => .trap c (dword a)
  | .stall w => w.next

end Sys2Proof.Machine
end

