-- ==== Sys2Proof/Machine/Special.lean ====
section
/-!
DEFINITION. Special and control registers: what GETSR reads and SETSR writes (R13, R14, R123 to R125) and the rules of
each register that some code may write (R22 to R26, R41 to R44, R170, R309, R389 to R391, R400, R404).
-/

namespace Sys2Proof.Machine

/-- Registers that only privileged code reads (R124). -/
def srReadPriv : SReg → Bool
  | .trapBase | .trapCause | .trapAddr | .trapPcn | .trapPcx | .trapEqp | .saveBase | .preemptCtl => true
  | _ => false
/-- Registers that only privileged code writes (R124). -/
def srWritePriv : SReg → Bool
  | .fstat | .fmode | .fseed => false
  | _ => true

/-- Clusters of the grid: CX * CY * CZ, and 1 for a task (R149, R355). -/
def State.launchClusters (s : State) : Owner → Nat
  | .launch l => let g := (s.launchOf l).geom; field g 0 2 * field g 2 2 * field g 4 2
  | .item _ _ _ _ => 1

/-- ReadSR: what a register reads (R124). -/
def State.readSr (s : State) (th : Thread) : SReg → DWord
  | .fast c => (s.fastSr th c).zeroExtend 64
  | .tid => th.tid
  | .cycle64 => dword s.nowCycle
  | .hcore => dword (s.team th.team).home
  | .glade => dword (gladeOf (s.hostOf th))
  | .die => dword (dieOf (s.hostOf th))
  | .module => dword s.moduleNo
  | .nthr => dword (s.team th.team).nthr
  | .nteam => dword (s.cluster (s.team th.team).cluster).cores.length
  | .nclu => dword (if (s.team th.team).task.isSome then 1 else s.launchClusters (s.team th.team).launch)
  | .launch => (s.team th.team).number
  | .fstat => th.fstat.zeroExtend 64
  | .fmode => th.fmode.zeroExtend 64
  | .fseed => th.fseed.zeroExtend 64
  | .spillBase => th.spillBase
  | .spillLimit => th.spillLimit.zeroExtend 64
  | .spillPtr => th.spillPtr.zeroExtend 64
  | .trapBase => (s.ctxOf th).trapBase
  | .trapCause => th.trapCause.zeroExtend 64
  | .trapAddr => th.trapAddr
  | .trapPcn => th.trapPcn
  | .trapPcx => th.trapPcx
  | .trapEqp => th.trapEqp.zeroExtend 64
  | .saveBase => (s.ctxOf th).saveBase
  | .preemptCtl => (s.ctxOf th).preemptCtl.zeroExtend 64
  | .ctxId => dword (s.team th.team).ctx
  | .specCtl => (s.team th.team).specCtl.zeroExtend 64
  | .specCommit => (s.team th.team).specCommit.zeroExtend 64
  | .specRollback => (s.team th.team).specRollback.zeroExtend 64
  | .migPolicy => (let c := s.core (s.hostOf th); c.migNext.getD c.migPolicy).zeroExtend 64
  | .mmaThrottle => ((s.core (s.hostOf th)).throttled s.nowCycle).zeroExtend 64

/-- The bits of a register that are reserved: a SETSR that writes 1 to one raises 0x02 (R14). -/
def srReserved : SReg → Nat
  | .fstat => 0xFFFFFFC0
  | .fmode => 0xFFFFC080
  | .spillBase => 0xFE0000000000003F
  | .spillLimit => 0x3F
  | .trapBase => 0xFE00000000000FFF
  | .trapCause => 0xF00
  | .saveBase => 0xFFFFC0000000FFE0
  | .preemptCtl => 0x1FE00000
  | .specCtl => 0x7FFFFFC0
  | .migPolicy => 0x1FF00000
  | _ => 0

/-- R404: whether a SAVE_BASE value keeps the limits: copy A below 0xC0_0000_0000 and no sealed frame in either copy. -/
def State.saveOk (s : State) (v : DWord) : Bool :=
  let base := v.toNat / 65536 * 65536 % 2 ^ 46
  let frames := 2 ^ (v.toNat % 32)
  v == 0 || (v.toNat % 32 ≤ 20 && base + frames * 65536 ≤ 0xC000000000 &&
    !s.seals.any fun r => r.frames.any fun f =>
      let p := f * 65536 % 2 ^ 46
      (base ≤ p && p < base + frames * 65536) ||
        (base + 0xC000000000 ≤ p && p < base + 0xC000000000 + frames * 65536))

/-- WriteSR: the effect of SETSR on a register (R13, R14). A write that the register's rules refuse raises 0x02. -/
def State.writeSr (s : State) (th : Thread) (sr : SReg) (v : DWord) : State × Next :=
  let w := loWord v
  let bad : State × Next := (s, .trap .reservedField th.pc)
  let me := fun (f : Thread → Thread) => (s.modTh th.id f, Next.next)
  let ctx := (s.team th.team).ctx
  if srWritePriv sr && !th.privileged then (s, .trap .privilege th.pc)
  else if v.toNat &&& srReserved sr != 0 then bad
  else match sr with
  | .fstat => me fun u => { u with fstat := w }
  | .fmode => me fun u => { u with fmode := w }
  | .fseed => me fun u => { u with fseed := if w == 0 then 1 else w }
  | .spillBase => if th.spillPtr == 0 then me fun u => { u with spillBase := v } else bad
  | .spillLimit => if th.spillPtr == 0 then me fun u => { u with spillLimit := w } else bad
  | .trapCause =>
    let drop := w.getLsbD 14
    let keep := th.trapCause.getLsbD 14 && !drop
    me fun u => { u with
      trapCause := (w &&& 0xFFFFBFFF#32) ||| (if keep then 0x4000#32 else 0#32), replay := if keep then u.replay else none }
  | .trapAddr => me fun u => { u with trapAddr := v }
  | .trapPcn => me fun u => { u with trapPcn := v }
  | .trapPcx => me fun u => { u with trapPcx := v }
  | .trapEqp => me fun u => { u with trapEqp := w }
  | .trapBase => (s.modCtx ctx fun c => { c with trapBase := v }, .next)
  | .saveBase =>
    let c := s.ctx ctx
    if s.saveOk v && c.preemptCtl.toNat / 2 ^ 29 == 0 && c.images.isEmpty then
      (s.modCtx ctx fun c => { c with saveBase := v }, .next) else bad
  | .preemptCtl => (s.modCtx ctx fun c =>
      { c with preemptCtl := (c.preemptCtl &&& 0xE0000000#32) ||| (w &&& 0x1FFFFFFF#32) }, .next)
  | .specCtl => (s.modTeam th.team fun t => { t with specCtl := w }, .next)
  | .migPolicy => (s.modCore (s.hostOf th) fun c => { c with migNext := some w }, .next)
  | _ => bad

/-- The value that SETSR writes: a register, or a pair for a 64-bit register (R123). -/
def State.srValue (s : State) (th : Thread) (sr : SReg) (a : Opd) : DWord :=
  if Wf.wide sr then s.rd64 th a else (s.rd32 th a).zeroExtend 64

/-- GETSR (R123). -/
def execGetsr (x : X) (d : Opd) (sr : SReg) (s : State) : Result :=
  .next (s.issue (.getsr x d sr) x fun s th =>
    if srReadPriv sr && !th.privileged then (s, .trap .privilege th.pc)
    else if Wf.wide sr then (s.wr64 th.id d (s.readSr th sr), .next)
    else (s.wr32 th.id d (loWord (s.readSr th sr)), .next))

/-- SETSR (R123). -/
def execSetsr (x : X) (sr : SReg) (a : Opd) (s : State) : Result :=
  .next (s.issue (.setsr x sr a) x fun s th => s.writeSr th sr (s.srValue th sr a))

/-- SETSR of FSEED (R26). -/
def execFseedWrite (x : X) (a : Opd) (s : State) : Result :=
  .next (s.issue (.fseedWrite x a) x fun s th => s.writeSr th .fseed (s.srValue th .fseed a))
/-- SETSR of SPILL_BASE (R41, R44). -/
def execSpillBaseWrite (x : X) (a : Opd) (s : State) : Result :=
  .next (s.issue (.spillBaseWrite x a) x fun s th => s.writeSr th .spillBase (s.srValue th .spillBase a))
/-- SETSR of SPILL_LIMIT (R42, R44). -/
def execSpillLimitWrite (x : X) (a : Opd) (s : State) : Result :=
  .next (s.issue (.spillLimitWrite x a) x fun s th => s.writeSr th .spillLimit (s.srValue th .spillLimit a))
/-- SETSR of TRAP_CAUSE: writing 1 to REPLAY drops the replay record (R389). -/
def execTrapCauseWrite (x : X) (a : Opd) (s : State) : Result :=
  .next (s.issue (.trapCauseWrite x a) x fun s th => s.writeSr th .trapCause (s.srValue th .trapCause a))
/-- SETSR of TRAP_BASE (R391). -/
def execTrapBaseWrite (x : X) (a : Opd) (s : State) : Result :=
  .next (s.issue (.trapBaseWrite x a) x fun s th => s.writeSr th .trapBase (s.srValue th .trapBase a))
/-- SETSR of SAVE_BASE (R404). -/
def execSaveBaseWrite (x : X) (a : Opd) (s : State) : Result :=
  .next (s.issue (.saveBaseWrite x a) x fun s th => s.writeSr th .saveBase (s.srValue th .saveBase a))
/-- SETSR of PREEMPT_CTL (R400). -/
def execPreemptCtlWrite (x : X) (a : Opd) (s : State) : Result :=
  .next (s.issue (.preemptCtlWrite x a) x fun s th => s.writeSr th .preemptCtl (s.srValue th .preemptCtl a))
/-- SETSR of MIG_POLICY: it takes effect at the core's next window boundary (R170). -/
def execMigPolicyWrite (x : X) (a : Opd) (s : State) : Result :=
  .next (s.issue (.migPolicyWrite x a) x fun s th => s.writeSr th .migPolicy (s.srValue th .migPolicy a))
/-- SETSR of SPEC_CTL (R309). -/
def execSpecCtlWrite (x : X) (a : Opd) (s : State) : Result :=
  .next (s.issue (.specCtlWrite x a) x fun s th => s.writeSr th .specCtl (s.srValue th .specCtl a))
/-- SETSR of any register that some code may write (R13, R14, R123). -/
def execControlRegisterWrite (x : X) (sr : SReg) (a : Opd) (s : State) : Result :=
  .next (s.issue (.controlRegisterWrite x sr a) x fun s th => s.writeSr th sr (s.srValue th sr a))

end Sys2Proof.Machine
end

