-- ==== Sys2Proof/Machine/Control.lean ====
section
/-!
DEFINITION. Transfers, calls and returns (R117, R118), YIELD and SLEEP (R120), TRAP and TFENCE (R121, R122), the return
from a handler (R396, R397) and the lookup of the translation directory (R447).
-/

namespace Sys2Proof.Machine

/-- The address that a B-format target names (R58, R67). -/
def Thread.targetPc (th : Thread) : Target → DWord
  | .line loff slot => dword (th.pc.toNat / 64 * 64) + ((loff.signExtend 64) <<< 6) + dword slot.val
  | .off o => th.pc + o.signExtend 64

/-- CheckTarget (R117): whether the target's image is portable, or the trap. A B-format target lies in the image in which
its transfer stands. -/
def State.checkTarget (s : State) (th : Thread) (same : Bool) (pc : DWord) : Except Next Bool :=
  let ctx := (s.team th.team).ctx
  match s.target ctx pc with
  | none => .error (.trap .illegalTarget pc)
  | some (o, im) =>
    let here := (s.imageAt ctx th.pc.toNat).map fun p => (p.1.handle, p.2.base, p.2.kind)
    if same && here != some (o.handle, im.base, im.kind) then .error (.trap .illegalTarget pc)
    else .ok (im.kind == 1)

/-- NOP ignores its guard (R55). -/
def execNop (x : X) (s : State) : Result := .next (s.issueG (.nop x) x fun _ s _ => (s, .next))

/-- BRA (R118). -/
def execBra (x : X) (t : Target) (s : State) : Result :=
  .next (s.issue (.bra x t) x fun s th =>
    match s.checkTarget th true (th.targetPc t) with
    | .error n => (s, n)
    | .ok p => (s, .goto (th.targetPc t) p))

/-- BRX (R118). -/
def execBrx (x : X) (a : Opd) (s : State) : Result :=
  .next (s.issue (.brx x a) x fun s th =>
    match s.checkTarget th false (s.rd64 th a) with
    | .error n => (s, n)
    | .ok p => (s, .goto (s.rd64 th a) p))

/-- The portable bytes of a function: from its entry to the next entry or the end of its range (R447). -/
def CodeObj.fnExtent (o : CodeObj) (im : Image) (entry : Nat) : Nat :=
  let stop := ((im.ranges.find? fun r => r.1 ≤ entry && entry < r.2).map (·.2)).getD entry
  (o.funcs.foldl (fun e f => if entry < f.portable && f.portable < e then f.portable else e) stop) - entry

/-- The native entry of a function for an image kind; 0 when there is none (R81). -/
def Func.native (f : Func) (kind : CoreKind) : Nat := if kind == .bramble then f.bramble else f.larch

/-- R447: the directory lookup of a portable function without a native image of the host kind. An absent entry is
claimed; a ready one is mapped. -/
def State.xlateLookup (s : State) (ctx core : Nat) (pc : DWord) : State :=
  if s.xdirBase == 0 || s.xdirCount == 0 then s
  else match s.imageAt ctx pc.toNat with
  | none => s
  | some (o, im) =>
    let kind := kindOf core
    match (o.fnAt 1 pc.toNat).bind fun k => (o.funcs[k]?).map fun f => (k, f) with
    | none => s
    | some (k, f) =>
      if im.kind != 1 || f.native kind != 0 || s.xreqs.any (fun r => r.ctx == ctx && r.handle == o.handle && r.fidx == k && r.kind == kind) then s
      else match s.engPieces core ctx true .fetch (piecesOf f.portable (o.fnExtent im f.portable)) with
      | (s, .error _) => s
      | (s, .ok code) =>
        let key := shake256 (code ++ leBytes 8 Config.features ++ [byte (kindNum kind)]) 32
        let e := s.xdirBase.toNat + 128 * (leNat (key.take 8) % s.xdirCount)
        let old := s.homeRead e 128
        let req : XReq := { key := key, entry := e, kind := kind, since := s.cycle, handle := o.handle, ctx := ctx, fidx := k }
        let mine := old.take 32 == key || allZero (old.take 32)
        if !mine then s
        else
          let s := { s with xreqs := s.xreqs ++ [req] }
          match field old 32 1 with
          | 0 =>
            let owner := key ++ [1#8, byte (dieOf core)] ++ leBytes 6 Config.serial.toNat ++ List.replicate 88 0#8
            (s.homePut e owner).after (100 * Config.cyclesPerMs) (.translationBuildTimeout key)
          | 1 => s.after (100 * Config.cyclesPerMs) (.translationBuildTimeout key)
          | 2 => s.once (.translationBuildComplete key kind (dword (field old 40 8)) (field old 48 4))
          | _ => s

/-- R449: a call of a portable function whose native image the builder has added runs that image. -/
def State.callEntry (s : State) (ctx core : Nat) (pc : DWord) (portable : Bool) : DWord × Bool :=
  if !portable then (pc, false)
  else match s.imageAt ctx pc.toNat with
  | none => (pc, true)
  | some (o, _) => match (o.fnAt 1 pc.toNat).bind fun k => (o.funcs[k]?).map fun f => (k, f) with
    | none => (pc, true)
    | some (k, f) =>
      let kind := kindOf core
      if f.portable == pc.toNat && o.joined.contains (k, imageKind kind) then (dword (f.native kind), false) else (pc, true)

/-- CALL and CALLX on a checked target (R118). -/
def State.callOp (s : State) (th : Thread) (pc : DWord) (portable : Bool) (n : Nat) : State × Next :=
  if th.depth == maxDepth then (s, .trap .spill 0)
  else
    let ctx := (s.team th.team).ctx
    let core := s.hostOf th
    let s := if portable then s.xlateLookup ctx core pc else s
    let (pc, portable) := s.callEntry ctx core pc portable
    match s.slideWindow th.id n th.nextPc (if portable then s.frameOf ctx pc else 0) with
    | (s, some (c, a)) => (s, .trap c (dword a))
    | (s, none) => (s, .goto pc portable)

/-- CALL (R118). -/
def execCall (x : X) (t : Target) (nsl : Fin 16) (s : State) : Result :=
  .next (s.issue (.call x t nsl) x fun s th =>
    match s.checkTarget th true (th.targetPc t) with
    | .error n => (s, n)
    | .ok p => s.callOp th (th.targetPc t) p (8 * nsl.val))

/-- CALLX (R118). -/
def execCallx (x : X) (a : Opd) (nsl : Fin 16) (s : State) : Result :=
  .next (s.issue (.callx x a nsl) x fun s th =>
    match s.checkTarget th false (s.rd64 th a) with
    | .error n => (s, n)
    | .ok p => s.callOp th (s.rd64 th a) p (8 * nsl.val))

/-- RET (R118): the recorded return PC must be a legal target (R39, R117). -/
def execRet (x : X) (s : State) : Result :=
  .next (s.issue (.ret x) x fun s th =>
    let ctx := (s.team th.team).ctx
    match s.unslideWindow th.id (fun pc => (s.target ctx pc).isSome) with
    | (s, .error (c, a)) => (s, .trap c (dword a))
    | (s, .ok pc) => match s.target ctx pc with
      | some (_, im) => (s, .goto pc (im.kind == 1))
      | none => (s, .trap .illegalTarget pc))

/-- YIELD: not eligible in the next bundler pass; the clause goes on (R120). -/
def execYield (x : X) (s : State) : Result :=
  .next (s.issue (.yield x) x fun s th => (s.modTh th.id fun u => { u with skipPass := true }, .next))

/-- SLEEP: not eligible for max(IMM, 1) cycles; the thread has completed the instruction (R120). -/
def execSleep (x : X) (imm : Word) (s : State) : Result :=
  .next (s.issue (.sleep x imm) x fun s th =>
    let wake := s.nowCycle + max imm.toNat 1
    ({ (s.modTh th.id fun u => { u with hold := .sleep wake }) with
      timers := s.timers ++ [(wake, .sleepEnd th.id)] }, .next))

/-- TRAP (R121). -/
def execTrap (x : X) (imm : Word) (s : State) : Result :=
  .next (s.issue (.trap x imm) x fun s _ => (s, .trap .userTrap (imm.zeroExtend 64)))

/-- TFENCE (R122). -/
def execTfence (x : X) (s : State) : Result :=
  .next (s.issue (.tfence x) x fun s th =>
    if th.pendArith != 0 then (s, .trap .arithmetic (dword th.pendArith)) else (s, .next))

/-- The PC that follows `pc` (R32, R70): in portable code the length is that of the instruction that stands there, and in native code
it is the next slot of the line, behind a REORDER too (R187, R397, log 43). -/
def State.pcAfter (s : State) (th : Thread) (pc : DWord) : State × DWord :=
  let ctx := (s.team th.team).ctx
  match s.imageAt ctx pc.toNat with
  | some (_, im) =>
    if im.kind == 1 then match s.loadG { th with spec := none } true pc.toNat 4 with
      | (s, .ok b) => (s, pc + dword (portableLen (leNat b)))
      | (s, .error _) => (s, pc + 8#64)
    else (s, (nextNative pc).1)
  | none => (s, (nextNative pc).1)

/-- The return of R397, after any replay: `after` selects the PC that follows TRAP_PCN. -/
def State.returnOp (s : State) (th : Thread) (after : Bool) : State × Next :=
  let (s, t) := if after then s.pcAfter th th.trapPcn else (s, th.trapPcn)
  match s.checkTarget th false t with
  | .error n => (s, n)
  | .ok p => match s.leaveTrap th.id t p with
    | (s, some (c, a)) => (s, .trap c (dword a))
    | (s, none) => (s.handlerOver th.group, .gone)

/-- R397: a return outside a handler, or with an unmatched CALL inside it, raises 0x02. -/
def Thread.returnBad (th : Thread) : Bool := match th.handler with
  | none => true
  | some h => th.depth != h.depth + 1

/-- TRET (R396, R397). -/
def execTret (x : X) (s : State) : Result :=
  .next (s.issue (.tret x) x fun s th =>
    if th.returnBad then (s, .trap .reservedField th.pc)
    else s.returnOp th (th.trapCause.getLsbD 13))

end Sys2Proof.Machine
end

