-- ==== Sys2Proof/Machine/Fresh.lean ====
section
/-!
DEFINITION. New records: a thread in the state of R18, a group (R163, R214), a team at admission (R153, R309, R310), a
cluster, a launch and a context.
-/

namespace Sys2Proof.Machine

/-- FSEED at launch (R26). -/
def seedOf (tid : DWord) : Word :=
  let x := loWord tid ^^^ 0x9E3779B9#32
  if x == 0 then 1 else x

/-- A thread in its launch state (R18, R24, R26, R41, R389, R390). -/
def Thread.fresh (id team group rank tindex : Nat) (tid : DWord) (fmode : Word) (spillBase : DWord) (spillLimit : Word)
    (pc : DWord) (portable : Bool) : Thread :=
  { id := id, tid := tid, team := team, group := group, rank := rank, tindex := tindex, status := .live
    regs := Vector.replicate 128 0, wbase := 0, depth := 0, hidden := [], late := [], frames := [], pushBlock := false
    ovf := [], preds := 0, flags := Vector.replicate 12 0, trail := 0, fstat := 0, fmode := fmode, fseed := seedOf tid
    spillBase := spillBase, spillLimit := spillLimit, spillPtr := 0, pc := pc, portable := portable, entered := false
    byTransfer := true, clause := none, hold := .none, stall := none, skipPass := false, waitCount := 0, trapCause := 0, trapAddr := 0
    trapPcn := 0, trapPcx := 0, trapEqp := 0xFFFFFFFF, replay := none, faults := [], pend := none, preempt := none
    handler := none, eqp := none, redBuf := [], redBatch := 0, spec := none, noSpec := [], reorder := none }

/-- A group at its creation (R149, R163). -/
def Group.fresh (id core grp stamp : Nat) (role : Role) (present : BitVec 4) : Group :=
  { id := id, core := core, grp := grp, resident := true, role := role, stamp := stamp, slices := present
    j := Vector.replicate 16 0, g := Vector.replicate 8 ConvReg.empty, tiles := [], target := none, moveHold := false
    arrivals := [], beadNo := 0, beadCores := [], statS := 0, statP := 0, saved := false }

/-- A team at admission (R153, R309, R310, R342). -/
def Team.fresh (id ctx cluster : Nat) (launch : Owner) (number : DWord) (hteam nthr : Nat) (d : TeamDecl) (prio : Nat)
    (kinds : List CoreKind) (home base seqNo : Nat) (consts : List Word) : Team :=
  { id := id, ctx := ctx, cluster := cluster, launch := launch, number := number, hteam := hteam, nthr := nthr
    tsize := d.tsize, regsB := d.regsB, spadK := d.spadK, specS := d.specS, hasRoles := d.hasRoles, prio := prio, kinds := kinds, home := home
    base := base, spad := [], consts := consts ++ List.replicate (64 - consts.length) 0#32, state := .waiting
    seqNo := seqNo, specCtl := if d.specS == 0 then 0x20#32 else 0x80000020#32, specCommit := 0, specRollback := 0
    merge := List.replicate 8 .closed, stallAt := none, blockedAt := none, task := none, specObjs := [], objs := [],
    lastCore := home, parkOrder := 0 }

/-- A team declaration with nothing declared but its shape. -/
def TeamDecl.plain (tsize regsB : Nat) : TeamDecl :=
  { fidx := 0, tsize := tsize, regsB := regsB, spadK := 0, specS := 0, spillP := 0, fmode := 0, roles := [], hasRoles := false }

/-- A context at its creation, with the fields of its descriptor (R400, R404, R391, R440). -/
def Context.fresh (id : Nat) (root handles : DWord) (handleCount lattol dctx : Nat) (trapBase saveBase : DWord)
    (preemptCtl : Word) (queues : List TaskQueue) (session queue : Nat) : Context :=
  { id := id, root := root, handles := handles, handleCount := handleCount, lattol := lattol, dctx := dctx
    trapBase := trapBase, saveBase := saveBase, preemptCtl := preemptCtl, preemptLive := preemptCtl, slots := List.replicate 64 plainSlot, objs := []
    queues := queues, kept := [], taskCount := [], startGlade := 0, taskGlade := 0, images := []
    frozen := false, frozenSince := 0, frozenAt := 0, frozenFaults := [], errNo := 0, session := session, queue := queue, destroyed := false, ladderAt := 0
    saveItem := none }

end Sys2Proof.Machine
end

