-- ==== Sys2Proof/Machine/Phase.lean ====
section
/-!
DEFINITION. Atomics at their home (R263, R289), deferred reductions and their flush points (R266, R267, R291), publishes
with the arrivals that wait for them (R257, R301), and the release of threads that wait for completion flags.
-/

namespace Sys2Proof.Machine

/-- The arithmetic environment of atomics: RN, subnormals kept, FMODE ignored (R289). -/
def atomArith : Arith := Arith.of 0#32 1#32 (some .rn)

/-- The new value of an atomic's bytes (R289); none when a cas makes no write. -/
def atomNew (op : Aop) (ty : Ty) (old b c : Nat) : Option Nat :=
  let w := ty.bits
  let io := tyInt ty old
  let ib := tyInt ty b
  let flt := ty == .f32 || ty == .f64
  match op with
  | .add => some (if flt then (fop atomArith .add ty false false old b 0).1 else wrapTo w (io + ib))
  | .min => some (if flt then (fminmax atomArith ty false old b).1 else if io ≤ ib then old else b)
  | .max => some (if flt then (fminmax atomArith ty true old b).1 else if io ≤ ib then b else old)
  | .and => some (old &&& b)
  | .or => some (old ||| b)
  | .xor => some (old ^^^ b)
  | .exch => some b
  | .cas => if old == c then some b else none
  | .inc => some (if b ≤ old then 0 else old + 1)
  | .dec => some (if old == 0 || b < old then b else old - 1)

/-- One atomic at a home slice (R263): the bytes it returns. At another module the request is sent and the old value is
that module's (R424). -/
def State.atomHome (s : State) (pa : Nat) (op : Aop) (ty : Ty) (b c : Nat) : State × Nat :=
  let n := ty.bits / 8
  let old := s.homeNat pa n
  if s.localPa pa then
    match atomNew op ty old b c with
    | some v => (s.homeWrite pa (leBytes n v), old)
    | none => (s, old)
  else (s.send (.remote (paModule pa) (.atom pa op ty (dword b) (dword c))), old)

/-! ## Deferred reductions -/

/-- Combines two contributions in a buffer (R266, R291): float adds RN, the rest exactly. -/
def redCombine (op : Aop) (ty : Ty) (x y : Nat) : Nat := (atomNew op ty x y 0).getD x

/-- Sends one entry of a thread's buffer to its home as a batch (R266); `point` is 0 until its flush point. -/
def State.sendBatch (s : State) (th : Thread) (e : RedEntry) (point : Nat) : State :=
  let g := s.group th.group
  let b := (s.th th.id).redBatch
  let s := s.modTh th.id fun u => { u with redBatch := u.redBatch + 1 }
  { s with batches := s.batches ++
      [{ core := g.core, grp := g.grp, seq := 32 * b + th.rank, point := point, thread := th.id, ctx := (s.team th.team).ctx
         entry := e }] }

/-- Enters a contribution in a thread's buffer of 8 addresses (R266). -/
def State.redEnter (s : State) (th : Thread) (e : RedEntry) : State :=
  match th.redBuf.find? fun x => x.pa == e.pa && x.op == e.op && x.ty == e.ty with
  | some x =>
    let v := dword (redCombine e.op e.ty x.value.toNat e.value.toNat)
    s.modTh th.id fun u => { u with redBuf := u.redBuf.map fun y => if y == x then { y with value := v, colour := e.colour } else y }
  | none =>
    let clash := th.redBuf.any fun x => x.pa == e.pa
    let s := if clash || 8 ≤ th.redBuf.length then match th.redBuf with
      | o :: _ => (s.sendBatch th o 0).modTh th.id fun u => { u with redBuf := u.redBuf.tail }
      | [] => s
      else s
    s.modTh th.id fun u => { u with redBuf := u.redBuf ++ [e] }

/-- FlushReductions: every entry is sent as a batch of one flush point (R266, R267). -/
def State.flushPoint (s : State) (t : Nat) (held : Bool) (flag : Option (Fin 12)) (object : Option (Nat × Nat)) : State × Nat :=
  let (id, s) := s.fresh
  let th := s.th t
  let s := th.redBuf.foldl (fun s e => s.sendBatch th e id) s
  let s := s.modTh t fun u => { u with redBuf := [] }
  ({ s with
     batches := s.batches.map fun b => if b.thread == t && b.point == 0 then { b with point := id } else b
     points := s.points ++ [⟨[], id, t, held, flag, object, none, th.pc, th.curWord⟩] }, id)

/-- The order of keys (`%core`, scheduler, `%grp`, sequence) of R266. -/
def Batch.before (a b : Batch) : Bool :=
  let k := fun (x : Batch) => (x.core * 2 + x.grp % 2) * 2 ^ 64 + x.grp * 2 ^ 48 + x.seq
  k a ≤ k b

/-- Insertion of a batch in ascending key. -/
def insertBatch (b : Batch) : List Batch → List Batch
  | [] => [b]
  | x :: r => if b.before x then b :: x :: r else x :: insertBatch b r

/-- The dirty bytes of a batch's granule in the core that sent it and in the host core of its thread are written back, and the
granule leaves their view (R265, R267). -/
def State.settleBatch (s : State) (b : Batch) : State :=
  let s := (s.settle b.core (b.entry.pa / 8 * 8) 8).passOn b.core [(s.th b.thread).team]
  if (s.th b.thread).status == .live then s.settle (s.hostOf (s.th b.thread)) (b.entry.pa / 8 * 8) 8 else s

/-- Applies one batch as one atomic at its home; an uncorrectable error leaves the address unchanged (R267, R291). A frame that
was sealed since the RED issued refuses it, and the context freezes (R243, R245, R248). Writes to a read set are checked
(R276). -/
def State.applyBatch (s : State) (b : Batch) : State × Option Cause :=
  let e := b.entry
  if (s.sealOf e.pa).isSome then (s.freezeCtx b.ctx (dword e.va), some .sealedWrite)
  else match s.dataError e.pa (e.ty.bits / 8) with
  | some _ => (s, some .memError)
  | none =>
    let s := s.settleBatch b
    if s.localPa e.pa then
      (((s.atomHome e.pa e.op e.ty e.value.toNat 0).1.checkedWrite (s.th b.thread).team (tagG e.va) (some e.colour)), none)
    else (s.sendFar (paModule e.pa) (.batch e.pa e.op e.ty e.value), none)

/-- The points that close in the present cycle beside the one whose turn it is: those of a FLUSHRED or a phase whose completion
stands on the agenda (R267). -/
def State.closingNow (s : State) : List Nat :=
  (s.points.filter fun p => s.agenda.contains (.reductionApply p.id) || (match p.object with
    | some (t, q) => p.phase == some (s.obj t q oPHASE) && s.agenda.contains (.phaseComplete t q)
    | none => false)).map PointRec.id

/-- Closes flush points: their batches are applied, with those of every point that closes in the same cycle, in ascending key over
their union (R267). The result lists the addresses that failed at the named points, with threads and contexts; those of the
other points stand in their records. -/
def State.closePoints (s : State) (ids : List Nat) : State × List (Nat × Nat × Cause × Nat) :=
  let all := ids ++ s.closingNow
  let mine := (s.batches.filter fun b => all.contains b.point).foldr insertBatch []
  let kept := (s.points.filter fun p => ids.contains p.id).flatMap fun p =>
    p.errs.map fun e => (p.thread, (s.ctxOf (s.th p.thread)).id, e.1, e.2)
  let s := { s with batches := s.batches.filter fun b => !all.contains b.point }
  mine.foldl (fun acc b =>
    match acc.1.applyBatch b with
    | (s, none) => (s, acc.2)
    | (s, some c) =>
      if ids.contains b.point then (s, acc.2 ++ [(b.thread, b.ctx, c, b.entry.va)])
      else ({ s with points := s.points.map fun (p : PointRec) =>
        if p.id == b.point then { p with errs := p.errs ++ [(c, b.entry.va)] } else p }, acc.2)) (s, kept)

/-- A failed batch of any point but FLUSHRED is an error record of kind 1 (R291). -/
def State.batchErrors (s : State) (errs : List (Nat × Nat × Cause × Nat)) : State :=
  errs.foldl (fun s e => s.ctxError e.2.1 1 (causeCode e.2.2.1) e.2.2.2 (s.team (s.th e.1).team).number 0) s

/-- Closes points that no FLUSHRED made, with their error records. -/
def State.closeSilently (s : State) (ids : List Nat) : State :=
  let (s, errs) := s.closePoints ids
  ({ s with points := s.points.filter fun p => !ids.contains p.id }).batchErrors errs

/-! ## Publishing and arriving -/

/-- Begins a publish; it completes at PUBLISH_COMPLETE (R257). -/
def State.beginPublish (s : State) (th : Thread) (scope : Scope) (colours : Byte) (acq : Bool) (a : Option ArriveRec) :
    State × Nat :=
  let (id, s) := s.fresh
  ({ s with
     publishes := s.publishes ++ [⟨id, th.id, s.hostOf th, colours, scope, acq, a⟩]
     agenda := s.agenda ++ [.publishComplete id] }, id)

/-- The steps of an arrival from FlushReductions onward (R301): it is counted once its publish is complete. -/
def State.arriveOp (s : State) (th : Thread) (team off n c : Nat) (dst : Option Opd) : State × Nat :=
  let (s, pt) := s.flushPoint th.id false none (some (team, off))
  (s.beginPublish (s.th th.id) (s.objScope team off) (s.objColours team off) false (some ⟨team, off, n, c, dst, pt⟩))

/-- The valid CEX objects of a thread's team on which its exit has still to be counted (R303), in ascending offset. -/
def State.exitObjs (s : State) (th : Thread) : List Nat :=
  ((s.team th.team).objs.filter fun o => s.objValid th.team o && s.objCex th.team o
    && !s.mapBit th.team o (2 * th.tindex + 1)).foldr (fun o l => l.takeWhile (· < o) ++ [o] ++ l.dropWhile (· < o)) []

/-- A recorded range over the words that a thread's exit counts in stalls it (R272, R303). -/
def State.exitStall (s : State) (th : Thread) : Option Stall :=
  ((s.exitObjs th).find? fun o => s.rangeBusy th.team o (s.objLen th.team o)).map fun o =>
    .range th.team o (s.objLen th.team o)

/-- R303: the count-exits steps of an ending thread on every valid CEX object of its team, in ascending offset. -/
def State.countExit (s : State) (th : Thread) : State :=
  (s.exitObjs th).foldl (fun s o =>
    if s.mapBit th.team o (2 * th.tindex + 1) then s
    else
      let s := s.setMap th.team o (2 * th.tindex + 1) true
      let s := s.objSet th.team o oXC (s.obj th.team o oXC + 1)
      if s.mapBit th.team o (2 * th.tindex) then s
      else
        let s := s.setMap th.team o (2 * th.tindex) true
        (s.arriveOp th th.team o 1 0 none).1) s

/-! ## Completion flags -/

/-- A flag counts one operation complete (R34); a thread that waits for all its flags goes on when none is set. -/
def State.flagDone (s : State) (t : Nat) (f : Option (Fin 12)) : State := match f with
  | none => s
  | some f => s.modTh t fun u =>
    let u := u.flagDown f
    if u.hold == Hold.flags && u.flagBits == 0 then { u with hold := .none } else u

end Sys2Proof.Machine
end

