-- ==== Sys2Proof/Machine/Long.lean ====
section
/-!
DEFINITION. Long-latency operations (R34): what an operation in flight carries, how it completes, and how its fault is held
(R326, R386) or delivered exactly.
-/

namespace Sys2Proof

open Machine

/-- The destination run of an instruction: first register and length; length 0 when it names none. -/
def Instr.destRun (slot : Nat → SlotD) (i : Instr) : Nat × Nat :=
  match (i.opds slot).find? fun p => p.1 with
  | some (_, .v n, k) => (n.val, k)
  | _ => (0, 0)

end Sys2Proof

namespace Sys2Proof.Machine

/-- The words of one operand as they stand. -/
def State.opdWords (s : State) (th : Thread) (o : Opd) (n : Nat) : List Word := match o with
  | .v k => th.getRun k n
  | o => if n == 2 then let x := s.rd64 th o; [loWord x, hiWord x] else [s.rd32 th o]

/-- The values of an instruction's source operands at issue (R386). -/
def State.srcWords (s : State) (th : Thread) (i : Instr) : List Word :=
  (i.opds (s.slot (s.hostOf th) (s.team th.team).ctx)).flatMap fun p => if p.1 then [] else s.opdWords th p.2.1 p.2.2

/-- The fault records that a thread holds, and those that its operations in flight may still bring (R387). -/
def State.recordsOut (s : State) (th : Thread) : Nat :=
  th.faults.length + ((List.finRange 12).map th.flagCount).sum + (s.ops.countP fun o => o.thread == th.id && o.flag.isNone && !o.held)

/-- R34: an issue that would raise a flag's count above 63 stalls; R387: so does one that could need a 65th record. -/
def State.flagFull (s : State) (th : Thread) (f : Option (Fin 12)) : Bool := match f with
  | none => false
  | some f => 63 ≤ th.flagCount f || 64 ≤ s.recordsOut th

/-- Puts an operation in flight; a flagged one raises its flag's count (R34). -/
def State.newOp (s : State) (th : Thread) (i : Instr) (flag : Option (Fin 12)) (held : Bool) (writes : List (Nat × Word))
    (fault : Option (Cause × DWord)) (data : List Nat) (slot : BitVec 512) : State × Nat :=
  let (id, s) := s.fresh
  let s := match flag with
    | some f => s.modTh th.id fun u => u.flagUp f
    | none => s
  ({ s with ops := s.ops ++ [{
      progress := 0, id := id, thread := th.id, team := th.team, ctx := (s.team th.team).ctx, core := s.hostOf th, instr := i, pc := th.pc
      src := s.srcWords th i, flag := flag, held := held, wbase := th.wbase, depth := th.depth, writes := writes, slot := slot
      fault := fault, started := false, since := s.cycle, data := data
      priv := th.privileged, bytes := [], word := th.curWord }] }, id)

/-- Insertion in issue order (R387). -/
def insertFault (f : FaultRec) : List FaultRec → List FaultRec
  | [] => [f]
  | x :: r => if f.ord < x.ord then f :: x :: r else x :: insertFault f r

/-- Holds a fault record for a thread until its delivery point (R386). -/
def State.holdFault (s : State) (t : Nat) (f : FaultRec) : State :=
  s.modTh t fun u => if u.status == .live then { u with faults := insertFault f u.faults } else u


/-- The fault of an operation that has issued: recorded for a flagged one, exact at the instruction for a held one
(R326, R385). -/
def State.opFault (s : State) (o : Op) (c : Cause) (a : DWord) : State :=
  let th := s.th o.thread
  if th.status != .live then s
  else if o.held then
    let s := s.modTh o.thread fun u => { u with hold := .none }
    s.raise o.thread (plainTrap c a o.pc true (o.id * 8 + 7))
  else
    let s := if c == .sealedWrite then s.freezeCtx o.ctx a else s
    let run := o.instr.destRun (s.slot o.core o.ctx)
    s.holdFault o.thread
      { ord := o.id, word := o.word, cause := c, addr := a, instr := o.instr, pc := o.pc, src := o.src, flag := o.flag, wbase := o.wbase
        dreg := run.1, dcnt := run.2, replay := true, priv := o.priv }

/-- The group's handler entry after traps raised outside a bundle's slot. -/
def State.enterFor (s : State) (t : Nat) : State :=
  let g := (s.th t).group
  if (s.pendOf g).isEmpty then s else s.enterHandlers g

/-- The register of a thread's view under which a destination, as `runWrites` numbers it and named under a window base, stands. -/
def viewReg (wbase base : Int) (n : Nat) : Option Nat :=
  if 1024 ≤ n then none
  else if n < 16 then some n
  else
    let e := base + (n - 16 : Nat)
    if wbase ≤ e && e < wbase + 112 then some ((e - wbase).toNat + 16) else none

/-- The result of an operation that a thread issued before it speculated stays when it is rolled back (R274, R277). -/
def SpecRec.keep (r : SpecRec) (wbase : Int) (o : Op) : SpecRec :=
  if r.ord ≤ o.id then r
  else { r with regs := o.writes.foldl (fun v w => match viewReg wbase o.wbase w.1 with
    | some k => v.setIfInBounds k w.2
    | none => v) r.regs }

/-- The state that a rollback gives back, with the results of an operation that the thread issued before it speculated (R277). -/
def Thread.specKeep (u : Thread) (o : Op) (f : Thread → Thread) : Thread :=
  { u with spec := u.spec.map fun r =>
      let v := f { u with preds := r.preds, trail := r.trail }
      let r := r.keep u.wbase o
      if r.ord ≤ o.id then r else { r with preds := v.preds, trail := v.trail } }

/-- An operation completes: its registers are written where they now stand (R34), with what else `f` says of its thread, its
fault is recorded or raised, its flag counts it complete, and a held thread goes on. A result that an overflow entry does not take
is a fault of the operation (R69), which then writes nothing. The registers of one run change together here, where R34 leaves old
or new open for each 32-bit register while the operation is outstanding (log 58). A refused write freezes the context though its
thread has ended (R248). -/
def State.opDoneWith (s : State) (o : Op) (f : Thread → Thread) : State :=
  let s := { s with ops := s.ops.filter fun x => x.id != o.id }
  if (s.th o.thread).status != .live then
    (match o.fault with
      | some (.sealedWrite, a) => s.freezeCtx o.ctx a
      | _ => s).once (.teamEnd o.team)
  else
    let done := match s.landAll o.thread o.wbase o.writes, o.fault with
      | (_, some lost), e => let e := e.getD (lost.1, dword lost.2); s.opFault o e.1 e.2
      | (z, none), some e => (z.modTh o.thread fun u => u.specKeep o id).opFault o e.1 e.2
      | (z, none), none =>
        let z := z.modTh o.thread fun u => f (u.specKeep o f)
        if o.held then z.release o.thread else z
    (done.flagDone o.thread o.flag).enterFor o.thread

/-- An operation completes, with its registers or its fault alone. -/
def State.opDone (s : State) (o : Op) : State := s.opDoneWith o id

end Sys2Proof.Machine
end

