-- ==== Sys2Proof/Machine/Sign.lean ====
section
/-!
DEFINITION. The matrix engine (08): accumulator tiles and their holders (R200 to R202), convergence signing (R214 to R218),
what an operation computes (R203 to R205, R219), and when it starts and completes (R225 to R229).
-/

namespace Sys2Proof.Machine

/-- Every one of the 32 ranks. -/
def allRanks : Word := 0xFFFFFFFF#32

/-- The ranks of a group that count as exited (R173): every rank without a live thread. -/
def State.exitedMask (s : State) (g : Nat) : Word := ~~~(rankMask ((s.liveOf g).map Thread.rank))

/-- R169, R176, R216: whether the counts of a context's waits stand still, from the trap-save step on. -/
def Context.halted (c : Context) : Bool := 2 ≤ c.preemptCtl.toNat / 2 ^ 29

/-! ## Tiles -/

/-- Accumulator tiles of a core kind (R200). -/
def tileCap : CoreKind → Nat
  | .bramble => 64
  | .larch => 16

/-- Physical tiles in use on a core: those of every group that it hosts, parked ones included (R201), saved ones not (R402). -/
def State.tilesUsed (s : State) (core : Nat) : Nat :=
  ((s.groups.filter fun g => g.core == core && (g.resident || !g.saved)).map fun g => g.tiles.length).sum

/-- What the first use of a tile number finds (R201, R202). -/
inductive TileUse where
  | ready | wait | fail
deriving DecidableEq, Repr

/-- First use of tile number `n` by a group. -/
def State.tileUse (s : State) (g n : Nat) : TileUse :=
  let gr := s.group g
  let cap := tileCap (kindOf gr.core)
  if (assoc gr.tiles n).isSome then .ready
  else if cap ≤ gr.tiles.length then .fail
  else if s.tilesUsed gr.core < cap then .ready
  else .wait

/-- A group holds a tile number from now on, with every word zero when it is new (R201). -/
def State.holdTile (s : State) (g n : Nat) : State :=
  s.modGroup g fun x => if (assoc x.tiles n).isSome then x else { x with tiles := x.tiles ++ [(n, [])] }

/-- Contents of a tile number; zero words when it is not held. -/
def State.tile (s : State) (g n : Nat) : Sparse 32 := (assoc (s.group g).tiles n).getD []

/-- Writes the contents of a held tile. -/
def State.setTile (s : State) (g n : Nat) (t : Sparse 32) : State :=
  s.modGroup g fun x => { x with tiles := x.tiles.map fun p => if p.1 == n then (n, t) else p }

/-! ## Delivery to signers -/

/-- The end of a signed operation for its present signers (R218): a flagged signer's flag counts it complete, an
unflagged one goes on after its instruction. -/
def State.signersDone (s : State) (caps : List Capture) : State :=
  caps.foldl (fun s c => match c.flag with
    | some f => s.flagDone c.thread (some f)
    | none => if (s.th c.thread).hold == Hold.sign then s.release c.thread else s) s

/-- The source words that a signer captured, in the order of its operands (R214, R386). -/
def Capture.words (k : Capture) : List Word := k.scale ++ k.a ++ k.b ++ k.md

/-- A failure of a signed operation, delivered to every present signer (R218): a record at its flag, or the exact trap.
Its replay record holds the captured source words where R386's sixteen hold all of them; longer ones cannot be replayed
(log 17). -/
def State.failSigners (s : State) (caps : List Capture) (i : Instr) (pc : DWord) (c : Cause) (a : DWord) : State :=
  let stamp := s.nextId * 8
  let s := caps.foldl (fun s k => match k.flag with
    | some f => (s.holdFault k.thread
        { ord := k.ord, word := BitVec.ofNat 128 ((encodeNative i).getD 0), cause := c, addr := a, instr := i, pc := pc, src := k.words.take 16, flag := some f, wbase := (s.th k.thread).wbase
          dreg := 0, dcnt := 0, replay := k.words.length ≤ 16, priv := false }).flagDone k.thread (some f)
    | none =>
      if (s.th k.thread).hold == Hold.sign then
        (s.modTh k.thread fun u => { u with hold := .none }).raise k.thread (plainTrap c a pc true stamp)
      else s) s
  match caps with
  | k :: _ => s.enterFor k.thread
  | [] => s

/-! ## What an operation computes -/

/-- K of one operation (R203). -/
def fragK (t : Ty) : Nat := 256 / t.bits
/-- Element `k` of a fragment (R203). -/
def fragElem (t : Ty) (ws : List Word) (k : Nat) : Nat :=
  let e := 32 / t.bits
  (ws.getD (k / e) 0).toNat / 2 ^ (t.bits * (k % e)) % 2 ^ t.bits
/-- The decoded element `k`, scaled by its block (R204, R219). -/
def fragVal (t : Ty) (sl : SlotD) (scale : Word) (ws : List Word) (k : Nat) : FVal :=
  let sc := if sl.scaled then some (if k / sl.blockLen == 0 then scale.toNat % 4096 else scale.toNat / 4096 % 4096) else none
  decodeElem t sl sc (fragElem t ws k)
/-- Stored elements of one metadata group (R205). -/
def metaN (s8 : Bool) : Nat := if s8 then 8 else 4
/-- The metadata index of stored element `k` (R205). -/
def metaIdx (md : List Word) (k : Nat) : Nat := (md.getD (k / 8) 0).toNat / 2 ^ (4 * (k % 8)) % 16
/-- The first stored element whose metadata offends (R205). -/
def metaBad (t : Ty) (s8 : Bool) (md : List Word) : Option Nat :=
  (upto (fragK t)).find? fun k =>
    11 < metaIdx md k || (k % metaN s8 != 0 && metaIdx md k ≤ metaIdx md (k - 1))

/-- The fields of a matrix operation: types, MMAS's `.s8` or none, SAT, tile, HA and HB. -/
structure MatForm where
  ta : Ty
  tb : Ty
  sparse : Option Bool
  sat : Bool
  sc : Bool
  tile : Nat
  ha : Nat
  hb : Nat

end Sys2Proof.Machine

namespace Sys2Proof

open Machine

/-- The fields of MMA and MMAS. -/
def Instr.mat : Instr → Option MatForm
  | .mma _ ta tb sat _ sc _ _ _ tile ha hb _ => some ⟨ta, tb, none, sat, sc, tile.val, ha.val, hb.val⟩
  | .mmas _ ta tb s8 sat _ sc _ _ _ _ tile ha hb _ => some ⟨ta, tb, some s8, sat, sc, tile.val, ha.val, hb.val⟩
  | _ => none
/-- BURST of MMA and MMAS (R212). -/
def Instr.burst : Instr → Bool
  | .mma _ _ _ _ b _ _ _ _ _ _ _ _ => b
  | .mmas _ _ _ _ _ b _ _ _ _ _ _ _ _ _ => b
  | _ => false
/-- The tile number of a signed instruction or a tile move. -/
def Instr.tileNo : Instr → Nat
  | .mma _ _ _ _ _ _ _ _ _ t _ _ _ | .mmas _ _ _ _ _ _ _ _ _ _ _ t _ _ _ | .accz _ _ t _ | .accld _ _ _ _ _ t
  | .accst _ _ _ _ _ _ t => t.val
  | _ => 0

end Sys2Proof

namespace Sys2Proof.Machine

/-- The conditions 1 to 6 of R217: the slot number that TRAP_ADDR names. -/
def MatForm.bad (f : MatForm) (a b : SlotD) : Option Nat :=
  let fmtBad := fun (t : Ty) (s : SlotD) => (s.fmt != 0 && s.fmt != t.code) || (t == .cb4 && s.fmt != Ty.cb4.code)
    || (s.scaled && t.bits == 4 && !s.bl32)
  let both := f.sc != (a.scaled || b.scaled) || (f.sat && a.scaled)
  let hb := fmtBad f.tb b || (f.sparse.isSome && b.scaled) || (f.sat && b.scaled)
  if fmtBad f.ta a || both then some f.ha else if hb then some f.hb else none

/-- The new contents of a tile (R219). -/
def MatForm.apply (f : MatForm) (sa sb : SlotD) (caps : List Capture) (t : Sparse 32) : Sparse 32 :=
  let k := fragK f.ta
  let logical := fun (c : Capture) (i : Nat) => match f.sparse with
    | none => i
    | some s8 => 12 * (i / metaN s8) + metaIdx c.md i
  let len := match f.sparse with
    | none => k
    | some s8 => 12 * k / metaN s8
  let cols := caps.map fun c => (c.rank, (upto len).map fun i => fragVal f.tb sb (c.scale.getD 1 0) c.b i)
  let int := f.ta.isInt && !sa.scaled && !sb.scaled
  caps.foldl (fun t r =>
    let row := (upto k).map fun i => (logical r i, fragVal f.ta sa (r.scale.getD 0 0) r.a i)
    cols.foldl (fun t c =>
      let key := 32 * r.rank + c.1
      let old := (Sparse.read t key).toNat
      let prods := row.map fun e => e.2.mul (c.2.getD e.1 (.fin false 0 0))
      let w := if int then
          intMmaWrite (prods.foldl (fun z p => z + p.1.scaled 0) (intVal true 32 old)) f.sat
        else mmaSum ((ffmt .f32).decode old) prods
      Sparse.write t key (word w)) t) t

/-! ## Signing -/

/-- A group's convergence register. -/
def State.conv (s : State) (g : Nat) (r : Fin 8) : ConvReg := (s.group g).g.getD r.val ConvReg.empty
/-- Writes a convergence register. -/
def State.setConv (s : State) (g : Nat) (r : Fin 8) (c : ConvReg) : State :=
  s.modGroup g fun x => { x with g := x.g.setIfInBounds r.val c }

/-- Whether an operation in flight is an accumulator load into a tile number. -/
def Op.loadsTile (o : Op) (n : Nat) : Bool := match o.instr with
  | .accld _ _ _ _ _ t => t.val == n
  | _ => false

/-- Whether an operation works on a tile number of a group. -/
def MatOp.on (o : MatOp) (g n : Nat) : Bool := o.group == g && o.instr.tileNo == n

/-- The operations that wait in any engine. A group that moves leaves those that it has issued in the engine that they entered, and
they keep their order with later ones on one tile (R197, R215). -/
def State.matQueued (s : State) : List MatOp := s.cores.flatMap Core.matQueue
/-- The operations in any engine. -/
def State.matOps (s : State) : List MatOp := s.cores.flatMap fun c => c.matQueue ++ c.matRun
/-- Updates the operations in every engine. -/
def State.mapMat (s : State) (f : MatOp → MatOp) : State :=
  { s with cores := s.cores.map fun c => { c with matQueue := c.matQueue.map f, matRun := c.matRun.map f } }
/-- The engines in which an operation of some kind waits are asked to start. -/
def State.startWhere (s : State) (p : MatOp → Bool) : State :=
  s.cores.foldl (fun s c => if c.matQueue.any p then s.once (.matrixOpStart c.id) else s) s

/-- A row of a held tile is loaded (R221): an ACCZ that was carried out at its issue before keeps it (R220). `op` is the flagged
load that writes it, if one does. -/
def State.loadRow (s : State) (g n rank : Nat) (ws : List Word) (op : Option Nat) : State :=
  (s.setTile g n (Sparse.writeN (s.tile g n) (32 * rank) ws)).mapMat fun o =>
    if o.on g n && o.instr.mat.isNone && !op.any o.waitLoads.contains then { o with rows := o.rows ++ [(rank, ws)] } else o

/-- The signers of a register, guarded-off ones too, each with the number of its signing. -/
def ConvReg.signers (cr : ConvReg) : List (Nat × Nat) := (cr.caps.map fun c => (c.thread, c.ord)) ++ cr.offs

/-- Enters a signed operation in its core's engine (R215), with the accumulator loads that it must follow: those that any of its
signers issued before signing (R222). -/
def State.enterMat (s : State) (g : Nat) (cr : ConvReg) (i : Instr) (sa sb : BitVec 512) (wait : Option Nat) : State :=
  let (id, s) := s.fresh
  let loads := s.ops.filter fun o => o.loadsTile i.tileNo && cr.signers.any fun p => p.1 == o.thread && o.id < p.2
  let op : MatOp := { rows := [], lost := false, id := id, tileWait := wait, since := s.nowCycle, done := 0, group := g, instr := i, present := cr.present
                      caps := cr.caps, slotA := sa, slotB := sb, waitLoads := loads.map Op.id }
  let core := (s.group g).core
  (s.modCore core fun c => { c with matQueue := c.matQueue ++ [op] }).once (.matrixOpStart core)

/-- A held move of a group of the core's glade is tried again: positions, holdings or tiles came free there (R197). -/
def State.movesAgain (s : State) (core : Nat) : State :=
  (s.groups.filter fun g => g.moveHold && gladeOf g.core == gladeOf core).foldl (fun s g => s.once (.groupMove g.id)) s

/-- Tiles were freed on a core: the operations of its groups that wait for a first use take one in order, held moves are tried
again (R197), and the engines are asked to start (R202). -/
def State.tilesFreed (s : State) (core : Nat) : State :=
  let s := s.matQueued.foldl (fun s o =>
    if o.tileWait.isSome && (s.group o.group).core == core && s.tileUse o.group o.instr.tileNo == .ready then
      (s.holdTile o.group o.instr.tileNo).mapMat fun x =>
        if x.id == o.id then { x with tileWait := none, since := s.nowCycle } else x
    else s) s
  let s := s.threads.foldl (fun s u => match u.hold with
    | .tile n _ =>
      if s.hostOf u == core && s.tileUse u.group n.val == .ready then (s.holdTile u.group n.val).rerun u.id else s
    | _ => s) s
  (s.movesAgain core).startWhere fun o => (s.group o.group).core == core

/-- A group releases a tile number, whose contents are lost (R201). -/
def State.releaseTile (s : State) (g n : Nat) : State :=
  (s.modGroup g fun x => { x with tiles := x.tiles.filter fun p => p.1 != n }).tilesFreed (s.group g).core

/-- A group releases every tile (R201). -/
def State.releaseTiles (s : State) (g : Nat) : State :=
  if (s.group g).tiles.isEmpty then s
  else (s.modGroup g fun x => { x with tiles := [] }).tilesFreed (s.group g).core

/-- ACCZ `.rel` acts at its issue (R220), behind earlier operations on its tile that still wait for one (R215): the number is
released, and what those operations and earlier loads would still write to it is lost (R201). -/
def State.actRel (s : State) (o : MatOp) : State :=
  let n := o.instr.tileNo
  if o.lost || (s.matQueued.any fun x => x.on o.group n && x.id < o.id && x.tileWait.isSome) then s
  else
    let late := s.matQueued.any fun x => x.on o.group n && o.id < x.id
    let s := s.mapMat fun x => if x.on o.group n && x.id ≤ o.id then { x with lost := true } else x
    let ops := s.ops.map fun p =>
      if p.loadsTile n && (s.th p.thread).group == o.group && o.waitLoads.contains p.id then { p with data := [] } else p
    let s := { s with ops := ops }
    if late then s.setTile o.group n [] else s.releaseTile o.group n

/-- A signature issues (R215, R217, R201, R202). -/
def State.issueSign (s : State) (g : Nat) (r : Fin 8) : State :=
  let cr := s.conv g r
  let s := s.setConv g r ConvReg.empty
  if cr.present == 0 then s
  else match cr.instr with
  | none => s
  | some i =>
    let ctx := (s.team (s.th ((cr.caps.map Capture.thread).headD 0)).team).ctx
    let f := i.mat
    let sa := s.slotBits (s.group g).core ctx ((f.map MatForm.ha).getD 0)
    let sb := s.slotBits (s.group g).core ctx ((f.map MatForm.hb).getD 0)
    match f.bind fun f => f.bad (slotOf sa) (slotOf sb) with
    | some h => s.failSigners cr.caps i cr.pc .reservedField (dword h)
    | none =>
      let rel := match i with
        | .accz _ rel _ _ => rel
        | _ => false
      if rel then
        let core := (s.group g).core
        let s := s.enterMat g cr i sa sb none
        ((s.core core).matQueue.getLast?).elim s s.actRel
      else match s.tileUse g i.tileNo with
        | .ready => (s.holdTile g i.tileNo).enterMat g cr i sa sb none
        | .fail => s.failSigners cr.caps i cr.pc .engineFault (dword i.tileNo)
        | .wait => (s.enterMat g cr i sa sb (some s.cycle)).after Config.longWait (.tileWaitTimeout g ⟨i.tileNo % 64, Nat.mod_lt _ (by decide)⟩)

/-- R215: every open signature of a group whose ranks have all signed or exited issues. -/
def State.signCheck (s : State) (g : Nat) : State :=
  (List.finRange 8).foldl (fun s r =>
    let cr := s.conv g r
    if cr.signed != 0 && (cr.signed ||| s.exitedMask g) == allRanks then s.issueSign g r else s) s

/-- Whether an operation on a tile that the thread signed has not completed: signed and not issued, queued or running (R222).
Every live thread of a group has signed each operation that the group has issued (R215). -/
def State.tileBusy (s : State) (th : Thread) (n : Nat) : Bool :=
  (s.group th.group).g.toList.any (fun cr => hasBit cr.signed th.rank && (cr.instr.map Instr.tileNo) == some n)
    || s.matOps.any fun o => o.on th.group n

/-- A thread reaches a signed instruction (R214, R218): `g` tells whether its guard passes. -/
def State.sign (s : State) (th : Thread) (i : Instr) (x : X) (r : Fin 8) (g : Bool) (cap : Option (Fin 12) → State → Capture)
    (bad : Option Nat) : State × Next :=
  let cr := s.conv th.group r
  let bit := 1#32 <<< th.rank
  if cr.signed != 0 && cr.pc != th.pc then
    if g then (s, .trap .convMismatch (cr.signed.zeroExtend 64)) else (s, .stall (.conv r th.pc))
  else if cr.signed &&& bit != 0 then (s, .stall (.conv r th.pc))
  else
    let flag := th.flagOf x.sb
    match g, bad with
    | true, some e => (s, .trap .reservedField (dword e))
    | _, _ =>
      if g && s.flagFull th flag then (s, .stall (.flag flag))
      else
        let first := cr.signed == 0
        let cr := { cr with pc := th.pc, instr := some i, since := if first then s.nowCycle else cr.since, signed := cr.signed ||| bit }
        let cr := if g then { cr with present := cr.present ||| bit, caps := cr.caps ++ [cap flag s] }
          else { cr with offs := cr.offs ++ [(th.id, s.nextId)] }
        let s := s.setConv th.group r cr
        let s := if first then s.due (s.nowCycle + Config.longWait + 1) (.signatureAbandon th.group r) else s
        let s := match g, flag with
          | true, some f => s.modTh th.id fun u => u.flagUp f
          | true, none => s.modTh th.id fun u => { u with hold := .sign }
          | false, _ => s
        let s := if (cr.signed ||| s.exitedMask th.group) == allRanks then s.issueSign th.group r else s
        (s, if g && flag.isNone then .gone else .next)

end Sys2Proof.Machine
end

