-- ==== Sys2Proof/Machine/Place.lean ====
section
/-!
DEFINITION. Places for groups: group positions and register holdings (R144, R145, R160), the state that crosses between images
at an equivalence point (R150, R193, R198), the beads of REORDER (R189 to R193) with the ranges of the save area that they share
(R404, R405), group moves (R197, R198), and instruction fetch (R50, R71, R243).
-/

namespace Sys2Proof.Machine

/-- Insertion by key. -/
def insertKey {α : Type} (x : Nat × α) : List (Nat × α) → List (Nat × α)
  | [] => [x]
  | y :: r => if x.1 < y.1 then x :: y :: r else y :: insertKey x r

/-- Sorts by key; equal keys keep their order. -/
def sortKey {α : Type} (l : List (Nat × α)) : List (Nat × α) := l.foldl (fun acc x => insertKey x acc) []

/-! ## Positions and register holdings -/

/-- Group positions of a core kind (R144). -/
def posCap : CoreKind → Nat
  | .bramble => 32
  | .larch => 8
/-- Bytes of a core's register pool (R145). -/
def poolCap : CoreKind → Nat
  | .bramble => 524288
  | .larch => 262144
/-- The groups that hold a position on a core. -/
def State.hosted (s : State) (core : Nat) : List Group := s.groups.filter fun g => g.core == core && g.resident
/-- Register budget B of a group's threads. -/
def State.groupB (s : State) (g : Nat) : Nat := match s.threads.find? fun u => u.group == g with
  | some u => (s.team u.team).regsB
  | none => 0
/-- Slices whose share is held. -/
def sliceCount (m : BitVec 4) : Nat := ((upto 4).filter fun k => m.getLsbD k).length
/-- Speculating groups hold a reservation of their core's pool (R273). -/
def specShare : Nat := 17408
/-- Bytes that a group holds of its core's pool (R145), with a reservation for each phase in which it speculates (R273). -/
def State.holding (s : State) (g : Group) : Nat :=
  sliceCount g.slices * 32 * s.groupB g.id
    + specShare * ((s.threads.filter fun u => u.group == g.id).filterMap fun u =>
        u.spec.map fun r => (r.team, r.off, r.operand)).eraseDups.length
/-- Bytes free in a core's pool. -/
def State.poolFree (s : State) (core : Nat) : Nat :=
  poolCap (kindOf core) - ((s.hosted core).map s.holding).sum
/-- Free group positions of a core, lowest first; none on a core that has failed (R441). -/
def State.freeGrps (s : State) (core : Nat) : List Nat :=
  if (s.core core).failed then []
  else (upto (posCap (kindOf core))).filter fun p => !(s.hosted core).any fun g => g.grp == p
/-- R145: whether a group with these slices and budget fits a core. -/
def State.fits (s : State) (core : Nat) (slices : BitVec 4) (b : Nat) : Bool :=
  !(s.freeGrps core).isEmpty && sliceCount slices * 32 * b ≤ s.poolFree core
/-- Cores of a kind in a list, ascending. -/
def coresOf (k : CoreKind) (l : List Nat) : List Nat := l.filter fun c => kindOf c == k
/-- The cores of a glade. -/
def gladeCores (g : Nat) : List Nat := (upto 12).map (12 * g + ·)
/-- The slices that a set of ranks occupies (R144). -/
def slicesOf (ranks : List Nat) : BitVec 4 := ranks.foldl (fun m r => m ||| (1#4 <<< (r / 8))) 0

/-- The glade in whose bead store a group waits. -/
def Group.rodGlade (g : Group) : Option Nat := g.beadCores.head?.map gladeOf

/-- The groups in a glade's bead store, in ascending j (R192); those of a saved team wait for its restore (R412). -/
def State.waitingRods (s : State) (glade : Nat) : List Nat :=
  (sortKey ((s.groups.filter fun g => g.rodGlade == some glade && !s.threads.any fun u => u.group == g.id
    && (s.team u.team).state == .saved).map fun g => (g.beadNo, g.id))).map (·.2)


/-- Room became free on a core (R154, R192, R197): waiting groups of the glade are offered again, then held moves, then the
core's candidates. -/
def State.freed (s : State) (core : Nat) : State :=
  (((s.waitingRods (gladeOf core)).foldl (fun s g => s.once (.reorderGroupPlace g)) s).movesAgain core).once (.teamResident core)

/-! ## Instruction fetch -/

/-- Reads `n` 4-byte words of code for a thread, each checked as an instruction fetch (R71, R243, R459). -/
def State.fetchWords (s : State) (th : Thread) (va : Nat) : Nat → State × Except (Cause × Nat) (List Byte)
  | 0 => (s, .ok [])
  | n + 1 => match s.checkCore th th.privileged .fetch va 4 with
    | (s, .error (.fault c a)) => (s, .error (c, a))
    | (s, .error (.stall _)) => (s, .error (.memError, va))
    | (s, .ok l) => match s.codeRead th l.pa 4 with
      | (s, .error e) => (s, .error (.memError, va + (e - l.pa)))
      | (s, .ok b) => match s.fetchWords th (va + 4) n with
        | (s, .error f) => (s, .error f)
        | (s, .ok c) => (s, .ok (th.seesCode va b ++ c))

/-- Whether an address lies in an image that the builder made, which the device maps itself at its place in the pool (R448,
log 21). -/
def State.inPool (s : State) (th : Thread) (va : Nat) : Bool := match s.imageAt (s.team th.team).ctx va with
  | some (_, im) => im.pool
  | none => false

/-- The 64 bytes of the line that a thread enters (R50, R51). -/
def State.fetchLine (s : State) (th : Thread) : State × Except (Cause × Nat) (BitVec 512) :=
  let va := th.pc.toNat / 64 * 64
  if s.inPool th va then match s.codeRead th va 64 with
    | (s, .error e) => (s, .error (.memError, e))
    | (s, .ok b) => (s, .ok (BitVec.ofNat 512 (leNat (th.seesCode va b))))
  else match s.checkCore th th.privileged .fetch va 64 with
  | (s, .error (.fault c a)) => (s, .error (c, a))
  | (s, .error (.stall _)) => (s, .error (.memError, va))
  | (s, .ok l) => match s.codeRead th l.pa 64 with
    | (s, .error e) => (s, .error (.memError, va + (e - l.pa)))
    | (s, .ok b) => (s, .ok (BitVec.ofNat 512 (leNat (th.seesCode va b))))

/-- The code that a thread stands at, as it would fetch it: whether it is marked as an equivalence point (R48, R70). -/
def State.eqpAt (s : State) (th : Thread) : Bool :=
  if th.portable then match (s.fetchWords th th.pc.toNat 2).2 with
    | .ok b => bitAt (leNat b) 14
    | .error _ => false
  else match (s.fetchLine th).2 with
    | .ok b => lineEqp b
    | .error _ => false

/-! ## Images at an equivalence point -/

/-- Where a point resumes on a core kind (R150, R193, R198): its PC, whether it is portable, and the state map there. -/
def CodeObj.resumeAt (o : CodeObj) (k : CoreKind) (e : EqpRec) : Option (DWord × Bool × List (Nat × Bool × Nat)) :=
  match o.pointPc (imageKind k) e.num e.fn with
  | some pc => some (dword pc, false, (o.images.findSome? fun im => if im.kind != imageKind k then none else
      (im.lines.find? fun l => im.base + l.off == pc).map LineEnt.map).getD [])
  | none => (o.pointPortable e.num e.fn).map fun pc => (dword pc, true, [])

/-- The equivalence point at a PC (R48, R83, R461), with its map in a native image. -/
def CodeObj.pointAt (o : CodeObj) (im : Image) (pc : Nat) : Option (EqpRec × List (Nat × Bool × Nat)) :=
  if im.kind == 1 then do
    let p ← o.points.find? fun p => im.base + p.1 == pc
    let fn ← o.fnAt 1 pc
    pure (⟨p.2, fn, o.handle⟩, [])
  else do
    let l ← im.lines.find? fun l => im.base + l.off == pc
    let pb ← o.image? 1
    let fn ← o.fnAt 1 (pb.base + l.port)
    pure (⟨l.num, fn, o.handle⟩, l.map)

/-- The point at a thread's PC. -/
def State.pointOf (s : State) (th : Thread) (pc : DWord) : Option (EqpRec × List (Nat × Bool × Nat)) :=
  (s.imageAt (s.team th.team).ctx pc.toNat).bind fun p => p.1.pointAt p.2 pc.toNat

/-- Reads the live virtual registers of a map (R198): a native register, or slot N of the overflow block. -/
def State.readMap (s : State) (t : Nat) : List (Nat × Bool × Nat) → State × Except Nat (List (Nat × Word))
  | [] => (s, .ok [])
  | (k, ovf, loc) :: r =>
    let th := s.th t
    let one : State × Except Nat Word := if !ovf then (s, .ok (th.get loc)) else
      match s.loadG th th.privileged (th.ovfAddr (128 + loc)) 4 with
      | (s, .ok b) => (s, .ok (word (leNat b)))
      | (s, .error e) => (s, .error (spillStop e).2)
    match one with
    | (s, .error a) => (s, .error a)
    | (s, .ok w) => match s.readMap t r with
      | (s, .ok l) => (s, .ok ((k, w) :: l))
      | (s, .error a) => (s, .error a)

/-- Pushes the overflow block of a portable function that was entered without a CALL, and gives the thread its frame (R69). -/
def State.pushFrame (s : State) (t f : Nat) : State × Option (Cause × Nat) :=
  let off := (s.th t).spillPtr.toNat
  let r := if 112 < f then s.spillPush t (blockBytes f) else (s, none)
  match r with
  | (s, some e) => (s, some e)
  | (s, none) => (s.modTh t fun u => { u with pushBlock := false, frames := (f, off) :: u.frames }, none)

/-- The location of a virtual register: in a map, or itself in portable code (R193, R198); none when it is not live there. -/
def mapPlace (portable : Bool) (m : List (Nat × Bool × Nat)) (k : Nat) : Option (Bool × Nat) :=
  if portable then some (if k < 128 then (false, k) else (true, k - 128)) else (m.find? fun e => e.1 == k).map (·.2)

/-- Writes virtual registers at their locations in the image in which a thread resumes (R193, R198); a register that is not live
there is dropped. The error is that of a store to the overflow block (R69). -/
def State.writeMap (s : State) (t : Nat) (portable : Bool) (m : List (Nat × Bool × Nat)) :
    List (Nat × Word) → State × Option (Cause × Nat)
  | [] => (s, none)
  | v :: r => match mapPlace portable m v.1 with
    | none => s.writeMap t portable m r
    | some (false, n) => (s.modTh t fun u => u.put n v.2).writeMap t portable m r
    | some (true, n) =>
      let th := s.th t
      match s.storeG th th.privileged (th.ovfAddr (128 + n)) 0 (leBytes 4 v.2.toNat) with
      | (s, .ok _) => s.writeMap t portable m r
      | (s, .error e) => (s, some (spillStop e))

/-- The registers that a thread's state maps at a point: those of its image's map; in portable code, the registers that the
destination's map names, or every register when the destination is portable too. -/
def liveAt (portable : Bool) (here : List (Nat × Bool × Nat)) (destPortable : Bool) (dest : List (Nat × Bool × Nat)) :
    List (Nat × Bool × Nat) :=
  if !portable then here
  else if destPortable then (upto 128).map fun k => (k, false, k)
  else dest.map fun e => (e.1, 128 ≤ e.1, if 128 ≤ e.1 then e.1 - 128 else e.1)

/-- A thread stands at a point of an image, entered without a transfer, and records it (R193, R198, R199). -/
def Thread.standAt (u : Thread) (pc : DWord) (portable : Bool) (e : EqpRec) : Thread :=
  { u with pc := pc, portable := portable, clause := none, entered := false, byTransfer := false, eqp := some e, hold := .none }

/-- A thread that has crossed to another image stands at its point with zeroed registers and its virtual registers written (R193,
R198). A portable function that it had not entered by a CALL gets its overflow block here (R69, log 18). A push or store
that fails raises its trap at the point. -/
def State.arriveAt (s : State) (t : Nat) (pc : DWord) (portable : Bool) (e : EqpRec) (m : List (Nat × Bool × Nat))
    (vs : List (Nat × Word)) : State :=
  let u := s.th t
  let f := s.frameOf (s.team u.team).ctx pc
  let s := s.modTh t fun x => { (x.standAt pc portable e) with regs := Vector.replicate 128 0 }
  let r := if portable && u.frames.isEmpty then s.pushFrame t f else (s, none)
  let r := match r with
    | (s, some e) => (s, some e)
    | (s, none) => s.writeMap t portable m vs
  match r with
  | (s, none) => s
  | (s, some (c, a)) => (s.raise t (plainTrap c (dword a) pc false (s.nextId * 8))).enterFor t

/-! ## Moves (R197, R198) -/

/-- Why a group does not move. -/
inductive NoMove where
  | cond | room
deriving DecidableEq, Repr

/-- The destination of a move to a core of a kind (R197), the conditions on the target and on the threads' positions apart. -/
def State.moveDestOf (s : State) (g : Nat) (kind : CoreKind) : Except NoMove Nat :=
  let gr := s.group g
  let live := s.liveOf g
  if live.any (fun u => u.depth != 0) || gr.g.toList.any (fun c => c.signed != 0) then .error .cond
  else
    let home := match live with
      | u :: _ => (s.cluster (s.team u.team).cluster).rect
      | [] => []
    let rest := (gladeCores (gladeOf gr.core)).filter fun c => !home.contains c
    match (coresOf kind (home ++ rest)).find? fun c =>
        s.fits c gr.slices (s.groupB g) && gr.tiles.length + s.tilesUsed c ≤ tileCap kind with
    | some c => .ok c
    | none => .error .room

/-- The destination of a move to the pending target's kind (R197). -/
def State.moveDest (s : State) (g : Nat) : Except NoMove Nat := match (s.group g).target with
  | none => .error .cond
  | some t => if t.kind == kindOf (s.group g).core then .error .cond else s.moveDestOf g t.kind

/-- Moves the threads of a group; the first failed read of an overflow slot ends the attempt with its address. -/
def State.moveReads (s : State) (kind : CoreKind) : List Thread →
    State × Except (Nat × Nat) (List (Thread × DWord × Bool × EqpRec × List (Nat × Bool × Nat) × List (Nat × Word)))
  | [] => (s, .ok [])
  | u :: r =>
    let obj := (s.imageAt (s.team u.team).ctx u.pc.toNat).map (·.1)
    match obj, s.pointOf u u.pc with
    | some o, some (e, here) => match o.resumeAt kind e with
      | none => (s, .error (u.id, 0))
      | some (pc, p, dest) => match s.readMap u.id (liveAt u.portable here p dest) with
        | (s, .error a) => (s, .error (u.id, a))
        | (s, .ok vs) => match s.moveReads kind r with
          | (s, .ok l) => (s, .ok ((u, pc, p, e, dest, vs) :: l))
          | (s, .error a) => (s, .error a)
    | _, _ => (s, .error (u.id, 0))

/-- The move of a group to a core (R198, R252), or to another image on its own core (R449); an overflow slot that cannot be read raises 0x33 at the point (log 18). -/
def State.moveGroup (s : State) (g dest : Nat) : State :=
  let gr := s.group g
  match s.moveReads (kindOf dest) (s.liveOf g) with
  | (s, .error (t, a)) => ((s.modTh t fun u => { u with hold := .none }).raise t
      (plainTrap .spill (dword a) (s.th t).pc false (s.nextId * 8))).enterFor t
  | (s, .ok l) =>
    let s := s.rebind gr.core dest
    let grp := if dest == gr.core then gr.grp else (s.freeGrps dest).headD 0
    let (st, s) := s.fresh
    let s := s.modGroup g fun x => { x with
      core := dest, grp := grp, target := if dest == gr.core then x.target else none, moveHold := false, stamp := st
      statS := if dest == gr.core then x.statS else 0, statP := if dest == gr.core then x.statP else 0 }
    let s := l.foldl (fun s m => let (u, pc, p, e, map, vs) := m; s.arriveAt u.id pc p e map vs) s
    ((s.freed gr.core).tilesFreed gr.core).tilesFreed dest

/-- Whether every live thread of a group stands at the first one's PC. -/
def State.together (s : State) (g : Nat) : Bool := match s.liveOf g with
  | u :: r => r.all fun v => v.pc == u.pc
  | [] => false

/-! ## Beads and their groups (R189 to R193) -/

/-- Cuts a list into groups of 32. -/
def chunks {α : Type} : Nat → List α → List (List α)
  | 0, _ => []
  | n + 1, l => if l.isEmpty then [] else l.take 32 :: chunks n (l.drop 32)

/-- The groups of R191 from members sorted by key and `%tid`: full groups of each key first, then the rest in order. -/
def rodGroups (l : List (Nat × Nat)) : List (List Nat) :=
  let keys := (l.map (·.1)).eraseDups
  let rods := keys.map fun k => (l.filter fun p => p.1 == k).map (·.2)
  let full := rods.flatMap fun m => chunks (m.length / 32) m
  let rest := rods.flatMap fun m => m.drop (m.length / 32 * 32)
  full ++ chunks rest.length rest

/-- The target kind of a new group (R192): the one named, or the kind of the host of its rank 0. Where members of a group name
different kinds, the REORDER of its rank 0 decides (log 43). -/
def State.rodKind (s : State) (m : List Nat) : CoreKind :=
  match ((s.th (m.headD 0)).reorder.map ReorderRec.kind).getD .keep with
  | .b => .bramble
  | .l => .larch
  | .keep => kindOf (s.hostOf (s.th (m.headD 0)))

/-- The core list of a new group (R192). -/
def State.rodCores (s : State) (m : List Nat) : List Nat :=
  let u := s.th (m.headD 0)
  if (u.reorder.map ReorderRec.core).getD false then [s.hostOf u]
  else coresOf (s.rodKind m) (s.cluster (s.team u.team).cluster).rect

/-! ### The save area (R404, R405) -/

/-- Offset of copy B from copy A (R404). -/
def copyB : Nat := 0xC000000000
/-- Physical address of copy A of a context's save area (R404). -/
def State.saveA (s : State) (c : Context) : Nat := s.moduleNo * 2 ^ 46 + c.saveBase.toNat / 65536 * 65536 % 2 ^ 46
/-- Bytes of each copy (R404). -/
def Context.saveCap (c : Context) : Nat := 2 ^ (c.saveBase.toNat % 32) * 65536

/-- Writes bytes to both copies (R404). -/
def State.saveWrite (s : State) (c : Context) (off : Nat) (bs : List Byte) : State :=
  (s.homeWrite (s.saveA c + off) bs).homeWrite (s.saveA c + copyB + off) bs

/-- The lowest free aligned range of `n` bytes among used ones, from `lo` up to `hi` (R405, R153). -/
def lowestFree (align : Nat) (used : List (Nat × Nat)) (n hi : Nat) : Nat → Nat → Option Nat
  | 0, _ => none
  | fuel + 1, lo =>
    if hi < lo + n then none
    else match used.find? fun r => r.1 < lo + n && lo < r.1 + r.2 with
      | none => some lo
      | some r => lowestFree align used n hi fuel ((r.1 + r.2 + align - 1) / align * align)

/-- Pads bytes with zeros to length `n`. -/
def padLen (n : Nat) (b : List Byte) : List Byte := b ++ List.replicate (n - b.length) 0#8

/-- Bytes of a bead with its status entry (R190). -/
def beadSize : Nat := 96
/-- Beads that a glade's store holds (R4, R189). -/
def beadCap : Nat := 16384

/-- A bead with its status entry (R190). -/
def State.beadBytes (s : State) (b : Bead) : List Byte :=
  let u := s.th b.thread
  let g := s.group u.group
  let core := (u.reorder.map ReorderRec.core).getD false
  let c0 := g.beadCores.headD 0
  let st := g.beadNo % 65536 + u.rank * 2 ^ 16 + (kindNum (kindOf c0) + 1) * 2 ^ 21 + (if core then c0 % 12 * 2 ^ 23 + 2 ^ 27 else 0)
  leBytes 4 b.key ++ leBytes 2 b.eqp
    ++ leBytes 2 (b.kbase + 1024 * ((b.payload.length + 7) % 8) + (if b.fromPortable then 8192 else 0))
    ++ leBytes 8 u.tid.toNat ++ leBytes 16 u.trail.toNat ++ padLen 32 (wordsBytes b.payload)
    ++ leBytes 4 u.fstat.toNat ++ leBytes 4 u.fmode.toNat ++ leBytes 4 u.fseed.toNat ++ leBytes 4 u.spillLimit.toNat
    ++ leBytes 8 u.spillBase.toNat ++ leBytes 4 u.spillPtr.toNat ++ leBytes 4 st

/-- The beads of a context that lie in its save area (R189). -/
def State.spilledBeads (s : State) (ctx : Nat) : List (Nat × Nat) :=
  s.beads.filterMap fun b => if (s.ctxOf (s.th b.thread)).id == ctx then b.spill.map fun o => (o, beadSize) else none

/-- The ranges of a context's save area that are in use (R405). -/
def State.areaUsed (s : State) (ctx : Nat) : List (Nat × Nat) :=
  (s.ctx ctx).images.map (fun i => (i.off, i.len)) ++ s.spilledBeads ctx

/-- The lowest free range of a context's save area that takes `n` bytes (R405). -/
def State.areaRange (s : State) (ctx n : Nat) : Option Nat :=
  let used := s.areaUsed ctx
  lowestFree 64 used n (s.ctx ctx).saveCap (used.length + 1) 65536

/-- A range of a context's save area is free again: the cores whose parks found no room there try again (R156). -/
def State.areaFreed (s : State) (ctx : Nat) : State :=
  (s.cores.filter fun c => c.parkWait == some ctx).foldl
    (fun s c => (s.modCore c.id fun x => { x with parkWait := none }).once (.teamResident c.id)) s

/-- Whether the store of a bead's glade has no place for it (R4, R189). -/
def State.beadsFull (s : State) (b : Bead) : Bool :=
  let glade := fun (x : Bead) => (s.group (s.th x.thread).group).rodGlade
  beadCap ≤ (s.beads.filter fun x => x.thread != b.thread && x.spill.isNone && glade x == glade b
    && (s.team (s.th x.thread).team).state != .saved).length

/-- A new bead takes a place in its glade's bead store, or else a range of its context's save area, written in both copies;
without room there too it is held all the same (R189, R405, log 60). -/
def State.storeBead (s : State) (t : Nat) : State := match s.beads.find? fun b => b.thread == t with
  | none => s
  | some b =>
    let c := s.ctxOf (s.th t)
    if c.saveBase == 0 || !s.beadsFull b then s
    else match s.areaRange c.id beadSize with
      | none => s
      | some off =>
        let s := s.saveWrite c off (s.beadBytes b)
        { s with beads := s.beads.map fun x => if x.thread == t then { x with spill := some off } else x }

/-- A bead is gone, and its range of the save area is free. -/
def State.dropBead (s : State) (t : Nat) : State :=
  let spilled := s.beads.any fun b => b.thread == t && b.spill.isSome
  let s := { s with beads := s.beads.filter fun b => b.thread != t }
  if spilled then s.areaFreed (s.ctxOf (s.th t)).id else s

/-- Places a waiting group on the first core that takes it, from index j mod C on (R192); its threads stand at their
resumption point with their payload (R193). A thread keeps the fault records that it holds (R386), which R193 does not name
(log 43). -/
def State.placeRod (s : State) (g : Nat) : State :=
  let gr := s.group g
  let ts := s.threads.filter fun u => u.group == g && u.status == .live
  let n := gr.beadCores.length
  let order := (upto n).map fun i => gr.beadCores.getD ((gr.beadNo + i) % n) 0
  let b := s.groupB g
  match order.find? fun c => s.fits c gr.slices b with
  | none => s
  | some c =>
    let grp := (s.freeGrps c).headD 0
    let (st, s) := s.fresh
    let s := s.modGroup g fun x => { x with core := c, grp := grp, resident := true, stamp := st, beadCores := [], beadNo := 0 }
    let s := s.acquireCore c
    ts.foldl (fun s u =>
      match s.beads.find? fun x => x.thread == u.id with
      | none => s
      | some bd =>
        let e : EqpRec := (u.reorder.map ReorderRec.point).getD (u.eqp.getD ⟨bd.eqp, 0, 0⟩)
        let obj := (s.ctxOf u).objs.find? fun o => o.handle == e.handle
        match obj.bind fun o => o.resumeAt (kindOf c) e with
        | none => s
        | some (pc, p, map) =>
          let s := s.modTh u.id fun x => { x with preds := 0, flags := Vector.replicate 12 0, depth := 0, reorder := none }
          let s := s.dropBead u.id
          let f := (u.frames.headD (0, 0)).1
          let zeros := if p && 112 < f then (upto (f - 112)).map fun i => (128 + i, 0#32) else []
          s.arriveAt u.id pc p e map (zeros ++ bd.payload.mapIdx fun i w => (bd.kbase + i, w))) s

/-- Groups of a glade's bead store are offered again, in ascending j (R192). -/
def State.offerRods (s : State) (glade : Nat) : State := (s.waitingRods glade).foldl State.placeRod s

/-- The threads that take part in the REORDER at which a thread waits and are still live (R186). -/
def State.parts (s : State) (r : ReorderRec) : List Thread :=
  r.parts.filterMap fun t => (s.thread? t).bind fun u => if u.status == .live then some u else none

/-- A group that has lost its last thread to beads gives up its place and tiles (R189, R201). -/
def State.dissolve (s : State) (g : Nat) : State :=
  if !(s.liveOf g).isEmpty then s
  else
    let gr := s.group g
    let s := s.releaseTiles g
    ({ s with groups := dropBy Group.id s.groups g }).freed gr.core

/-- A participant of a REORDER becomes a bead, and waits in it at a position of a new group (R190, R191). -/
def State.makeBead (s : State) (group t position : Nat) : State :=
  let u := s.th t
  let r := u.reorder.getD default
  let bd : Bead := { spill := none, thread := u.id, key := r.key.toNat, eqp := r.point.num, kbase := r.kbase
                     payload := r.payload, fromPortable := r.portable }
  let s := s.modTh u.id fun x => { x with group := group, rank := position, hold := .bead, clause := none, entered := false }
  ({ s with beads := s.beads ++ [bd] } : State).storeBead u.id

/-- The new group number j, with its members in order and its core list (R191, R192); its members become beads. -/
def State.makeRod (s : State) (m cores : List Nat) (j : Nat) : State × Nat :=
  let (id, s) := s.fresh
  let ng : Group := { Group.fresh id (cores.headD 0) 0 0 .none (slicesOf (upto m.length)) with
    resident := false, beadNo := j, beadCores := cores }
  (m.zipIdx.foldl (fun s q => s.makeBead id q.1 q.2) { s with groups := s.groups ++ [ng] }, id)

/-- The REORDER of a set of participants, all of whom have arrived (R189 to R194). The new groups are offered their places before
older groups that wait in the glade's bead store are offered the room that the participants leave (R192, log 43). -/
def State.reorderGo (s : State) (ps : List Thread) : State :=
  let fail := fun (s : State) (a : Nat) =>
    let stamp := s.nextId * 8
    let s := s.closeSilently (ps.filterMap fun u => u.reorder.map ReorderRec.flush)
    let s := ps.foldl (fun s u => (s.modTh u.id fun x => { x with hold := .none, reorder := none }).raise u.id
      (plainTrap .reorderState (dword a) u.pc true stamp)) s
    ps.foldl (fun s u => s.enterFor u.id) s
  let points := ps.filterMap fun u => u.reorder.map ReorderRec.point
  if points.eraseDups.length != 1 then fail s 1
  else
    let sorted := sortKey (ps.map fun u => ((((u.reorder.map ReorderRec.key).getD 0).toNat * 2 ^ 64 + u.tid.toNat), u.id))
    let rods := rodGroups (sorted.map fun p => (p.1 / 2 ^ 64, p.2))
    if rods.any fun m => (s.rodCores m).isEmpty then fail s 2
    else
      let s := s.closeSilently (ps.filterMap fun u => u.reorder.map ReorderRec.flush)
      let lists := rods.map fun m => (m, s.rodCores m)
      let old := (ps.map Thread.group).eraseDups
      let s := old.foldl (fun s g => s.publishCore (s.group g).core 0xFF#8) s
      let (s, ids) := lists.zipIdx.foldl (fun (acc : State × List Nat) p =>
        let (s, id) := acc.1.makeRod p.1.1 p.1.2 p.2
        (s, acc.2 ++ [id])) (s, [])
      let s := old.foldl State.dissolve s
      ids.foldl State.placeRod s

/-- R186: a REORDER completes when every participant of one domain has arrived or ended. A participant's team that is parked
becomes ready first (R157). -/
def State.reorderCheck (s : State) (t : Nat) : State :=
  match (s.th t).reorder with
  | none => s
  | some r =>
    let ps := s.parts r
    if !(ps.all fun u => u.hold == Hold.reorder && (u.reorder.map ReorderRec.core) == some r.core) then s
    else
      let away := ps.filter fun u => (s.team u.team).state != .resident
      if away.isEmpty then s.reorderGo ps
      else away.foldl (fun s u =>
        (s.modTeam u.team fun m => { m with state := match m.state with
          | .parked => .readyParked
          | .parking => .parkingReady
          | x => x }).once (.teamResident (s.hostOf u))) s

/-- After a thread of a team's cluster has ended: the REORDERs that wait there are tested again (R186). -/
def State.reorderEnd (s : State) (cluster : Nat) : State :=
  (s.threads.filter fun u => u.hold == Hold.reorder && (s.team u.team).cluster == cluster).foldl
    (fun s u => if (s.th u.id).hold == Hold.reorder then s.reorderCheck u.id else s) s

/-- A trap delivered to a thread that waits at a REORDER withdraws its arrival (R188). -/
def State.withdrawReorder (s : State) (t : Nat) : State := match (s.th t).reorder with
  | none => s
  | some r => (s.closeSilently [r.flush]).modTh t fun u => { u with reorder := none }

end Sys2Proof.Machine
end

