-- ==== Sys2Proof/Machine/Integer.lean ====
section
/-!
DEFINITION. Integer and address arithmetic (R94, R126 to R128).
-/

namespace Sys2Proof.Machine

/-- An operand as the exact integer of its type: Ext of R114. -/
def State.rdInt (s : State) (th : Thread) (ty : Ty) (o : Opd) : Int := tyInt ty (s.rd th ty o)

/-- Writes an exact integer result under R127, with the flags it sets. -/
def State.intResult (s : State) (th : Thread) (ty : Ty) (sat : Bool) (d : Opd) (t : Int) : State × Next :=
  let r := intWrite ty sat t
  ((s.modTh th.id fun u => u.sticky r.2).wr th.id ty d r.1, .next)

/-- Writes a result that sets no flag (R114). -/
def State.plain (s : State) (th : Thread) (ty : Ty) (d : Opd) (x : Nat) : State × Next := (s.wr th.id ty d x, .next)

/-- The quotient of R94 in a type: value and flags. -/
def intQuot (ty : Ty) (sat : Bool) (a b : Int) : Nat × Nat :=
  if b == 0 then (if ty.signed then wrapTo ty.bits (if a < 0 then -1 else 0) else 2 ^ ty.bits - 1, fDVZ)
  else if ty.signed && a == -(2 ^ (ty.bits - 1) : Nat) && b == -1 then
    if sat then (2 ^ (ty.bits - 1) - 1, fSAT) else (2 ^ (ty.bits - 1), fOVF)
  else (wrapTo ty.bits (a.tdiv b), 0)
/-- The remainder of R94 in a type: value and flags. -/
def intRem (ty : Ty) (a b : Int) : Nat × Nat :=
  if b == 0 then (wrapTo ty.bits a, fDVZ) else (wrapTo ty.bits (a.tmod b), 0)

/-- IADD (R126). -/
def execIadd (x : X) (ty : Ty) (sat : Bool) (d a b : Opd) (s : State) : Result :=
  .next (s.issue (.iadd x ty sat d a b) x fun s th =>
    s.intResult th ty sat d (s.rdInt th ty a + s.rdInt th ty b))

/-- IADD, immediate form: IMM is sign-extended for s types, zero-extended for n types (R126). -/
def execIaddImm (x : X) (ty : Ty) (sat : Bool) (d a : Opd) (imm : Word) (s : State) : Result :=
  .next (s.issue (.iaddImm x ty sat d a imm) x fun s th =>
    s.intResult th ty sat d (s.rdInt th ty a + intVal ty.signed 32 imm.toNat))

/-- ISUB (R126). -/
def execIsub (x : X) (ty : Ty) (sat : Bool) (d a b : Opd) (s : State) : Result :=
  .next (s.issue (.isub x ty sat d a b) x fun s th =>
    s.intResult th ty sat d (s.rdInt th ty a - s.rdInt th ty b))

/-- IMUL (R126). -/
def execImul (x : X) (ty : Ty) (sat : Bool) (d a b : Opd) (s : State) : Result :=
  .next (s.issue (.imul x ty sat d a b) x fun s th =>
    s.intResult th ty sat d (s.rdInt th ty a * s.rdInt th ty b))

/-- IMULH: bits 2w-1:w of the exact product (R126). -/
def execImulh (x : X) (ty : Ty) (d a b : Opd) (s : State) : Result :=
  .next (s.issue (.imulh x ty d a b) x fun s th =>
    s.plain th ty d (wrapTo (2 * ty.bits) (s.rdInt th ty a * s.rdInt th ty b) / 2 ^ ty.bits))

/-- IMAD (R126). -/
def execImad (x : X) (ty : Ty) (sat : Bool) (d a b c : Opd) (s : State) : Result :=
  .next (s.issue (.imad x ty sat d a b c) x fun s th =>
    s.intResult th ty sat d (s.rdInt th ty a * s.rdInt th ty b + s.rdInt th ty c))

/-- IDIV (R94, R126). -/
def execIdiv (x : X) (ty : Ty) (sat : Bool) (d a b : Opd) (s : State) : Result :=
  .next (s.issue (.idiv x ty sat d a b) x fun s th =>
    let r := intQuot ty sat (s.rdInt th ty a) (s.rdInt th ty b)
    (s.modTh th.id fun u => u.sticky r.2).plain th ty d r.1)

/-- IREM (R94, R126). -/
def execIrem (x : X) (ty : Ty) (d a b : Opd) (s : State) : Result :=
  .next (s.issue (.irem x ty d a b) x fun s th =>
    let r := intRem ty (s.rdInt th ty a) (s.rdInt th ty b)
    (s.modTh th.id fun u => u.sticky r.2).plain th ty d r.1)

/-- IMIN (R126). -/
def execImin (x : X) (ty : Ty) (d a b : Opd) (s : State) : Result :=
  .next (s.issue (.imin x ty d a b) x fun s th =>
    s.plain th ty d (if s.rdInt th ty a ≤ s.rdInt th ty b then s.rd th ty a else s.rd th ty b))

/-- IMAX (R126). -/
def execImax (x : X) (ty : Ty) (d a b : Opd) (s : State) : Result :=
  .next (s.issue (.imax x ty d a b) x fun s th =>
    s.plain th ty d (if s.rdInt th ty a ≤ s.rdInt th ty b then s.rd th ty b else s.rd th ty a))

/-- IABS (R126, R127). -/
def execIabs (x : X) (ty : Ty) (sat : Bool) (d a : Opd) (s : State) : Result :=
  .next (s.issue (.iabs x ty sat d a) x fun s th => s.intResult th ty sat d (s.rdInt th ty a).natAbs)

/-- INEG (R126, R127). -/
def execIneg (x : X) (ty : Ty) (sat : Bool) (d a : Opd) (s : State) : Result :=
  .next (s.issue (.ineg x ty sat d a) x fun s th => s.intResult th ty sat d (-(s.rdInt th ty a)))

/-- The element type of IDOT4: s8 for s32, n8 for n32 (R126). -/
def dotTy (ty : Ty) : Ty := if ty == .s32 then .s8 else .n8

/-- The sum of the four byte products of IDOT4 (R126). -/
def dot4 (ty : Ty) (a b : Nat) : Int :=
  ((upto 4).map fun i => tyInt (dotTy ty) (bitsAt a (8 * i) 8) * tyInt (dotTy ty) (bitsAt b (8 * i) 8)).sum

/-- IDOT4 (R126). -/
def execIdot4 (x : X) (ty : Ty) (sat : Bool) (d a b c : Opd) (s : State) : Result :=
  .next (s.issue (.idot4 x ty sat d a b c) x fun s th =>
    s.intResult th ty sat d (s.rdInt th ty c + dot4 ty (s.rdP th (dotTy ty) a) (s.rdP th (dotTy ty) b)))

/-- LEA (R128). -/
def execLea (x : X) (sx : Bool) (sh : Fin 8) (d a b : Opd) (s : State) : Result :=
  .next (s.issue (.lea x sx sh d a b) x fun s th =>
    let i := s.rd32 th b
    let y : DWord := if sx then i.signExtend 64 else i.zeroExtend 64
    (s.wr64 th.id d (s.rd64 th a + (y <<< sh.val)), .next))

/-- LEA, immediate form (R128). -/
def execLeaImm (x : X) (d a : Opd) (imm : Word) (s : State) : Result :=
  .next (s.issue (.leaImm x d a imm) x fun s th => (s.wr64 th.id d (s.rd64 th a + imm.signExtend 64), .next))

end Sys2Proof.Machine
end

