-- ==== Sys2Proof/Machine/Float.lean ====
section
/-!
DEFINITION. Floating-point arithmetic (R133, R134), conversion and quantisation (R135 to R137), nonzero analysis (R138)
and special functions (R139).
-/

namespace Sys2Proof.Machine

/-- Writes a floating-point result with what its arithmetic raised (R23, R26, R133). -/
def State.floatResult (s : State) (th : Thread) (ty : Ty) (d : Opd) (r : Nat × Arith) : State × Next :=
  ((s.modTh th.id fun u => u.arithDone r.2).wr th.id ty d r.1, .next)

/-- One scalar operation of R133. -/
def State.fopOp (s : State) (th : Thread) (op : Fop) (ty : Ty) (r : Option Rm) (sat : Bool) (d a b c : Opd) : State × Next :=
  s.floatResult th ty d (fop (th.arith r) op ty sat false (s.rd th ty a) (s.rd th ty b) (s.rd th ty c))

/-- The byte 0x00 operand of instructions that read no C. -/
def noOpd : Opd := .k 0

/-- FADD (R133). -/
def execFadd (x : X) (r : Option Rm) (sat : Bool) (d a b : Opd) (s : State) : Result :=
  .next (s.issue (.fadd x r sat d a b) x fun s th => s.fopOp th .add .f32 r sat d a b noOpd)
/-- FSUB (R133). -/
def execFsub (x : X) (r : Option Rm) (sat : Bool) (d a b : Opd) (s : State) : Result :=
  .next (s.issue (.fsub x r sat d a b) x fun s th => s.fopOp th .sub .f32 r sat d a b noOpd)
/-- FMUL (R133). -/
def execFmul (x : X) (r : Option Rm) (sat : Bool) (d a b : Opd) (s : State) : Result :=
  .next (s.issue (.fmul x r sat d a b) x fun s th => s.fopOp th .mul .f32 r sat d a b noOpd)
/-- FMAD (R133). -/
def execFmad (x : X) (r : Option Rm) (sat : Bool) (d a b c : Opd) (s : State) : Result :=
  .next (s.issue (.fmad x r sat d a b c) x fun s th => s.fopOp th .mad .f32 r sat d a b c)
/-- DADD (R133). -/
def execDadd (x : X) (r : Option Rm) (sat : Bool) (d a b : Opd) (s : State) : Result :=
  .next (s.issue (.dadd x r sat d a b) x fun s th => s.fopOp th .add .f64 r sat d a b noOpd)
/-- DMUL (R133). -/
def execDmul (x : X) (r : Option Rm) (sat : Bool) (d a b : Opd) (s : State) : Result :=
  .next (s.issue (.dmul x r sat d a b) x fun s th => s.fopOp th .mul .f64 r sat d a b noOpd)
/-- DMAD (R133). -/
def execDmad (x : X) (r : Option Rm) (sat : Bool) (d a b c : Opd) (s : State) : Result :=
  .next (s.issue (.dmad x r sat d a b c) x fun s th => s.fopOp th .mad .f64 r sat d a b c)

/-- FMIN (R134). -/
def execFmin (x : X) (d a b : Opd) (s : State) : Result :=
  .next (s.issue (.fmin x d a b) x fun s th =>
    s.floatResult th .f32 d (fminmax (th.arith none) .f32 false (s.rd th .f32 a) (s.rd th .f32 b)))
/-- FMAX (R134). -/
def execFmax (x : X) (d a b : Opd) (s : State) : Result :=
  .next (s.issue (.fmax x d a b) x fun s th =>
    s.floatResult th .f32 d (fminmax (th.arith none) .f32 true (s.rd th .f32 a) (s.rd th .f32 b)))

/-- A packed operation of R133: element 0, then element 1. -/
def State.packedOp (s : State) (th : Thread) (op : Fop) (ty : Ty) (r : Option Rm) (sat : Bool) (d a b c : Opd) :
    State × Next :=
  let va := s.rdP th ty a
  let vb := s.rdP th ty b
  let vc := s.rdP th ty c
  let e0 := fop (th.arith r) op ty sat true (va % 65536) (vb % 65536) (vc % 65536)
  let e1 := fop e0.2 op ty sat true (va / 65536) (vb / 65536) (vc / 65536)
  s.floatResult th .b32 d (e0.1 + e1.1 * 65536, e1.2)

/-- PADD2 (R133). -/
def execPadd2 (x : X) (ty : Ty) (r : Option Rm) (sat : Bool) (d a b : Opd) (s : State) : Result :=
  .next (s.issue (.padd2 x ty r sat d a b) x fun s th => s.packedOp th .add ty r sat d a b noOpd)
/-- PMUL2 (R133). -/
def execPmul2 (x : X) (ty : Ty) (r : Option Rm) (sat : Bool) (d a b : Opd) (s : State) : Result :=
  .next (s.issue (.pmul2 x ty r sat d a b) x fun s th => s.packedOp th .mul ty r sat d a b noOpd)
/-- PFMA2 (R133). -/
def execPfma2 (x : X) (ty : Ty) (r : Option Rm) (sat : Bool) (d a b c : Opd) (s : State) : Result :=
  .next (s.issue (.pfma2 x ty r sat d a b c) x fun s th => s.packedOp th .mad ty r sat d a b c)

/-- Element i of a register of elements of type `ty`; the whole pair for 64 bits (R86). -/
def elementOf (ty : Ty) (i x : Nat) : Nat := if 32 ≤ ty.bits then x else bitsAt x (ty.bits * i) ty.bits
/-- Whether R102 lists a conversion to a type. -/
def stochTo (t : Ty) : Bool := match t with
  | .f16 | .bf16 | .e4m3 | .e5m2 | .e2m1 => true
  | _ => false
/-- The exact value of a CVT source element, flushed by its class (R90, R101, R135). -/
def cvtSource (e : Arith) (sty : Ty) (bits : Nat) : FVal :=
  if sty == .e2m1 && bits == 8 then .nan false else e.input sty bits

/-- One converted element of CVT (R135). -/
def cvtElem (e : Arith) (t sty : Ty) (sat : Bool) (bits : Nat) : Nat × Arith :=
  if t.isInt && sty.isInt then
    let r := intWrite t sat (tyInt sty bits)
    (r.1, e.raise r.2)
  else if t.isInt then
    let v := cvtSource e sty bits
    let r := convertToInt t e.rm sat v
    (r.1, e.raise r.2)
  else
    let v : FVal := if sty.isInt then let n := tyInt sty bits; .fin (n < 0) n.natAbs 0 else cvtSource e sty bits
    let e := e.raise (if v.isSnan then fINV else 0)
    let v := if v.isNan then FVal.nan false else v
    if stochTo t then e.roundS t sat v else e.round t sat v

/-- CVT (R135): the other elements of a narrow destination are left unchanged. -/
def execCvt (x : X) (t sty : Ty) (di si : Fin 8) (r : Option Rm) (sat : Bool) (d a : Opd) (s : State) : Result :=
  .next (s.issue (.cvt x t sty di si r sat d a) x fun s th =>
    let src := if sty.bits == 64 then s.rd th sty a else s.rdP th sty a
    let y := cvtElem (th.arith r) t sty sat (elementOf sty si.val src)
    if t.bits < 32 then
      let old := (s.rd32 th d).toNat
      let lo := t.bits * di.val
      s.floatResult th .b32 d (old % 2 ^ lo + y.1 * 2 ^ lo + old / 2 ^ (lo + t.bits) * 2 ^ (lo + t.bits), y.2)
    else s.floatResult th t d y)

/-- R115: a run wholly in the globals, or wholly in the window or frame. -/
def Thread.runOk (th : Thread) (n : Nat) : Opd → Bool
  | .v k => if k.val < 16 then k.val + n ≤ 16 else
    k.val + n ≤ (if th.portable then 16 + max 112 (th.frames.headD (112, 0)).1 else 128)
  | _ => false

/-- The elements of a run of registers, in the order of R86. -/
def runElems (ty : Ty) (ws : List Word) : List Nat :=
  if ty.bits == 32 then ws.map BitVec.toNat
  else ws.flatMap fun w => (upto (32 / ty.bits)).map fun i => bitsAt w.toNat (ty.bits * i) ty.bits

/-- Elements packed into registers, in the order of R86. -/
def packElems (w : Nat) (es : List Nat) : List Word :=
  let per := 32 / w
  (upto ((es.length + per - 1) / per)).map fun k =>
    word (((upto per).map fun i => (es.getD (k * per + i) 0) % 2 ^ w * 2 ^ (w * i)).sum)

/-- The codes of a block under its scale (R136). -/
def quantBlock (t : Ty) (sl : SlotD) (sat : Bool) (sc : Nat) : List (FVal × Bool) → Arith → List Nat × Arith
  | [], e => ([], e)
  | (v, xv) :: r, e =>
    let (c, e) := if xv then (8, e) else match s12Value sc with
      | .nan => (0, e.raise fINV)
      | .zero => if t == .cb4 then let c := encodeCodebook sl (.fin false 0 0); (c.1, e.raise c.2) else (0, e)
      | .val m k => quantElem e t sl sat (stochTo t) v m k
    let (cs, e) := quantBlock t sl sat sc r e
    (c :: cs, e)

/-- CVTQ (R136). -/
def execCvtq (x : X) (t sty : Ty) (slot : Fin 64) (r : Option Rm) (xv sat : Bool) (d b a : Opd) (s : State) : Result :=
  .next (s.issue (.cvtq x t sty slot r xv sat d b a) x fun s th =>
    let sl := s.slot (s.hostOf th) (s.team th.team).ctx slot.val
    let l := sl.blockLen
    let na := if sty == .f32 then l else l / 2
    let nd := l * t.bits / 32
    if !th.runOk na a || !th.runOk nd d then (s, .trap .reservedField th.pc)
    else
      let e := th.arith r
      let els := runElems sty (s.rdRun th .b32 a na)
      let vs := (els.map (flushIn (e.fz sty) sty)).map fun c =>
        (e.input sty c, xv && (if sty == .f32 then c == sl.xv * 65536 else c == sl.xv))
      let sc := chooseScale ((vs.filter fun p => !p.2).map (·.1)) t sl
      let q := quantBlock t sl sat sc.1 vs (e.raise sc.2)
      let s := (s.modTh th.id fun u => u.arithDone q.2).wrRun th.id d (packElems t.bits q.1)
      (s.wr32 th.id b (word sc.1), .next))

/-- CVTD (R137). -/
def execCvtd (x : X) (t sty : Ty) (slot : Fin 64) (nosc : Bool) (d a b : Opd) (s : State) : Result :=
  .next (s.issue (.cvtd x t sty slot nosc d a b) x fun s th =>
    let sl := s.slot (s.hostOf th) (s.team th.team).ctx slot.val
    let sc := if nosc then none else some ((s.rd32 th b).toNat % 4096)
    let codes := runElems sty [word (s.rdP th sty a)]
    (s.wrRun th.id d (packElems t.bits (codes.map fun c => decodeTo t sty sl sc c)), .next))

/-- The nonzero map of an operand's elements, element 0 first (R138). -/
def State.nzMap (s : State) (th : Thread) (ty : Ty) (slot : Fin 64) (ftz : Bool) (a : Opd) : List Bool :=
  let sl := s.slot (s.hostOf th) (s.team th.team).ctx slot.val
  let n := if ty.bits == 64 then 1 else 32 / ty.bits
  let v := if ty.bits == 64 then s.rd th ty a else s.rdP th ty a
  (upto n).map fun i => nonzeroElem ty sl ftz (elementOf ty i v)

/-- NZCNT (R138). -/
def execNzcnt (x : X) (ty : Ty) (slot : Fin 64) (ftz : Bool) (d a b : Opd) (s : State) : Result :=
  .next (s.issue (.nzcnt x ty slot ftz d a b) x fun s th =>
    (s.wr32 th.id d (s.rd32 th b + word ((s.nzMap th ty slot ftz a).countP id)), .next))

/-- NZMAP (R138). -/
def execNzmap (x : X) (ty : Ty) (slot : Fin 64) (ftz : Bool) (d a b : Opd) (s : State) : Result :=
  .next (s.issue (.nzmap x ty slot ftz d a b) x fun s th =>
    let m := s.nzMap th ty slot ftz a
    let bits := (m.zipIdx.map fun p => if p.1 then 2 ^ p.2 else 0).sum
    (s.wr32 th.id d (word ((s.rd32 th b).toNat * 2 ^ m.length + bits)), .next))

/-- Writes the result and flags of a special function (R139). -/
def State.spResult (s : State) (th : Thread) (ty : Ty) (d : Opd) (r : Nat × Nat) : State × Next :=
  ((s.modTh th.id fun u => u.sticky r.2).wr th.id ty d r.1, .next)

/-- RCP (R139). -/
def execRcp (x : X) (ty : Ty) (d a : Opd) (s : State) : Result :=
  .next (s.issue (.rcp x ty d a) x fun s th => s.spResult th ty d (rcpRsq .rcp ty (fzBit th.fmode ty) (s.rd th ty a)))
/-- RSQ (R139). -/
def execRsq (x : X) (ty : Ty) (d a : Opd) (s : State) : Result :=
  .next (s.issue (.rsq x ty d a) x fun s th => s.spResult th ty d (rcpRsq .rsq ty (fzBit th.fmode ty) (s.rd th ty a)))
/-- SQRT, rounded under the mode of R113 (R139). -/
def execSqrt (x : X) (ty : Ty) (r : Option Rm) (d a : Opd) (s : State) : Result :=
  .next (s.issue (.sqrt x ty r d a) x fun s th => s.floatResult th ty d (sqrtOp (th.arith r) ty (s.rd th ty a)))

/-- One f32 special function (R139). -/
def State.sp32 (s : State) (th : Thread) (fn : SpFn) (d a : Opd) : State × Next :=
  s.spResult th .f32 d (special32 fn (fzBit th.fmode .f32) (s.rd th .f32 a))

/-- EX2 (R139). -/
def execEx2 (x : X) (d a : Opd) (s : State) : Result := .next (s.issue (.ex2 x d a) x fun s th => s.sp32 th .ex2 d a)
/-- LG2 (R139). -/
def execLg2 (x : X) (d a : Opd) (s : State) : Result := .next (s.issue (.lg2 x d a) x fun s th => s.sp32 th .lg2 d a)
/-- SIN (R139). -/
def execSin (x : X) (d a : Opd) (s : State) : Result := .next (s.issue (.sin x d a) x fun s th => s.sp32 th .sin d a)
/-- COS (R139). -/
def execCos (x : X) (d a : Opd) (s : State) : Result := .next (s.issue (.cos x d a) x fun s th => s.sp32 th .cos d a)
/-- TANH (R139). -/
def execTanh (x : X) (d a : Opd) (s : State) : Result := .next (s.issue (.tanh x d a) x fun s th => s.sp32 th .tanh d a)
/-- SINCOS: sin in vD, cos in vD+1, with the union of their flags (R139). -/
def execSincos (x : X) (d a : Opd) (s : State) : Result :=
  .next (s.issue (.sincos x d a) x fun s th =>
    let v := s.rd th .f32 a
    let fz := fzBit th.fmode .f32
    let p := special32 .sin fz v
    let q := special32 .cos fz v
    ((s.modTh th.id fun u => u.sticky (p.2 ||| q.2)).wr64 th.id d (pairOf (word p.1) (word q.1)), .next))

end Sys2Proof.Machine
end

