-- ==== Sys2Proof/Machine/Merge.lean ====
section
/-!
DEFINITION. The merge unit (R342 to R347): the registers of a team, what a stream yields next, and the delivery of pairs.
-/

namespace Sys2Proof.Machine

/-- A team's merge register. -/
def mreg (rs : List MergeReg) (m : Nat) : MergeReg := rs.getD m .closed

/-- Whether a register is bound to another (R342). -/
def MergeReg.isBound : MergeReg → Bool
  | .array _ _ _ _ b | .stream _ _ _ _ _ b => b.isSome
  | .closed => false
/-- ARRAY or STREAM (R342): usable directly. -/
def MergeReg.usable (r : MergeReg) : Bool := r != .closed && !r.isBound
/-- Binds a register to a stream. -/
def MergeReg.bind (m : Fin 8) : MergeReg → MergeReg
  | .array a n c l _ => .array a n c l (some m)
  | .stream o a b t l _ => .stream o a b t l (some m)
  | .closed => .closed

/-- Pairs not yet consumed in a team's arrays. -/
def pairsLeft (rs : List MergeReg) : Nat :=
  (rs.map fun r => match r with
    | .array _ n c _ _ => n - c
    | _ => 0).sum

/-- The sum of MMADD (R344). -/
def mergeAdd (t : Ty) (x y : Word) : Word := word ((atomNew .add t x.toNat y.toNat 0).getD 0)

/-- The next pair of an array at its cursor, read on the MERGE path; a bound source's keys must rise strictly (R343, R344). -/
def State.mArray (s : State) (core ctx : Nat) (priv : Bool) (rs : List MergeReg) (m : Nat) (a : DWord) (n c : Nat)
    (last : Option Word) (bound : Option (Fin 8)) :
    State × Except (Cause × Nat) (List MergeReg × Option (Word × Word)) :=
  if n ≤ c then (s, .ok (rs, none))
  else
    let va := (a.toNat + 8 * c) % 2 ^ 64
    match s.engRead (engTlb core) ctx priv va 8 with
    | (s, .error f) => (s, .error f)
    | (s, .ok b) =>
      let k := word (field b 0 4)
      if bound.isSome && (match last with
          | some l => k ≤ l
          | none => false) then (s, .error (.engineFault, va))
      else (s, .ok (rs.set m (.array a n (c + 1) (some k) bound), some (k, word (field b 4 4))))

/-- The next pair that register `m` yields, with the registers as they stand once it is consumed (R344). The registers of the
two sources are disjoint, so that each may be asked apart. -/
def State.mNext (core ctx : Nat) (priv : Bool) : Nat → State → List MergeReg → Nat →
    State × Except (Cause × Nat) (List MergeReg × Option (Word × Word))
  | 0, s, rs, _ => (s, .ok (rs, none))
  | fuel + 1, s, rs, m => match mreg rs m with
    | .closed => (s, .ok (rs, none))
    | .array a n c last bound => s.mArray core ctx priv rs m a n c last bound
    | .stream op a b ty _ bound =>
      let give := fun (s : State) (rs : List MergeReg) (p : Word × Word) =>
        ((s, .ok (rs.set m (.stream op a b ty (some p.1) bound), some p)) :
          State × Except (Cause × Nat) (List MergeReg × Option (Word × Word)))
      match State.mNext core ctx priv fuel s rs a.val with
      | (s, .error f) => (s, .error f)
      | (s, .ok (ra, pa)) => match State.mNext core ctx priv fuel s rs b.val with
        | (s, .error f) => (s, .error f)
        | (s, .ok (rb, pb)) => match pa, pb with
          | none, none => (s, .ok (rs, none))
          | some p, none => if op == 0 then (s, .ok (rs, none)) else give s ra p
          | none, some q => if op == 1 || op == 3 then give s rb q else (s, .ok (rs, none))
          | some p, some q =>
            if p.1 < q.1 then (if op == 0 then State.mNext core ctx priv fuel s ra m else give s ra p)
            else if q.1 < p.1 then (if op == 1 || op == 3 then give s rb q else State.mNext core ctx priv fuel s rb m)
            else match State.mNext core ctx priv fuel s ra b.val with
              | (s, .error f) => (s, .error f)
              | (s, .ok (rab, _)) =>
                if op == 2 then State.mNext core ctx priv fuel s rab m
                else give s rab (p.1, if op == 3 then mergeAdd ty p.2 q.2 else p.2)

/-- Up to `n` next pairs of a register, each with the registers as they stand once it is consumed. -/
def State.mTake (s : State) (core ctx : Nat) (priv : Bool) (rs : List MergeReg) (m : Nat) : Nat →
    State × List (Word × Word) × List MergeReg × Option (Cause × Nat)
  | 0 => (s, [], rs, none)
  | n + 1 => match State.mNext core ctx priv (pairsLeft rs + 16) s rs m with
    | (s, .error f) => (s, [], rs, some f)
    | (s, .ok (rs', none)) => (s, [], rs', none)
    | (s, .ok (rs', some p)) => match s.mTake core ctx priv rs' m n with
      | (s, l, r, e) => (s, p :: l, r, e)

/-- The registers of a stream: itself and its sources (R347). -/
def mTree (rs : List MergeReg) : Nat → Nat → List Nat
  | 0, _ => []
  | fuel + 1, m => match mreg rs m with
    | .stream _ a b _ _ _ => m :: (mTree rs fuel a.val ++ mTree rs fuel b.val)
    | _ => [m]

/-- Whether an MNEXT.st of a team draws on a merge tree (R347). -/
def State.mergeBusy (s : State) (team m : Nat) : Bool :=
  let tree := mTree (s.team team).merge 8 m
  s.ops.any fun o => o.team == team && (match o.instr with
    | .mnextSt _ _ ma _ _ _ => tree.contains ma.val
    | _ => false)

/-- Whether an earlier MNEXT.st of its team is in progress on the register of this one: operations on one register are taken one at
a time, in order of arrival (R342). -/
def State.mergeBehind (s : State) (o : Op) (m : Nat) : Bool :=
  s.ops.any fun p => p.team == o.team && p.id < o.id && (match p.instr with
    | .mnextSt _ _ ma _ _ _ => ma.val == m
    | _ => false)

/-- At most `n` further pairs of an MNEXT.st that has written `k`, each taken and written in one go on the MERGE path (R346): how many
stand written then, and the fault that ends it, or none where the stream is exhausted. -/
def State.mStore (s : State) (o : Op) (colour : Fin 8) (ma : Nat) : Nat → Nat → State × Nat × Option (Option (Cause × Nat))
  | 0, k => (s, k, none)
  | n + 1, k =>
    let t := s.team o.team
    let va := (o.data.getD 0 0 + 8 * k) % 2 ^ 64
    match s.mTake t.home o.ctx o.priv t.merge ma 1 with
    | (s, _, _, some f) => (s, k, some (some f))
    | (s, [], _, none) => (s, k, some none)
    | (s, p :: _, rs, none) =>
      match s.engWrite (engTlb t.home) o.ctx o.priv .write va (leBytes 4 p.1.toNat ++ leBytes 4 p.2.toNat) with
      | (s, .error f) => (s, k, some (some f))
      | (s, .ok _) =>
        let s := s.checkedWrite o.team (tagG va) (some colour)
        (s.modTeam o.team fun x => { x with merge := rs }).mStore o colour ma n (k + 1)

/-- At most `j` further pairs of an MNEXT.st, or all that are left (R325, R346): it ends with its last pair, with the last of the
stream, whose number is its result, or with the fault of a pair, which is not consumed (R326). -/
def State.mnextSteps (s : State) (o : Op) (colour : Fin 8) (ma : Fin 8) (d : Opd) (j : Option Nat) : State :=
  let left := o.data.getD 1 0 - o.progress
  let n := (j.map (min left)).getD left
  match s.mStore o colour ma.val n o.progress with
  | (s, _, some (some (c, a))) => s.opDone { o with fault := some (c, dword a) }
  | (s, k, some none) => s.opDone { o with writes := runWrites d [word k] }
  | (s, k, none) =>
    if n == left then s.opDone { o with writes := runWrites d [word k] } else s.modOp o.id fun x => { x with progress := k }

/-- The MNEXT.sts in progress on a register complete, in order of arrival, before a later operation on it is taken (R342). A frozen
context's stand still (R248). -/
def State.settleMerge (s : State) (team : Nat) (m : Fin 8) : State :=
  (s.ops.filter fun o => o.team == team).foldl (fun s o => match o.instr with
    | .mnextSt _ colour ma d _ _ => if ma == m && !(s.ctx o.ctx).frozen then s.mnextSteps ((s.op? o.id).getD o) colour ma d none else s
    | _ => s) s

/-- Raises one cause with one address in every thread of a list, at one collective (R345). -/
def State.trapAll (s : State) (ts : List (Nat × DWord)) (c : Cause) (a : Option DWord) : State :=
  let stamp := s.nextId * 8
  ts.foldl (fun s t => (s.modTh t.1 fun u => { u with hold := .none }).raise t.1
    (plainTrap c (a.getD t.2) t.2 true stamp)) s

/-- A completed MNEXT (R345): its present threads in ascending rank, after the operations in progress on its register (R342). -/
def State.mnextMeet (s : State) (g : Nat) (ma : Fin 8) (d : Opd) (present : List Arrival) : State :=
  let ps := (sortKey (present.map fun r => (r.rank, r))).map (·.2)
  match ps with
  | [] => s
  | p :: _ =>
    let th := s.th p.thread
    let t := s.team th.team
    let who := ps.map fun r => (r.thread, r.pc)
    let s := s.settleMerge t.id ma
    let rs := (s.team t.id).merge
    if s.mergeBusy t.id ma.val then
      ps.foldl (fun s r => s.modTh r.thread fun u => { u with hold := .none, stall := some (.merge ma.val) }) s
    else if !(mreg rs ma.val).usable then (s.trapAll who .reservedField none).enterHandlers g
    else match s.mTake t.home t.ctx th.privileged rs ma.val ps.length with
      | (s, _, _, some (c, a)) => (s.trapAll who c (some (dword a))).enterHandlers g
      | (s, pairs, rs, none) =>
        let n := word pairs.length
        let s := s.modTeam t.id fun x => { x with merge := rs }
        ps.zipIdx.foldl (fun s q =>
          let ws := match pairs[q.2]? with
            | some (k, v) => [k, v, n]
            | none => [0xFFFFFFFF#32, 0#32, n]
          s.releaseWith q.1.thread (runWrites d ws) id) s

end Sys2Proof.Machine
end

