-- ==== Sys2Proof/Machine/Group.lean ====
section
/-!
DEFINITION. What acts on a group (05 R119, 06 R163 to R165, 07): the lane rendezvous and its instructions, rejoin
registers, the end of threads and groups, REORDER, MIGRATE and group moves.
-/

namespace Sys2Proof.Machine

/-! ## Lane instructions (R174 to R180) -/

/-- What a lane instruction gives one thread: registers, a predicate, flags. -/
structure LaneOut where
  regs : List (Nat × Word)
  pred : Option (Fin 8 × Bool)
  flags : Nat

/-- Registers that a destination receives. -/
def laneRegs (d : Opd) (ws : List Word) : LaneOut := { regs := runWrites d ws, pred := none, flags := 0 }

/-- The rank that SHFL reads from and whether it lies in the segment (R178). -/
def shflFrom (m : ShflMode) (seg : Fin 8) (rank k : Nat) : Nat × Bool :=
  let w := 32 / 2 ^ seg.val
  let base := rank - rank % w
  match m with
  | .idx => (base + k % w, true)
  | .up => (rank - k, k ≤ rank - base)
  | .down => (rank + k, k < base + w - rank)
  | .xor => (rank ^^^ k, k < w)

/-- The result of a lane instruction for one of the present threads `ps` (R178 to R180). -/
def State.laneOut (s : State) (i : Instr) (ps : List Thread) (th : Thread) : LaneOut :=
  let q := fun (a : Psel) => ps.filter fun u => u.psel a
  let leaves := fun (ty : Ty) (a : Opd) (ar : Arith) =>
    (upto 32).map fun r => (ps.find? fun u => u.rank == r).map fun u =>
      let x := s.rd u ty a
      ((if ty == .f32 then flushIn (ar.fz ty) ty x else x), 0)
  let lead := (ps.foldl (fun (b : Option Thread) u => match b with
    | some v => if u.rank < v.rank then some u else b
    | none => some u) none).getD th
  match i with
  | .shfl _ m seg ty d a b _ =>
    let (from_, ok) := shflFrom m seg th.rank (s.rd32 th b).toNat
    let src := if ok then (ps.find? fun u => u.rank == from_).getD th else th
    laneRegs d (s.rdRun src ty a (opLen ty))
  | .vote _ m d a _ =>
    let n := (q a).length
    { regs := [], flags := 0, pred := some (d, match m with
      | .all => n == ps.length
      | .any => 0 < n
      | .uni => n == 0 || n == ps.length) }
  | .ballot _ d a _ => laneRegs d [rankMask ((q a).map Thread.rank)]
  | .matchv _ ty d a _ =>
    laneRegs d [rankMask ((ps.filter fun u => s.rd u ty a == s.rd th ty a).map Thread.rank)]
  | .compact _ d a _ => laneRegs d [word ((q a).filter fun u => u.rank < th.rank).length, word (q a).length]
  | .gred _ op ty d a _ =>
    let ar := lead.arith none
    match treeReduce ar op ty (leaves ty a ar) with
    | some (x, f) => { laneRegs d [word x] with flags := f }
    | none => laneRegs d []
  | .scan _ op ty excl d a _ =>
    let ar := lead.arith none
    match treeScan ar op ty (leaves ty a ar) th.rank excl with
    | some (x, f) => { laneRegs d [word x] with flags := f }
    | none => laneRegs d [word (laneIdentity op ty)]
  | _ => laneRegs (.v 0) []

/-- The member mask that a lane instruction reads (R172). -/
def State.memberMask (s : State) (th : Thread) : Instr → Word
  | .shfl _ _ _ _ _ _ _ c | .vote _ _ _ _ c | .ballot _ _ _ c | .matchv _ _ _ _ c | .compact _ _ _ c
  | .scan _ _ _ _ _ _ c | .gred _ _ _ _ _ c | .mnext _ _ _ c => s.rd32 th c
  | _ => allRanks

/-- Gives a completing thread its result, and lets it go on (R173). -/
def State.laneGive (s : State) (t : Nat) (o : LaneOut) : State :=
  s.releaseWith t o.regs fun u =>
    let u := u.sticky o.flags
    match o.pred with
    | some (p, v) => u.setPred p v
    | none => u

/-- Raises 0x32 in some completing or timed-out threads of a collective, each with the address `a` gives (R175, R176). -/
def State.laneTrap (s : State) (rs : List Arrival) (a : Arrival → Word) : State :=
  let stamp := s.nextId * 8
  rs.foldl (fun s r => (s.modTh r.thread fun u => { u with hold := .none }).raise r.thread
    (plainTrap .convMismatch ((a r).zeroExtend 64) r.pc true stamp)) s

/-- The lowest-ranked of some arrivals. -/
def leadArrival (rs : List Arrival) : Option Arrival :=
  rs.foldl (fun (b : Option Arrival) r => match b with
    | some x => if r.rank < x.rank then some r else b
    | none => some r) none

/-- R175: present threads whose masks differ, or lack their own rank. -/
def maskBad (present : List Arrival) : Bool := match leadArrival present with
  | none => false
  | some m0 => present.any fun r => r.mask != m0.mask || !hasBit r.mask r.rank

/-- A completed lane instruction (R174, R175). -/
def State.laneMeet (s : State) (g : Nat) (i : Instr) (rs : List Arrival) : State :=
  let present := rs.filter Arrival.guard
  let s := (rs.filter fun r => !r.guard).foldl (fun s r => s.release r.thread) s
  if maskBad present then
    let s := s.laneTrap present Arrival.mask
    s.enterHandlers g
  else
    let ps := present.map fun r => { s.th r.thread with ovf := r.ovf }
    let outs := ps.map fun u => (u.id, s.laneOut i ps u)
    outs.foldl (fun s o => s.laneGive o.1 o.2) s

/-! ## The end of threads and groups (R119, R164, R165, R184) -/

/-- Frees the slices of a group in which no thread is left (R164). -/
def State.freeSlices (s : State) (g : Nat) : State :=
  let gr := s.group g
  let keep := gr.slices &&& slicesOf ((s.liveOf g).map Thread.rank)
  if keep == gr.slices then s else (s.modGroup g fun x => { x with slices := keep }).freed gr.core

/-- Group end (R165, R201): the deferred reductions are applied, and the group's place and tiles are free. -/
def State.closeGroup (s : State) (g : Nat) : State :=
  let ts := s.threads.filter fun u => u.group == g
  let (s, ids) := ts.foldl (fun (acc : State × List Nat) u =>
    if u.redBuf.isEmpty && !acc.1.batches.any (fun b => b.thread == u.id && b.point == 0) then acc
    else
      let (s, id) := acc.1.flushPoint u.id false none none
      (s, acc.2 ++ [id])) (s, [])
  let s := s.closeSilently ids
  let core := (s.group g).core
  let s := s.unTimer fun i => i == .handlerWatchdog g
  let s := s.releaseTiles g
  let s := (ts.map Thread.team).eraseDups.foldl (fun s t => s.modTeam t fun x => { x with lastCore := core }) s
  ({ s with groups := dropBy Group.id s.groups g }).freed core

/-- A thread ends by EXIT or GEXIT (R119, R303). -/
def State.exitThread (s : State) (t : Nat) : State :=
  let s := s.countExit (s.th t)
  s.modTh t fun u => { u with status := .exited, hold := .none, pend := none, clause := none, hidden := [], late := [] }

/-- What an ended thread's group no longer holds: it ends itself when no thread is left, and its teams may end (R165). -/
def State.groupEnd (s : State) (g : Nat) : State :=
  let teams := ((s.threads.filter fun u => u.group == g).map Thread.team).eraseDups
  let s := s.freeSlices g
  let s := if (s.liveOf g).isEmpty && s.groups.any (fun x => x.id == g) then s.closeGroup g else s
  let s := (teams.map fun t => (s.team t).cluster).eraseDups.foldl State.reorderEnd s
  teams.foldl (fun s t => s.once (.teamEnd t)) s

/-- A completed GEXIT: every recorded thread ends (R184), or stalls at it while a recorded range keeps an exit from being counted
(R272); in the handler of 0x50 the group save-exits (R402), which
TEAM_IMAGE_WRITE carries out once its waits are over. -/
def State.gexitMeet (s : State) (g : Nat) (rs : List Arrival) : State :=
  let saving := rs.any fun r => match (s.th r.thread).handler with
    | some h => h.cause == .preemption
    | none => false
  if saving then
    let s := s.modGroup g fun x => { x with saved := true }
    match rs with
    | r :: _ => s.once (.teamImageWrite (s.th r.thread).team)
    | [] => s
  else match rs.findSome? fun r => s.exitStall (s.th r.thread) with
  | some w => rs.foldl (fun s r => s.modTh r.thread fun u => { u with hold := .none, stall := some w }) s
  | none => (rs.foldl (fun s r => s.exitThread r.thread) s).groupEnd g

/-! ## MIGRATE (R196 to R198) -/

/-- Tries the move of a group that stands at a point (R197); `now` holds the group while only room is lacking. -/
def State.tryMove (s : State) (g : Nat) (now : Bool) : State × Bool :=
  match s.moveDest g with
  | .ok c => (s.moveGroup g c, true)
  | .error .room =>
    if now then
      ((s.liveOf g).foldl (fun s u => s.modTh u.id fun x => { x with hold := .move })
        (s.modGroup g fun x => { x with moveHold := true }), true)
    else (s, false)
  | .error .cond => (s, false)

/-- A completed MIGRATE (R196). -/
def State.migrateMeet (s : State) (g : Nat) (kind : CoreKind) (now : Bool) (rs : List Arrival) : State :=
  let present := rs.filter Arrival.guard
  let go := fun (s : State) => rs.foldl (fun s r => s.release r.thread) s
  if present.isEmpty then go s
  else if present.length != rs.length then
    let s := (rs.filter fun r => !r.guard).foldl (fun s r => s.release r.thread) s
    (s.laneTrap present Arrival.mask).enterHandlers g
  else
    let host := kindOf (s.group g).core
    let s := s.modGroup g fun x => { x with target := if kind == host then none else some ⟨kind, true⟩ }
    let s := rs.foldl (fun s r => s.modTh r.thread fun u => { u with hold := .none }) s
    let (s, moved) := s.tryMove g now
    if moved then s else rs.foldl (fun s r => s.advance r.thread) s

/-! ## The rendezvous (R172, R173, R176) -/

/-- The arrivals of a group at one PC, of user code or of handlers. -/
def State.arrivalsAt (s : State) (g : Nat) (pc : DWord) (inH : Bool) : List Arrival :=
  (s.group g).arrivals.filter fun r => r.pc == pc && r.inHandler == inH

/-- U of R173 without the recorded and the exited ranks. -/
def State.missing (s : State) (g : Nat) (rs : List Arrival) : Word :=
  rs.foldl (fun m r => m ||| r.mask) 0#32 &&& ~~~(rankMask (rs.map Arrival.rank)) &&& ~~~(s.exitedMask g)

/-- Clears the arrivals of some threads. -/
def State.clearArrivals (s : State) (g : Nat) (rs : List Arrival) : State :=
  s.modGroup g fun x => { x with arrivals := x.arrivals.filter fun r => !rs.contains r }

/-- The rendezvous at a PC completes if every rank it names is recorded or exited (R173). -/
def State.tryMeet (s : State) (g : Nat) (pc : DWord) (inH : Bool) : State :=
  let rs := s.arrivalsAt g pc inH
  match rs with
  | [] => s
  | r :: _ =>
    if s.missing g rs != 0 then s
    else
      let s := s.clearArrivals g rs
      let s := s.unTimer fun i => i == .convergenceMismatchTimeout g pc inH
      match r.instr with
      | .gexit _ => s.gexitMeet g rs
      | .migrate _ kind now => s.migrateMeet g kind now rs
      | .mnext _ ma d _ =>
        let s := (rs.filter fun r => !r.guard).foldl (fun s r => s.release r.thread) s
        let present := rs.filter Arrival.guard
        if maskBad present then (s.laneTrap present Arrival.mask).enterHandlers g else s.mnextMeet g ma d present
      | i => s.laneMeet g i rs

/-- Every rendezvous of a group is tested again, after an exit (R173). -/
def State.meetAll (s : State) (g : Nat) : State :=
  (((s.group g).arrivals.map fun r => (r.pc, r.inHandler)).eraseDups).foldl (fun s p => s.tryMeet g p.1 p.2) s

/-- The rendezvous of a group are tested at the end of a cycle's issue (R173); traps raised in it then enter their handler. -/
def State.meetTest (s : State) (g : Nat) : State :=
  let s := s.meetAll g
  if (s.pendOf g).isEmpty then s else s.enterHandlers g

/-- A thread records its arrival at a collective and is held (R172). The rendezvous is tested once every thread that issues in
this cycle has done so. The wait ends after the cycle in which its count reaches 2^20 (R176). -/
def State.meet (s : State) (th : Thread) (i : Instr) (guard : Bool) : State × Next :=
  let r : Arrival := { ovf := th.ovf, pc := th.pc, mask := s.memberMask th i, thread := th.id, rank := th.rank, guard := guard
                       inHandler := th.privileged, since := s.nowCycle, instr := i }
  let s := s.modGroup th.group fun x => { x with arrivals := x.arrivals ++ [r] }
  let s := s.modTh th.id fun u => { u with hold := .lane }
  let s := s.due (s.nowCycle + Config.longWait + 1) (.convergenceMismatchTimeout th.group th.pc th.privileged)
  (if s.cycleOver th.group then s.tryMeet th.group th.pc th.privileged else s, .gone)

/-! ## Rejoin registers (R181 to R183) -/

/-- R183: register jN is satisfied when every rank of it is parked on it or exited; the parked threads then go on. -/
def State.rejoinTest (s : State) (g : Nat) (n : Fin 16) : State :=
  let gr := s.group g
  let parked := (s.liveOf g).filter fun u => u.hold == Hold.waitj n
  let m := gr.j.getD n.val 0
  if m &&& ~~~(rankMask (parked.map Thread.rank) ||| s.exitedMask g) != 0 then s
  else
    let s := parked.foldl (fun s u => s.release u.id) s
    if m == 0 then s else s.modGroup g fun x => { x with j := x.j.setIfInBounds n.val 0 }

/-- What follows in a group when one of its threads has ended (R164, R173, R183, R215). -/
def State.afterEnd (s : State) (g : Nat) : State :=
  let s := (List.finRange 16).foldl (fun s n => s.rejoinTest g n) s
  let s := if s.cycleOver g then s.meetAll g else s
  let s := s.signCheck g
  (s.groupEnd g).handlerOver g

/-- JOIN (R182). -/
def execJoin (x : X) (or : Bool) (n : Fin 16) (s : State) : Result :=
  .next (s.issue (.join x or n) x fun s th =>
    let bundle := match s.issues with
      | i :: _ => (i.done ++ i.todo).map s.th
      | [] => [th]
    let set := rankMask ((bundle.filter fun u => u.pc == th.pc && u.psel x.g || u.id == th.id).map Thread.rank)
    let first := match s.issues with
      | i :: _ => i.done.all fun t => !(s.th t).psel x.g
      | [] => true
    if first then
      let old := (s.group th.group).j.getD n.val 0
      let s := s.modGroup th.group fun g => { g with j := g.j.setIfInBounds n.val (if or then old ||| set else set) }
      (s.rejoinTest th.group n, .next)
    else (s, .next))

/-- WAITJ (R183). -/
def execWaitj (x : X) (n : Fin 16) (s : State) : Result :=
  .next (s.issue (.waitj x n) x fun s th =>
    if !hasBit ((s.group th.group).j.getD n.val 0) th.rank then (s, .next)
    else ((s.modTh th.id fun u => { u with hold := .waitj n }).rejoinTest th.group n, .gone))

/-- SHFL (R178). -/
def execShfl (x : X) (m : ShflMode) (seg : Fin 8) (ty : Ty) (d a b c : Opd) (s : State) : Result :=
  .next (s.issueG (.shfl x m seg ty d a b c) x fun g s th => s.meet th (.shfl x m seg ty d a b c) g)
/-- VOTE (R179). -/
def execVote (x : X) (m : VoteMode) (d : Fin 8) (a : Psel) (c : Opd) (s : State) : Result :=
  .next (s.issueG (.vote x m d a c) x fun g s th => s.meet th (.vote x m d a c) g)
/-- BALLOT (R179). -/
def execBallot (x : X) (d : Opd) (a : Psel) (c : Opd) (s : State) : Result :=
  .next (s.issueG (.ballot x d a c) x fun g s th => s.meet th (.ballot x d a c) g)
/-- MATCH (R179). -/
def execMatchv (x : X) (ty : Ty) (d a c : Opd) (s : State) : Result :=
  .next (s.issueG (.matchv x ty d a c) x fun g s th => s.meet th (.matchv x ty d a c) g)
/-- COMPACT (R179). -/
def execCompact (x : X) (d : Opd) (a : Psel) (c : Opd) (s : State) : Result :=
  .next (s.issueG (.compact x d a c) x fun g s th => s.meet th (.compact x d a c) g)
/-- SCAN (R180). -/
def execScan (x : X) (op : Aop) (ty : Ty) (excl : Bool) (d a c : Opd) (s : State) : Result :=
  .next (s.issueG (.scan x op ty excl d a c) x fun g s th => s.meet th (.scan x op ty excl d a c) g)
/-- GRED (R180). -/
def execGred (x : X) (op : Aop) (ty : Ty) (d a c : Opd) (s : State) : Result :=
  .next (s.issueG (.gred x op ty d a c) x fun g s th => s.meet th (.gred x op ty d a c) g)

/-- An arrival has stood for 2^20 cycles (R176). The count pauses from the trap-save step of its context on. -/
def execConvergenceMismatchTimeout (group : Nat) (pc : DWord) (inHandler : Bool) (s : State) : Result :=
  .next (
    let rs := s.arrivalsAt group pc inHandler
    match rs with
    | [] => s
    | r :: _ =>
      if (s.ctxOf (s.th r.thread)).halted || !(rs.any fun r => r.since + Config.longWait < s.nowCycle) then s
      else
        let miss := s.missing group rs
        let s := s.clearArrivals group rs
        let s := (rs.filter fun r => !r.guard).foldl (fun s r => s.release r.thread) s
        (s.laneTrap (rs.filter Arrival.guard) fun _ => miss).enterHandlers group)

/-- The end of a thread after its checks (R119, R164). -/
def State.exitOp (s : State) (th : Thread) : State × Next :=
  let s := s.exitThread th.id
  (s.afterEnd th.group, .gone)

/-- The steps 1 and 2 of EXIT (R119), with the held faults that EXIT delivers (R326) and the ranges that its count waits for
(R272): what keeps the thread from going on. -/
def State.exitGate (s : State) (th : Thread) : Option (State × Next) :=
  if th.pendArith != 0 then some (s, .trap .arithmetic (dword th.pendArith))
  else if th.flagBits != 0 then some (s, .wait .flags)
  else match th.faults with
    | f :: _ => some (s.deliver th.id f s.trapStamp, .gone)
    | [] => (s.exitStall th).map fun w => (s, .stall w)

/-- EXIT (R119). -/
def execExit (x : X) (s : State) : Result :=
  .next (s.issue (.exit x) x fun s th => (s.exitGate th).getD (s.exitOp th))

/-- GEXIT (R184), and save-exit in the handler of 0x50 (R402), which the fault of an engine operation prevents (R326, R416,
log 65). -/
def execGexit (x : X) (s : State) : Result :=
  .next (s.issue (.gexit x) x fun s th =>
    let saving : Bool := match th.handler with
      | some h => h.cause == .preemption
      | none => false
    if saving then match th.engineFault with
      | some f => (s.deliver th.id f s.trapStamp, .gone)
      | none => s.meet th (.gexit x) true
    else (s.exitGate th).getD (s.meet th (.gexit x) true))

/-! ## REORDER and MIGRATE -/

/-- The resumption point of a REORDER and the first virtual register of its payload (R187, R188 step 7). -/
def State.reorderPoint (s : State) (th : Thread) (b : Opd) (n : Nat) : Option (EqpRec × Nat) :=
  let r := match b with
    | .v k => k.val
    | _ => 0
  let next := if th.portable then th.nextPc else dword (th.pc.toNat / 64 * 64 + 64)
  match if s.eqpAt { th with pc := next } then s.pointOf th next else none with
  | none => none
  | some (e, map) =>
    if th.portable then some (e, r)
    else match map.find? fun m => !m.2.1 && m.2.2 == r with
      | none => none
      | some (k, _, _) => if (upto n).all fun i => map.contains (k + i, false, r + i) then some (e, k) else none

/-- REO of a thread's launch (R147). -/
def State.reoSet (s : State) (th : Thread) : Bool :=
  (s.team th.team).task.isNone && match (s.team th.team).launch with
  | .launch l => bitAt (field (s.launchOf l).geom 11 1) 3
  | .item _ _ _ _ => false

/-- Past a REORDER: in native code its clause ends, and the slots after it in its line never issue (R187). -/
def State.pastReorder (s : State) (th : Thread) : State :=
  if th.portable then s else s.modTh th.id fun u => { u with pc := dword (th.pc.toNat / 8 * 8 + 4) }

/-- The participants of the REORDER that a thread joins (R186): for `.core` the live threads of its team on its core, as the first
to arrive found them, else those of its cluster. -/
def State.reorderParts (s : State) (th : Thread) (core : Bool) : List Nat :=
  if !core then (s.threads.filter fun u => u.status == .live && (s.team u.team).cluster == (s.team th.team).cluster).map Thread.id
  else
    let parts := match s.threads.find? fun u => u.team == th.team && s.hostOf u == s.hostOf th &&
        u.hold == Hold.reorder && (u.reorder.map ReorderRec.core) == some true with
      | some u => (u.reorder.map ReorderRec.parts).getD []
      | none => []
    if parts.contains th.id then parts
    else ((s.liveTeam th.team).filter fun u => s.hostOf u == s.hostOf th && u.hold != Hold.bead).map Thread.id

/-- REORDER (R185 to R194). -/
def execReorder (x : X) (core : Bool) (n : Fin 8) (key b : Opd) (kind : KindSel) (colours : Byte) (s : State) : Result :=
  .next (s.issueG (.reorder x core n key b kind colours) x fun g s th =>
    let bad : State × Next := (s, .trap .reorderState 0)
    if !g then (s.pastReorder th, .next)
    else if th.flagBits != 0 then (s, .wait .flags)
    else if th.depth != 0 then bad
    else if (s.group th.group).g.toList.any (fun c => hasBit c.signed th.rank) then bad
    else if (s.team th.team).merge.any (fun m => m != .closed) then bad
    else if !core && !s.reoSet th then bad
    else match s.reorderPoint th b (n.val + 1) with
      | none => bad
      | some (e, k) =>
        let payload := s.rdRun th .b32 b (n.val + 1)
        let kv := s.rd32 th key
        let (s, pt) := s.flushPoint th.id false none none
        let s := s.publish (s.hostOf th) (if core then .team else .clu) colours
        let r : ReorderRec := { core := core, key := kv, kbase := k, payload := payload, kind := kind, colours := colours
                                point := e, portable := th.portable, parts := s.reorderParts th core, flush := pt }
        let s := s.modTh th.id fun u => { u with hold := .reorder, reorder := some r }
        (s.reorderCheck th.id, .gone))

/-- Room may have come for a group in the bead store (R192). -/
def execReorderGroupPlace (group : Nat) (s : State) : Result :=
  .next (if (s.group group).beadCores.isEmpty then s else s.placeRod group)

/-- MIGRATE (R195, R196). -/
def execMigrate (x : X) (kind : CoreKind) (now : Bool) (s : State) : Result :=
  .next (s.issueG (.migrate x kind now) x fun g s th => s.meet th (.migrate x kind now) g)

/-- A group that a MIGRATE holds at its point moves once room appears, or goes on when a condition fails (R197, R198). -/
def execGroupMove (group : Nat) (s : State) : Result :=
  .next (
    if !(s.group group).moveHold then s
    else match s.moveDest group with
      | .ok c => s.moveGroup group c
      | .error .room => s
      | .error .cond =>
        (s.liveOf group).foldl (fun s u => if u.hold == Hold.move then s.release u.id else s)
          (s.modGroup group fun x => { x with moveHold := false }))

/-- Threads that a core kind can hold (R144). -/
def threadCap (k : CoreKind) : Nat := 32 * posCap k

/-- Whether the code object of a group holds a native image of a kind (R171). -/
def State.groupHasImage (s : State) (g : Nat) (k : CoreKind) : Bool := match s.liveOf g with
  | u :: _ => match s.imageAt (s.team u.team).ctx u.pc.toNat with
    | some (o, _) => (o.image? (imageKind k)).isSome
    | none => false
  | [] => false

/-- The scheduler's target for a group at a window's end (R171). -/
def State.windowTarget (s : State) (core : Nat) (pol : Nat) (g : Group) : Option MigTarget :=
  let kind := kindOf core
  let ratio := 256 * g.statS / g.statP
  let threads := ((s.hosted core).map fun x => (s.liveOf x.id).length).sum
  let occ := 256 * threads / threadCap kind
  let stall := bitsAt pol 8 8
  match kind with
  | .bramble =>
    if bitAt pol 30 && stall ≤ ratio && s.groupHasImage g.id .larch then some ⟨.larch, false⟩ else none
  | .larch =>
    if bitAt pol 29 && ratio < stall && bitsAt pol 0 8 ≤ occ && s.groupHasImage g.id .bramble then some ⟨.bramble, false⟩ else none

/-- The end of a core's measurement window (R170, R171): targets are set or cleared, the counts start again, and a written
MIG_POLICY takes effect. -/
def execMigrationWindowEnd (core : Nat) (s : State) : Result :=
  .next (
    let pol := (s.core core).migPolicy.toNat
    let s := (s.hosted core).foldl (fun s g =>
      let inH := (s.liveOf g.id).any fun u => u.handler.isSome
      let own := match g.target with
        | some t => t.program
        | none => false
      let s := if bitAt pol 31 && g.statP != 0 && !inH && !own then
          s.modGroup g.id fun x => { x with target := s.windowTarget core pol g } else s
      s.modGroup g.id fun x => { x with statS := 0, statP := 0 }) s
    s.modCore core fun c => { c with migPolicy := c.migNext.getD c.migPolicy, migNext := none })

end Sys2Proof.Machine
end

