-- ==== Sys2Proof/Machine/Memory.lean ====
section
/-!
DEFINITION. LD and ST with formatted pages (05 R140 to R142, 11 R282 to R285), PREF, atomics (R289, R290), deferred
reductions (R291, R292), fences (R293, R294), and the completion of loads, stores, reductions and publishes.
-/

namespace Sys2Proof.Machine

/-! ## Elements -/

/-- The registers of one loaded element (R114, R141). -/
def elemRegs (t : Ty) (x : Nat) : List Word :=
  if t.bits ≤ 32 then [extWrite t x]
  else (upto (t.bits / 32)).map fun i => word (x / 2 ^ (32 * i))

/-- The types b8 to b128, which a formatted page loads and stores raw (R284, R285). -/
def rawTy (t : Ty) : Bool := t.bit || t == .b128

/-- The elements of loaded bytes as registers. -/
def loadedRegs (t : Ty) (bs : List Byte) : Nat → List Word
  | 0 => []
  | n + 1 => elemRegs t (leNat (bs.take (t.bits / 8))) ++ loadedRegs t (bs.drop (t.bits / 8)) n

/-- The bytes that a run of registers stores (R141). -/
def storedBytes (t : Ty) (ws : List Word) : List Byte :=
  if t.bits < 32 then ws.flatMap fun w => leBytes (t.bits / 8) (w.toNat % 2 ^ t.bits) else wordsBytes ws

/-- Loads some bytes on the CORE path as they are; those of LDF must lie in pages that name a slot (R224). -/
def State.rawLoad (s : State) (th : Thread) (priv : Bool) (slot : Option Nat) (va n : Nat) : State × Except Stop (List Byte) :=
  match s.checkCore th priv .read va n with
  | (s, .error e) => (s, .error e)
  | (s, .ok l) => if slot.any (· != l.fs) then (s, .error (.fault .reservedField va)) else s.readLeaf th va n l

/-- Address of the three bytes that hold block k of a scale plane (R96). -/
def planeByte (base k : Nat) : Nat := (base + 3 * (k / 2)) % 2 ^ 64

/-- The scale of block k of a plane, read raw byte by byte on the CORE path (R96, R284). -/
def State.planeScale (s : State) (th : Thread) (priv : Bool) (slot : Option Nat) (base k : Nat) : State × Except Stop Nat :=
  let a := planeByte base k
  match s.rawLoad th priv slot a 1 with
  | (s, .error e) => (s, .error e)
  | (s, .ok b0) => match s.rawLoad th priv slot ((a + 1) % 2 ^ 64) 1 with
    | (s, .error e) => (s, .error e)
    | (s, .ok b1) => match s.rawLoad th priv slot ((a + 2) % 2 ^ 64) 1 with
      | (s, .error e) => (s, .error e)
      | (s, .ok b2) => (s, .ok (scaleFrom (leNat (b0 ++ b1 ++ b2)) k))

/-- Whether some bytes pass R243 orders 1 to 7 as single-byte reads: the first that does not. -/
def State.readable (s : State) (th : Thread) : List Nat → State × Option Stop
  | [] => (s, none)
  | a :: r => match s.checkCore th th.privileged .read a 1 with
    | (s, .error e) => (s, some e)
    | (s, .ok _) => s.readable th r

/-- Decodes the elements of a formatted load in turn (R284, R97). -/
def State.decodeRun (s : State) (th : Thread) (priv : Bool) (t f : Ty) (sl : SlotD) (e0 codes : Nat) : Nat → Nat →
    State × Except Stop (List Nat)
  | 0, _ => (s, .ok [])
  | n + 1, i =>
    let code := codes / 2 ^ (i * f.bits) % 2 ^ f.bits
    let sc : State × Except Stop (Option Nat) :=
      if sl.scaled then match s.planeScale th priv none sl.sbase ((e0 + i) / sl.blockLen) with
        | (s, .ok k) => (s, .ok (some k))
        | (s, .error e) => (s, .error e)
      else (s, .ok none)
    match sc with
    | (s, .error e) => (s, .error e)
    | (s, .ok sc) => match s.decodeRun th priv t f sl e0 codes n (i + 1) with
      | (s, .error e) => (s, .error e)
      | (s, .ok l) => (s, .ok (decodeTo t f sl sc code :: l))

/-- R284: what a formatted load of `n` elements at `va` checks: the first element's number and the code bytes. -/
def formatAt (t : Ty) (sl : SlotD) (f : Ty) (n va : Nat) : Except Stop (Nat × Nat) :=
  let nb := n * f.bits
  if !(t == .f32 || t == .bf16) then .error (.fault .reservedField va)
  else if nb % 8 != 0 || va < sl.ebase || (va - sl.ebase) * 8 % f.bits != 0 then .error (.fault .reservedField va)
  else if va % max (nb / 8) 1 != 0 then .error (.fault .alignment va)
  else .ok ((va - sl.ebase) * 8 / f.bits, nb / 8)

/-- The checks of a LD's or LDS's global source of `n` elements (R243 orders 1 to 7, R284, R286): its page, and on a formatted
page the code format, the number of the first element and the code bytes. Whether the elements or the code bytes are aligned is
known from the page (log 19); `see` gives the page's format slot as the reader sees it (R209). -/
def State.loadSource (s : State) (th : Thread) (priv : Bool) (t : Ty) (n va : Nat) (see : Nat → SlotD) :
    State × Except Stop (Leaf × Option (Ty × Nat × Nat)) :=
  let odd := va % (n * (t.bits / 8)) != 0
  if !canonicalVa va then (s, .error (.fault .notPresent va))
  else match s.translate (s.hostOf th) (s.team th.team).ctx va with
    | (s, .error c) => (s, .error (.fault (if odd then .alignment else c) va))
    | (s, .ok l) =>
      let sl := see l.fs
      let shape : Except Stop (Option (Ty × Nat × Nat)) := match (if sl.fmt == 0 || rawTy t then none else Ty.ofCode sl.fmt) with
        | none => if odd then .error (.fault .alignment va) else .ok none
        | some f => match formatAt t sl f n va with
          | .error e => .error e
          | .ok p => .ok (some (f, p))
      match shape, s.permit priv .read l with
      | .error e, _ => (s, .error e)
      | .ok _, some c => (s, .error (.fault c va))
      | .ok k, none => (s, .ok (l, k))

/-- A global load of `n` elements (R141, R243, R284): the elements, decoded on a formatted page. -/
def State.loadElems (s : State) (th : Thread) (priv : Bool) (t : Ty) (n va : Nat) : State × Except Stop (List Word) :=
  match s.loadSource th priv t n va (s.slot (s.hostOf th) (s.team th.team).ctx) with
  | (s, .error e) => (s, .error e)
  | (s, .ok (l, none)) => match s.readLeaf th va (n * (t.bits / 8)) l with
    | (s, .error e) => (s, .error e)
    | (s, .ok b) => (s, .ok (loadedRegs t b n))
  | (s, .ok (l, some (f, e0, nb))) => match s.readLeaf th va nb l with
    | (s, .error e) => (s, .error e)
    | (s, .ok b) => match s.decodeRun th priv t f (s.slot (s.hostOf th) (s.team th.team).ctx l.fs) e0 (leNat b) n 0 with
      | (s, .error e) => (s, .error e)
      | (s, .ok xs) => (s, .ok (xs.map word))

/-- Gives a load's result (R34, R142): at once when unflagged; else the load is in flight until LOAD_COMPLETE, with its fault. -/
def State.loadEnd (s : State) (th : Thread) (i : Instr) (x : X) (d : Opd) : State × Except Stop (List Word) → State × Next
  | (s', r) => match th.flagOf x.sb, r with
    | _, .error (.stall w) => (s, w.next)
    | none, .error e => (s', e.next)
    | none, .ok ws => (s'.wrRun th.id d ws, .next)
    | some f, r =>
      let (ws, fault) := match r with
        | .ok ws => (runWrites d ws, none)
        | .error (.fault c a) => ([], some (c, dword a))
        | .error (.stall _) => ([], none)
      let (s', id) := s'.newOp th i (some f) false ws fault [] 0
      (s'.later (.loadComplete id), .next)

/-- LD (R141, R142, R282 to R284). -/
def execLd (x : X) (ty : Ty) (n : Fin 16) (space : Space) (colour : Fin 8) (d a : Opd) (off : BitVec 24) (s : State) : Result :=
  .next (s.issue (.ld x ty n space colour d a off) x fun s th =>
    if s.flagFull th (th.flagOf x.sb) then (s, .stall (.flag (th.flagOf x.sb)))
    else
      let cnt := n.val + 1
      let r := match space with
        | .g => s.loadElems th th.privileged ty cnt (s.addrG th a off)
        | sp => match s.loadW th sp (s.offT th a off) (cnt * (ty.bits / 8)) with
          | (s, .ok b) => (s, .ok (loadedRegs ty b cnt))
          | (s, .error e) => (s, .error e)
      s.loadEnd th (.ld x ty n space colour d a off) x d r)

/-- R285: whether the page of a checked access names a non-plain slot. -/
def State.formatted (s : State) (core ctx : Nat) (l : Leaf) : Bool := (s.slot core ctx l.fs).fmt != 0

/-- A store of bytes in a space (R141, R283, R285); `raw` when its type may be stored on a formatted page. -/
def State.storeSp (s : State) (th : Thread) (sp : Space) (a : Opd) (off : BitVec 24) (colour : Fin 8) (raw : Bool)
    (bs : List Byte) : State × Except Stop Unit :=
  match sp with
  | .g =>
    let va := s.addrG th a off
    match s.checkCore th th.privileged .write va bs.length with
    | (s, .error e) => (s, .error e)
    | (s, .ok l) =>
      if s.formatted (s.hostOf th) (s.team th.team).ctx l && !raw then (s, .error (.fault .reservedField va))
      else s.storeG th th.privileged va colour bs
  | sp => s.storeW th sp (s.offT th a off) bs

/-- ST (R141, R142, R282, R283, R285). -/
def execSt (x : X) (ty : Ty) (n : Fin 16) (space : Space) (colour : Fin 8) (b a : Opd) (off : BitVec 24) (s : State) : Result :=
  .next (s.issue (.st x ty n space colour b a off) x fun s th =>
    if s.flagFull th (th.flagOf x.sb) then (s, .stall (.flag (th.flagOf x.sb)))
    else
      let ws := s.rdRun th ty b ((n.val + 1) * Wf.regsOf ty)
      match s.storeSp th space a off colour (rawTy ty) (storedBytes ty ws) with
      | (s, .error e) => (s, e.next)
      | (s', .ok _) => match th.flagOf x.sb with
        | none => (s', .next)
        | some f =>
          let data := if space == .g then [s.addrG th a off, (n.val + 1) * (ty.bits / 8)] else []
          let (s', id) := s'.newOp th (.st x ty n space colour b a off) (some f) false [] none data 0
          (s'.later (.storePerformed id), .next))

/-- A flagged load is complete: its registers are written and its flag counts it (R34, R142). -/
def execLoadComplete (op : Nat) (s : State) : Result :=
  .next (match s.op? op with
    | none => s
    | some o =>
      let s := match o.instr, o.data with
        | .accld _ _ _ _ _ t, r :: ws =>
          if o.fault.isSome then s
          else
            s.loadRow (s.th o.thread).group t.val r (ws.map word) (some op)
        | .fslot _ slot _ _ _, _ =>
          if o.fault.isSome then s else s.writeSlot (some (o.core, o.thread)) o.ctx slot.val o.slot
        | _, _ => s
      let s := s.opDone o
      let waits := match o.instr with
        | .accld _ _ _ _ _ _ => true
        | _ => false
      if waits then
        (s.mapMat fun m => if m.waitLoads.contains op then
            { m with waitLoads := m.waitLoads.erase op, since := if m.instr.mat.isSome then s.nowCycle else m.since }
          else m).startWhere fun m => m.group == (s.th o.thread).group
      else s)

/-- The store of a flagged ST is performed at its home (R142): its bytes leave the L1 as dirty bytes. A store in a speculative
buffer is performed only at the commit (R278). -/
def State.storeLands (s : State) (o : Op) : State :=
  let s := match o.data with
    | [va, n] => match s.translate o.core o.ctx va with
      | (s, .ok l) => s.settle o.core l.pa n
      | (s, .error _) => s
    | _ => s
  s.opDone o

/-- A flagged store that its thread made while it speculates: its bytes are in the speculative buffer (R274). -/
def State.specStoreOp (s : State) (o : Op) : Bool :=
  (s.th o.thread).spec.any (fun r => r.ord ≤ o.id) && (match o.instr with
    | .st _ _ _ _ _ _ _ _ | .accst _ _ _ _ _ _ _ => true
    | _ => false)

/-- STORE_PERFORMED (R142); one in a speculative buffer is performed only at the commit (R278). -/
def execStorePerformed (op : Nat) (s : State) : Result :=
  .next (match s.op? op with
    | none => s
    | some o => if s.specStoreOp o then s else s.storeLands o)

/-- One line of a PREF: it is brought to the L1 in which the thread's loads find it, or skipped when a check fails (R236, R288). -/
def State.prefLine (s : State) (th : Thread) (va : Nat) : State := match s.checkCore th th.privileged .read va 64 with
  | (s, .error _) => s
  | (s, .ok l) => if (s.dataError l.pa 64).isSome then s else s.l1Bring (s.readVia th l.pa) l.pa

/-- PREF raises no trap and changes no value that a read returns (R288). Its `.l2` form changes nothing that this model holds. -/
def execPref (x : X) (l2 : Bool) (n : Fin 16) (a : Opd) (off : BitVec 24) (s : State) : Result :=
  .next (s.issue (.pref x l2 n a off) x fun s th =>
    if l2 then (s, .next)
    else ((upto (n.val + 1)).foldl (fun s i => s.prefLine th ((s.addrG th a off / 64 * 64 + 64 * i) % 2 ^ 64)) s, .next))

/-- R285 on atomics: a formatted page takes only b32 and b64. -/
def State.atomPage (s : State) (th : Thread) (ty : Ty) (va : Nat) (l : Leaf) : Option Stop :=
  if s.formatted (s.hostOf th) (s.team th.team).ctx l && !(ty == .b32 || ty == .b64) then some (.fault .reservedField va) else none

/-- A global atomic at its home, after its checks (R263, R265, R290). The error is an uncorrectable one (R243 order 8). -/
def State.atomGlobal (s : State) (th : Thread) (op : Aop) (ty : Ty) (colour : Fin 8) (va : Nat) (l : Leaf) (b c : Nat) :
    State × Except Stop Nat :=
  let n := ty.bits / 8
  let s := (s.settle (s.hostOf th) (l.pa / 8 * 8) 8).passOn (s.hostOf th) [th.team]
  match s.dataError l.pa n with
  | some e => (s, .error (.fault .memError (va + (e - l.pa))))
  | none =>
    let (s', old) := s.atomHome l.pa op ty b c
    let s' := if op == .cas && old != c then s' else s'.checkedWrite th.team (tagG va) (some colour)
    (s', .ok old)

/-- A scratchpad atomic at its bank (R263, R283, R290, R297, R311). -/
def State.atomSpad (s : State) (th : Thread) (op : Aop) (ty : Ty) (t q b c : Nat) : State × Nat :=
  let n := ty.bits / 8
  let old := s.spadNat t q n
  match atomNew op ty old b c with
  | some v => (s.spadWrite (some th.team) t q (leBytes n v), old)
  | none => (s, old)

/-- ATOM (R289, R290). -/
def execAtom (x : X) (op : Aop) (ty : Ty) (acq pub : Bool) (scope : Scope) (space : Space) (colour : Fin 8)
    (d a b c : Opd) (off : BitVec 24) (s : State) : Result :=
  .next (s.issue (.atom x op ty acq pub scope space colour d a b c off) x fun s th =>
    if s.flagFull th (th.flagOf x.sb) then (s, .stall (.flag (th.flagOf x.sb)))
    else
      let core := s.hostOf th
      let vb := s.rd th ty b
      let vc := if op == .cas then s.rd th ty c else 0
      let pubd := fun (s : State) => if pub then s.publish core scope (1#8 <<< colour.val) else s
      let farOut := fun (s : State) => pub && scope == .dom && s.farBusy
      let acqd := fun (s : State) => if acq then s.acquireBy th scope else s
      let done := fun (s : State) (old : Nat) => s.loadEnd th (.atom x op ty acq pub scope space colour d a b c off) x d
        (acqd s, .ok (elemRegs ty old))
      match space with
      | .g =>
        let va := s.addrG th a off
        match s.checkCore th th.privileged .atomic va (ty.bits / 8) with
        | (s, .error e) => (s, e.next)
        | (s, .ok l) => match s.atomPage th ty va l with
          | some e => (s, e.next)
          | none =>
            let s := pubd s
            if farOut s then (s, .stall .far)
            else match s.atomGlobal th op ty colour va l vb vc with
            | (s, .error e) => s.loadEnd th (.atom x op ty acq pub scope space colour d a b c off) x d (s, .error e)
            | (s, .ok old) => done s old
      | sp => match s.windowAligned th sp (s.offT th a off) (ty.bits / 8) with
        | .error e => (s, e.next)
        | .ok (t, q) =>
          if s.rangeBusy t q (ty.bits / 8) then (s, .stall (.range t q (ty.bits / 8)))
          else
            let s := pubd s
            if farOut s then (s, .stall .far)
            else
              let (s, old) := s.atomSpad th op ty t q vb vc
              done s old)

/-- RED (R291, R266). -/
def execRed (x : X) (op : Aop) (ty : Ty) (colour : Fin 8) (a b : Opd) (off : BitVec 24) (s : State) : Result :=
  .next (s.issue (.red x op ty colour a b off) x fun s th =>
    let va := s.addrG th a off
    match s.checkCore th th.privileged .atomic va (ty.bits / 8) with
    | (s, .error e) => (s, e.next)
    | (s, .ok l) => match s.atomPage th ty va l with
      | some e => (s, e.next)
      | none => (s.redEnter th { leaf := l.bits, pa := l.pa, va := va, op := op, ty := ty, colour := colour, value := dword (s.rd th ty b) }, .next))

/-- FLUSHRED (R292). -/
def execFlushred (x : X) (s : State) : Result :=
  .next (s.issue (.flushred x) x fun s th =>
    let flag := th.flagOf x.sb
    if th.redBuf.isEmpty then (s, .next)
    else if s.flagFull th flag then (s, .stall (.flag flag))
    else
      let (s, id) := s.flushPoint th.id flag.isNone flag none
      let s := s.later (.reductionApply id)
      match flag with
      | none => (s, .wait (.point id))
      | some f => (s.modTh th.id fun u => u.flagUp f, .next))

/-- The batches of a FLUSHRED are applied and it closes; an uncorrectable error is delivered there (R267, R291), and so is a
sealed frame (R243). -/
def execReductionApply (point : Nat) (s : State) : Result :=
  .next (match s.points.find? fun p => p.id == point with
    | none => s
    | some p =>
      let (s, errs) := s.closePoints [point]
      let s := { s with points := s.points.filter fun q => q.id != point }
      let s := match errs with
        | [] => if p.held && (s.th p.thread).hold == Hold.point point then s.release p.thread else s
        | (_, _, c, va) :: _ =>
          if p.held then
            (s.modTh p.thread fun u => { u with hold := .none }).raise p.thread (plainTrap c (dword va) p.pc true (point * 8))
          else s.holdFault p.thread
            { ord := point, word := p.word, cause := c, addr := dword va, instr := .flushred ⟨⟨false, 7⟩, if p.flag.isSome then .fa else .none⟩, pc := p.pc, src := []
              flag := p.flag, wbase := 0, dreg := 0, dcnt := 0, replay := true, priv := false }
      (s.flagDone p.thread p.flag).enterFor p.thread)

/-- The colours that a FENCE publishes: c0 when it names none (R293). -/
def fenceColours (c : Byte) : Byte := if c == 0 then 1 else c

/-- FENCE (R293): a publish holds the thread until it is complete; an acquire acts at once. -/
def execFence (x : X) (acq pub : Bool) (scope : Scope) (colours : Byte) (s : State) : Result :=
  .next (s.issue (.fence x acq pub scope colours) x fun s th =>
    if pub && scope != .thr then
      let (s, id) := s.beginPublish th scope (fenceColours colours) acq none
      (s, .wait (.publish id))
    else if acq then (s.acquireBy th scope, .next)
    else (s, .next))

/-- Bit of a class in an XFENCE mask (R294). -/
def Path.bit : Path → Nat
  | .core => 0 | .copy => 1 | .fetch => 2 | .tree => 3 | .merge => 4 | .exch => 5 | .duplex => 6 | .task => 7
/-- Whether a mask names an instruction's class. -/
def maskNames (mask : Byte) (i : Instr) : Bool := match i.path with
  | some p => mask.getLsbD p.bit
  | none => false

/-- Whether an operation of a thread in the classes of a mask is outstanding (R294); a flagged FLUSHRED is of class CORE. -/
def State.classesOut (s : State) (th : Thread) (mask : Byte) : Bool :=
  s.ops.any (fun o => o.thread == th.id && maskNames mask o.instr)
    || (mask.getLsbD 0 && s.points.any fun p => p.thread == th.id && p.flag.isSome)

/-- The engines of the named paths see the slot writes that a thread's core sees, after its XFENCE of CORE and those paths (R209,
log 35). -/
def State.fenceSlots (s : State) (th : Thread) (mask : Byte) : State :=
  let ctx := (s.team th.team).ctx
  if !mask.getLsbD 0 then s
  else s.seeSlots fun x => x.ctx == ctx && x.path.any (fun p => mask.getLsbD p.bit)
    && !s.oldSlots.any fun y => y.path.isNone && y.core == s.hostOf th && y.ctx == ctx && y.slot == x.slot

/-- XFENCE (R270, R294): held until the named classes have drained; then the held faults of those classes are delivered. -/
def execXfence (x : X) (mask : Byte) (s : State) : Result :=
  .next (s.issue (.xfence x mask) x fun s th =>
    if s.classesOut th mask then (s, .stall (.classes mask))
    else match th.faults.find? fun f => maskNames mask f.instr with
      | some f => (s.deliver th.id f s.trapStamp, .gone)
      | none =>
        let core := s.hostOf th
        (((if mask.getLsbD 0 then s.publishCore core 0xFF#8 else s).acquireCore core).fenceSlots th mask, .next))

/-- A publish is complete (R257): its writes are performed at home, for scope `.dom` on whatever module that lies (R424); an arrival
that waited is counted, in a phase that `.ret` returns (R301), and a fence that also acquires does so now (R293). The count waits
while a recorded range lies over its object (R272). -/
def execPublishComplete (publish : Nat) (s : State) : Result :=
  .next (match s.publishes.find? fun p => p.id == publish with
    | none => s
    | some p =>
      if p.arrive.any fun a => s.rangeBusy a.team a.off (s.objLen a.team a.off) then s.after 4 (.publishComplete publish)
      else
      let s := s.publish p.core p.scope p.colours
      if p.scope == .dom && s.farBusy then s.after 4 (.publishComplete publish)
      else
      let s := { s with publishes := s.publishes.filter fun q => q.id != publish }
      let s := if p.acq then s.acquireBy (s.th p.thread) p.scope else s
      let (s, ws) := match p.arrive with
        | none => (s, [])
        | some a =>
          let ph := s.objPhase a.team a.off
          let s := { s with points := s.points.map fun (q : PointRec) => if q.id == a.point then { q with phase := some ph } else q }
          (s.objCount a.team a.off a.n a.c, runWrites (a.dst.getD (.k 0)) [word ph])
      let u := s.th p.thread
      if u.status != .live then s.once (.teamEnd u.team)
      else if u.hold == Hold.publish publish then (s.releaseWith p.thread ws id).enterFor p.thread
      else s)

end Sys2Proof.Machine
end

