-- ==== Sys2Proof/Machine/Objects.lean ====
section
/-!
DEFINITION. Barrier instructions (R298 to R305), the completion of phases with its commits (R278, R302), and the rollback of
speculating groups (R277).
-/

namespace Sys2Proof.Machine

/-- Whether an arrival of a thread on an object is not yet counted (R301). -/
def State.arriving (s : State) (t team off : Nat) : Bool := s.publishes.any fun p => p.thread == t && (match p.arrive with
  | some r => r.team == team && r.off == off
  | none => false)

/-- The window's team and offset of the object that a barrier instruction names, after the checks of R298 and R231; an object
in a recorded range, or with an arrival of the thread not yet counted, stalls the thread (R301, R311). The words of a map that
an instruction writes are tested with it. -/
def State.objAt (s : State) (th : Thread) (sp : Space) (a : Opd) (off : BitVec 24) : Except Stop (Nat × Nat × DWord) :=
  let o := s.offT th a off
  match s.windowAligned th sp o 64 with
  | .error e => .error e
  | .ok (t, q) =>
    if s.rangeBusy t q 64 then .error (.stall (.range t q 64))
    else if s.arriving th.id t q then .error (.stall (.arrival t q))
    else .ok (t, q, dword (o % 2 ^ 64).toNat)

/-- The valid CEX objects of a team. -/
def State.cexCount (s : State) (t : Nat) : Nat := ((s.team t).objs.filter fun o => s.objValid t o && s.objCex t o).length

/-- Scope code of FLAGS (R296). -/
def scopeBits (clu : Bool) : Nat := if clu then 2 else 1

/-- The fields that BINIT sets (R299). -/
def State.objInit (s : State) (t q : Nat) (clu cex spec : Bool) (b c : Nat) : State :=
  let live := s.liveTeam t
  let expA := if cex then live.length else b % 2 ^ 24
  let col := if cex then 0xFF else b / 2 ^ 24 % 256
  let flags := col * 2 ^ 16 + scopeBits clu * 16 + 8 + (if spec then 2 else 0) + (if cex then 1 else 0)
  let s := ((s.objSet t q oEXPA expA).objSet t q oFLAGS flags).objSet t q oEXPB c
  let s := (((s.objSet t q oARRV 0).objSet t q oLAND 0).objSet t q oXC 0).spadPut t (q + oEADDR) (leBytes 8 0)
  let s := s.modTeam t fun m => { m with objs := if m.objs.contains q then m.objs else m.objs ++ [q] }
  if cex then
    let s := s.spadPut t (q + 64) (List.replicate (mapBytes (s.team t).tsize) 0#8)
    (upto (s.team t).tsize).foldl (fun s k => if live.any fun u => u.tindex == k then s else s.setMap t q (2 * k + 1) true) s
  else s

/-- BINIT (R299). -/
def execBinit (x : X) (space : Space) (clu cex spec : Bool) (a b c : Opd) (off : BitVec 24) (s : State) : Result :=
  .next (s.issue (.binit x space clu cex spec a b c off) x fun s th =>
    match s.objAt th space a off with
    | .error e => (s, e.next)
    | .ok (t, q, o) =>
      match (if cex then s.window th space (s.offT th a off) (64 + mapBytes (s.team t).tsize) else .ok (t, q)) with
      | .error (.fault cs _) => (s, .trap cs o)
      | .error (.stall w) => (s, w.next)
      | .ok _ =>
        let vb := (s.rd32 th b).toNat
        let vc := (s.rd32 th c).toNat
        let size := 64 + mapBytes (s.team t).tsize
        if cex && s.rangeBusy t q size then (s, .stall (.range t q size))
        else if s.objValid t q || (cex && vb != 0) || (cex && 8 ≤ s.cexCount t) || (!cex && vb % 2 ^ 24 == 0 && vc == 0) then
          (s, .trap .reservedField o)
        else (s.objInit t q clu cex spec vb vc, .next))

/-- BINVAL (R300). -/
def execBinval (x : X) (space : Space) (a : Opd) (off : BitVec 24) (s : State) : Result :=
  .next (s.issue (.binval x space a off) x fun s th =>
    match s.objAt th space a off with
    | .error e => (s, e.next)
    | .ok (t, q, o) =>
      if s.obj t q oWCNT != 0 || s.obj t q oPEND != 0 || s.obj t q oSGRP != 0 || !s.objValid t q then
        (s, .trap .reservedField o)
      else
        let f := s.obj t q oFLAGS
        ((s.objSet t q oFLAGS (f - 8)).modTeam t fun m => { m with objs := m.objs.erase q }, .next))

/-- ARRIVE (R301). -/
def execArrive (x : X) (space : Space) (ret : Bool) (d a b c : Opd) (off : BitVec 24) (s : State) : Result :=
  .next (s.issue (.arrive x space ret d a b c off) x fun s th =>
    match s.objAt th space a off with
    | .error e => (s, e.next)
    | .ok (t, q, o) =>
      let n := (s.rd32 th b).toNat
      let vc := (s.rd32 th c).toNat
      let cex := s.objCex t q
      if cex && s.rangeBusy t (q + 64 + th.tindex / 4) 1 then (s, .stall (.range t (q + 64 + th.tindex / 4) 1))
      else if !s.objValid t q || 2 ^ 24 ≤ n || (n == 0 && vc == 0)
          || (cex && (n != 1 || t != th.team || s.mapBit t q (2 * th.tindex))) then (s, .trap .reservedField o)
      else
        let s := if cex then s.setMap t q (2 * th.tindex) true else s
        let (s, id) := s.arriveOp th t q n vc (if ret then some d else none)
        (s, if ret then .wait (.publish id) else .next))

/-- A `WAIT` or `BTEST` that sees a completed phase (R304, R305): the acquire, and the trap of an object in error. -/
def State.observe (s : State) (th : Thread) (t q : Nat) (o : DWord) : State × Next :=
  let s := s.acquire (s.hostOf th) (s.objScope t q)
  (s, if s.objErr t q then .trap .engineFault o else .next)

/-- The objects, by team and offset, on which threads of a core speculate (R273). -/
def State.specObjsOn (s : State) (core : Nat) : List (Nat × Nat) :=
  (s.threads.filterMap fun u => if s.hostOf u == core then u.spec.map fun r => (r.team, r.off) else none).eraseDups

/-- Whether a group holds a shadow reservation for the open phase of an object (R273). -/
def State.specJoined (s : State) (g t q : Nat) : Bool := (s.team t).specObjs.any fun x => x.off == q && x.groups.contains g

/-- R273 and R309: whether a `WAIT.spec` speculates; a group that was rolled back does not again in that phase (R277). -/
def State.canSpec (s : State) (th : Thread) (t q : Nat) : Bool :=
  let own := s.team th.team
  let core := s.hostOf th
  s.objSpec t q && s.objScope t q == .team && own.specS != 0 && bitAt own.specCtl.toNat 31
    && (s.specJoined th.group t q || specShare ≤ s.poolFree core)
    && s.obj t q oSGRP < min 32 (own.specCtl.toNat % 64) && (s.specObjsOn core).length < 4
    && !th.noSpec.contains (t, q, s.obj t q oPHASE)

/-- A thread begins to speculate (R273, R274). -/
def State.beginSpec (s : State) (th : Thread) (t q o : Nat) (operand : Word) (dst : Option Opd) :
    State :=
  let s := s.acquire (s.hostOf th) .team
  let s := if s.specJoined th.group t q then s else
    let s := s.objSet t q oSGRP (s.obj t q oSGRP + 1)
    s.modTeam t fun m =>
      { m with specObjs := if m.specObjs.any fun x => x.off == q
          then m.specObjs.map fun x => if x.off == q then { x with groups := x.groups ++ [th.group] } else x
          else m.specObjs ++ [⟨[], q, [th.group], [], []⟩] }
  let r : SpecRec := { ord := s.nextId, team := t, off := q, pc := th.pc, portable := th.portable, operand := operand, regs := th.regs, preds := th.preds
                       fstat := th.fstat, fseed := th.fseed, trail := th.trail, clause := th.clause, dst := dst
                       o := o, stores := [], held := none }
  s.modTh th.id fun u => { u with spec := some r }

/-- WAIT (R304). -/
def execWait (x : X) (space : Space) (ret spec : Bool) (d a b : Opd) (off : BitVec 24) (s : State) : Result :=
  .next (s.issue (.wait x space ret spec d a b off) x fun s th =>
    match s.objAt th space a off with
    | .error e => (s, e.next)
    | .ok (t, q, o) =>
      let p := s.rd32 th b
      let ph := word (s.obj t q oPHASE)
      if ph != p then (if ret then s.wr32 th.id d ph else s).observe th t q o
      else if spec && s.canSpec th t q then (s.beginSpec th t q o.toNat p (if ret then some d else none), .next)
      else
        (s.objSet t q oWCNT (s.obj t q oWCNT + 1), .wait (.waitObj t q o.toNat p (if ret then some d else none))))

/-- BTEST (R305). -/
def execBtest (x : X) (space : Space) (d : Fin 8) (a b : Opd) (off : BitVec 24) (s : State) : Result :=
  .next (s.issue (.btest x space d a b off) x fun s th =>
    match s.objAt th space a off with
    | .error e => (s, e.next)
    | .ok (t, q, o) =>
      let r := word (s.obj t q oPHASE) != s.rd32 th b
      let s := s.modTh th.id fun u => u.setPred d r
      if r then s.observe (s.th th.id) t q o else (s, .next))

/-! ## Rollback and commit -/

/-- The flagged stores that speculating threads have buffered end with their buffers (R277 step 3). -/
def State.specDrain (s : State) (ts : List Thread) : State :=
  (s.ops.filter fun o => s.specStoreOp o && ts.any fun u => u.id == o.thread).foldl (fun s o => s.opDone o) s

/-- The threads of a group that speculate. -/
def State.specThreads (s : State) (g : Nat) : List Thread :=
  s.threads.filter fun u => u.group == g && u.spec.isSome && u.status == .live

/-- Wakes a thread parked on an object (R304): WCNT falls, and the thread goes on as one that saw the completed phase. In a
parked team the thread keeps its place and the team becomes ready (R157). -/
def State.wake (s : State) (u : Thread) (t q o : Nat) (dst : Option Opd) : State :=
  let tm := s.team u.team
  if [TeamState.parked, .readyParked, .parking, .parkingReady, .saved].contains tm.state then
    let s := if tm.state == .parked then s.once (.teamResident (s.hostOf u)) else s
    s.modTeam u.team fun m => { m with state := match m.state with
      | .parked => .readyParked
      | .parking => .parkingReady
      | x => x }
  else
    let s := s.objSet t q oWCNT (s.obj t q oWCNT + 2 ^ 32 - 1)
    let give := fun (s : State) (c : Cause) (a : DWord) =>
      ((s.modTh u.id fun v => { v with hold := .none }).raise u.id (plainTrap c a u.pc true (s.nextId * 8))).enterFor u.id
    match s.landAll u.id u.wbase (runWrites (dst.getD (.k 0)) [word (s.obj t q oPHASE)]) with
    | (_, some (c, a)) => give s c (dword a)
    | (r, none) => match r.observe u t q (dword o) with
      | (r, .trap c a) => give r c a
      | (r, _) => r.release u.id

/-- A group leaves the read set of an object (R277 step 4). -/
def SpecObj.without (x : SpecObj) (g : Nat) : SpecObj :=
  let cut := fun (l : List (Nat × List Nat)) => (l.map fun e => (e.1, e.2.filter (· != g))).filter fun e => !e.2.isEmpty
  { x with groups := x.groups.filter (· != g), doomed := x.doomed.filter (· != g), exact := cut x.exact, filter := cut x.filter }

/-- A speculating thread stands again at its `WAIT.spec`, with the state that it had there: the trap and the fault records of the
speculation are gone (R277, R279). -/
def Thread.unspec (v : Thread) (r : SpecRec) : Thread :=
  { v with
    regs := r.regs, preds := r.preds, fstat := r.fstat, fseed := r.fseed, trail := r.trail, pc := r.pc, clause := r.clause
    portable := r.portable, stall := none, entered := true, spec := none, faults := v.faults.filter fun f => f.ord < r.ord
    hold := if v.pend.isSome then .trap else .waitObj r.team r.off r.o r.operand r.dst }

/-- The rollback of a group (R277), whose flagged operations have completed: no thread of it speculates again in these phases, and
one whose phase has completed meanwhile goes on. -/
def State.rollbackNow (s : State) (g : Nat) : State :=
  let ts := s.specThreads g
  let objs := (ts.filterMap fun u => u.spec.map fun r => (r.team, r.off, r.operand.toNat)).eraseDups
  let s := s.dropArrivals g (ts.map Thread.id)
  let s := ts.foldl (fun s u => match u.spec with
    | none => s
    | some r => (s.objSet r.team r.off oWCNT (s.obj r.team r.off oWCNT + 1)).modTh u.id fun v => v.unspec r) s
  let s := (s.liveOf g).foldl (fun s u => s.modTh u.id fun v =>
    { v with noSpec := v.noSpec.filter (fun n => !objs.any fun o => o.1 == n.1 && o.2.1 == n.2.1) ++ objs }) s
  let s := objs.foldl (fun s o =>
    (s.objSet o.1 o.2.1 oSGRP (s.obj o.1 o.2.1 oSGRP + 2 ^ 32 - 1)).modTeam o.1 fun m => { m with
      specObjs := (m.specObjs.map fun x => if x.off == o.2.1 then x.without g else x).filter fun x => !x.groups.isEmpty }) s
  let s := (objs.map (·.1)).eraseDups.foldl (fun s t => s.modTeam t fun m => { m with specRollback := m.specRollback + 1 }) s
  let s := ts.foldl (fun s u => match (s.th u.id).hold with
    | .waitObj t q o p dst => if word (s.obj t q oPHASE) != p then s.wake (s.th u.id) t q o dst else s
    | _ => s) s
  s.freed (s.group g).core

/-- ROLLBACK of a group (R277): it waits for flagged operations, among them signed ones, to complete. -/
def State.rollbackGroup (s : State) (g : Nat) : State :=
  let ts := s.specThreads g
  if ts.isEmpty then s
  else
    let s := s.specDrain ts
    if (s.specThreads g).any fun u => u.flagBits != 0 then
      ((s.specThreads g).foldl (fun s u => s.modTh u.id fun v => { v with hold := .spec }) s).after 4 (.rollback g)
    else s.rollbackNow g

/-- ROLLBACK (R277). -/
def execRollback (group : Nat) (s : State) : Result := .next (s.rollbackGroup group)

/-- R278: whether every buffered global store of a group's threads passes the checks of R243 at the commit. -/
def State.commitOk (s : State) (ts : List Thread) : State × Bool :=
  ts.foldl (fun acc u => match u.spec with
    | none => acc
    | some r => (r.stores.filter fun x => x.space == .g).foldl (fun (acc : State × Bool) x =>
        match acc.1.checkCore u u.privileged .write x.addr x.data.length with
        | (s, .ok _) => (s, acc.2)
        | (s, .error _) => (s, false)) acc) (s, true)

/-- Performs a thread's buffered stores in its program order, in their own colours (R278). They are no writes of a thread outside
speculation, so no read set is compared with them (R276). -/
def State.commitStores (s : State) (u : Thread) (r : SpecRec) : State :=
  r.stores.foldl (fun s x =>
    if x.space == .g then match s.checkCore u u.privileged .write x.addr x.data.length with
      | (s, .ok l) => (s.l1Write (s.hostOf u) l.pa x.addr x.colour u.team false x.data).afterStore u
      | (s, .error _) => s
    else s.spadWrite none x.team x.addr x.data) s

/-- The threads of a group that speculate in the open phase of an object. -/
def State.phaseThreads (s : State) (t q g : Nat) : List Thread :=
  (s.specThreads g).filter fun u => u.spec.any fun r => r.team == t && r.off == q && r.operand == word (s.obj t q oPHASE)

/-- R272: whether a buffered scratchpad store of a phase's groups touches a recorded range, so that its commit waits. -/
def State.commitBusy (s : State) (t q : Nat) (gs : List Nat) : Bool :=
  (gs.flatMap fun g => s.phaseThreads t q g).any fun u => u.spec.any fun r =>
    r.stores.any fun x => x.space != .g && s.rangeBusy x.team x.addr x.data.length

/-- The commit of a group, or its rollback when a store no longer passes (R278, R279) or a checked write has implicated it while
the phase was open (R276). -/
def State.commitGroup (s : State) (t q g : Nat) (doomed : Bool) : State :=
  let ts := s.phaseThreads t q g
  if ts.isEmpty then s
  else if doomed then s.rollbackGroup g
  else match s.commitOk ts with
  | (s, false) => s.rollbackGroup g
  | (s, true) =>
    let s := ts.foldl (fun s u => match u.spec with
      | none => s
      | some r =>
        let s := s.commitStores u r
        let s := s.modTh u.id fun v => { v with spec := none, hold := if v.hold == .spec then .none else v.hold }
        match r.held with
        | some p => s.raise u.id p
        | none => s) s
    let s := s.publish (s.group g).core .team (s.objColours t q)
    let s := (s.ops.filter fun o => ts.any fun u => u.id == o.thread && u.spec.any (fun r => r.ord ≤ o.id) && (match o.instr with
      | .st _ _ _ _ _ _ _ _ | .accst _ _ _ _ _ _ _ => true
      | _ => false)).foldl (fun s o => s.later (.storePerformed o.id)) s
    let s := s.objSet t q oSGRP (s.obj t q oSGRP + 2 ^ 32 - 1)
    let s := s.modTeam t fun m => { m with specCommit := m.specCommit + 1 }
    let s := s.freed (s.group g).core
    if (s.pendOf g).isEmpty then s else s.enterHandlers g

/-- A completed phase becomes observable (R261, R267, R278, R302): the reductions of its arrivals are applied, its
speculating groups commit, and acquire for their later reads, PHASE rises and every parked thread wakes. The phase is open no more
when they commit, so that no write of a commit implicates a group of it (R276). A commit that would store into a recorded range
waits for it (R272). -/
def execPhaseComplete (team off : Nat) (s : State) : Result :=
  .next (
    let groups := ((s.team team).specObjs.filter fun x => x.off == off).flatMap SpecObj.groups
    if !(s.phases.any fun p => p.team == team && p.off == off) then s
    else if s.commitBusy team off groups then s.after 4 (.phaseComplete team off)
    else
      let ph := s.obj team off oPHASE
      let s := s.closeSilently ((s.points.filter fun p => p.object == some (team, off) && p.phase == some ph).map PointRec.id)
      let cores := (groups.map fun g => (s.group g).core).eraseDups
      let doomed := ((s.team team).specObjs.filter fun x => x.off == off).flatMap SpecObj.doomed
      let s := s.modTeam team fun m => { m with specObjs := m.specObjs.filter fun x => x.off != off }
      let s := groups.foldl (fun s g => s.commitGroup team off g (doomed.contains g)) s
      let s := cores.foldl State.acquireCore s
      let s := s.objSet team off oPHASE (ph + 1)
      let s := { s with phases := s.phases.erase ⟨team, off⟩ }
      (s.threads.filter fun u => u.status == .live && (match u.hold with
        | .waitObj t q _ _ _ => t == team && q == off
        | _ => false)).foldl (fun s u => match u.hold with
        | .waitObj t q o _ dst => s.wake u t q o dst
        | _ => s) s)

end Sys2Proof.Machine
end

