-- ==== Sys2Proof/Machine/Matrix.lean ====
section
/-!
DEFINITION. The instructions and events of the matrix engine (08): signed operations, tile moves, fragment loads, format slots,
and the power-token ring.
-/

namespace Sys2Proof.Machine

/-- The capture of a signer (R214). -/
def State.capture (s : State) (th : Thread) (a b md sc : List Word) (f : Option (Fin 12)) : Capture :=
  { ord := s.nextId, rank := th.rank, thread := th.id, a := a, b := b, md := md, scale := sc, flag := f }

/-- MMA (R211, R214, R219). -/
def execMma (x : X) (ta tb : Ty) (sat burst sc : Bool) (d a b : Opd) (tile ha hb : Fin 64) (gr : Fin 8) (s : State) : Result :=
  .next (s.issueG (.mma x ta tb sat burst sc d a b tile ha hb gr) x fun g s th =>
    s.sign th (.mma x ta tb sat burst sc d a b tile ha hb gr) x gr g
      (fun f s => s.capture th (s.rdRun th .b32 a 8) (s.rdRun th .b32 b 8) [] (if sc then s.rdRun th .b32 d 2 else []) f) none)

/-- MMAS (R205, R211, R214, R219). -/
def execMmas (x : X) (ta tb : Ty) (s8 sat burst sc : Bool) (d a b c : Opd) (tile ha hb : Fin 64) (gr : Fin 8) (s : State) :
    Result :=
  .next (s.issueG (.mmas x ta tb s8 sat burst sc d a b c tile ha hb gr) x fun g s th =>
    s.sign th (.mmas x ta tb s8 sat burst sc d a b c tile ha hb gr) x gr g
      (fun f s => s.capture th (s.rdRun th .b32 a 8) (s.rdRun th .b32 b (if s8 then 12 else 24)) (s.rdRun th .b32 c 4)
        (if sc then s.rdRun th .b32 d 2 else []) f)
      (metaBad ta s8 (s.rdRun th .b32 c 4)))

/-- ACCZ (R220). -/
def execAccz (x : X) (rel : Bool) (tile : Fin 64) (gr : Fin 8) (s : State) : Result :=
  .next (s.issueG (.accz x rel tile gr) x fun g s th =>
    s.sign th (.accz x rel tile gr) x gr g (fun f s => s.capture th [] [] [] [] f) none)

/-- An open signature has stood for 2^20 cycles and did not issue in the last of them (R216). -/
def execSignatureAbandon (group : Nat) (gr : Fin 8) (s : State) : Result :=
  .next (
    let cr := s.conv group gr
    match s.liveOf group with
    | [] => s
    | u :: _ =>
      if cr.signed == 0 || (s.ctxOf u).halted || s.nowCycle ≤ cr.since + Config.longWait then s
      else
        let miss := ~~~cr.signed &&& ~~~(s.exitedMask group)
        let s := s.setConv group gr ConvReg.empty
        match cr.instr with
        | some i => s.failSigners cr.caps i cr.pc .convMismatch (miss.zeroExtend 64)
        | none => s)

/-- A first use has waited 2^20 cycles for a tile (R202). -/
def execTileWaitTimeout (group : Nat) (tile : Fin 64) (s : State) : Result :=
  .next (
    let due := fun (t : Nat) => t + Config.longWait ≤ s.nowCycle
    let old := s.matQueued.filter fun o => o.on group tile.val && (o.tileWait.map fun t => decide (due t)) == some true
    let s := s.startWhere (fun _ => !old.isEmpty)
    let s : State := { s with cores := s.cores.map fun c => { c with matQueue := c.matQueue.filter fun o => !old.any fun x => x.id == o.id } }
    let s := old.foldl (fun s o =>
      s.failSigners o.caps o.instr ((o.caps.map fun c => (s.th c.thread).pc).headD 0) .engineFault (dword tile.val)) s
    let stamp := s.nextId * 8
    let ts := (s.liveOf group).filter fun u => match u.hold with
      | .tile n t => n == tile && decide (due t)
      | _ => false
    let s := ts.foldl (fun s u => (s.modTh u.id fun v => { v with hold := .none }).raise u.id
      (plainTrap .engineFault (dword tile.val) u.pc true stamp)) s
    match ts with
    | u :: _ => s.enterFor u.id
    | [] => s)

/-! ## The engine -/

/-- Occupancy of one multiplication (R225). -/
def occupancy (k : CoreKind) (throttled : Bool) : Nat :=
  (match k with
  | .bramble => 4
  | .larch => 16) * (if throttled then 4 else 1)

/-- The ring of a core's die. -/
def State.ring (s : State) (die : Nat) : Ring := s.rings.getD die Ring.fresh
/-- Updates a die's ring. -/
def State.modRing (s : State) (die : Nat) (f : Ring → Ring) : State := { s with rings := s.rings.modify die f }

/-- Free tokens after some moves of one station each (R228). -/
def Ring.shift (r : Ring) (k : Nat) : Ring := { r with moved := r.moved + 2 * k, free := r.free.map fun p => (p + k) % 12 }

/-- Stations that ask take a free token that has reached them (R228). -/
def Ring.takeTokens (r : Ring) : Ring :=
  let take := r.requests.filter fun q => r.free.contains q
  { r with
    free := take.foldl (fun l q => l.erase q) r.free
    requests := r.requests.filter fun q => !take.contains q
    held := r.held ++ take.map fun q => (q, r.moved) }

/-- Some moves, one after the other, with the requests that stand. -/
def Ring.moves : Nat → Ring → Ring
  | 0, r => r
  | k + 1, r => (r.shift 1).takeTokens.moves k

/-- The ring as it stands at a cycle (R228): free tokens move every 2 cycles. After twelve moves each of them has passed every
station, so no request meets one any more. -/
def Ring.upTo (r : Ring) (now : Nat) : Ring :=
  let k := (now - r.moved) / 2
  (r.moves (min k 12)).shift (k - 12)

/-- A die's ring is brought to this cycle; the holders that took a token on the way look when they must release it (R228). -/
def State.ringNow (s : State) (die : Nat) : State :=
  let r := s.ring die
  let n := r.upTo s.nowCycle
  (n.held.filter fun h => !r.held.contains h).foldl (fun s h => s.due (h.2 + 256) (.powerTokenRelease (12 * die + h.1)))
    (s.modRing die fun _ => n)

/-- A station asks for a token (R228). -/
def State.tokenRequest (s : State) (core : Nat) : State :=
  let die := dieOf core
  let st := gladeOf core % 12
  let s := s.ringNow die
  let r := s.ring die
  if r.held.any (fun h => h.1 == st) || r.requests.contains st then s
  else
    let s := s.modRing die fun r => { r with requests := r.requests ++ [st] }
    let s := if r.requests.isEmpty then s.due (r.moved + 2) (.powerTokenMove die) else s
    (r.held.map fun h => h.1).foldl (fun s h => s.once (.powerTokenRelease (12 * die + h))) s

/-- The operations that wait in a core's engine. One that is behind an operation on its tile in the engine of another core, from
which its group has moved, waits for it as for a load (R197, R215). -/
def State.matWaiting (s : State) (core : Nat) : List MatOp :=
  let others := ((s.cores.filter fun c => c.id != core).map fun (c : Core) => c.matQueue ++ c.matRun).flatten
  (s.core core).matQueue.map fun o =>
    if others.any fun x => x.id < o.id && x.on o.group o.instr.tileNo then { o with waitLoads := o.id :: o.waitLoads } else o

/-- An operation of one engine on a tile is over: later ones on it in other engines may start from now on (R215). -/
def State.tileNext (s : State) (core : Nat) (o : MatOp) : State :=
  let mine := fun (x : MatOp) => x.on o.group o.instr.tileNo
  let late := fun (x : MatOp) => if mine x && x.instr.mat.isSome then { x with since := max x.since s.nowCycle } else x
  s.cores.foldl (fun s c =>
    if c.id != core && c.matQueue.any mine then
      (s.modCore c.id fun c => { c with matQueue := c.matQueue.map late }).once (.matrixOpStart c.id)
    else s) s

/-- The next operation that may start, after some that may not: multiplications start in issue order (R225), ACCZ beside them
(R220), and one operation after the other on one tile (R215). One that waits for a tile (R202) or for loads (R222) does not start,
and no multiplication after it does. -/
def startable : List MatOp → List MatOp → Option MatOp
  | [], _ => none
  | o :: r, before =>
    if o.tileWait.isSome || !o.waitLoads.isEmpty || (before.any fun x => x.on o.group o.instr.tileNo)
        || (o.instr.mat.isSome && before.any fun x => x.instr.mat.isSome) then startable r (o :: before)
    else some o

/-- Starts a multiplication (R225 to R227, R229). -/
def State.startMul (s : State) (core : Nat) (o : MatOp) : State :=
  let c := s.core core
  let kind := kindOf core
  let t := max c.matFree o.since
  let burst := o.instr.burst
  let n := if burst then (if 0 < c.runLen && t == c.runEnd then c.runLen + 1 else 1) else 0
  let hasToken := (s.ring (dieOf core)).held.any fun h => h.1 == gladeOf core % 12
  let throttled := 64 < n && !hasToken
  let occ := occupancy kind throttled
  let stop := t + occ
  let free := if burst then stop else stop + occ
  let s := s.modCore core fun c => { c with
    matQueue := c.matQueue.filter fun x => x.id != o.id
    matRun := c.matRun ++ [{ o with done := stop + 16 }]
    matFree := free, runLen := n, runEnd := stop
    throttle := if throttled then c.throttle + word occ else c.throttle
    thrUntil := if throttled then stop else c.thrUntil }
  let s := if 48 < n then s.modRing (dieOf core) fun r =>
      let st := gladeOf core % 12
      { r with idleSince := assocSet r.idleSince st (max stop ((assoc r.idleSince st).getD 0)) } else s
  let s := if n == 49 then s.tokenRequest core else s
  (s.due (stop + 16) (.matrixOpComplete core)).due free (.matrixOpStart core)

/-- Starts ACCZ, which does not occupy the pipeline (R220). -/
def State.startZero (s : State) (core : Nat) (o : MatOp) : State :=
  let c := s.core core
  let after := (c.matRun.filter fun x => x.group == o.group && x.instr.tileNo == o.instr.tileNo).foldl (fun m x => max m x.done) 0
  let done := max (o.since + 8) after
  let s := s.modCore core fun c => { c with
    matQueue := c.matQueue.filter fun x => x.id != o.id, matRun := c.matRun ++ [{ o with done := done }] }
  (s.due done (.matrixOpComplete core)).later (.matrixOpStart core)

/-- Whether an operation is ACCZ `.rel`. -/
def Instr.releases : Instr → Bool
  | .accz _ rel _ _ => rel
  | _ => false

/-- The engine starts its next operation (R225, R226): in the cycle in which its predecessor lets it, or now when it has waited
for a tile or for loads. An ACCZ `.rel` that stood behind a wait for its tile acts first (R220). -/
def execMatrixOpStart (core : Nat) (s : State) : Result :=
  .next (
    let s := ((s.core core).matQueue.filter fun o => Sys2Proof.Machine.Instr.releases o.instr).foldl State.actRel s
    match startable (s.matWaiting core) [] with
    | none => s
    | some o =>
      if o.instr.mat.isNone then (s.startZero core o).once (.matrixOpStart core)
      else if s.nowCycle < (s.core core).matFree then s
      else s.startMul core o)

/-- What a completed operation does to its tile (R219, R220): nothing when the number was released in between. ACCZ is carried out
at issue: rows that were loaded since stand. -/
def State.matEffect (s : State) (o : MatOp) : State :=
  if o.lost then s
  else match o.instr.mat with
  | some f => s.setTile o.group f.tile
      (f.apply (slotOf o.slotA) (slotOf o.slotB) o.caps (s.tile o.group f.tile))
  | none => s.setTile o.group o.instr.tileNo (o.rows.foldl (fun t r => Sparse.writeN t (32 * r.1) r.2) [])

/-- The oldest operation whose completion is due completes (R218, R225). -/
def execMatrixOpComplete (core : Nat) (s : State) : Result :=
  .next (match (s.core core).matRun.find? fun o => o.done ≤ s.nowCycle with
    | none => s
    | some o =>
      let s := s.modCore core fun c => { c with matRun := c.matRun.filter fun x => x.id != o.id }
      ((s.matEffect o).signersDone o.caps).tileNext core o)

/-- Free tokens move on by one station every 2 cycles; a station that asks takes the first that reaches it (R228). -/
def execPowerTokenMove (die : Nat) (s : State) : Result :=
  .next (
    let s := s.ringNow die
    let r := s.ring die
    if r.requests.isEmpty then s else s.due (r.moved + 2) (.powerTokenMove die))

/-- A station gives its token back to the ring, which carries N tokens (R228). -/
def Ring.giveBack (r : Ring) (st : Nat) : Ring :=
  { r with held := r.held.filter fun h => h.1 != st, leaving := r.leaving.filter fun h => h.1 != st
           free := if r.held.length + r.free.length ≤ r.n then r.free ++ [st] else r.free }

/-- A station's token goes back on the ring when R228 lets it: after 256 cycles with no long run; or, once it has held for 65,536
cycles while another station asks, at the end of the operations that then occupy its engines. Else the test is made again when it
can next hold. -/
def execPowerTokenRelease (glade : Nat) (s : State) : Result :=
  .next (
    let die := glade / 12
    let st := glade % 12
    let s := s.ringNow die
    let r := s.ring die
    let now := s.nowCycle
    match assoc r.held st with
    | none => s
    | some since =>
      let idle := (assoc r.idleSince st).getD 0 + 256
      let wanted := r.requests.any fun q => q != st
      let busy := (gladeCores glade).foldl (fun m c => max m (s.core c).runEnd) 0
      let due := (assoc r.leaving st).orElse fun _ => if wanted && since + 65536 ≤ now then some busy else none
      if idle ≤ now || due.any (· ≤ now) then s.modRing die fun r => r.giveBack st
      else match due with
        | some e => (s.modRing die fun r => { r with leaving := assocSet r.leaving st e }).due (min idle e) (.powerTokenRelease glade)
        | none => s.due (if wanted then min idle (since + 65536) else idle) (.powerTokenRelease glade))

/-! ## Tile moves (R221, R222) -/

/-- ACCLD (R201, R202, R221): alignment is checked before the tile's first use. -/
def execAccld (x : X) (ty : Ty) (space : Space) (colour : Fin 8) (a : Opd) (tile : Fin 64) (s : State) : Result :=
  .next (s.issue (.accld x ty space colour a tile) x fun s th =>
    let flag := th.flagOf x.sb
    let addr := match space with
      | .g => (s.rd64 th a).toNat
      | _ => (s.rd32 th a).toNat
    if s.flagFull th flag then (s, .stall (.flag flag))
    else match if addr % 128 == 0 then s.tileUse th.group tile.val else .ready with
    | .fail => (s, .trap .engineFault (dword tile.val))
    | .wait => (s.after Config.longWait (.tileWaitTimeout th.group tile), .wait (.tile tile s.cycle))
    | .ready =>
      let r := match space with
        | .g => s.loadG th th.privileged (s.rd64 th a).toNat 128
        | sp => s.loadW th sp (s.rd32 th a).toNat 128
      match r, flag with
      | (_, .error (.stall w)), _ => (s, w.next)
      | (s', .error e), none => (s', e.next)
      | (s', .ok b), none =>
        let s' := s'.holdTile th.group tile.val
        (s'.loadRow th.group tile.val th.rank (words4 32 b) none, .next)
      | (s', .error (.fault c ad)), some f =>
        let (s', id) := s'.newOp th (.accld x ty space colour a tile) (some f) false [] (some (c, dword ad)) [] 0
        (s'.later (.loadComplete id), .next)
      | (s', .ok b), some f =>
        let s' := s'.holdTile th.group tile.val
        let (s', id) := s'.newOp th (.accld x ty space colour a tile) (some f) false [] none
          (th.rank :: (words4 32 b).map BitVec.toNat) 0
        (s'.later (.loadComplete id), .next))

/-- The words of a row rounded into f16 or bf16 (R221), with the flags they raise. -/
def rowRounded (a : Arith) (mt : Ty) : List Word → List Byte × Arith
  | [] => ([], a)
  | w :: r =>
    let (v, a) := a.round mt false (a.input .f32 w.toNat)
    let (bs, a) := rowRounded a mt r
    (leBytes 2 v ++ bs, a)

/-- ACCST (R221, R222). -/
def execAccst (x : X) (ty mt : Ty) (space : Space) (colour : Fin 8) (a : Opd) (tile : Fin 64) (s : State) : Result :=
  .next (s.issue (.accst x ty mt space colour a tile) x fun s th =>
    let flag := th.flagOf x.sb
    if s.flagFull th flag then (s, .stall (.flag flag))
    else if s.tileBusy th tile.val then (s, .stall (.tile tile.val))
    else
      let row := Sparse.readN (s.tile th.group tile.val) (32 * th.rank) 32
      let (bs, ar) := if mt == .none then (wordsBytes row, th.arith none) else rowRounded (th.arith none) mt row
      let r := match space with
        | .g => s.storeG th th.privileged (s.rd64 th a).toNat colour bs
        | sp => s.storeW th sp (s.rd32 th a).toNat bs
      match r with
      | (_, .error (.stall w)) => (s, w.next)
      | (s', .error e) => (s', e.next)
      | (s', .ok _) =>
        let s' := s'.modTh th.id fun u => u.sticky ar.flags
        match flag with
        | none => (s', .next)
        | some f =>
          let data := if space == .g then [(s.rd64 th a).toNat, bs.length] else []
          let (s', id) := s'.newOp th (.accst x ty mt space colour a tile) (some f) false [] none data 0
          (s'.later (.storePerformed id), .next))

/-! ## LDF and FSLOT (R210, R223, R224) -/

/-- Loads some bytes for LDF that must lie in pages which name slot `h`. -/
def State.codeLoad (s : State) (th : Thread) (h va n : Nat) : State × Except Stop (List Byte) :=
  s.rawLoad th th.privileged (some h) va n

/-- The codes of a fragment (R224). -/
def State.ldfCodes (s : State) (th : Thread) (h : Nat) (sl : SlotD) (w row k0 : Nat) (perm : Bool) : Nat → Nat →
    State × Except Stop (List Nat)
  | 0, _ => (s, .ok [])
  | n + 1, k =>
    let chan : State × Except Stop Nat := if !perm then (s, .ok (k0 + k)) else
      match s.codeLoad th h ((sl.pbase + 2 * (k0 + k)) % 2 ^ 64) 2 with
      | (s, .ok b) => (s, .ok (leNat b))
      | (s, .error e) => (s, .error e)
    match chan with
    | (s, .error e) => (s, .error e)
    | (s, .ok c) => match s.codeLoad th h ((row + c * w / 8) % 2 ^ 64) (max (w / 8) 1) with
      | (s, .error e) => (s, .error e)
      | (s, .ok b) =>
        let code := if w == 4 then leNat b / 2 ^ (4 * (c % 2)) % 16 else leNat b
        match s.ldfCodes th h sl w row k0 perm n (k + 1) with
        | (s, .error e) => (s, .error e)
        | (s, .ok l) => (s, .ok (code :: l))

/-- The scale register of LDF `.scl` (R224). -/
def State.ldfScale (s : State) (th : Thread) (h : Nat) (sl : SlotD) (w row k0 kk : Nat) : State × Except Stop Word :=
  let e : Int := ((row : Int) - sl.ebase) * 8 / w + k0
  let len := sl.blockLen
  if e < 0 || e % len != 0 || (w == 4 && len == 16) then (s, .error (.fault .reservedField row))
  else
    let b := e.toNat / len
    match s.planeScale th th.privileged (some h) sl.sbase b with
    | (s, .error e) => (s, .error e)
    | (s, .ok x) =>
      if kk / len != 2 then (s, .ok (word x))
      else match s.planeScale th th.privileged (some h) sl.sbase (b + 1) with
        | (s, .error e) => (s, .error e)
        | (s, .ok y) => (s, .ok (word (x + y * 4096)))

/-- The registers that LDF loads (R224). -/
def State.ldfOp (s : State) (th : Thread) (ty : Ty) (perm scl : Bool) (row k0 : Nat) : State × Except Stop (List Word) :=
  let kk := fragK ty
  let w := ty.bits
  let bad : Except Stop (List Word) := .error (.fault .reservedField row)
  let at_ := if perm then row else (row + k0 * w / 8) % 2 ^ 64
  if !canonicalVa row then (s, .error (.fault .notPresent row))
  else if k0 % kk != 0 then (s, bad)
  else if at_ % (if perm then max (w / 8) 1 else 32) != 0 then (s, .error (.fault .alignment at_))
  else match s.checkCore th th.privileged .read row 1 with
  | (s, .error e) => (s, .error e)
  | (s, .ok l) =>
    let sl := s.slot (s.hostOf th) (s.team th.team).ctx l.fs
    if !(sl.fmt == 0 || sl.fmt == ty.code) || scl != sl.scaled || (perm && (sl.plen == 0 || sl.plen < k0 + kk)) then (s, bad)
    else match s.ldfCodes th l.fs sl w row k0 perm kk 0 with
      | (s, .error e) => (s, .error e)
      | (s, .ok codes) =>
        let ws := packElems w codes
        if !scl then (s, .ok ws)
        else match s.ldfScale th l.fs sl w row k0 kk with
          | (s, .error e) => (s, .error e)
          | (s, .ok x) => (s, .ok (ws ++ [x]))

/-- LDF (R223, R224). -/
def execLdf (x : X) (ty : Ty) (perm scl : Bool) (colour : Fin 8) (d a b : Opd) (off : BitVec 24) (s : State) : Result :=
  .next (s.issue (.ldf x ty perm scl colour d a b off) x fun s th =>
    if s.flagFull th (th.flagOf x.sb) then (s, .stall (.flag (th.flagOf x.sb)))
    else s.loadEnd th (.ldf x ty perm scl colour d a b off) x d
      (s.ldfOp th ty perm scl (s.addrG th a off) (s.rd32 th b).toNat))

/-- FSLOT (R206 to R210). -/
def execFslot (x : X) (slot : Fin 64) (colour : Fin 8) (a : Opd) (off : BitVec 24) (s : State) : Result :=
  .next (s.issue (.fslot x slot colour a off) x fun s th =>
    let flag := th.flagOf x.sb
    let va := s.addrG th a off
    if s.flagFull th flag then (s, .stall (.flag flag))
    else
      let (s', r) := s.loadG th th.privileged va 64
      let r : Except Stop (BitVec 512) := match r with
        | .error e => .error e
        | .ok b =>
          let w := BitVec.ofNat 512 (leNat b)
          if slotInvalid w then .error (.fault .reservedField va) else .ok w
      match r, flag with
      | .error (.stall w), _ => (s, w.next)
      | .error e, none => (s', e.next)
      | .ok w, none => (s'.writeSlot (some (s'.hostOf th, th.id)) (s'.team th.team).ctx slot.val w, .next)
      | .error (.fault c ad), some f =>
        let (s', id) := s'.newOp th (.fslot x slot colour a off) (some f) false [] (some (c, dword ad)) [] 0
        (s'.later (.loadComplete id), .next)
      | .ok w, some f =>
        let (s', id) := s'.newOp th (.fslot x slot colour a off) (some f) false [] none [] w
        (s'.later (.loadComplete id), .next))

end Sys2Proof.Machine
end

