-- ==== Sys2Proof/Machine/Engine.lean ====
section
/-!
DEFINITION. Engines (13): commands and their completion (R324 to R328), the copy engine with LDS (R286, R287, R329 to
R332), and the credits of barrier objects (R271, R308).
-/

namespace Sys2Proof.Machine

/-- An engine operation issues (R325): a flagged one raises its flag and the thread goes on; an unflagged one holds it. Publishes
that the core has not completed are performed before any write of it (R257). -/
def State.engIssue (s : State) (th : Thread) (i : Instr) (x : X) (data : List Nat) (bytes : List Byte) (slot : BitVec 512)
    (event : Nat → Instr) : State × Next :=
  let flag := th.flagOf x.sb
  let (s, id) := ((s.settlePubs (s.hostOf th)).passOn (s.hostOf th) [th.team]).newOp th i flag flag.isNone [] none data slot
  let s := (s.modOp id fun o => { o with bytes := bytes }).later (event id)
  (s, if flag.isNone then .wait (.op id) else .next)

/-- A whole handle-table entry of a kind, read at issue (R328). -/
def State.entry (s : State) (th : Thread) (h : Nat) (ok : List Byte → Bool) : State × Except (Cause × Nat) (List Byte) :=
  let c := s.ctxOf th
  let va := c.handles.toNat + 64 * h
  if c.handleCount ≤ h then (s, .error (.reservedField, va))
  else match s.engRead (engTlb (s.hostOf th)) c.id th.privileged va 64 with
    | (s, .error f) => (s, .error f)
    | (s, .ok b) => if ok b then (s, .ok b) else (s, .error (.reservedField, va))

/-- Address of a handle-table entry. -/
def State.entryVa (s : State) (th : Thread) (h : Nat) : DWord := dword ((s.ctxOf th).handles.toNat + 64 * h)

/-- Exact trap of an issue check (R325). -/
def checkTrap (f : Cause × Nat) : Next := .trap f.1 (dword f.2)

/-- An operation credits bytes to its barrier object (R271, R308). -/
def State.credit (s : State) (obj : Option (Nat × Nat)) (n : Nat) : State := match obj with
  | some (t, q) => s.objCount t q 0 n
  | none => s

/-- The end of an operation that may credit an object: PEND falls, its range retires, and a fault sets the object's error
(R272, R307, R308, R326). -/
def State.engEnd (s : State) (o : Op) (obj : Option (Nat × Nat)) (fault : Option (Cause × Nat)) : State :=
  let s := match obj, fault with
    | some (t, q), some (_, a) => s.objError t q 1 a
    | _, _ => s
  let s := match obj with
    | some (t, q) => s.objSet t q oPEND (s.obj t q oPEND + 2 ^ 32 - 1)
    | none => s
  let s := { s with ranges := s.ranges.filter fun r => r.op != o.id }
  s.opDone { o with fault := fault.map fun f => (f.1, dword f.2) }

/-- Free entries of the range scoreboard of a core (R311). -/
def State.rangeRoom (s : State) (core : Nat) : Bool :=
  (s.ranges.filter fun r => (s.team r.team).home == core).length < 64

/-- The barrier object that a command names: alignment, window, VALID (R301, R308). -/
def State.barObj (s : State) (th : Thread) (sp : Space) (c : Nat) : Except Stop (Nat × Nat) :=
  match s.windowAligned th sp c 64 with
  | .error e => .error e
  | .ok (t, q) => if s.objValid t q then .ok (t, q) else .error (.fault .reservedField c)

/-- The object that a command credits, none without `.bar`. -/
def State.barOf (s : State) (th : Thread) (sp : Space) (bar : Bool) (c : Opd) : Except Stop (Option (Nat × Nat)) :=
  if bar then match s.barObj th sp (s.rd32 th c).toNat with
    | .ok p => .ok (some p)
    | .error e => .error e
  else .ok none

/-- Records a range and the crediting operation at issue (R272, R308, R311). -/
def State.recordRange (s : State) (op team q n : Nat) (obj : Option (Nat × Nat)) : State :=
  let s := { s with ranges := s.ranges ++ [⟨op, team, q / 4 * 4, (q + n + 3) / 4 * 4⟩] }
  match obj with
  | some (t, o) => s.objSet t o oPEND (s.obj t o oPEND + 1)
  | none => s

/-- The object's place in an operation's data: team + 1 and offset, 0 when none. -/
def objData : Option (Nat × Nat) → List Nat
  | some (t, q) => [t + 1, q]
  | none => [0, 0]
/-- The object that an operation's data names at a place. -/
def Op.obj (o : Op) (k : Nat) : Option (Nat × Nat) :=
  if o.data.getD k 0 == 0 then none else some (o.data.getD k 0 - 1, o.data.getD (k + 1) 0)

/-- An operation in a queue of its glade's copy engine. -/
def Op.copying (o : Op) : Bool := o.instr.path == some .copy

/-! ## LDS -/

/-- Destination bytes of LDS for one element: its own size, or that of the decoded type (R286). -/
def ldsSize (t : Ty) (n : Nat) : Nat := n * (t.bits / 8)

/-- The least power of two not below a number. -/
def pow2Up (n : Nat) : Nat := if n ≤ 1 then 1 else 2 ^ ((n - 1).log2 + 1)

/-- The bytes of a scale plane that decode elements e0 to e0 + n - 1 (R96). -/
def planeBytes (sl : SlotD) (e0 n : Nat) : List Nat :=
  (upto ((e0 + n - 1) / sl.blockLen - e0 / sl.blockLen + 1)).flatMap fun i =>
    let a := planeByte sl.sbase (e0 / sl.blockLen + i)
    [a, (a + 1) % 2 ^ 64, (a + 2) % 2 ^ 64]

/-- LDS (R286, R287). -/
def execLds (x : X) (ty : Ty) (n : Fin 16) (space : Space) (bar : Bool) (a b c : Opd) (off : BitVec 24) (s : State) : Result :=
  .next (s.issue (.lds x ty n space bar a b c off) x fun s th =>
    let cnt := n.val + 1
    let va := s.addrG th a off
    let q := (s.rd32 th b).toNat
    if s.flagFull th (th.flagOf x.sb) then (s, .stall (.flag (th.flagOf x.sb)))
    else if 64 ≤ s.recordsOut th then (s, .stall .records)
    else
      match s.loadSource th th.privileged ty cnt va fun h => slotOf (s.engSlotBits th .copy h) with
      | (s, .error e) => (s, e.next)
      | (s, .ok (l, k)) =>
        let sl := slotOf (s.engSlotBits th .copy l.fs)
        match s.readable th (match k with
          | some (_, e0, _) => if sl.scaled then planeBytes sl e0 cnt else []
          | none => []) with
        | (s, some e) => (s, e.next)
        | (s, none) =>
          let z := ldsSize ty cnt
          if q % pow2Up z != 0 then (s, .trap .alignment (dword q))
          else match s.window th space q z with
            | .error e => (s, e.next)
            | .ok (t, wq) => match s.barOf th space bar c with
              | .error e => (s, e.next)
              | .ok obj =>
                if !s.rangeRoom (s.team t).home then (s, .stall (.room (s.team t).home))
                else
                  let flag := th.flagOf x.sb
                  let (s, id) := s.newOp th (.lds x ty n space bar a b c off) flag false [] none
                    ([va, t, wq, z] ++ objData obj) (s.engSlotBits th .copy l.fs)
                  let s := s.recordRange id t wq z obj
                  (s.later (.copyOpStart (gladeOf (s.hostOf th))), .next))

/-- Address of the group that holds scale k of a plane (R96); a block before EBASE has a scale before SBASE. -/
def scaleGroup (base : Nat) (k : Int) : Nat := ((base + 3 * (k / 2) : Int) % 2 ^ 64).toNat

/-- One scale of a plane, read raw by an engine (R96). -/
def State.engScale (s : State) (tlb ctx : Nat) (priv : Bool) (base : Nat) (k : Int) : State × Except (Cause × Nat) Nat :=
  match s.engRead tlb ctx priv (scaleGroup base k) 3 with
  | (s, .error f) => (s, .error f)
  | (s, .ok b) => (s, .ok (scaleFrom (leNat b) (k % 2).toNat))

/-- The scale of element `e`, none when the slot is not scaled. -/
def State.engScaleOf (s : State) (tlb ctx : Nat) (priv : Bool) (sl : SlotD) (e : Int) :
    State × Except (Cause × Nat) (Option Nat) :=
  if !sl.scaled then (s, .ok none)
  else match s.engScale tlb ctx priv sl.sbase (e / sl.blockLen) with
    | (s, .error f) => (s, .error f)
    | (s, .ok k) => (s, .ok (some k))

/-- Decodes the elements of codes held in bytes (R284, R331). -/
def State.engDecode (s : State) (tlb ctx : Nat) (priv : Bool) (t f : Ty) (sl : SlotD) (e0 codes : Nat) : Nat → Nat →
    State × Except (Cause × Nat) (List Nat)
  | 0, _ => (s, .ok [])
  | n + 1, i => match s.engScaleOf tlb ctx priv sl (e0 + i : Nat) with
    | (s, .error e) => (s, .error e)
    | (s, .ok sc) => match s.engDecode tlb ctx priv t f sl e0 codes n (i + 1) with
      | (s, .error e) => (s, .error e)
      | (s, .ok l) => (s, .ok (decodeTo t f sl sc (codes / 2 ^ (i * f.bits) % 2 ^ f.bits) :: l))

/-- The destination bytes of an LDS (R286). -/
def State.ldsBytes (s : State) (o : Op) (ty : Ty) (cnt : Nat) : State × Except (Cause × Nat) (List Byte) :=
  let tlb := engTlb o.core
  let va := o.data.getD 0 0
  let sl := slotOf o.slot
  match (if sl.fmt == 0 || rawTy ty then none else Ty.ofCode sl.fmt) with
  | none => s.engRead tlb o.ctx o.priv va (cnt * (ty.bits / 8))
  | some f => match s.engRead tlb o.ctx o.priv va (cnt * f.bits / 8) with
    | (s, .error e) => (s, .error e)
    | (s, .ok b) => match s.engDecode tlb o.ctx o.priv ty f sl ((va - sl.ebase) * 8 / f.bits) (leNat b) cnt 0 with
      | (s, .error e) => (s, .error e)
      | (s, .ok l) => (s, .ok (l.flatMap fun v => leBytes (ty.bits / 8) v))

/-- LDS at its completion (R286, R287). -/
def State.ldsDone (s : State) (o : Op) (ty : Ty) (n : Fin 16) : State :=
  let obj := o.obj 4
  match s.ldsBytes o ty (n.val + 1) with
  | (s, .error f) => s.engEnd o obj (some f)
  | (s, .ok bs) =>
    let s := s.spadWrite (some o.team) (o.data.getD 1 0) (o.data.getD 2 0) bs
    (s.credit obj bs.length).engEnd o obj none

/-! ## CPY -/

/-- A copy-tile entry (R330). -/
structure CopyTile where
  e : Nat
  ctype : Nat
  nx : Nat
  ny : Nat
  nz : Nat
  gsy : Int
  gsz : Int
  ssy : Nat
  ssz : Nat

/-- A signed 64-bit field. -/
def sfield (b : List Byte) (o : Nat) : Int := intVal true 64 (field b o 8)

/-- The fields of a copy-tile entry. -/
def copyTile (b : List Byte) : CopyTile :=
  { e := 2 ^ (field b 1 1), ctype := field b 2 1, nx := field b 4 2, ny := field b 6 2, nz := field b 8 2
    gsy := sfield b 16, gsz := sfield b 24, ssy := field b 32 4, ssz := field b 36 4 }

/-- R328, R330: a valid copy-tile entry for a command. -/
def copyOk (codec : Bool) (b : List Byte) : Bool :=
  let t := copyTile b
  field b 0 1 == 4 && field b 1 1 ≤ 3 && field b 3 1 == 0 && field b 10 6 == 0 && allZero (slice b 40 24)
    && 0 < t.nx && 0 < t.ny && 0 < t.nz
    && (if codec then 0x12 ≤ t.ctype && t.ctype ≤ 0x17 && (t.e == 4 || t.e == 2) else t.ctype == 0)

/-- R331 step 2. -/
def codecOk (t : CopyTile) (sl : SlotD) (a : Nat) : Bool :=
  match Ty.ofCode t.ctype with
  | none => false
  | some f =>
    let w := f.bits
    let l := sl.blockLen
    sl.fmt == t.ctype && t.nx * w % 8 == 0 &&
      (!sl.scaled || (t.nx % (2 * l) == 0 && t.gsy % (l * w / 8 : Nat) == 0 && t.gsz % (l * w / 8 : Nat) == 0
        && ((a : Int) - sl.ebase) * 8 % (w : Int) == 0 && ((a : Int) - sl.ebase) * 8 / (w : Int) % (2 * l : Nat) == 0))

/-- R331 step 3: the first value that is not a multiple of e. -/
def copyOdd (t : CopyTile) (codec : Bool) (a b : Nat) : Option Nat :=
  let g := if codec then [] else [(t.gsy % 2 ^ 64).toNat, (t.gsz % 2 ^ 64).toNat]
  ([a, b, t.ssy, t.ssz] ++ g).find? fun v => v % t.e != 0

/-- Scratchpad bytes from the lowest to the highest of a tile (R331 step 4). -/
def CopyTile.span (t : CopyTile) : Nat := (t.nx - 1) * t.e + (t.ny - 1) * t.ssy + (t.nz - 1) * t.ssz + t.e

/-- CPY (R329 to R331). -/
def execCpy (x : X) (s2g : Bool) (space : Space) (bar : Bool) (colour : Fin 8) (slot : Fin 64) (r : Rm) (a b c : Opd)
    (hnd : BitVec 16) (s : State) : Result :=
  .next (s.issue (.cpy x s2g space bar colour slot r a b c hnd) x fun s th =>
    let va := (s.rd64 th a).toNat
    let q := (s.rd32 th b).toNat
    let codec := slot != 0
    if s.flagFull th (th.flagOf x.sb) then (s, .stall (.flag (th.flagOf x.sb)))
    else match s.entry th hnd.toNat (copyOk codec) with
    | (s, .error f) => (s, checkTrap f)
    | (s, .ok bytes) =>
      let t := copyTile bytes
      let sl := slotOf (s.engSlotBits th .copy slot.val)
      if codec && !codecOk t sl va then (s, .trap .reservedField (dword va))
      else if !canonicalVa va then (s, .trap .notPresent (dword va))
      else match copyOdd t codec va q with
      | some v => (s, .trap .alignment (dword v))
      | none => match s.window th space q t.span with
        | .error e => (s, e.next)
        | .ok (tm, wq) => match s.barOf th space bar c with
          | .error e => (s, e.next)
          | .ok obj =>
            if !s.rangeRoom (s.team tm).home then (s, .stall (.room (s.team tm).home))
            else
              let gl := gladeOf (s.hostOf th)
              let id := s.nextId
              let (s, n) := s.engIssue th (.cpy x s2g space bar colour slot r a b c hnd) x ([va, tm, wq, t.span] ++ objData obj) bytes
                (s.engSlotBits th .copy slot.val) fun _ => .copyOpStart gl
              (s.recordRange id tm wq t.span obj, n))

/-- What a copy works on. -/
structure CopyEnv where
  o : Op
  t : CopyTile
  s2g : Bool
  colour : Fin 8
  sl : SlotD
  f : Ty
  r : Rm
  team : Nat
  q : Nat
  va : Nat
  obj : Option (Nat × Nat)

/-- Global address of row (z, y). -/
def CopyEnv.row (c : CopyEnv) (z y : Nat) : Nat := ((c.va + y * c.t.gsy + z * c.t.gsz : Int) % 2 ^ 64).toNat
/-- Scratchpad offset of element (z, y, x). -/
def CopyEnv.at_ (c : CopyEnv) (z y x : Nat) : Nat := c.q + x * c.t.e + y * c.t.ssy + z * c.t.ssz
/-- The type of the scratchpad elements of a codec copy (R330). -/
def CopyEnv.wide (c : CopyEnv) : Ty := if c.t.e == 4 then .f32 else .bf16

/-- A global write of a copy in its colour (R243, R276, R327). -/
def State.copyPut (s : State) (c : CopyEnv) (va : Nat) (bs : List Byte) : State × Option (Cause × Nat) :=
  match s.engWrite (engTlb c.o.core) c.o.ctx c.o.priv .write va bs with
  | (s, .error f) => (s, some f)
  | (s, .ok _) => ((linesOf va bs.length).foldl (fun s l => s.checkedWrite c.o.team (tagG l) (some c.colour)) s, none)

/-- One element of a raw copy, with its credit (R331). -/
def State.copyRaw (s : State) (c : CopyEnv) (z y x : Nat) : State × Option (Cause × Nat) :=
  let g := (c.row z y + x * c.t.e) % 2 ^ 64
  if c.s2g then match s.copyPut c g (s.spadRead c.team (c.at_ z y x) c.t.e) with
    | (s, some f) => (s, some f)
    | (s, none) => (s.credit c.obj c.t.e, none)
  else match s.engRead (engTlb c.o.core) c.o.ctx c.o.priv g c.t.e with
    | (s, .error f) => (s, some f)
    | (s, .ok bs) => ((s.spadWrite (some c.o.team) c.team (c.at_ z y x) bs).credit c.obj c.t.e, none)

/-- Index of a row's element 0 counted from EBASE. -/
def CopyEnv.elem (c : CopyEnv) (z y : Nat) : Int := ((c.row z y : Int) - c.sl.ebase) * 8 / (c.f.bits : Int)

/-- One element of a decoding copy (R331). -/
def State.copyDecode (s : State) (c : CopyEnv) (z y x : Nat) : State × Option (Cause × Nat) :=
  let w := c.f.bits
  match s.engRead (engTlb c.o.core) c.o.ctx c.o.priv ((c.row z y + x * w / 8) % 2 ^ 64) (max (w / 8) 1) with
  | (s, .error f) => (s, some f)
  | (s, .ok b) => match s.engScaleOf (engTlb c.o.core) c.o.ctx c.o.priv c.sl (c.elem z y + x) with
    | (s, .error f) => (s, some f)
    | (s, .ok sc) =>
      let code := if w == 4 then leNat b / 2 ^ (4 * (x % 2)) % 16 else leNat b
      let v := decodeTo c.wide c.f c.sl sc code
      ((s.spadWrite (some c.o.team) c.team (c.at_ z y x) (leBytes c.t.e v)).credit c.obj c.t.e, none)

/-- Elements that an encoding copy takes at once: two blocks, or the elements of a byte. -/
def CopyEnv.unit (c : CopyEnv) : Nat := if c.sl.scaled then 2 * c.sl.blockLen else max (8 / c.f.bits) 1

/-- The code of one element under a scale, with RMODE, no saturation and no stochastic rounding (R331). -/
def CopyEnv.encode (c : CopyEnv) (sc : Nat) (v : FVal) : Nat :=
  let a := Arith.of 0#32 1#32 (some c.r)
  match s12Value sc, v with
  | .nan, _ => 0
  | .zero, _ => if c.f == .cb4 then (encodeCodebook c.sl (.fin false 0 0)).1 else 0
  | .val m k, .fin neg n e => (quantElem a c.f c.sl false false (.fin neg n e) m k).1
  | .val _ _, v => match c.f with
    | .cb4 => (encodeCodebook c.sl v).1
    | .i4 | .i8 => (convertToInt c.f c.r false v).1
    | t => (a.round t false v).1

/-- Little-endian bytes of w-bit codes. -/
def codeBytes (w : Nat) (l : List Nat) : List Byte :=
  leBytes (l.length * w / 8) (l.foldr (fun x acc => x % 2 ^ w + 2 ^ w * acc) 0)

/-- Whether a write of a copy would pass every check (R243). -/
def State.copyCheck (s : State) (c : CopyEnv) (va n : Nat) : State × Option (Cause × Nat) :=
  match s.placePieces (engTlb c.o.core) c.o.ctx c.o.priv .write (piecesOf va n) with
  | (s, .error f) => (s, some f)
  | (s, .ok _) => (s, none)

/-- The whole groups that take the scales of two blocks from block k on: one group, or two of which each keeps its other scale
(R96, R331, log 63). -/
def State.copyScales (s : State) (c : CopyEnv) (k : Int) (sc0 sc1 : Nat) : State × Except (Cause × Nat) (List (Nat × List Byte)) :=
  let a0 := scaleGroup c.sl.sbase k
  let a1 := scaleGroup c.sl.sbase (k + 1)
  if k % 2 == 0 then (s, .ok [(a0, leBytes 3 (sc0 + 4096 * sc1))])
  else match s.engRead (engTlb c.o.core) c.o.ctx c.o.priv a0 3 with
    | (s, .error f) => (s, .error f)
    | (s, .ok b0) => match s.engRead (engTlb c.o.core) c.o.ctx c.o.priv a1 3 with
      | (s, .error f) => (s, .error f)
      | (s, .ok b1) => (s, .ok
          [(a0, leBytes 3 (scaleFrom (leNat b0) 0 + 4096 * sc0)), (a1, leBytes 3 (sc1 + 4096 * scaleFrom (leNat b1) 1))])

/-- The writes of one element of an operation: none is made unless each passes its checks (R326). -/
def State.copyPuts (s : State) (c : CopyEnv) (ws : List (Nat × List Byte)) : State × Option (Cause × Nat) :=
  match ws.foldl (fun (p : State × Option (Cause × Nat)) w => match p with
      | (s, none) => s.copyCheck c w.1 w.2.length
      | p => p) (s, none) with
  | (s, some f) => (s, some f)
  | (s, none) => (ws.foldl (fun s w => (s.copyPut c w.1 w.2).1) s, none)

/-- One unit of an encoding copy: the codes, and its scales in whole groups (R331). An element of an unscaled slot is a block of its
own, whose scale no plane takes (log 63). -/
def State.copyEncode (s : State) (c : CopyEnv) (z y u : Nat) : State × Option (Cause × Nat) :=
  let n := c.unit
  let x0 := u * n
  let vs := (upto n).map fun i => (ffmt c.wide).decode (leNat (s.spadRead c.team (c.at_ z y (x0 + i)) c.t.e))
  let l := c.sl.blockLen
  let scale := fun (b : List FVal) => (chooseScale b c.f c.sl).1
  let sc0 := scale (vs.take l)
  let sc1 := scale (vs.drop l)
  let codes := vs.zipIdx.map fun p => c.encode (if !c.sl.scaled then scale [p.1] else if l ≤ p.2 then sc1 else sc0) p.1
  let bs := codeBytes c.f.bits codes
  let groups := if c.sl.scaled then s.copyScales c ((c.elem z y + x0) / (l : Int)) sc0 sc1 else (s, .ok [])
  match groups with
  | (s, .error f) => (s, some f)
  | (s, .ok g) => match s.copyPuts c (((c.row z y + x0 * c.f.bits / 8) % 2 ^ 64, bs) :: g) with
    | (s, some f) => (s, some f)
    | (s, none) => (s.credit c.obj bs.length, none)

/-- The elements or units of a copy in the order of R331, until the first that fails. -/
def State.copyLoop (s : State) (c : CopyEnv) (f : State → Nat → Nat → Nat → State × Option (Cause × Nat)) (per : Nat) :
    Nat → Nat → State × Option (Cause × Nat)
  | 0, _ => (s, none)
  | n + 1, i => match f s (i / (per * c.t.ny)) (i / per % c.t.ny) (i % per) with
    | (s, some e) => (s, some e)
    | (s, none) => s.copyLoop c f per n (i + 1)

/-- At most `k` further elements, or units, of a CPY (R326, R331); all of them when none is named. The operation ends with its last
element or with the first that fails. -/
def State.copySteps (s : State) (o : Op) (s2g : Bool) (colour : Fin 8) (slot : Fin 64) (r : Rm) (k : Option Nat) : State :=
  let t := copyTile o.bytes
  let c : CopyEnv := { o := o, t := t, s2g := s2g, colour := colour, sl := slotOf o.slot, f := (Ty.ofCode t.ctype).getD .b8, r := r
                       team := o.data.getD 1 0, q := o.data.getD 2 0, va := o.data.getD 0 0, obj := o.obj 4 }
  let per := if slot != 0 && s2g then t.nx / c.unit else t.nx
  let left := per * t.ny * t.nz - o.progress
  let n := (k.map (min left)).getD left
  let one := fun (s : State) (z y x : Nat) =>
    if slot == 0 then s.copyRaw c z y x else if s2g then s.copyEncode c z y x else s.copyDecode c z y x
  match s.copyLoop c one per n o.progress with
  | (s, some e) => s.engEnd o c.obj (some e)
  | (s, none) => if n == left then s.engEnd o c.obj none else s.modOp o.id fun x => { x with progress := x.progress + n }

/-- CPY at its completion (R326, R331). -/
def State.cpyDone (s : State) (o : Op) (s2g : Bool) (colour : Fin 8) (slot : Fin 64) (r : Rm) : State :=
  s.copySteps o s2g colour slot r none

/-- The copy engine of a glade starts its oldest operation (R332). -/
def execCopyOpStart (glade : Nat) (s : State) : Result :=
  .next (match s.ops.find? fun o => o.copying && gladeOf o.core == glade && !o.started with
    | none => s
    | some o => (s.modOp o.id fun x => { x with started := true }).later (.engineOpComplete o.id))

/-- R332: an earlier operation of the same thread whose scratchpad interval overlaps. -/
def State.copyBehind (s : State) (o : Op) : Bool :=
  s.ops.any fun p => p.copying && p.thread == o.thread && p.id < o.id && p.data.getD 1 0 == o.data.getD 1 0
    && p.data.getD 2 0 < o.data.getD 2 0 + o.data.getD 3 0 && o.data.getD 2 0 < p.data.getD 2 0 + p.data.getD 3 0

end Sys2Proof.Machine
end

