-- ==== Sys2Proof/Machine/Tree.lean ====
section
/-!
DEFINITION. The fetch unit (R333, R334), the tree-step unit with the trail (R335 to R338), and the log engine (R339 to
R341).
-/

namespace Sys2Proof.Machine

/-! ## FETCH -/

/-- A tensor descriptor (R333). -/
structure Tensor where
  bfmt : Nat
  etype : Nat
  hslot : Nat
  ncol : Nat
  nrow : Nat
  base : Nat
  pitch : Nat
  idx : Nat

/-- The fields of a tensor descriptor. -/
def tensor (b : List Byte) : Tensor :=
  { bfmt := field b 1 1, etype := field b 2 1, hslot := field b 3 1, ncol := field b 4 4, nrow := field b 8 4
    base := field b 16 8, pitch := field b 24 8, idx := field b 32 8 }

/-- R333: a valid tensor descriptor. -/
def tensorOk (b : List Byte) : Bool :=
  let t := tensor b
  let raw := [1, 2, 3, 5, 6, 7].contains t.etype || (0x0F ≤ t.etype && t.etype ≤ 0x17)
  let w := ((Ty.ofCode t.etype).map Ty.bits).getD 0
  field b 0 1 == 1 && t.bfmt ≤ 4 && t.hslot < 64 && field b 12 4 == 0 && allZero (slice b 40 24) && 0 < t.ncol && 0 < t.nrow
    && canonicalVa t.base && t.base % 64 == 0 && t.pitch % 8 == 0 && t.idx % 8 == 0
    && (t.bfmt == 1 || t.idx == 0) && (t.bfmt != 1 || t.pitch == 0)
    && (if t.bfmt == 4 then t.etype == 0x15 && t.hslot == 0 else raw && (t.bfmt == 0 || 8 ≤ w))

/-- R334 issue check 2. -/
def tensorSlotOk (t : Tensor) (sl : SlotD) : Bool :=
  t.bfmt == 4 || ((sl.fmt == 0 || sl.fmt == t.etype) && (t.etype != 0x15 || sl.fmt == 0x15) && (!sl.scaled || sl.fmt == t.etype))

/-- Reads a page piece whose page must have CMP as given (R334). -/
def State.cmpPiece (s : State) (tlb ctx : Nat) (priv want : Bool) (va n : Nat) : State × Except (Cause × Nat) (List Byte) :=
  match s.checkVa tlb ctx priv .read va 1 with
  | (s, .error f) => (s, .error f)
  | (s, .ok l) =>
    if l.cmp != want then (s, .error (.engineFault, va))
    else match s.dataError l.pa n with
      | some e => (s, .error (.memError, va + (e - l.pa)))
      | none => (s, .ok (s.homeRead l.pa n))

/-- Reads page pieces in turn, each with its CMP check. -/
def State.cmpPieces (s : State) (tlb ctx : Nat) (priv want : Bool) : List (Nat × Nat) → State × Except (Cause × Nat) (List Byte)
  | [] => (s, .ok [])
  | (va, n) :: r => match s.cmpPiece tlb ctx priv want va n with
    | (s, .error f) => (s, .error f)
    | (s, .ok b) => match s.cmpPieces tlb ctx priv want r with
      | (s, .error f) => (s, .error f)
      | (s, .ok c) => (s, .ok (b ++ c))

/-- What an element of a tensor is read with: the engine's TLB, its context and privilege, the descriptor and its slot. -/
structure FetchEnv where
  tlb : Nat
  ctx : Nat
  priv : Bool
  t : Tensor
  sl : SlotD

/-- The element type of a tensor. -/
def FetchEnv.ty (e : FetchEnv) : Ty := (Ty.ofCode e.t.etype).getD .b32
/-- Whether elements are floats: the float types and cb4, and any scaled code (R334, R97). -/
def FetchEnv.isFloat (e : FetchEnv) : Bool := (0x0F ≤ e.t.etype && e.t.etype ≤ 0x15) || (e.t.bfmt == 0 && e.sl.scaled)

/-- Bytes of a tensor at an address, whose pages have CMP for BFMT 1 to 4 (R334). -/
def State.fetchBytes (s : State) (e : FetchEnv) (va n : Nat) : State × Except (Cause × Nat) (List Byte) :=
  s.cmpPieces e.tlb e.ctx e.priv (e.t.bfmt != 0) (piecesOf (va % 2 ^ 64) n)

/-- The 32-bit result of one unscaled code (R334): a float as its f32 value, an integer extended by its type. -/
def fetchWord (ty : Ty) (sl : SlotD) (code : Nat) : Word := match ty with
  | .f32 => word code
  | .f16 | .bf16 | .e4m3 | .e5m2 | .e2m1 | .cb4 => word (decodeTo .f32 ty sl none code)
  | t => word ((tyInt t code) % 2 ^ 32).toNat

/-- A raw element (R333 BFMT 0). -/
def State.fetchRaw (s : State) (e : FetchEnv) (i j : Nat) : State × Except (Cause × Nat) Word :=
  let w := e.ty.bits
  let row := e.t.base + i * e.t.pitch
  let va := (row + j * w / 8) % 2 ^ 64
  match s.fetchBytes e va (max (w / 8) 1) with
  | (s, .error f) => (s, .error f)
  | (s, .ok b) =>
    let code := leNat b / 2 ^ (j * w % 8) % 2 ^ w
    if !e.sl.scaled then (s, .ok (fetchWord e.ty e.sl code))
    else
      let bit := row % 2 ^ 64 * 8 + j * w
      if bit < e.sl.ebase * 8 || (bit - e.sl.ebase * 8) % w != 0 then (s, .error (.reservedField, va))
      else match s.engScaleOf e.tlb e.ctx e.priv e.sl ((bit - e.sl.ebase * 8) / w : Nat) with
        | (s, .error f) => (s, .error f)
        | (s, .ok sc) => (s, .ok (word (decodeTo .f32 e.ty e.sl sc code)))

/-- A bitmap-sparse element (R333 BFMT 1): the offset, the bitmap, then the block's values. -/
def State.fetchBitmap (s : State) (e : FetchEnv) (i j : Nat) : State × Except (Cause × Nat) Word :=
  let slot := e.t.idx + 8 * (i * ((e.t.ncol + 63) / 64) + j / 64)
  match s.engRead e.tlb e.ctx e.priv (slot % 2 ^ 64) 8 with
  | (s, .error f) => (s, .error f)
  | (s, .ok o) =>
    let va := (e.t.base + leNat o) % 2 ^ 64
    if va % 8 != 0 then (s, .error (.alignment, va))
    else match s.fetchBytes e va 8 with
    | (s, .error f) => (s, .error f)
    | (s, .ok m) =>
      let bits := (upto 64).filter fun k => bitAt (leNat m) k
      let nb := e.ty.bits / 8
      match s.fetchBytes e (va + 8) (bits.length * nb) with
      | (s, .error f) => (s, .error f)
      | (s, .ok vs) =>
        if bits.contains (j % 64) then
          (s, .ok (fetchWord e.ty e.sl (field vs ((bits.filter (· < j % 64)).length * nb) nb)))
        else (s, .ok 0)

/-- An element of a structured block, every index of which is checked (R333 BFMT 2 and 3, R334). -/
def State.fetchStructured (s : State) (e : FetchEnv) (n i j : Nat) : State × Except (Cause × Nat) Word :=
  let nb := e.ty.bits / 8
  let size := 8 * n * nb + 4 * n
  let va := (e.t.base + i * e.t.pitch + j / 96 * size) % 2 ^ 64
  match s.fetchBytes e va size with
  | (s, .error f) => (s, .error f)
  | (s, .ok b) =>
    let q := j % 96 / 12
    let ix := leNat (slice b (8 * n * nb) (4 * n))
    let at_ := fun k => bitsAt ix (4 * k) 4
    let bad := (upto (8 * n)).any fun k => 11 < at_ k || (k % n != 0 && at_ k ≤ at_ (k - 1))
    if bad then (s, .error (.engineFault, va))
    else match (upto n).find? fun k => at_ (q * n + k) == j % 12 with
      | some k => (s, .ok (fetchWord e.ty e.sl (field b ((q * n + k) * nb) nb)))
      | none => (s, .ok 0)

/-- A codebook element (R333 BFMT 4). -/
def State.fetchCodebook (s : State) (e : FetchEnv) (i j : Nat) : State × Except (Cause × Nat) Word :=
  let va := (e.t.base + i * e.t.pitch + j / 64 * 64) % 2 ^ 64
  match s.fetchBytes e va 64 with
  | (s, .error f) => (s, .error f)
  | (s, .ok b) =>
    let code := bitsAt (leNat (slice b 32 32)) (4 * (j % 64)) 4
    (s, .ok (word (decodeTo .f32 .bf16 e.sl none (field b (2 * code) 2))))

/-- Element (i, j) of a tensor; 0 with no read when it lies outside (R333, R334). -/
def State.fetchElem (s : State) (e : FetchEnv) (i j : Nat) : State × Except (Cause × Nat) Word :=
  if e.t.nrow ≤ i || e.t.ncol ≤ j then (s, .ok 0)
  else match e.t.bfmt with
    | 0 => s.fetchRaw e i j
    | 1 => s.fetchBitmap e i j
    | 2 => s.fetchStructured e 4 i j
    | 3 => s.fetchStructured e 8 i j
    | _ => s.fetchCodebook e i j

/-- Elements (i, j) to (i, j + n - 1), up to the first fault. -/
def State.fetchRun (s : State) (e : FetchEnv) (i : Nat) : Nat → Nat → State × Except (Cause × Nat) (List Word)
  | 0, _ => (s, .ok [])
  | n + 1, j => match s.fetchElem e i j with
    | (s, .error f) => (s, .error f)
    | (s, .ok w) => match s.fetchRun e i n (j + 1) with
      | (s, .error f) => (s, .error f)
      | (s, .ok l) => (s, .ok (w :: l))

/-- FETCH (R334): the issue checks. -/
def execFetch (x : X) (lgn : Fin 4) (d a b : Opd) (hnd : BitVec 16) (s : State) : Result :=
  .next (s.issue (.fetch x lgn d a b hnd) x fun s th =>
    if s.flagFull th (th.flagOf x.sb) then (s, .stall (.flag (th.flagOf x.sb)))
    else match s.entry th hnd.toNat tensorOk with
    | (s, .error f) => (s, checkTrap f)
    | (s, .ok bytes) =>
      let t := tensor bytes
      if !tensorSlotOk t (slotOf (s.engSlotBits th .fetch t.hslot)) then (s, .trap .reservedField (s.entryVa th hnd.toNat))
      else s.engIssue th (.fetch x lgn d a b hnd) x [(s.rd32 th a).toNat, (s.rd32 th b).toNat] bytes (s.engSlotBits th .fetch t.hslot)
        .engineOpComplete)

/-- What an operation reads elements with. -/
def Op.fetchEnv (o : Op) (b : List Byte) : FetchEnv :=
  { tlb := engTlb o.core, ctx := o.ctx, priv := o.priv, t := tensor b, sl := slotOf o.slot }

/-- FETCH at its completion (R334). -/
def State.fetchDone (s : State) (o : Op) (n : Nat) (d : Opd) : State :=
  match s.fetchRun (o.fetchEnv o.bytes) (o.data.getD 0 0) n (o.data.getD 1 0) with
  | (s, .error (c, a)) => s.opDone { o with fault := some (c, dword a) }
  | (s, .ok ws) => s.opDone { o with writes := runWrites d ws }

/-! ## TSTEP and the trail -/

/-- A node-layout descriptor (R335). -/
structure Layout where
  rsz : Nat
  cmode : Nat
  child : Nat
  featPos : Nat
  featW : Nat
  thrPos : Nat
  thrW : Nat
  tfmt : Nat
  leafPos : Nat
  catPos : Nat
  defPos : Nat
  nidPos : Nat
  nidW : Nat
  lPos : Nat
  lW : Nat
  rPos : Nat
  rW : Nat
  valPos : Nat
  hfeat : Nat
  sealId : Nat
  tbase : Nat
  tlen : Nat

/-- The fields of a node-layout descriptor. -/
def layout (b : List Byte) : Layout :=
  { rsz := 2 ^ field b 1 1, cmode := field b 2 1, child := field b 3 1, featPos := field b 4 2, featW := field b 6 1
    thrPos := field b 8 2, thrW := field b 10 1, tfmt := field b 11 1, leafPos := field b 12 2, catPos := field b 14 2
    defPos := field b 16 2, nidPos := field b 18 2, nidW := field b 20 1, lPos := field b 22 2, lW := field b 24 1
    rPos := field b 26 2, rW := field b 28 1, valPos := field b 30 2, hfeat := field b 32 2, sealId := field b 36 4
    tbase := field b 40 8, tlen := field b 48 8 }

/-- R335: a valid node-layout descriptor. -/
def layoutOk (b : List Byte) : Bool :=
  let l := layout b
  let bits := 8 * l.rsz
  let inside := fun (pos w : Nat) => pos + w ≤ bits
  let tw := ((Ty.ofCode l.tfmt).map Ty.bits).getD 0
  field b 0 1 == 2 && 4 ≤ field b 1 1 && field b 1 1 ≤ 6 && l.cmode ≤ 1 && l.child ≤ 2
    && [7, 21, 25, 29].all (fun k => field b k 1 == 0) && field b 34 2 == 0 && allZero (slice b 56 8)
    && 1 ≤ l.featW && l.featW ≤ 32 && inside l.featPos l.featW
    && 1 ≤ l.thrW && l.thrW ≤ 64 && inside l.thrPos l.thrW
    && [0x03, 0x07, 0x0F, 0x10, 0x11].contains l.tfmt && (l.catPos != 0xFFFF || l.thrW == tw)
    && inside l.leafPos 1 && (l.catPos == 0xFFFF || inside l.catPos 1) && (l.defPos == 0xFFFF || inside l.defPos 1)
    && 1 ≤ l.nidW && l.nidW ≤ 32 && inside l.nidPos l.nidW
    && (if l.child == 1 then l.lW == 0 else 1 ≤ l.lW && l.lW ≤ 32 && inside l.lPos l.lW)
    && (if l.child == 2 then l.rW == 0 else 1 ≤ l.rW && l.rW ≤ 32 && inside l.rPos l.rW)
    && inside l.valPos 32 && canonicalVa l.tbase && l.tbase % l.rsz == 0 && l.tlen % l.rsz == 0

/-- Multiplication in GF(2^128) modulo x^128 + x^7 + x^2 + x + 1 (R336). -/
def gfMul (a b : Quad) : Quad :=
  (upto 128).foldl (fun (z : Quad) k =>
    let z' : Quad := z <<< 1
    let z' : Quad := if z.getLsbD 127 then z' ^^^ 0x87#128 else z'
    if b.getLsbD (127 - k) then z' ^^^ a else z') 0#128

/-- V of a trail fold (R336). -/
def trailV (nid depth br : Nat) : Quad := BitVec.ofNat 128 (nid % 2 ^ 32 * 2 ^ 32 + depth % 65536 * 65536 + br)

/-- What one tree step gives: the result, the leaf flag, the node id, the branch and the hash key. -/
structure TreeOut where
  d : Nat
  leaf : Bool
  nid : Nat
  br : Nat
  h : Quad

/-- The hash key of the record's region (R336); none when the frame is not sealed under the layout's identifier. -/
def State.treeKey (s : State) (l : Layout) (pa : Nat) : Option Quad :=
  if l.sealId == 0 then some 2#128
  else (s.seals.find? fun r => r.frames.contains (pa / 65536) && r.id % 2 ^ 32 == l.sealId).map SealRec.h

/-- The branch at an inner node whose feature is `x` (R337); none on a mismatch of types. `free` chooses where a numeric
node's threshold field is narrower or wider than its type, which R335 rules out and gives no result for. -/
def treeBranch (l : Layout) (rec : Nat) (isFloat sgn : Bool) (x : Word) (free : Bool) : Option Nat :=
  let thr := bitsAt rec l.thrPos l.thrW
  let xi : Int := intVal sgn 32 x.toNat
  let ty := (Ty.ofCode l.tfmt).getD .b32
  if l.catPos != 0xFFFF && bitAt rec l.catPos then
    if isFloat then none
    else some (if 0 ≤ xi && xi < l.thrW && bitAt thr xi.toNat then 0 else 1)
  else
    let tf := l.tfmt ≥ 0x0F
    if tf != isFloat then none
    else
      let xv : FVal := if isFloat then (ffmt .f32).decode x.toNat else .fin (xi < 0) xi.natAbs 0
      if xv.isNan then some (if l.defPos == 0xFFFF then 1 else if bitAt rec l.defPos then 1 else 0)
      else if l.thrW != ty.bits then some (if free then 0 else 1)
      else
        let ti := tyInt ty thr
        let tv : FVal := if tf then (ffmt ty).decode thr else .fin (ti < 0) ti.natAbs 0
        let left := !tv.isNan && (xv.lt tv || (l.cmode == 1 && xv.eq tv))
        some (if left then 0 else 1)

/-- The next node (R335 CHILD). -/
def treeNext (l : Layout) (rec node br : Nat) : Int :=
  let lo : Int := if l.child == 1 then 1 else intVal true l.lW (bitsAt rec l.lPos l.lW)
  let ro : Int := if l.child == 2 then lo + 1 else intVal true l.rW (bitsAt rec l.rPos l.rW)
  node + l.rsz * (if br == 0 then lo else ro)

/-- Whether a node lies in its region. -/
def Layout.holds (l : Layout) (a : Int) : Bool := (l.tbase : Int) ≤ a && a < l.tbase + l.tlen

/-- One tree step (R337). -/
def State.treeStep (s : State) (o : Op) : State × Except (Cause × Nat) TreeOut :=
  let l := layout o.bytes
  let node := o.data.getD 0 0
  match s.checkVa (engTlb o.core) o.ctx o.priv .read node l.rsz with
  | (s, .error f) => (s, .error f)
  | (s, .ok lf) => match s.dataError lf.pa l.rsz with
    | some e => (s, .error (.memError, node + (e - lf.pa)))
    | none =>
      let rec_ := s.homeNat lf.pa l.rsz
      match s.treeKey l lf.pa with
      | none => (s, .error (.engineFault, node))
      | some h =>
        let nid := bitsAt rec_ l.nidPos l.nidW
        if bitAt rec_ l.leafPos then (s, .ok ⟨bitsAt rec_ l.valPos 32, true, nid, 2, h⟩)
        else
          let e := o.fetchEnv (o.bytes.drop 64)
          match s.fetchElem e (o.data.getD 1 0) (bitsAt rec_ l.featPos l.featW) with
          | (s, .error f) => (s, .error f)
          | (s, .ok x) => match treeBranch l rec_ e.isFloat (e.ty.signed || e.ty == .i4 || e.ty == .i8) x
              (Config.freeBool s.freeCount) with
            | none => (s, .error (.engineFault, node))
            | some br =>
              let next := treeNext l rec_ node br
              if l.holds next then (s, .ok ⟨next.toNat, false, nid, br, h⟩)
              else (s, .error (.engineFault, (next % 2 ^ 64).toNat))

/-- TSTEP (R337): the issue checks. -/
def execTstep (x : X) (d : Opd) (pe : Fin 8) (a b c : Opd) (hnd : BitVec 16) (s : State) : Result :=
  .next (s.issue (.tstep x d pe a b c hnd) x fun s th =>
    if s.flagFull th (th.flagOf x.sb) then (s, .stall (.flag (th.flagOf x.sb)))
    else match s.entry th hnd.toNat layoutOk with
    | (s, .error f) => (s, checkTrap f)
    | (s, .ok lb) =>
      let l := layout lb
      match s.entry th l.hfeat tensorOk with
      | (s, .error f) => (s, checkTrap f)
      | (s, .ok tb) =>
        let t := tensor tb
        let node := (s.rd64 th a).toNat
        if !tensorSlotOk t (slotOf (s.engSlotBits th .tree t.hslot)) then (s, .trap .reservedField (s.entryVa th l.hfeat))
        else if !l.holds node || node % l.rsz != 0 then (s, .trap .engineFault (dword node))
        else s.engIssue th (.tstep x d pe a b c hnd) x [node, (s.rd32 th b).toNat, (s.rd32 th c).toNat] (lb ++ tb)
          (s.engSlotBits th .tree t.hslot) .engineOpComplete)

/-- A TSTEP of a thread that has not completed. -/
def Op.tstepOf (o : Op) (t : Nat) : Bool := match o.instr with
  | .tstep _ _ _ _ _ _ _ => o.thread == t
  | _ => false

/-- TSTEP at its completion (R337): nothing is written on a fault. -/
def State.tstepDone (s : State) (o : Op) (d : Opd) (pe : Fin 8) : State :=
  match s.treeStep o with
  | (s, .error (c, a)) => s.opDone { o with fault := some (c, dword a) }
  | (s, .ok r) =>
    s.opDoneWith { o with writes := runWrites d [loWord (dword r.d), hiWord (dword r.d)] } fun u =>
      { u.setPred pe r.leaf with trail := gfMul (u.trail ^^^ trailV r.nid (o.data.getD 2 0) r.br) r.h }

/-- Words of a quad, lowest first. -/
def quadWords (q : Quad) : List Word := (upto 4).map fun k => word (q.toNat / 2 ^ (32 * k))
/-- A quad of four words. -/
def quadOf (ws : List Word) : Quad := BitVec.ofNat 128 (leNat (wordsBytes ws))

/-- TRAIL first waits for the thread's TSTEPs (R338). -/
def State.trailOp (s : State) (th : Thread) (f : State → State) : State × Next :=
  if s.ops.any fun o => o.tstepOf th.id then (s, .stall .trail) else (f s, .next)

/-- TRAIL.rd (R338). -/
def execTrailRd (x : X) (d : Opd) (s : State) : Result :=
  .next (s.issue (.trailRd x d) x fun s th => s.trailOp th fun s => s.wrRun th.id d (quadWords th.trail))
/-- TRAIL.z (R338). -/
def execTrailZ (x : X) (s : State) : Result :=
  .next (s.issue (.trailZ x) x fun s th => s.trailOp th fun s => s.modTh th.id fun u => { u with trail := 0 })
/-- TRAIL.wr (R338). -/
def execTrailWr (x : X) (a : Opd) (s : State) : Result :=
  .next (s.issue (.trailWr x a) x fun s th =>
    s.trailOp th fun s => s.modTh th.id fun u => { u with trail := quadOf (s.opdWords th a 4) })

/-! ## The log (R339 to R341) -/

/-- A log. -/
def State.log? (s : State) (l : Nat) : Option LogRec := s.logs.find? fun x => x.id == l
/-- Updates one log. -/
def State.modLog (s : State) (l : Nat) (f : LogRec → LogRec) : State := { s with logs := updBy LogRec.id s.logs l f }
/-- R339: a log binding. -/
def bindingOk (b : List Byte) : Bool := field b 0 1 == 3 && allZero (slice b 1 3) && allZero (slice b 8 56)
/-- TLB of a die's log engine (log 7). -/
def logTlb (die : Nat) : Nat := 2048 + 12 * die

/-- TLOG (R340): the issue checks; the trail is sampled once the thread's TSTEPs have completed. -/
def execTlog (x : X) (ret : Bool) (d a b c : Opd) (hnd : BitVec 16) (s : State) : Result :=
  .next (s.issue (.tlog x ret d a b c hnd) x fun s th =>
    if s.flagFull th (th.flagOf x.sb) then (s, .stall (.flag (th.flagOf x.sb)))
    else match s.entry th hnd.toNat bindingOk with
    | (s, .error f) => (s, checkTrap f)
    | (s, .ok bind) => match s.entry th ((s.rd32 th b).toNat % 65536) layoutOk with
      | (s, .error f) => (s, checkTrap f)
      | (s, .ok lb) =>
        let bad : State × Next := (s, .trap .reservedField (s.entryVa th hnd.toNat))
        match s.log? (field bind 4 4) with
        | none => bad
        | some l =>
          if !l.opened || l.owner != (s.team th.team).ctx then bad
          else if s.ops.any fun o => o.tstepOf th.id then (s, .stall .trail)
          else
            let head := leBytes 4 (s.rd32 th a).toNat ++ slice lb 36 4 ++ leBytes 16 th.trail.toNat ++ leBytes 8 th.tid.toNat
              ++ leBytes 8 (s.team th.team).number.toNat
            let id := s.nextId
            let (s, n) := s.engIssue th (.tlog x ret d a b c hnd) x [l.id, (s.rd32 th c).toNat] head plainSlot
              fun _ => .logRecordWrite l.die
            ({ s with logQueue := s.logQueue ++ [id] }, n))

/-- The TLOG that a die's log engine takes next (R340). -/
def State.nextLog (s : State) (die : Nat) : Option (Op × LogRec) :=
  s.logQueue.findSome? fun k => match s.op? k with
    | none => none
    | some o => match s.log? (o.data.getD 0 0) with
      | some l => if l.die == die && !(s.ctx o.ctx).frozen then some (o, l) else none
      | none => none

/-- The log engine of a die takes its next TLOG, gives it the next AP and writes its record (R340). -/
def execLogRecordWrite (die : Nat) (s : State) : Result :=
  .next (match s.nextLog die with
    | none => s
    | some (o, l) =>
      let s := { s with logQueue := s.logQueue.filter (· != o.id) }
      let va := l.lbase.toNat + l.ap
      if !l.opened || l.nseg * 2 ^ 20 ≤ l.ap then s.opDone { o with fault := some (.engineFault, dword va) }
      else
        let no := l.ap / 64
        let rec_ := o.bytes ++ leBytes 8 no ++ leBytes 4 (o.data.getD 1 0) ++ List.replicate 12 0#8
        match s.engWrite (logTlb die) l.owner true .append va rec_ with
        | (s, .error (c, a)) => s.opDone { o with fault := some (c, dword a) }
        | (s, .ok _) =>
          let s := s.checkedWrite o.team (tagG va) (some 0)
          let s := s.modLog l.id fun x => { x with ap := x.ap + 64 }
          let s := if (l.ap + 64) % 2 ^ 20 == 0 then s.later (.logSegmentClose l.id) else s
          let ws := match o.instr with
            | .tlog _ true d _ _ _ _ => runWrites d [loWord (dword no), hiWord (dword no)]
            | _ => []
          s.opDone { o with writes := ws })

/-- Closes and signs a log's next segment (R341). -/
def State.signSegment (s : State) (l : LogRec) : State × Except (Cause × Nat) Unit :=
  match s.engRead (logTlb l.die) l.owner true ((l.lbase.toNat + l.segs * 2 ^ 20) % 2 ^ 64) (2 ^ 20) with
  | (s, .error f) => (s, .error f)
  | (s, .ok bs) =>
    let chain := shake256 (leBytes 64 l.chain.toNat ++ shake256 bs 64) 64
    let sig := Config.ed448Sign (ascii "NQ7-LOGSEG" ++ leBytes 4 l.id ++ leBytes 4 l.segs ++ chain)
    let rec_ := leBytes 4 l.id ++ leBytes 4 l.segs ++ chain ++ leBytes 114 sig.toNat ++ List.replicate 70 0#8
    let s := s.modLog l.id fun x => { x with chain := BitVec.ofNat 512 (leNat chain), segs := x.segs + 1 }
    match s.engWrite (logTlb l.die) l.owner true .append ((l.sigbase.toNat + 256 * l.segs) % 2 ^ 64) rec_ with
    | (s, .error f) => (s.sealStop l.owner f, .error f)
    | (s, .ok _) => (s, .ok ())

/-- A full segment closes and is signed (R341). -/
def execLogSegmentClose (log : Nat) (s : State) : Result :=
  .next (match s.log? log with
    | none => s
    | some l => if (l.segs + 1) * 2 ^ 20 ≤ l.ap then (s.signSegment l).1 else s)

end Sys2Proof.Machine
end

