-- ==== Sys2Proof/Machine/Image.lean ====
section
/-!
DEFINITION. The save area and its images (R404 to R411), and the free ranges of a core's scratchpad (R153).
-/

namespace Sys2Proof.Machine

/-! ## The save area -/


/-- The directory of R405: entry 0 holds the number of images, the entries after it one image each. -/
def dirBytes (l : List SaveImg) : List Byte :=
  leBytes 4 l.length ++ List.replicate 12 0#8
    ++ l.flatMap fun i => leBytes 8 i.off ++ leBytes 4 i.len ++ leBytes 1 i.kind ++ List.replicate 3 0#8

/-- Writes a context's directory, with the entry after its last one cleared (R405). -/
def State.writeDir (s : State) (ctx : Nat) : State :=
  let c := s.ctx ctx
  if c.saveBase == 0 then s
  else s.saveWrite c 0 (dirBytes c.images ++ (if c.images.length < 4095 then List.replicate 16 0#8 else []))

/-- Frees images, and their directory entries (R412); a park that found no room may be tried again (R156). -/
def State.dropImages (s : State) (ctx : Nat) (p : SaveImg → Bool) : State :=
  let some_ := (s.ctx ctx).images.any p
  let s := (s.modCtx ctx fun c => { c with images := c.images.filter fun i => !p i }).writeDir ctx
  if some_ then s.areaFreed ctx else s

/-- The tag of an image (R410). -/
def State.imageTag (s : State) (img : List Byte) : List Byte :=
  shake256 (leBytes 32 (Config.saveKey s.boot).toNat ++ ascii "NQ7-SAVE" ++ img) 16

/-- Stores an image with its tag in both copies and enters it in the directory; the Boolean tells whether it found room
(R404, R405, R410). -/
def State.storeImage (s : State) (ctx kind reason team group : Nat) (img : List Byte) : State × Bool :=
  let c := s.ctx ctx
  let len := img.length + 64
  if c.saveBase == 0 || 4095 ≤ c.images.length then (s, false)
  else match s.areaRange ctx len with
    | none => (s, false)
    | some off =>
      let s := s.saveWrite c off (img ++ s.imageTag img ++ List.replicate 48 0#8)
      ((s.modCtx ctx fun c => { c with images := c.images ++ [⟨off, len, kind, reason, team, group⟩] }).writeDir ctx, true)

/-- R411: whether a copy of an image is usable. -/
def State.copyUsable (s : State) (ctx : Nat) (i : SaveImg) (base : Nat) : Bool :=
  match s.dataError (base + i.off) i.len with
  | some _ => false
  | none =>
    let b := s.homeRead (base + i.off) i.len
    let img := b.take (i.len - 64)
    b.take 4 == [0x4E#8, 0x51#8, 0x37#8, 0x53#8] && field b 4 2 == 1 && field b 6 1 == i.kind && field b 8 4 == ctx
      && slice b (i.len - 64) 16 == s.imageTag img

/-- The check of one image (R411): copy A, else copy B with an error record of kind 3, else none. -/
def State.imageUsable (s : State) (ctx : Nat) (i : SaveImg) : State × Bool :=
  let a := s.saveA (s.ctx ctx)
  if s.copyUsable ctx i a then (s, true)
  else if s.copyUsable ctx i (a + copyB) then
    (s.ctxError ctx 3 0 i.off (s.team i.team).number (s.homeNat (a + copyB + i.off + 40) 8), true)
  else (s, false)

/-! ## Image parts -/

/-- Pads bytes with zeros to a multiple of `n`. -/
def padTo (n : Nat) (b : List Byte) : List Byte := b ++ List.replicate ((n - b.length % n) % n) 0#8

/-- The header of R406. -/
def State.imageHdr (s : State) (t : Team) (kind reason len ckind b31 w32 w36 : Nat) : List Byte :=
  [0x4E#8, 0x51#8, 0x37#8, 0x53#8] ++ leBytes 2 1 ++ leBytes 1 kind ++ leBytes 1 reason ++ leBytes 4 t.ctx ++ leBytes 4 len
    ++ leBytes 8 t.number.toNat ++ leBytes 4 (s.cluster t.cluster).hclu ++ leBytes 2 t.hteam ++ leBytes 1 ckind
    ++ leBytes 1 b31 ++ leBytes 4 w32 ++ leBytes 4 w36 ++ leBytes 8 s.imageSeq ++ List.replicate 16 0#8

/-- A fault record (R408). -/
def faultBytes (f : FaultRec) : List Byte :=
  let cause : PendTrap := { cause := f.cause, addr := f.addr, pcn := f.pc, res := false, defer := true, flag := f.flag
                            dreg := f.dreg, dcnt := f.dcnt, replay := if f.replay then some f else none, stamp := 0 }
  leBytes 4 cause.word.toNat ++ leBytes 4 0 ++ leBytes 8 f.addr.toNat ++ leBytes 16 f.word.toNat ++ leBytes 8 f.pc.toNat
    ++ List.replicate 24 0#8 ++ padLen 64 (wordsBytes (f.src.take 16))

/-- The flag counts, 6 bits each (R408). -/
def flagBytes (th : Thread) : List Byte :=
  leBytes 9 ((upto 12).foldl (fun a k => a + th.flags.getD k 0 % 64 * 2 ^ (6 * k)) 0)

/-- A thread record (R408); a parked thread resumes at its PC, a saved one at the registers of its 0x50. -/
def State.threadRec (s : State) (th : Thread) : List Byte :=
  let (eqp, pcx) := s.eqpRegs th
  let inH := th.handler.isSome
  let pcn := if inH then th.trapPcn else th.pc
  let pcx' := if inH then th.trapPcx else pcx
  let eqp' := if inH then th.trapEqp else eqp
  let held := match th.pend with
    | some p => leBytes 4 p.word.toNat ++ leBytes 4 eqp.toNat ++ leBytes 8 p.addr.toNat ++ leBytes 8 p.pcn.toNat ++ leBytes 8 pcx.toNat
    | none => List.replicate 32 0#8
  let tail := (th.hidden.reverse.flatMap entryBytes) ++ th.faults.flatMap faultBytes
  let len := (640 + tail.length + 63) / 64
  padTo 64 (leBytes 8 th.tid.toNat ++ leBytes 8 pcn.toNat ++ leBytes 8 pcx'.toNat ++ leBytes 4 eqp'.toNat ++ leBytes 1 th.rank
    ++ leBytes 1 th.preds.toNat ++ leBytes 2 len ++ leBytes 16 th.trail.toNat ++ leBytes 4 th.fstat.toNat
    ++ leBytes 4 th.fmode.toNat ++ leBytes 4 th.fseed.toNat ++ leBytes 4 th.spillLimit.toNat ++ leBytes 8 th.spillBase.toNat
    ++ leBytes 4 th.spillPtr.toNat ++ leBytes 4 (th.depth % 2 ^ 24) ++ flagBytes th ++ List.replicate 3 0#8
    ++ leBytes 4 ((if th.pend.isSome then 1 else 0) + th.faults.length % 256 * 256) ++ held ++ wordsBytes th.regs.toList ++ tail)

/-- The captured operands of one rank in an open signature (R407). -/
def captureBytes (c : Option Capture) : List Byte := match c with
  | none => List.replicate 160 0#8
  | some c => padLen 160 (padLen 32 (wordsBytes c.a) ++ padLen 96 (wordsBytes c.b) ++ padLen 16 (wordsBytes c.md)
      ++ padLen 8 (wordsBytes c.scale))

/-- Role codes of R406. -/
def roleCode : Role → Nat
  | .none => 0 | .load => 1 | .matrix => 2 | .vector => 3

/-- The migration target of R407. -/
def targetCode : Option MigTarget → Nat
  | none => 0
  | some ⟨.bramble, true⟩ => 1
  | some ⟨.larch, true⟩ => 2
  | some ⟨_, false⟩ => 3

/-- The parts of a group image before its trailer (R407); a park image holds no tile (R156). -/
def State.groupParts (s : State) (gr : Group) (parked : Bool) (live : List Thread) : List Byte :=
  let g := if parked then { gr with tiles := [] } else gr
  let regs := g.g.toList.flatMap fun c => leBytes 8 c.pc.toNat ++ leBytes 4 c.signed.toNat ++ leBytes 4 c.present.toNat
  let mask := g.tiles.foldl (fun m t => m + 2 ^ t.1) 0
  let state := padLen 256 (wordsBytes g.j.toList ++ regs ++ leBytes 8 mask ++ leBytes 1 (targetCode g.target))
  let tiles := (sortKey g.tiles).flatMap fun t => (Sparse.readN t.2 0 1024).flatMap fun w => leBytes 4 w.toNat
  let open_ := (g.g.toList.filter fun c => c.signed != 0).flatMap fun c =>
    (upto 32).flatMap fun r => captureBytes (c.caps.find? fun k => k.rank == r)
  state ++ tiles ++ open_ ++ (sortKey (live.map fun u => (u.rank, u))).flatMap fun p => s.threadRec p.2

/-- Writes a group's image (R402 step 4, R156); the Boolean tells whether it found room. -/
def State.saveGroup (s : State) (g : Nat) (reason : Nat) : State × Bool :=
  let gr := s.group g
  match s.liveOf g with
  | [] => (s, true)
  | u :: r =>
    let t := s.team u.team
    let parts := s.groupParts gr (reason == 2) (u :: r)
    let img := s.imageHdr t 2 reason (128 + parts.length) (kindNum (kindOf gr.core)) (r.length + 1) gr.grp (roleCode gr.role) ++ parts
    let s := { s with imageSeq := s.imageSeq + 1 }
    s.storeImage t.ctx 2 reason t.id g img

/-- A merge register in a team image (R409). -/
def mergeBytes (r : MergeReg) : List Byte :=
  let key := fun (l : Option Word) => leBytes 4 (l.getD 0).toNat ++ leBytes 1 (if l.isSome then 1 else 0)
  padLen 64 (match r with
    | .closed => []
    | .array a n c last b =>
      leBytes 1 (if b.isSome then 3 else 1) ++ leBytes 1 0 ++ leBytes 1 (match b with
        | some m => m.val
        | none => 0) ++ leBytes 5 0 ++ leBytes 8 a.toNat ++ leBytes 8 n ++ leBytes 8 c ++ key last
    | .stream op a b ty last bound =>
      leBytes 1 (if bound.isSome then 3 else 2) ++ leBytes 1 op.val ++ leBytes 1 (match bound with
        | some m => m.val
        | none => a.val) ++ leBytes 1 b.val ++ leBytes 1 ty.code ++ leBytes 3 0 ++ leBytes 24 0 ++ key last)


/-- Beads of a team. -/
def State.teamBeads (s : State) (t : Nat) : List Bead := s.beads.filter fun b => (s.th b.thread).team == t

/-- A saved team's beads lie in its image alone (R409). -/
def State.unspill (s : State) (t : Nat) : State :=
  if (s.teamBeads t).all fun b => b.spill.isNone then s
  else
    let s : State := { s with beads := s.beads.map fun (b : Bead) => if (s.th b.thread).team == t then { b with spill := none } else b }
    s.areaFreed (s.team t).ctx

/-- WCNT and SGRP of a team's objects are 0 in its image (R409). -/
def State.clearWaits (s : State) (t : Nat) : State :=
  (s.team t).objs.foldl (fun s o => (s.objSet t o oWCNT 0).objSet t o oSGRP 0) s

/-- Writes a team's image (R409); the Boolean tells whether it found room. -/
def State.saveTeam (s : State) (t : Nat) : State × Bool :=
  let s := s.clearWaits t
  let m := s.team t
  let beads := s.teamBeads t
  let regs := padLen 64 (leBytes 4 m.specCtl.toNat ++ leBytes 4 m.specCommit.toNat ++ leBytes 4 m.specRollback.toNat
    ++ leBytes 4 beads.length)
  let parts := regs ++ m.merge.flatMap mergeBytes ++ s.spadRead t 0 (m.spadK * 1024) ++ beads.flatMap s.beadBytes
  let img := s.imageHdr m 1 1 (128 + parts.length) (kindNum (kindOf m.home)) 0 m.spadK m.specS ++ parts
  let s := { s with imageSeq := s.imageSeq + 1 }
  let (s, ok) := s.storeImage m.ctx 1 1 t 0 img
  if ok then (s.unspill t, true) else (s, false)

/-! ## Scratchpad ranges and non-resident entries (R153) -/

/-- Scratchpad of a core kind in KiB. -/
def spadCap : CoreKind → Nat
  | .bramble => 768
  | .larch => 256

/-- Whether a team holds its scratchpad range. -/
def Team.holds (t : Team) : Bool := t.state != .saved && t.state != .ended
/-- Whether a team holds one of its core's non-resident entries (R153); one whose park image is being written has its entry. -/
def Team.nonResident (t : Team) : Bool :=
  t.state == .waiting || t.state == .parked || t.state == .readyParked || t.state == .parking || t.state == .parkingReady

/-- The lowest free range of `k` KiB in a core's scratchpad. -/
def State.spadRange (s : State) (core k : Nat) : Option Nat :=
  let used := (s.teams.filter fun t => t.home == core && t.holds).map fun t => (t.base, t.spadK)
  lowestFree 1 used k (spadCap (kindOf core)) (used.length + 1) 0

/-- Non-resident entries in use on a core. -/
def State.entriesUsed (s : State) (core : Nat) : Nat :=
  (s.teams.filter fun t => t.home == core && t.nonResident).length

end Sys2Proof.Machine
end

