-- ==== Sys2Proof/Machine/Items.lean ====
section
/-!
DEFINITION. Host intake (R435 to R439, R464): the window of a queue, its log, the order in which items are performed and
reported, and the report acknowledgement.
-/

namespace Sys2Proof

open Machine

/-- The header of an intake message. -/
def Instr.hdr : Instr → Option Hdr
  | .createContext h _ | .writeContextDescriptor h _ | .destroyContext h | .loadCodeObject h _ _ | .launch h _ _ _ _ _
  | .seedTask h _ _ | .writeMemoryVirtual h _ _ | .writeMemoryPhysical h _ _ | .readMemory h _ _ | .invalidate h _ _
  | .seal h _ _ | .createLog h _ _ _ | .closeLog h _ | .bindStream h _ | .unbindStream h _ | .streamCursor h _ _
  | .streamFrame h _ _ _ _ _ | .preempt h | .resume h | .query h _ _ | .reportAcknowledgement h _ _ | .transfer h _ _ _ _ _
  | .reservedIntakeType h _ => some h
  | _ => none

/-- Whether a message is an item (R435): a report acknowledgement is none. -/
def Instr.isItem : Instr → Bool
  | .reportAcknowledgement _ _ _ => false
  | _ => true

/-- Whether an item draws a number from the launch counter (R435, R357). -/
def Instr.drawsNumber : Instr → Bool
  | .launch _ _ _ _ _ _ | .seedTask _ _ _ | .bindStream _ _ => true
  | _ => false

end Sys2Proof

namespace Sys2Proof.Machine

/-- A queue of a session; its expected number starts at 1 (R438). -/
def State.intakeQ (s : State) (sess q : Nat) : IntakeQ :=
  (s.intake.find? fun x => x.session == sess && x.queue == q).getD
    { session := sess, queue := q, expected := 1, heldMsgs := [], log := [] }

/-- Stores a queue. -/
def State.setIntakeQ (s : State) (k : IntakeQ) : State :=
  { s with intake := s.intake.filter (fun x => !(x.session == k.session && x.queue == k.queue)) ++ [k] }

/-- The log entry of an item. -/
def State.itemRec (s : State) (h : Hdr) : Option ItemRec := (s.intakeQ h.session h.queue).log.find? fun r => r.seq == h.seq

/-- Updates an item's log entry. -/
def State.modItem (s : State) (sess q seq : Nat) (f : ItemRec → ItemRec) : State :=
  if s.intake.any fun x => x.session == sess && x.queue == q then
    s.setIntakeQ (let k := s.intakeQ sess q; { k with log := k.log.map fun r => if r.seq == seq then f r else r })
  else s

/-- The number that an item drew (R435). -/
def State.itemNumber (s : State) (h : Hdr) : DWord := ((s.itemRec h).bind ItemRec.number).getD 0

/-- Body of the ACK of a log entry (R437). -/
def State.ackBody (s : State) (n : Option DWord) : List Byte :=
  leBytes 8 s.boot ++ (match n with
    | some d => leBytes 8 d.toNat
    | none => [])

/-- Whether a code is a report: state and cause, then the result (R437). -/
def reportBody (r : ItemRec) : List Byte :=
  leBytes 1 (if r.cause == 0 then 1 else 2) ++ leBytes 1 r.cause ++ leBytes 6 0 ++ r.result

/-- The entries that may be reported now (R439): those whose earlier entries have all been reported. -/
def reportsDue : List ItemRec → List ItemRec
  | [] => []
  | r :: l => match r.state with
    | .reported | .acknowledged => reportsDue l
    | .terminal => r :: reportsDue l
    | _ => []

/-- Sends an item's report, which is sent again a millisecond later unless the host acknowledges it (R439). -/
def State.sendReport (s : State) (sess q : Nat) (r : ItemRec) : State :=
  ((s.toHost sess q 0x83 r.seq (reportBody r)).modItem sess q r.seq fun x =>
    { x with state := .reported, sentAt := s.cycle }).after Config.cyclesPerMs (.reportResend sess q)

/-- Sends the reports of a queue that are due, in order (R439). -/
def State.sendReports (s : State) (sess q : Nat) : State :=
  (reportsDue (s.intakeQ sess q).log).foldl (fun s r => s.sendReport sess q r) s

/-- The item that a queue performs next: the first that has not started, when every earlier one has completed or runs on
(R439). -/
def nextItem : List ItemRec → Option ItemRec
  | [] => none
  | r :: l => match r.state with
    | .accepted => some r
    | .ready | .started => none
    | _ => nextItem l

/-- The next item of a queue becomes ready to be performed (R439). -/
def State.pump (s : State) (sess q : Nat) : State :=
  match nextItem (s.intakeQ sess q).log with
  | some r => (s.modItem sess q r.seq fun x => { x with state := .ready }).later r.instr
  | none => s

/-- An item reaches its terminal state: completed with cause 0, or failed (R436, R441). -/
def State.itemEnd (s : State) (sess q seq cause : Nat) (result : List Byte) : State :=
  let open_ : Bool := match s.itemRec ⟨sess, q, seq, 0⟩ with
    | some r => r.state != .terminal && r.state != .reported && r.state != .acknowledged
    | none => false
  if !open_ then s
  else ((s.modItem sess q seq fun x => { x with state := .terminal, cause := cause, result := result }).sendReports sess q).pump
    sess q

/-- The end of the item with a header. -/
def State.itemDone (s : State) (h : Hdr) (cause : Nat) (result : List Byte) : State :=
  s.itemEnd h.session h.queue h.seq cause result

/-- A launch or a seed has started and runs on; the next item follows (R439). -/
def State.itemRuns (s : State) (h : Hdr) : State :=
  (s.modItem h.session h.queue h.seq fun x => { x with state := .running }).pump h.session h.queue

/-- Log entries that are in use: an acknowledged one is free (R438). It is kept so that a duplicate of its item is answered. -/
def IntakeQ.used (k : IntakeQ) : Nat := (k.log.filter fun r => r.state != .acknowledged).length

/-- Report acknowledgement (R435, R438): the item's log entry is freed. -/
def State.ackReport (s : State) (sess q seq : Nat) : State :=
  s.modItem sess q seq fun r => if r.state == .reported then { r with state := .acknowledged } else r

/-- A message equal to its queue's expected number (R438). The Boolean tells whether it was taken. -/
def State.takeMsg (s : State) (h : Hdr) (i : Instr) : State × Bool :=
  let k := s.intakeQ h.session h.queue
  if i.isItem && 4096 ≤ k.used then (s.toHost h.session h.queue 0x81 h.seq [], false)
  else
    let number := if i.drawsNumber then some (dword (s.launchCounter + 1)) else none
    let s := if i.drawsNumber then { s with launchCounter := s.launchCounter + 1 } else s
    let log := k.log.filter fun r => r.state != .acknowledged || h.seq < r.seq + 4096
    let log := if i.isItem then log ++ [⟨h.seq, i, .accepted, 0, [], number, 0⟩] else log
    let s := s.setIntakeQ { k with expected := k.expected + 1, log := log }
    let s := s.toHost h.session h.queue 0x80 h.seq (s.ackBody number)
    (match i with
      | .reportAcknowledgement _ seq queue => s.ackReport h.session queue seq
      | _ => s, true)

/-- Takes the held messages that now follow in order (R438). -/
def State.takeHeld (s : State) (sess q : Nat) : Nat → State
  | 0 => s
  | n + 1 =>
    let k := s.intakeQ sess q
    match k.heldMsgs.find? fun i => (i.hdr.map Hdr.seq) == some k.expected with
    | none => s
    | some i => match i.hdr with
      | none => s
      | some h =>
        match (s.setIntakeQ { k with heldMsgs := k.heldMsgs.erase i }).takeMsg h i with
        | (s, true) => s.takeHeld sess q n
        | (s, false) => s

/-- The FREEZE message of a session (R464). -/
def State.sessionFreeze (s : State) (x : Session) (queue seq : Nat) : State :=
  s.toHost x.id queue 0x85 seq (leBytes 1 2 ++ leBytes 1 0x12 ++ leBytes 2 0 ++ leBytes 4 x.id ++ leBytes 8 x.frozenAt.toNat)

/-- A message that passed R435 arrives (R438, R248). -/
def State.arriveMsg (s : State) (h : Hdr) (i : Instr) : State :=
  match s.sessions.find? fun x => x.id == h.session with
  | none => s
  | some x =>
    if x.frozen then s.sessionFreeze x h.queue h.seq
    else if 64 ≤ h.queue then s
    else
      let k := s.intakeQ h.session h.queue
      let e := k.expected
      if h.seq == e then
        let (s, took) := s.takeMsg h i
        if took then (s.takeHeld h.session h.queue 64).pump h.session h.queue else s
      else if e < h.seq && h.seq ≤ e + 63 then
        if k.heldMsgs.any fun j => (j.hdr.map Hdr.seq) == some h.seq then s
        else s.setIntakeQ { k with heldMsgs := k.heldMsgs ++ [i] }
      else if h.seq < e && e ≤ h.seq + 4096 then
        s.toHost h.session h.queue 0x80 h.seq (s.ackBody ((s.itemRec h).bind ItemRec.number))
      else s.toHost h.session h.queue 0x82 h.seq (leBytes 8 e)

/-- An item that stands ready in its queue's log is performed: `f` is what it does. -/
def State.perform (s : State) (h : Hdr) (i : Instr) (f : State → State) : State :=
  match s.itemRec h with
  | some r =>
    if r.state == .ready && r.instr == i then
      f ({ s with agenda := s.agenda.erase i }.modItem h.session h.queue h.seq fun x => { x with state := .started })
    else s
  | none => s

/-- One intake item (R438, R439): it is performed when it stands ready; otherwise this is the arrival of its message, and
it is performed at once when its queue has nothing before it. -/
def State.item (s : State) (h : Hdr) (i : Instr) (f : State → State) : State :=
  let ready : Bool := match s.itemRec h with
    | some r => r.state == .ready && r.instr == i
    | none => false
  if ready then s.perform h i f else (s.arriveMsg h i).perform h i f

/-- An item of a context: without the context it fails with report code 0x84 (R436). -/
def State.ctxItem (s : State) (h : Hdr) (i : Instr) (f : State → Context → State) : State :=
  s.item h i fun s => match s.ctx? h.ctx with
    | none => s.itemDone h 0x84 (if i matches .launch _ _ _ _ _ _ then leBytes 8 (s.itemNumber h).toNat else [])
    | some c => f s c

/-- Report acknowledgement (R435, R438). -/
def execReportAcknowledgement (h : Hdr) (seq queue : Nat) (s : State) : Result :=
  .next (s.arriveMsg h (.reportAcknowledgement h seq queue))

/-- A reserved type, or a body that breaks its layout: an item that fails with report code 0x80 (R435 to R437). -/
def execReservedIntakeType (h : Hdr) (type : Nat) (s : State) : Result :=
  .next (s.item h (.reservedIntakeType h type) fun s => s.itemDone h 0x80 [])

/-- The unacknowledged reports of a queue that were last sent a millisecond ago or earlier are sent again, in order (R439). -/
def execReportResend (session queue : Nat) (s : State) : Result :=
  .next (((s.intakeQ session queue).log.filter fun r =>
    r.state == .reported && r.sentAt + Config.cyclesPerMs ≤ s.nowCycle).foldl (fun s r => s.sendReport session queue r) s)

end Sys2Proof.Machine
end

