-- ==== Sys2Proof/Machine/Sched.lean ====
section
/-!
DEFINITION. Launch geometry and its refusals (R147, R148), the search for a cluster's place (R151, R153), the teams,
groups and threads of an admitted cluster (R149, R295), and the start of a team's threads (R150).
-/

namespace Sys2Proof.Machine

/-- The fields of a launch geometry (R147). -/
structure Geom where
  cx : Nat
  cy : Nat
  cz : Nat
  nt : Nat
  cw : Nat
  ch : Nat
  nthr : Nat
  kind : Nat
  prio : Nat
  reo : Bool
  fuse : Bool
  glade : Nat

/-- The fields of a launch geometry (R147). -/
def geomOf (b : List Byte) : Geom :=
  { cx := field b 0 2, cy := field b 2 2, cz := field b 4 2, nt := field b 6 1, cw := bitsAt (field b 7 1) 0 2 + 1
    ch := bitsAt (field b 7 1) 4 2 + 1, nthr := field b 8 2, kind := field b 10 1, prio := bitsAt (field b 11 1) 0 3
    reo := bitAt (field b 11 1) 3, fuse := bitAt (field b 11 1) 4, glade := field b 12 1 }

/-- Reserved values and zero fields of a launch geometry (R147). -/
def geomFields (b : List Byte) : Bool :=
  let g := geomOf b
  1 ≤ g.cx && 1 ≤ g.cy && 1 ≤ g.cz && 1 ≤ g.nt && g.nt ≤ 12 && g.ch ≤ 3 && field b 7 1 &&& 0xCC == 0 && g.kind ≤ 2
    && field b 11 1 < 32 && (g.glade < 96 || g.glade == 255) && allZero (slice b 13 3)

/-- Clusters of a grid. -/
def Geom.count (g : Geom) : Nat := g.cx * g.cy * g.cz
/-- Whether KIND admits a core kind (R147, R348). -/
def kindAdmits (kind : Nat) (k : CoreKind) : Bool := kind == 0 || kind == kindNum k + 1
/-- Largest budget B of a core kind (R37). -/
def budgetMax : CoreKind → Nat
  | .bramble => 1024
  | .larch => 2048
/-- Whether a team of a declaration fits on an empty core of a kind (R148). -/
def TeamDecl.fits (d : TeamDecl) (k : CoreKind) : Bool :=
  d.tsize ≤ threadCap k && 128 ≤ d.regsB && d.regsB ≤ budgetMax k && d.tsize / 32 ≤ posCap k
    && d.tsize * d.regsB * 4 ≤ poolCap k && d.spadK ≤ spadCap k
/-- The core kinds allowed for a launch (R148). -/
def Geom.kinds (g : Geom) (d : TeamDecl) : List CoreKind :=
  [CoreKind.bramble, .larch].filter fun k => kindAdmits g.kind k && d.fits k

/-- The rectangles of a glade as lists of glade-local core indices, by origin in row-major order (R151). -/
def rectangles (cw ch : Nat) : List (List Nat) :=
  (upto (4 - ch)).flatMap fun r => (upto (5 - cw)).map fun c =>
    (upto ch).flatMap fun y => (upto cw).map fun x => 4 * (r + y) + c + x

/-- R148: whether some rectangle of a glade holds NT cores of an allowed kind. -/
def Geom.placeable (g : Geom) (ks : List CoreKind) : Bool :=
  g.nt ≤ g.cw * g.ch && (rectangles g.cw g.ch).any fun r => g.nt ≤ (r.filter fun c => ks.contains (kindOf c)).length

/-- R148: the spill area is aligned and canonical. -/
def spillAreaOk (g : Geom) (d : TeamDecl) (sb : Nat) : Bool :=
  d.spillP == 0 || (sb % 64 == 0 && canonicalVa sb &&
    (let last := sb + g.count * g.nt * d.tsize * d.spillP - 1
     last < 2 ^ 64 && canonicalVa last && (sb < 2 ^ 63) == (last < 2 ^ 63)))

/-- R148: whether a launch is accepted. -/
def launchOk (kernel : Bool) (d : TeamDecl) (b : List Byte) (sb : Nat) : Bool :=
  let g := geomOf b
  kernel && geomFields b && g.placeable (g.kinds d) && 1 ≤ g.nthr && g.nthr ≤ d.tsize && !(g.reo && d.hasRoles)
    && g.count < 2 ^ 32 && spillAreaOk g d sb

/-! ## Placing a cluster (R151, R153) -/

/-- Whether a core can admit a team of K KiB (R153, R441). -/
def State.admits (s : State) (ks : List CoreKind) (k core : Nat) : Bool :=
  !(s.core core).failed && ks.contains (kindOf core) && s.entriesUsed core < 64 && (s.spadRange core k).isSome

/-- The place of a cluster in a glade: its rectangle and the home cores of its teams. -/
def State.placeIn (s : State) (cw ch nt : Nat) (ks : List CoreKind) (k glade : Nat) : Option (List Nat × List Nat) :=
  (rectangles cw ch).findSome? fun r =>
    let rect := r.map (12 * glade + ·)
    let homes := rect.filter fun c => s.admits ks k c
    if nt ≤ homes.length then some (rect, homes.take nt) else none

/-- The search of R151 over the glades, from a start glade on. -/
def State.findPlace (s : State) (start cw ch nt : Nat) (ks : List CoreKind) (k : Nat) : Option (Nat × List Nat × List Nat) :=
  (upto Config.nGlades).findSome? fun i =>
    let g := (start + i) % Config.nGlades
    (s.placeIn cw ch nt ks k g).map fun p => (g, p)

/-- Role of a code (R462). -/
def roleOf : Nat → Role
  | 1 => .load
  | 2 => .matrix
  | 3 => .vector
  | _ => .none

/-- Slot b0 as the team barrier of a new team (R295). -/
def State.teamBarrier (s : State) (t : Nat) : State :=
  if (s.team t).spadK == 0 then s else s.objInit t 0 false true (0 < (s.team t).specS) 0 0

/-- The groups and threads of a team that are launched, not yet resident (R149). -/
def State.addThreads (s : State) (t : Nat) (d : TeamDecl) (tid : Nat → DWord) (spill : Nat → Nat) : State :=
  let m := s.team t
  (upto ((m.nthr + 31) / 32)).foldl (fun s q =>
    let (gid, s) := s.fresh
    let n := min 32 (m.nthr - 32 * q)
    let g : Group := { Group.fresh gid m.home 0 0 (roleOf (d.roles.getD q 0)) 15 with resident := false }
    let s := { s with groups := s.groups ++ [g] }
    (upto n).foldl (fun s r =>
      let (id, s) := s.fresh
      let k := 32 * q + r
      let u := Thread.fresh id t gid r k (tid k) d.fmode (if d.spillP == 0 then 0 else dword (spill k % 2 ^ 57)) (word d.spillP) 0 false
      { s with threads := s.threads ++ [u] }) s) s

/-- Admits a team to its home core: its scratchpad range, threads and team barrier (R149, R153, R295). -/
def State.addTeam (s : State) (l : Launch) (g : Geom) (ctx cluster hclu : Nat) (ks : List CoreKind) (i home : Nat) : State :=
  let (id, s) := s.fresh
  let (no, s) := s.fresh
  let base := (s.spadRange home l.decl.spadK).getD 0
  let t := Team.fresh id ctx cluster (.launch l.id) l.number i g.nthr l.decl g.prio ks home base no l.args
  let s := { s with teams := s.teams ++ [t] }
  let first := (hclu * g.nt + i) * l.decl.tsize
  let s := s.addThreads id l.decl (fun k => dword (first + k)) fun k => l.spill.toNat + (first + k) * l.decl.spillP
  (s.teamBarrier id).once (.teamResident home)

/-- Tries to place the next cluster of a launch; the Boolean tells whether it was admitted (R151, R152). -/
def State.admitLaunch (s : State) (l : Launch) : State × Bool :=
  let g := geomOf l.geom
  let c := s.ctx l.ctx
  let ks := g.kinds l.decl
  match s.findPlace (if g.glade < 96 then g.glade else c.startGlade) g.cw g.ch g.nt ks l.decl.spadK with
  | none => (s, false)
  | some (glade, rect, homes) =>
    let h := l.next
    let (id, s) := s.fresh
    let cl : Cluster := { fuse := g.fuse, rect := rect, id := id, ctx := l.ctx, launch := l.id, hclu := h, lx := h % g.cx
                          ly := h / g.cx % g.cy, lz := h / (g.cx * g.cy), die := l.die, cores := homes, state := .placed
                          restored := false, order := l.order }
    let s := { s with clusters := s.clusters ++ [cl] }
    let s := s.modCtx l.ctx fun c => { c with startGlade := (glade + 1) % Config.nGlades }
    let s := s.modLaunch l.id fun x => { x with next := h + 1 }
    (homes.zipIdx.foldl (fun s p => s.addTeam l g l.ctx id h ks p.2 p.1) s, true)

/-- Every admission queue that holds a pending cluster is looked at again. -/
def State.admitAll (s : State) : State :=
  let ds := (s.launches.filter fun l => !l.done && l.next < (geomOf l.geom).count).map Launch.die
    ++ (s.clusters.filter fun c => c.state == .queued).map Cluster.die
  ds.eraseDups.foldl (fun s d => s.once (.clusterAdmit d)) s

/-! ## The start of threads -/

/-- The function from which a team starts, with its object (R150, R355). -/
def State.teamFn (s : State) (t : Team) : Option (CodeObj × Func) :=
  let c := s.ctx t.ctx
  match t.task, t.launch with
  | some r, _ =>
    let e := field r.bytes 0 8
    c.objs.findSome? fun o => (o.funcs.find? fun f => f.portable == e).map fun f => (o, f)
  | none, .launch l =>
    let x := s.launchOf l
    (c.objs.find? fun o => o.handle == x.handle).bind fun o => (o.funcs[x.fidx]?).map fun f => (o, f)
  | none, _ => none

/-- A thread of a new team stands at its function's entry in the image of its host kind (R150, R69). -/
def State.startThread (s : State) (u : Thread) (f : Func) (k : CoreKind) : State :=
  let n := f.native k
  s.modTh u.id fun x => { x with
    pc := dword (if n != 0 then n else f.portable), portable := n == 0, pushBlock := n == 0 && 112 < f.frame }

/-- Whether a core can take groups at once: their positions and whole register holdings (R145, R154). -/
def State.takes (s : State) (core groups bytes : Nat) : Bool :=
  groups ≤ (s.freeGrps core).length && bytes ≤ s.poolFree core

/-- Makes one group resident on its core (R144, R154, R160). -/
def State.seat (s : State) (g : Nat) (slices : BitVec 4) : State :=
  let core := (s.group g).core
  let grp := (s.freeGrps core).headD 0
  let (st, s) := s.fresh
  s.modGroup g fun x => { x with resident := true, grp := grp, stamp := st, slices := slices, statS := 0, statP := 0 }

/-- The groups that host threads of a team (R193). -/
def State.teamGroups (s : State) (t : Nat) : List Nat := ((s.liveTeam t).map Thread.group).eraseDups

/-- A waiting team becomes resident on its home core: every write acknowledged before is visible to its threads (R154, R258),
slices with no launched thread give up their share (R164), and its entry is free for another team (R153). -/
def State.startTeam (s : State) (t : Nat) : State :=
  let m := s.team t
  let s := (s.teamGroups t).foldl (fun s g => s.seat g (slicesOf ((s.liveOf g).map Thread.rank))) s
  let s := (s.acquireCore m.home).modTeam t fun x => { x with state := .resident }
  match s.teamFn m with
  | none => s
  | some (_, f) =>
    let k := kindOf m.home
    let s := (s.liveTeam t).foldl (fun s u => s.startThread u f k) s
    (if f.native k == 0 then s.xlateLookup m.ctx m.home (dword f.portable) else s).admitAll

end Sys2Proof.Machine
end

