-- ==== Sys2Proof/Machine/Tasks.lean ====
section
/-!
DEFINITION. Tasks (R348 to R360): records, queues, dispatch, completion with the join decrement, TPOST and TARG.
-/

namespace Sys2Proof.Machine

/-! ## Records (R348, R349) -/

/-- FLAGS of a record. -/
def taskFlags (b : List Byte) : Nat := field b 32 4
/-- PRIO of a record. -/
def taskPrio (b : List Byte) : Nat := bitsAt (taskFlags b) 0 3
/-- KIND of a record. -/
def taskKind (b : List Byte) : Nat := bitsAt (taskFlags b) 3 2
/-- IDEM of a record. -/
def taskIdem (b : List Byte) : Bool := bitAt (taskFlags b) 5
/-- HINT of a record. -/
def taskHint (b : List Byte) : Nat := bitsAt (taskFlags b) 8 8
/-- Budget B of a record. -/
def taskRegs (b : List Byte) : Nat := field b 36 2
/-- Scratchpad of a record in KiB. -/
def taskSpad (b : List Byte) : Nat := field b 38 2
/-- JOIN of a record. -/
def taskJoin (b : List Byte) : Nat := field b 24 8

/-- Whether a record allows a core kind (R349). -/
def taskKindOk (b : List Byte) (k : CoreKind) : Bool :=
  kindAdmits (taskKind b) k && 1 ≤ taskSpad b && taskSpad b ≤ spadCap k && 128 ≤ taskRegs b && taskRegs b ≤ budgetMax k
    && taskRegs b % 8 == 0 && 128 * taskRegs b ≤ poolCap k

/-- R349: a valid record of a context. -/
def Context.taskOk (c : Context) (b : List Byte) : Bool :=
  b.length == 64 && taskFlags b &&& 0xFFFF00C0 == 0 && (taskHint b < 96 || taskHint b == 0xFE || taskHint b == 0xFF)
    && taskKind b != 3 && 1 ≤ field b 22 2 && field b 22 2 ≤ 32
    && (taskJoin b == 0 || (canonicalVa (taskJoin b) && taskJoin b % 64 == 0))
    && c.objs.any (fun o => o.funcs.any fun f => f.portable == field b 0 8)
    && (taskKindOk b .bramble || taskKindOk b .larch)

/-- The declaration of a task's team (R355). -/
def taskDecl (b : List Byte) : TeamDecl := { TeamDecl.plain 32 (taskRegs b) with spadK := taskSpad b }

/-! ## Queues (R352) -/

/-- TLB of the task distributor (log 7). -/
def taskTlb : Nat := 2048 + 97

/-- A present queue of a context. -/
def Context.queue? (c : Context) (q : Nat) : Option TaskQueue := (c.queues[q]?).bind fun k => if k.lgCap == 0 then none else some k
/-- Updates a queue. -/
def State.modQueue (s : State) (ctx q : Nat) (f : TaskQueue → TaskQueue) : State :=
  s.modCtx ctx fun c => { c with queues := c.queues.mapIdx fun i k => if i == q then f k else k }
/-- A task of an owner begins to count for it, or has completed or failed (R357). -/
def State.countTask (s : State) (o : Owner) (up : Bool) : State := match o with
  | .launch l =>
    let s := s.modLaunch l fun x => { x with tasks := if up then x.tasks + 1 else x.tasks - 1 }
    if up then s else s.once (.gridEnd l)
  | .item _ _ _ _ => s
/-- The number that an owner's tasks read as `%launch` (R355, R357). -/
def State.ownerNumber (s : State) : Owner → DWord
  | .launch l => (s.launchOf l).number
  | .item _ _ _ n => n

/-- Whether a queue has a free entry that no earlier posting waits for (R352). -/
def Context.queueFree (c : Context) (q : Nat) : Bool := match c.queue? q with
  | some k => k.tail - k.head < 2 ^ k.lgCap && !c.kept.any fun p => p.q == q
  | none => false

/-- Writes a record's ring entry (R352); a refused write freezes the context (R248). -/
def State.ringWrite (s : State) (ctx : Nat) (r : TaskRec) : State × Option (Cause × Nat) :=
  match s.engWrite taskTlb ctx true .write (s.ringEntry ctx r) r.bytes with
  | (s, .ok _) => (s, none)
  | (s, .error (c, a)) => (s.sealStop ctx (c, a), some (c, a))

/-- Marks the record with a sequence in its queue. -/
def State.modRec (s : State) (ctx q seq : Nat) (f : TaskRec → TaskRec) : State :=
  s.modQueue ctx q fun k => { k with recs := k.recs.map fun r => if r.seq == seq then f r else r }

/-- The write of a record's ring entry is over: the record may be dispatched, or, after a fault, its entry is dead and its
owner fails (R359). -/
def State.ringDone (s : State) (ctx : Nat) (r : TaskRec) (f : Option (Cause × Nat)) : State :=
  let s := s.modRec ctx r.q r.seq fun x => { x with written := true, entryBad := f.isSome }
  let s := match f with
    | some (c, _) => s.taskFail ctx r.owner (s.ownerNumber r.owner) c (s.ringEntry ctx r) r.q
    | none => s
  s.once .taskDispatch

/-- A record takes the next entry of a queue (R352, R359). -/
def State.takeEntry (s : State) (ctx q : Nat) (r : TaskRec) : State × TaskRec :=
  let k := ((s.ctx ctx).queue? q).getD { ring := 0, lgCap := 0, head := 0, tail := 0, recs := [] }
  let r : TaskRec := { r with q := q, seq := k.tail }
  (s.modQueue ctx q fun k => { k with tail := k.tail + 1, recs := k.recs ++ [r] }, r)

/-- A record of the distributor's own enters a queue, with its ring write (R352). -/
def State.enqueue (s : State) (ctx q : Nat) (r : TaskRec) : State :=
  let (s, r) := s.takeEntry ctx q r
  let (s, f) := s.ringWrite ctx r
  s.ringDone ctx r f

/-- The record that a TPOST posts: its owner and origin (R354, R357). -/
def State.postRec (s : State) (th : Thread) (i : Instr) : TaskRec :=
  let b := match i with
    | .tpost _ _ b => wordsBytes (s.opdWords th b 16)
    | _ => []
  { bytes := b, owner := (s.team th.team).launch, glade := some (gladeOf (s.hostOf th)), core := some (s.hostOf th), q := 0, seq := 0
    entryBad := false, written := false }

/-- TPOST takes its queue entry (R359): everything the thread wrote is performed first, and the ring write follows. -/
def State.tpostEnter (s : State) (t : Nat) (i : Instr) (x : X) (q : Nat) (r : TaskRec) : State × Next :=
  let th := s.th t
  let ctx := (s.team th.team).ctx
  let s := s.publishCore (s.hostOf th) 0xFF#8
  let (s, r) := s.takeEntry ctx q r
  (s.countTask r.owner true).engIssue (s.th t) i x [q, r.seq] [] plainSlot .engineOpComplete

/-- An entry of a queue has become free: the first posting that waits for it enters, or else the first host seed (R352). -/
def State.entryFreed (s : State) (ctx q : Nat) : State :=
  let c := s.ctx ctx
  match c.kept.find? fun p => p.q == q with
  | some p =>
    let s := s.modCtx ctx fun c => { c with kept := c.kept.erase p }
    (match p.post with
    | none => s.enqueue ctx q p.task
    | some (t, i) => match i with
      | .tpost x _ _ => match s.tpostEnter t i x q p.task with
        | (s, .wait h) => s.modTh t fun u => { u with hold := h }
        | (s, _) => s.release t
      | _ => s)
  | none =>
    let waits := s.intake.findSome? fun k => k.log.find? fun r => r.state == .started && (match r.instr with
      | .seedTask h n _ => h.ctx == ctx && n == q
      | _ => false)
    match waits.bind fun r => r.instr.hdr.map fun h => (h, r) with
    | some (h, r) => (s.modItem h.session h.queue h.seq fun x => { x with state := .ready }).later r.instr
    | none => s

/-- The head record leaves its queue. -/
def State.dequeue (s : State) (ctx q : Nat) : State :=
  (s.modQueue ctx q fun k => { k with head := k.head + 1, recs := k.recs.tail }).entryFreed ctx q

/-- A posting that the distributor makes itself, for a join or a duplex stream (R350, R352, R357): `a` is the address that
a failure names. -/
def State.postTask (s : State) (ctx q : Nat) (r : TaskRec) (a : Nat) : State :=
  let c := s.ctx ctx
  let fail := fun (s : State) => s.taskFail ctx r.owner (s.ownerNumber r.owner) .engineFault a q
  if (c.queue? q).isNone || !c.taskOk r.bytes then fail s
  else if c.queueFree q then (s.countTask r.owner true).enqueue ctx q r
  else if 4096 ≤ (c.kept.filter fun p => p.post.isNone).length then fail s
  else (s.countTask r.owner true).modCtx ctx fun c => { c with kept := c.kept ++ [⟨q, r, none⟩] }

/-! ## TPOST and TARG (R358 to R360) -/

/-- TPOST (R359). -/
def execTpost (x : X) (q : Fin 16) (b : Opd) (s : State) : Result :=
  .next (s.issue (.tpost x q b) x fun s th =>
    let ctx := (s.team th.team).ctx
    let c := s.ctx ctx
    if s.flagFull th (th.flagOf x.sb) then (s, .stall (.flag (th.flagOf x.sb)))
    else match c.queue? q.val with
    | none => (s, .trap .reservedField (dword q.val))
    | some _ =>
      let r := s.postRec th (.tpost x q b)
      if !c.taskOk r.bytes then (s, .trap .reservedField 0)
      else if c.queueFree q.val then s.tpostEnter th.id (.tpost x q b) x q.val r
      else
        let p : Posting := ⟨q.val, r, some (th.id, .tpost x q b)⟩
        ((s.modCtx ctx fun c => { c with kept := c.kept ++ [p] }).after Config.longWait (.tpostHoldTimeout th.id),
          .wait (.tpost s.cycle)))


/-- A TPOST has been held for 2^20 cycles (R359). -/
def execTpostHoldTimeout (thread : Nat) (s : State) : Result :=
  .next (match s.thread? thread with
    | none => s
    | some th => match th.hold with
      | .tpost since =>
        let c := s.ctxOf th
        match c.kept.find? fun p => (p.post.map (·.1)) == some thread with
        | none => s
        | some p =>
          if s.nowCycle < since + Config.longWait then s
          else
            let ring := ((c.queue? p.q).map TaskQueue.ring).getD 0
            let s := (s.dropHeld [thread]).modTh thread fun u => { u with hold := .none }
            (s.raise thread (plainTrap .engineFault ring th.pc true (s.nextId * 8))).enterFor thread
      | _ => s)

/-- The ring write of a TPOST in flight (R359). -/
def State.tpostWrite (s : State) (o : Op) : State × Option (Cause × Nat) :=
  match ((s.ctx o.ctx).queue? (o.data.getD 0 0)).bind fun k => k.recs.find? fun r => r.seq == o.data.getD 1 0 with
  | none => (s, none)
  | some r =>
    let (s, f) := s.ringWrite o.ctx r
    (s.ringDone o.ctx r f, f)

/-- TPOST at its completion: the ring write (R359). -/
def State.tpostDone (s : State) (o : Op) : State :=
  let (s, f) := s.tpostWrite o
  s.opDone { o with fault := f.map fun f => (f.1, dword f.2) }

/-- Teams are lost whose TPOSTs have taken their entries: the records are written all the same, and their queues go on (R359). -/
def State.lostPosts (s : State) (ts : List Nat) : State :=
  (s.ops.filter fun o => ts.contains o.team && (match o.instr with
    | .tpost _ _ _ => true
    | _ => false)).foldl (fun s o => (s.tpostWrite o).1) s

/-- TARG (R360). -/
def execTarg (x : X) (f : TargForm) (d : Opd) (s : State) : Result :=
  .next (s.issue (.targ x f d) x fun s th => match (s.team th.team).task with
    | none => (s, .trap .reservedField 0)
    | some r => match f with
      | .word k => (s.wr32 th.id d (word (field r.bytes (4 * k.val) 4)), .next)
      | .pair k => (s.wr64 th.id d (dword (field r.bytes (4 * k.val) 8)), .next)
      | .ext => (s.wr32 th.id d (word (2 ^ field r.bytes 22 2 - 1)), .next))

/-! ## Dispatch (R353 to R355) -/

/-- R354: whether a core takes a task now. -/
def State.taskFits (s : State) (b : List Byte) (core : Nat) : Bool :=
  let k := kindOf core
  !(s.core core).failed && taskKindOk b k && s.takes core 1 (128 * taskRegs b) && (s.spadRange core (taskSpad b)).isSome
    && s.entriesUsed core < 64

/-- The glades that a task's placement visits, from its start glade on (R354). -/
def taskGlades (start : Nat) : List Nat :=
  let d := start / 12
  (upto 12).map (fun i => 12 * d + (start + i) % 12)
    ++ (upto 7).flatMap fun j => (upto 12).map fun i => 12 * ((d + 1 + j) % 8) + i

/-- The cores that a task's placement visits, in order (R354). -/
def State.taskCores (s : State) (ctx : Nat) (r : TaskRec) : List Nat :=
  let hint := taskHint r.bytes
  let start := if hint < 96 then hint else r.glade.getD ((s.ctx ctx).taskGlade % Config.nGlades)
  let first := if hint == 0xFE then r.core.toList else []
  first ++ (taskGlades start).flatMap gladeCores

/-- The next task number of an owner (R355). -/
def State.taskNo (s : State) (ctx : Nat) (o : Owner) : Nat :=
  (((s.ctx ctx).taskCount.find? fun p => p.1 == o).map (·.2)).getD 0

/-- A task starts as a team of one group on a core (R354, R355). -/
def State.startTask (s : State) (ctx : Nat) (r : TaskRec) (core : Nat) : State :=
  let n := s.taskNo ctx r.owner
  let (cid, s) := s.fresh
  let (tid, s) := s.fresh
  let (no, s) := s.fresh
  let d := taskDecl r.bytes
  let l := match r.owner with
    | .launch l => l
    | .item _ _ _ _ => 0
  let cl : Cluster := { fuse := false, rect := [core], id := cid, ctx := ctx, launch := l, hclu := 0, lx := field r.bytes 16 2
                        ly := field r.bytes 18 2, lz := field r.bytes 20 2, die := dieOf core, cores := [core], state := .placed
                        restored := false, order := no }
  let ks := [CoreKind.bramble, .larch].filter (taskKindOk r.bytes)
  let t : Team := { Team.fresh tid ctx cid r.owner (s.ownerNumber r.owner) 0 32 d (taskPrio r.bytes) ks core
    ((s.spadRange core d.spadK).getD 0) no [] with task := some r }
  let s := { s with clusters := s.clusters ++ [cl], teams := s.teams ++ [t] }
  let s := s.modCtx ctx fun c => { c with
    taskCount := c.taskCount.filter (fun p => p.1 != r.owner) ++ [(r.owner, n + 1)]
    taskGlade := if r.glade.isNone && 96 ≤ taskHint r.bytes then (c.taskGlade + 1) % Config.nGlades else c.taskGlade }
  let s := s.addThreads tid d (fun k => dword (2 ^ 63 + 32 * n + k)) fun _ => 0
  (s.teamBarrier tid).startTeam tid

/-- The head records that may be dispatched: context, queue, record (R353, R359, R401). -/
def State.taskHeads (s : State) : List (Nat × Nat × TaskRec) :=
  (s.contexts.filter fun c => c.preemptCtl.toNat / 2 ^ 29 == 0 && !c.frozen).flatMap fun c =>
    c.queues.zipIdx.filterMap fun k => match k.1.recs with
      | r :: _ => if r.written && !r.entryBad then some (c.id, k.2, r) else none
      | [] => none

/-- The order of R353: highest PRIO, then lowest queue number. -/
def headBefore (a b : Nat × Nat × TaskRec) : Bool :=
  let p := taskPrio a.2.2.bytes
  let q := taskPrio b.2.2.bytes
  q < p || (p == q && a.2.1 < b.2.1)

/-- The first of some heads in the order of R353. -/
def firstHead : List (Nat × Nat × TaskRec) → Option (Nat × Nat × TaskRec)
  | [] => none
  | h :: r => match firstHead r with
    | some x => if headBefore x h then some x else some h
    | none => some h

/-- Dispatches one head record on the first core of its search that takes it (R354). -/
def State.dispatchHead (s : State) (h : Nat × Nat × TaskRec) : State :=
  match (s.taskCores h.1 h.2.2).find? fun c => s.taskFits h.2.2.bytes c with
  | none => s
  | some core => (s.startTask h.1 h.2.2 core).dequeue h.1 h.2.1

/-- Entries whose ring write failed are removed at the head of their queue without being dispatched (R359). -/
def State.dropDead (s : State) : State :=
  s.contexts.foldl (fun s c => c.queues.zipIdx.foldl (fun s k => match k.1.recs with
    | r :: _ => if r.entryBad then ((s.dequeue c.id k.2).countTask r.owner false).once .taskDispatch else s
    | [] => s) s) s

/-- A dispatch opportunity (R353): the first head that fits somewhere is placed, and the rest are looked at again. -/
def execTaskDispatch (s : State) : Result :=
  .next (
    let s := s.dropDead
    match firstHead (s.taskHeads.filter fun h => (s.taskCores h.1 h.2.2).any fun c => s.taskFits h.2.2.bytes c) with
    | none => s
    | some h => (s.dispatchHead h).once .taskDispatch)

/-! ## The end of teams (R165, R356) -/

/-- R165: whether a team's last group has ended and nothing of its threads is outstanding. -/
def State.teamOver (s : State) (t : Nat) : Bool :=
  match s.teams.find? fun x => x.id == t with
  | none => false
  | some m => m.state == .resident && !(s.threads.any fun u => u.team == t && (u.status == .live || s.groups.any fun g => g.id == u.group))
      && !s.ops.any (fun o => o.team == t) && !s.publishes.any fun p => (s.th p.thread).team == t

/-- A cluster has ended with its last team, and its launch may have ended (R165). -/
def State.clusterOver (s : State) (c : Nat) : State :=
  if s.teams.any fun t => t.cluster == c then s
  else
    let l := (s.cluster c).launch
    let s := ({ s with clusters := dropBy Cluster.id s.clusters c } : State).unfuse
    (s.modLaunch l fun x => { x with left := x.left - 1 }).once (.gridEnd l)

/-- A team's record, threads and scratchpad are free. -/
def State.dropTeam (s : State) (t : Nat) : State :=
  let m := s.team t
  let mine := fun (u : Nat) => (s.th u).team == t
  let s' := s.closeSilently ((s.points.filter fun p => mine p.thread).map PointRec.id)
  let s' := { s' with
    teams := dropBy Team.id s'.teams t, threads := s'.threads.filter fun u => u.team != t
    phases := s'.phases.filter fun p => p.team != t, beads := s'.beads.filter fun b => !mine b.thread }
  (s'.once (.teamResident m.home)).admitAll

/-- TEAM_END (R165). A task's team is freed at TASK_COMPLETE. -/
def execTeamEnd (team : Nat) (s : State) : Result :=
  .next (
    if !s.teamOver team then s
    else if (s.team team).task.isSome then s.once (.taskComplete team)
    else (s.dropTeam team).clusterOver (s.team team).cluster)

/-- The lines that a team's threads dirtied are written back and kept clean (R356). -/
def State.writeBackTeam (s : State) (t : Nat) : State :=
  (s.l1.filter fun l => l.own.any fun o => o.1 == t).foldl (fun s l =>
    let (s, l') := s.writeBack ((s.l1Line? l.core l.pa).getD l) fun k => (l.own.getD k (0, none)).1 == t
    s.setL1 l') s

/-- What the publish of a task's end carries beside its own writes (R253, R257, R260): the writes of other threads of the core that a
thread of the task may have to pass on. Lines that other threads have dirtied stay in place otherwise (R356). -/
def State.publishPassed (s : State) (core : Nat) : State :=
  (s.l1.filter fun l => l.core == core && l.passed).foldl (fun s l =>
    let (s, l') := s.writeBack ((s.l1Line? core l.pa).getD l) fun _ => true
    s.setL1 l') s

/-- The decrement of a join and, when the old value is 1, the posting of its successor (R350, R357). -/
def State.joinStep (s : State) (ctx : Nat) (o : Owner) (number : DWord) (core join q : Nat) : State :=
  let fail := fun (s : State) (c : Cause) => s.taskFail ctx o number c join q
  match s.checkVa taskTlb ctx true .atomic join 8 with
  | (s, .error (c, a)) => fail (s.sealStop ctx (c, a)) c
  | (s, .ok l) => match s.dataError l.pa 8 with
    | some _ => fail s .memError
    | none =>
      let old := s.homeNat l.pa 8
      if old == 0 then fail s .engineFault
      else
        let s := (s.atomHome l.pa .add .n64 (2 ^ 64 - 1) 0).1
        if old != 1 then s
        else match s.engRead taskTlb ctx true (join + 8) 120 with
          | (s, .error (c, _)) => fail s c
          | (s, .ok b) =>
            let sq := field b 0 1
            if 15 < sq then fail s .engineFault
            else s.postTask ctx sq { bytes := slice b 56 64, owner := o, glade := some (gladeOf core), core := some core, q := 0
                                     seq := 0, entryBad := false, written := false } join

/-- TASK_COMPLETE (R356, R357): write-back, publish, decrement, free. A task whose threads failed makes no decrement. -/
def execTaskComplete (team : Nat) (s : State) : Result :=
  .next (match (s.team team).task with
    | none => s
    | some r =>
      if !s.teamOver team then s
      else
        let m := s.team team
        let failed := s.threads.any fun u => u.team == team && u.status == .failed
        let s := (s.writeBackTeam team).publishPassed m.lastCore
        let s := if failed || taskJoin r.bytes == 0 then s else
          s.joinStep m.ctx m.launch m.number m.lastCore (taskJoin r.bytes) r.q
        let s := s.dropTeam team
        let s := { s with clusters := dropBy Cluster.id s.clusters m.cluster }
        (s.countTask m.launch false).once .taskDispatch)

/-- GRID_END (R165, R262, R357): the last cluster and every task have ended; every store is performed at home, and the
launch's item is reported. -/
def execGridEnd (launch : Nat) (s : State) : Result :=
  .next (match s.launches.find? fun l => l.id == launch with
    | none => s
    | some l =>
      if l.done || l.left != 0 || l.tasks != 0 then s
      else
        let s := ((s.l1.map L1Line.core).eraseDups).foldl (fun s c => s.publishCore c 0xFF#8) s
        let s := s.modLaunch launch fun x => { x with done := true }
        let cause := match l.failed with
          | some c => causeCode c
          | none => 0
        s.itemEnd l.session l.queue l.seq cause (leBytes 8 l.number.toNat))

end Sys2Proof.Machine
end

