-- ==== Sys2Proof/Machine/Duplex.lean ====
section
/-!
DEFINITION. Duplex streams (R361 to R374, R463): the unit's operations on a stream, its instructions, and the intake items
that bind, unbind, move the cursor and log frames.
-/

namespace Sys2Proof.Machine

/-! ## The object (R361) -/

/-- A power of two in a range. -/
def pow2In (n lo hi : Nat) : Bool := lo ≤ n && n ≤ hi && 2 ^ n.log2 == n

/-- The stream that an object's bytes describe, for a context and an owner. -/
def streamOf (ctx : Nat) (obj : DWord) (owner : Owner) (b : List Byte) : Stream :=
  { ctx := ctx, obj := obj, g := field b 0 8, p := field b 8 8, k := field b 16 4, overplay := bitAt (field b 20 4) 1
    hq := bitsAt (field b 20 4) 4 4, outBase := dword (field b 24 8), outCap := field b 32 4, nblk := field b 36 4
    tagBase := dword (field b 40 8), logBase := dword (field b 48 8), logCap := field b 56 4, logWr := field b 64 8
    logRd := field b 72 8, payBase := dword (field b 80 8), hrec := dword (field b 88 8)
    ckpt := (upto 8).map fun i => (dword (field b (96 + 16 * i) 8), dword (field b (104 + 16 * i) 8))
    nstale := field b 224 4, nlate := field b 228 4, owner := owner }

/-- R361, R362: the fields of an object that a bind checks. -/
def streamOk (b : List Byte) : Bool :=
  field b 20 4 &&& 0xFFFFFF0C == 0 && field b 24 8 % 64 == 0 && pow2In (field b 36 4) 1 (2 ^ 20)
    && pow2In (field b 32 4) 64 (2 ^ 24) && field b 32 4 ≤ 64 * field b 36 4 && field b 48 8 % 32 == 0
    && pow2In (field b 56 4) 8 65536 && field b 60 4 == 0 && allZero (slice b 232 24)

/-- The object of a stream as bytes. -/
def Stream.bytes (x : Stream) (bound : Bool) : List Byte :=
  leBytes 8 x.g ++ leBytes 8 x.p ++ leBytes 4 x.k
    ++ leBytes 4 ((if bound then 1 else 0) + (if x.overplay then 2 else 0) + 16 * x.hq) ++ leBytes 8 x.outBase.toNat
    ++ leBytes 4 x.outCap ++ leBytes 4 x.nblk ++ leBytes 8 x.tagBase.toNat ++ leBytes 8 x.logBase.toNat ++ leBytes 4 x.logCap
    ++ leBytes 4 0 ++ leBytes 8 x.logWr ++ leBytes 8 x.logRd ++ leBytes 8 x.payBase.toNat ++ leBytes 8 x.hrec.toNat
    ++ (x.ckpt.flatMap fun c => leBytes 8 c.1.toNat ++ leBytes 8 c.2.toNat) ++ leBytes 4 x.nstale ++ leBytes 4 x.nlate
    ++ List.replicate 24 0#8

/-- VALID and position of a checkpoint slot. -/
def ckptPos (c : DWord × DWord) : Option Nat := if c.1.getLsbD 63 then some (c.1.toNat % 2 ^ 63) else none
/-- The truncation floor F (R362). -/
def Stream.floor (x : Stream) : Nat := match x.ckpt.filterMap ckptPos with
  | [] => 0
  | p :: r => r.foldl min p
/-- Free input log entries. -/
def Stream.room (x : Stream) : Nat := x.logCap - (x.logWr - x.logRd)

/-- The unit's write of one place. -/
abbrev DuWrite := Nat × List Byte

/-- A tag (R363). -/
def tagBytes (start count : Nat) : List Byte := leBytes 8 (if count == 0 then 0 else start % 2 ^ 48 + count * 2 ^ 48)
/-- The write of a block's tag. -/
def Stream.tag (x : Stream) (block start count : Nat) : DuWrite := ((x.tagBase.toNat + 8 * block) % 2 ^ 64, tagBytes start count)

/-- A log entry and its write (R367): the log pointer rises. -/
def Stream.log (x : Stream) (kind flags : Nat) (pos : Nat) (rslot a b : Nat) : Stream × DuWrite :=
  let n := x.logWr + 1
  ({ x with logWr := n },
    ((x.logBase.toNat + 32 * (n % x.logCap)) % 2 ^ 64,
      leBytes 8 n ++ leBytes 8 pos ++ leBytes 1 kind ++ leBytes 1 flags ++ leBytes 1 rslot ++ leBytes 1 0 ++ leBytes 4 x.k
        ++ leBytes 4 a ++ leBytes 4 b))

/-- What a cut gives: the stream, its tag writes in ascending block number, its log write, RSLOT and the gap. -/
structure CutOut where
  x : Stream
  tags : List DuWrite
  entry : DuWrite
  rslot : Nat
  gap : Nat

/-- Cut-to-cursor (R366), with the flags of its log entry. -/
def Stream.cut (x : Stream) (flags : Nat) : CutOut :=
  let p := x.p
  let blocks := if p < x.g then (upto ((x.g - 1) / 64 - p / 64 + 1)).map (p / 64 + ·) else []
  let tags := sortKey (blocks.map fun j => (j % x.nblk, if p ≤ 64 * j then (64 * j, 0) else (64 * j, p % 64)))
  let ck := x.ckpt.map fun c => match ckptPos c with
    | some y => if p < y then (c.1 &&& 0x7FFFFFFFFFFFFFFF#64, c.2) else c
    | none => c
  let best := ck.zipIdx.foldl (fun (b : Option (Nat × Nat)) c => match ckptPos c.1 with
    | none => b
    | some y => match b with
      | some (z, _) => if z < y then some (y, c.2) else b
      | none => some (y, c.2)) none
  let rslot := (best.map (·.2)).getD 0xFF
  let gap := min (p - (best.map (·.1)).getD 0) (2 ^ 32 - 1)
  let y : Stream := { x with ckpt := ck, k := (x.k + 1) % 2 ^ 32, g := p }
  let (y, e) := y.log 2 flags p rslot gap 0
  { x := y, tags := tags.map fun t => x.tag t.1 t.2.1 t.2.2, entry := e, rslot := rslot, gap := gap }

/-! ## The unit's accesses (R463) -/

/-- TLB of the stream units (log 7). -/
def duTlb : Nat := 2048 + 96

/-- The writes of one operation in order, until the first that fails. -/
def State.duPut (s : State) (ctx : Nat) : List DuWrite → State × Option (Cause × Nat)
  | [] => (s, none)
  | (va, bs) :: r =>
    if canonicalVa va && va % bs.length != 0 then (s, some (.alignment, va))
    else match s.engWrite duTlb ctx true .write va bs with
      | (s, .ok _) => s.duPut ctx r
      | (s, .error (c, a)) => (s.sealStop ctx (c, a), some (c, a))

/-- The stream of a context that is bound at an object's address. -/
def State.stream? (s : State) (ctx : Nat) (obj : DWord) : Option Stream := s.streams.find? fun x => x.ctx == ctx && x.obj == obj
/-- Replaces a stream. -/
def State.setStream (s : State) (x : Stream) : State :=
  { s with streams := s.streams.map fun y => if y.ctx == x.ctx && y.obj == x.obj then x else y }

/-- One operation of a unit: the stream's new state stands in full; its writes follow, the object last (R362, R463). -/
def State.duDo (s : State) (x : Stream) (ws : List DuWrite) : State × Option (Cause × Nat) :=
  (s.setStream x).duPut x.ctx (ws ++ [(x.obj.toNat, x.bytes true)])

/-! ## Instructions (R368 to R373) -/

/-- What an operation gives its thread: the stream, its writes, its registers and its own trap. -/
structure DuOut where
  x : Stream
  ws : List DuWrite
  regs : List Word
  trap : Option Cause
  back : Bool

/-- A duplex instruction: its issue checks, then the operation at its unit (R368). Registers and faults follow at its
completion. -/
def State.duplex (s : State) (th : Thread) (i : Instr) (x : X) (a : Opd) (d : Opd) (f : Stream → DuOut) : State × Next :=
  let obj := s.rd64 th a
  if s.flagFull th (th.flagOf x.sb) then (s, .stall (.flag (th.flagOf x.sb)))
  else if !canonicalVa obj.toNat then (s, .trap .notPresent obj)
  else if obj.toNat % 256 != 0 then (s, .trap .alignment obj)
  else match s.stream? (s.team th.team).ctx obj with
    | none => (s, .trap .reservedField obj)
    | some st =>
      let id := s.nextId
      let (s, n) := s.engIssue th i x [] [] plainSlot .engineOpComplete
      let r := f st
      let (s, e) := if r.back then s.duDo r.x r.ws else (s, none)
      let fault : Option (Cause × DWord) := match e with
        | some (c, a) => some (c, dword a)
        | none => r.trap.map fun c => (c, obj)
      (s.modOp id fun o => { o with writes := runWrites d r.regs, fault := fault }, n)

/-- DAPPEND at the unit (R369). -/
def Stream.append (x : Stream) (ret trap : Bool) (tok cut : Word) : DuOut :=
  let k := cut.toNat
  let st := if k < x.k then 1 else if x.k < k then 2 else if x.outCap ≤ x.g - x.p then 3 else 0
  let regs := if ret then [word st, word x.g] else []
  let why : Option Cause := if !trap || st == 0 then none else if st == 1 then some .staleCut else some .engineFault
  if st == 0 then
    { x := { x with g := x.g + 1 }, regs := regs, trap := why, back := true
      ws := [((x.outBase.toNat + 4 * (x.g % x.outCap)) % 2 ^ 64, leBytes 4 tok.toNat),
             x.tag (x.g / 64 % x.nblk) (x.g / 64 * 64) (x.g % 64 + 1)] }
  else { x := if st == 1 then { x with nstale := (x.nstale + 1) % 2 ^ 32 } else x, ws := [], regs := regs, trap := why, back := true }

/-- DAPPEND (R369). -/
def execDappend (x : X) (ret trap : Bool) (d a b c : Opd) (s : State) : Result :=
  .next (s.issue (.dappend x ret trap d a b c) x fun s th =>
    s.duplex th (.dappend x ret trap d a b c) x a d fun st => st.append ret trap (s.rd32 th b) (s.rd32 th c))

/-- DCUT (R370). -/
def execDcut (x : X) (ret : Bool) (d a : Opd) (s : State) : Result :=
  .next (s.issue (.dcut x ret d a) x fun s th => s.duplex th (.dcut x ret d a) x a d fun st =>
    if st.room == 0 then { x := st, ws := [], regs := [], trap := some .engineFault, back := false }
    else
      let r := st.cut 4
      { x := r.x, ws := r.tags ++ [r.entry], regs := if ret then [word r.x.k, word r.rslot, word r.gap] else [], trap := none
        back := true })

/-- DCKPT (R371). -/
def execDckpt (x : X) (clr : Bool) (a b c : Opd) (i : Fin 8) (s : State) : Result :=
  .next (s.issue (.dckpt x clr a b c i) x fun s th => s.duplex th (.dckpt x clr a b c i) x a (.k 0) fun st =>
    let old := st.ckpt.getD i.val (0, 0)
    if clr then
      { x := { st with ckpt := st.ckpt.set i.val (old.1 &&& 0x7FFFFFFFFFFFFFFF#64, old.2) }, ws := [], regs := [], trap := none, back := true }
    else
      let pos := s.rd64 th b
      if st.g < pos.toNat then { x := st, ws := [], regs := [], trap := some .engineFault, back := false }
      else { x := { st with ckpt := st.ckpt.set i.val (pos ||| 0x8000000000000000#64, s.rd64 th c) }, ws := [], regs := [], trap := none
             back := true })

/-- DTAKE (R372): its read of the log entry comes first; a fault of it leaves LOGRD and the registers unchanged (R463). -/
def execDtake (x : X) (d a : Opd) (s : State) : Result :=
  .next (s.issue (.dtake x d a) x fun s th =>
    let entry : Option (State × Except (Cause × Nat) (List Byte)) := (s.stream? (s.team th.team).ctx (s.rd64 th a)).bind fun st =>
      if st.logRd < st.logWr then
        some (s.engRead duTlb st.ctx true ((st.logBase.toNat + 32 * ((st.logRd + 1) % st.logCap)) % 2 ^ 64) 32)
      else none
    match entry with
    | some (_, .error (c, e)) =>
      let id := s.nextId
      let (s, n) := s.duplex th (.dtake x d a) x a d fun st => { x := st, ws := [], regs := [], trap := none, back := false }
      (s.modOp id fun o => { o with fault := some (c, dword e) }, n)
    | some (_, .ok bs) => s.duplex th (.dtake x d a) x a d fun st =>
        { x := { st with logRd := st.logRd + 1 }, ws := [], regs := words4 8 bs, trap := none, back := true }
    | none => s.duplex th (.dtake x d a) x a d fun st =>
        { x := st, ws := [], regs := List.replicate 8 0#32, trap := none, back := true })

/-- The snapshot of DCURS (R373). -/
def Stream.snapshot (x : Stream) : List Word :=
  let q := fun (n : Nat) => [loWord (dword n), hiWord (dword n)]
  q x.g ++ q x.p ++ [word x.k] ++ q x.floor ++ [word (x.logWr - x.logRd)]

/-- DCURS (R373). -/
def execDcurs (x : X) (d a : Opd) (s : State) : Result :=
  .next (s.issue (.dcurs x d a) x fun s th => s.duplex th (.dcurs x d a) x a d fun st =>
    { x := st, ws := [], regs := st.snapshot, trap := none, back := true })

/-! ## Intake items on streams (R362, R365, R437) -/

/-- A stream that an item names, of the item's context; without one the item fails with report code 0x84. -/
def State.streamItem (s : State) (h : Hdr) (i : Instr) (obj : DWord) (f : State → Stream → State) : State :=
  s.ctxItem h i fun s c => match s.stream? c.id obj with
    | some x => f s x
    | none => s.itemDone h 0x84 []

/-- The end of a stream item: the cause of a failed access, or 0. -/
def State.streamEnd (s : State) (h : Hdr) (e : Option (Cause × Nat)) : State :=
  s.itemDone h (match e with
    | some (c, _) => causeCode c
    | none => 0) []

/-- BIND_STREAM (R362). -/
def execBindStream (h : Hdr) (obj : DWord) (s : State) : Result :=
  .next (s.ctxItem h (.bindStream h obj) fun s c =>
    if (s.stream? c.id obj).isSome || !canonicalVa obj.toNat || obj.toNat % 256 != 0 then s.itemDone h 0x86 []
    else if 4096 ≤ s.streams.length then s.itemDone h 0x87 []
    else match s.engRead duTlb c.id true obj.toNat 256 with
      | (s, .error (cause, _)) => s.itemDone h (causeCode cause) []
      | (s, .ok b) =>
        if !streamOk b then s.itemDone h 0x86 []
        else
          let x := streamOf c.id obj (.item h.session h.queue h.seq (s.itemNumber h)) b
          let (s, e) := { s with streams := s.streams ++ [x] }.duDo x []
          s.streamEnd h e)

/-- UNBIND_STREAM (R362). -/
def execUnbindStream (h : Hdr) (obj : DWord) (s : State) : Result :=
  .next (s.streamItem h (.unbindStream h obj) obj fun s x =>
    let (s, e) := s.duPut x.ctx [(obj.toNat, x.bytes false)]
    { s with streams := s.streams.filter fun y => !(y.ctx == x.ctx && y.obj == obj) }.streamEnd h e)

/-- STREAM_CURSOR (R365). -/
def execStreamCursor (h : Hdr) (obj p : DWord) (s : State) : Result :=
  .next (s.streamItem h (.streamCursor h obj p) obj fun s x =>
    let (s, e) := s.duDo { x with p := min (max x.p p.toNat) x.g, overplay := x.overplay || x.g < p.toNat } []
    s.streamEnd h e)

/-- The posting of a late frame's handler task (R365, R357); the record's read passes the checks of R243. -/
def State.postLate (s : State) (x : Stream) (stamp : DWord) (seq : Nat) : State :=
  let fail := fun (s : State) (c : Cause) (a : Nat) => s.taskFail x.ctx x.owner (s.ownerNumber x.owner) c a x.hq
  if canonicalVa x.hrec.toNat && x.hrec.toNat % 64 != 0 then fail s .alignment x.hrec.toNat
  else match s.engRead taskTlb x.ctx true x.hrec.toNat 64 with
  | (s, .error (c, _)) => fail s c x.hrec.toNat
  | (s, .ok b) =>
    let rec_ := b.take 40 ++ leBytes 8 x.obj.toNat ++ leBytes 8 stamp.toNat ++ leBytes 4 0x41 ++ leBytes 4 seq
    if ((s.ctx x.ctx).queue? x.hq).isNone then fail s .engineFault x.obj.toNat
    else if !(s.ctx x.ctx).taskOk rec_ then fail s .engineFault x.hrec.toNat
    else s.postTask x.ctx x.hq { bytes := rec_, owner := x.owner, glade := none, core := none, q := 0, seq := 0, entryBad := false
                                 written := false } x.obj.toNat

/-- STREAM_FRAME (R365). -/
def execStreamFrame (h : Hdr) (obj stamp : DWord) (off len : Word) (barge : Bool) (s : State) : Result :=
  .next (s.streamItem h (.streamFrame h obj stamp off len barge) obj fun s x =>
    if x.room < 2 then s.itemDone h 0x88 []
    else
      let late := stamp.toNat < x.floor
      let (y, e1) := x.log 1 ((if barge then 1 else 0) + (if late then 2 else 0)) stamp.toNat 0 len.toNat off.toNat
      let seq := y.logWr
      let (y, ws) := if barge then (let r := y.cut 1; (r.x, r.tags ++ [e1, r.entry])) else (y, [e1])
      let y : Stream := if late then { y with nlate := (y.nlate + 1) % 2 ^ 32 } else y
      let (s, e) := s.duDo y ws
      let s := if late && y.hrec != 0 then s.postLate y stamp seq else s
      s.streamEnd h e)

end Sys2Proof.Machine
end

