-- ==== Sys2Proof/Machine/Exchange.lean ====
section
/-!
DEFINITION. The exchange engine (R426 to R434): descriptors and lists, sends with their two rounds, receive buffers, and the
events that other modules or time bring.
-/

namespace Sys2Proof.Machine

/-! ## Descriptors -/

/-- The fields of an exchange descriptor (R426). -/
structure XD where
  self : Nat
  npeer : Nat
  nexp : Nat
  psz : Nat
  cap : Nat
  xid : Nat
  expBase : Nat
  peerBase : Nat
  listBase : Nat
  payBase : Nat

/-- The fields of an exchange descriptor (R426). -/
def xd (b : List Byte) : XD :=
  { self := field b 11 1, npeer := field b 10 1, nexp := field b 8 2, psz := field b 12 4, cap := field b 16 4, xid := field b 20 4
    expBase := field b 24 8, peerBase := field b 32 8, listBase := field b 40 8, payBase := field b 48 8 }

/-- A payload size (R426, R429). -/
def pszOk (n : Nat) : Bool := n % 64 == 0 && 64 ≤ n && n ≤ 16384

/-- R426: a valid exchange descriptor. -/
def xdOk (b : List Byte) : Bool :=
  let d := xd b
  field b 0 1 == 1 && allZero (slice b 1 7) && 1 ≤ d.nexp && 1 ≤ d.npeer && d.self < d.npeer && pszOk d.psz
    && pow2In d.cap 32 65536 && d.listBase % 64 == 0 && allZero (slice b 56 8)

/-- R429: a valid receive buffer descriptor. -/
def rbufOk (b : List Byte) : Bool :=
  field b 0 8 % 64 == 0 && field b 8 4 == 0 && field b 12 4 % 32 == 0 && 32 ≤ field b 12 4 && field b 12 4 ≤ 2 ^ 20
    && pszOk (field b 16 4) && field b 44 4 ≤ 2 && allZero (slice b 48 16)

/-- TLB of the exchange engines (log 7). -/
def xTlb : Nat := 2048 + 98

/-- The engine's state of a descriptor; zero at first use (R426). -/
def State.xdesc (s : State) (ctx : Nat) (a : DWord) : XDesc :=
  (s.xdescs.find? fun x => x.ctx == ctx && x.addr == a).getD { ctx := ctx, addr := a, heads := [], tails := [], seq := 0 }
/-- Stores the engine's state of a descriptor. -/
def State.setXdesc (s : State) (x : XDesc) : State :=
  { s with xdescs := s.xdescs.filter (fun y => !(y.ctx == x.ctx && y.addr == x.addr)) ++ [x] }
/-- Head of a peer's list. -/
def XDesc.head (x : XDesc) (p : Nat) : Nat := (assoc x.heads p).getD 0
/-- Tail of a peer's list. -/
def XDesc.tail (x : XDesc) (p : Nat) : Nat := (assoc x.tails p).getD 0
/-- Address of entry k of peer p's list (R426). -/
def XD.entry (d : XD) (p k : Nat) : Nat := (d.listBase + 32 * (p * d.cap + k % d.cap)) % 2 ^ 64

/-- A peer entry (R427): its kind, 0 when absent or out of the table, a Canopy module, or a scale-out pair. -/
structure PeerEntry where
  kind : Nat
  module : Nat
  wire : Wire

/-- A peer entry of a descriptor (R427). -/
def State.peerOf (s : State) (ctx : Nat) (d : XD) (p : Nat) : State × Except (Cause × Nat) PeerEntry :=
  if d.npeer ≤ p then (s, .ok ⟨0, 0, default⟩)
  else match s.engRead xTlb ctx true ((d.peerBase + 32 * p) % 2 ^ 64) 32 with
    | (s, .error f) => (s, .error f)
    | (s, .ok b) =>
      let k := field b 0 1
      (s, .ok ⟨if k == 1 || k == 2 then k else 0, field b 1 1, ⟨field b 2 1, field b 4 2, field b 16 16⟩⟩)

/-- Address of an expert entry (R427). -/
def XD.expert (d : XD) (e : Nat) : Nat := (d.expBase + 16 * e) % 2 ^ 64

/-- An expert whose entry is valid and whose peer is present: its peer number, the peer's entry, and RBUF. A failed check is an
engine fault at the expert entry (R431). -/
def State.expertOf (s : State) (ctx : Nat) (d : XD) (e : Nat) : State × Except (Cause × Nat) (Nat × PeerEntry × Nat) :=
  let bad : Cause × Nat := (.engineFault, d.expert e)
  if d.nexp ≤ e then (s, .error bad)
  else match s.engRead xTlb ctx true (d.expert e) 16 with
    | (s, .error f) => (s, .error f)
    | (s, .ok b) =>
      if field b 1 1 % 2 == 0 then (s, .error bad)
      else match s.peerOf ctx d (field b 0 1) with
        | (s, .error f) => (s, .error f)
        | (s, .ok p) => (s, if p.kind == 0 then .error bad else .ok (field b 0 1, p, field b 8 8))

/-- The issue checks 1 to 3 of R430: the descriptor's bytes. -/
def State.xCheck (s : State) (th : Thread) (a : DWord) (ok : List Byte → Bool) : State × Except Next (List Byte) :=
  if !canonicalVa a.toNat then (s, .error (.trap .notPresent a))
  else if a.toNat % 64 != 0 then (s, .error (.trap .alignment a))
  else match s.engRead xTlb (s.team th.team).ctx th.privileged a.toNat 64 with
    | (s, .error f) => (s, .error (checkTrap f))
    | (s, .ok b) => (s, if ok b then .ok b else .error (.trap .reservedField a))

/-! ## XLIST (R431) -/

/-- Bytes of a token header (R428). -/
def headerBytes (t : Token) (status slot : Nat) : List Byte :=
  leBytes 2 t.exp ++ leBytes 2 t.alt ++ leBytes 1 t.src ++ leBytes 1 t.round ++ leBytes 1 status ++ leBytes 1 0 ++ leBytes 4 t.token
    ++ leBytes 4 t.pos ++ leBytes 8 t.seq ++ leBytes 4 slot ++ leBytes 4 t.xid

/-- XLIST at the engine: the result, or the fault. -/
def State.xlistOp (s : State) (ctx : Nat) (a : DWord) (d : XD) (e alt token pos : Nat) : State × Except (Cause × Nat) Nat :=
  match s.expertOf ctx d e with
  | (s, .error f) => (s, .error f)
  | (s, .ok (p, _, _)) =>
    let second : State × Option (Cause × Nat) := if alt == 0xFFFF then (s, none) else match s.expertOf ctx d alt with
      | (s, .error f) => (s, some f)
      | (s, .ok _) => (s, none)
    match second with
    | (s, some f) => (s, .error f)
    | (s, none) =>
      let x := s.xdesc ctx a
      let t := x.tail p
      if t - x.head p == d.cap then (s, .error (.engineFault, d.entry p t))
      else
        let tok : Token := { exp := e, alt := alt, src := d.self, round := 0, token := token, pos := pos, seq := 0, xid := d.xid, psz := d.psz
                             rbuf := 0, dctx := 0, payload := [], sender := 0, op := 0, entry := 0 }
        match s.engWrite xTlb ctx true .write (d.entry p t) (headerBytes tok 0 0) with
        | (s, .error f) => (s, .error f)
        | (s, .ok _) => (s.setXdesc { x with tails := assocSet x.tails p (t + 1) }, .ok t)

/-- XLIST (R430, R431). -/
def execXlist (x : X) (ret : Bool) (d a b c : Opd) (s : State) : Result :=
  .next (s.issue (.xlist x ret d a b c) x fun s th =>
    let va := s.rd64 th a
    if s.flagFull th (th.flagOf x.sb) then (s, .stall (.flag (th.flagOf x.sb)))
    else match s.xCheck th va xdOk with
    | (s, .error n) => (s, n)
    | (s, .ok bs) =>
      let id := s.nextId
      let ws := s.opdWords th b 2
      let cv := (s.rd32 th c).toNat
      let (s, n) := s.engIssue th (.xlist x ret d a b c) x [] bs plainSlot .engineOpComplete
      match s.xlistOp (s.team th.team).ctx va (xd bs) (cv % 65536) (cv / 65536) (ws.getD 0 0).toNat (ws.getD 1 0).toNat with
      | (s, .error (cs, e)) =>
        let s := s.sealStop (s.team th.team).ctx (cs, e)
        (s.modOp id fun o => { o with fault := some (cs, dword e) }, n)
      | (s, .ok t) => (s.modOp id fun o => { o with writes := if ret then runWrites d [word t] else [] }, n))

/-! ## Receive buffers (R429, R433, R434) -/

/-- Updates the engine's fields of a receive buffer, bytes 24 to 47: FILL, NSRC, ENDS, DROPS, REDIR, STATE. -/
def State.rbufSet (s : State) (ctx : Nat) (a : Nat) (fill nsrc ends drops redir st : Nat) : State × Except (Cause × Nat) Unit :=
  match s.engWrite xTlb ctx true .write (a + 24) ([fill, nsrc, ends, drops, redir, st].flatMap fun n => leBytes 4 n) with
  | (s, .error f) => (s.sealStop ctx f, .error f)
  | (s, .ok _) => (s, .ok ())

/-- Closes a bound buffer (R434): the bytes not yet credited are credited, and its XRECV completes. -/
def State.closeRecv (s : State) (r : RecvBuf) : State :=
  let s := { s with recvBufs := s.recvBufs.filter fun x => x.op != r.op }
  match s.engRead xTlb r.ctx true r.addr.toNat 64 with
  | (s, .error (c, e)) => (s.modOp r.op fun o => { o with fault := some (c, dword e) }).once (.engineOpComplete r.op)
  | (s, .ok b) =>
    let total := field b 12 4 * (32 + field b 16 4)
    let s := s.credit (some (r.team, r.off)) (total - r.credited)
    let (s, _) := s.rbufSet r.ctx r.addr.toNat (field b 24 4) (field b 28 4) (field b 32 4) (field b 36 4) (field b 40 4) 2
    s.once (.engineOpComplete r.op)

/-- End markers that a module has counted for a domain context and exchange (R433). -/
def State.endsOf (s : State) (dctx xid : Nat) : Nat :=
  ((s.endMarks.find? fun e => e.1 == dctx && e.2.1 == xid).map (·.2.2)).getD 0

/-- This module's instance of a domain context (R432). -/
def State.instance? (s : State) (dctx : Nat) : Option Context := s.contexts.find? fun c => c.dctx == dctx && !c.destroyed

/-! ## Sends (R432) -/

/-- Updates a send record. -/
def State.modSend (s : State) (op : Nat) (f : SendRec → SendRec) : State :=
  { s with sends := s.sends.map fun r => if r.op == op then f r else r }
/-- The send record of an XSEND. -/
def State.send? (s : State) (op : Nat) : Option SendRec := s.sends.find? fun r => r.op == op

/-- A token of an XSEND still waits for a response. -/
def SendTok.open_ (t : SendTok) : Bool := t.resp.isNone && !t.fault && t.status != 3

/-- When every response of a round is known, the second round follows, or the end (R432). -/
def State.sendCheck (s : State) (op : Nat) : State := match s.send? op with
  | none => s
  | some r =>
    if r.toks.any SendTok.open_ || r.round == 0 then s
    else s.once (.xsendRound2 op (r.toks.map fun t => if t.fault then .fault else t.resp.getD .full))

/-- A response to an entry of an XSEND. -/
def State.respond (s : State) (op entry : Nat) (a : TokenResp) : State :=
  (s.modSend op fun r => { r with toks := r.toks.mapIdx fun i t => if i == entry && t.open_ then
    (match a with
      | .fault => { t with fault := true }
      | _ => { t with resp := some a }) else t }).sendCheck op

/-! ## Arrivals (R433) -/

/-- The receiving engine's answer to a token, given to its sender. -/
def State.answer (s : State) (t : Token) (a : TokenResp) : State :=
  if t.sender == s.moduleNo then s.respond t.op t.entry a else s.send (.tokenResp t.sender t.op t.entry a)

/-- A token arrives at the receiving engine (R433). A STATE that R429 does not name is answered with a fault (log 66). -/
def State.arriveToken (s : State) (t : Token) : State :=
  match s.instance? t.dctx with
    | none => s.answer t .fault
    | some c => match s.engRead xTlb c.id true t.rbuf.toNat 64 with
      | (s, .error _) => s.answer t .fault
      | (s, .ok b) =>
        let st := field b 44 4
        let fill := field b 24 4
        let nsrc := field b 28 4
        let ends := field b 32 4
        let drops := field b 36 4
        let redir := field b 40 4
        if st == 0 then
          if c.preemptCtl.toNat / 2 ^ 29 == 2 then s.answer t .full
          else
            let (id, s) := s.fresh
            let s : State := { s with heldToks := s.heldToks ++ [(⟨id, t, s.cycle⟩ : HeldToken)] }
            s.after Config.longWait (.tokenHoldTimeout id)
        else if 2 < st || field b 20 4 != t.xid || field b 16 4 != t.psz then s.answer t .fault
        else if st == 2 || fill == field b 12 4 then
          let lost := t.round == 2 || t.alt == 0xFFFF
          let s := if lost then (s.rbufSet c.id t.rbuf.toNat fill nsrc ends (drops + 1) redir st).1 else s
          s.answer t .full
        else
          let slot := (field b 0 8 + fill * (32 + t.psz)) % 2 ^ 64
          match s.engWrite xTlb c.id true .write slot (headerBytes t t.round fill ++ t.payload) with
          | (s, .error f) => (s.sealStop c.id f).answer t .fault
          | (s, .ok _) =>
            let (s, _) := s.rbufSet c.id t.rbuf.toNat (fill + 1) nsrc ends drops (if t.round == 2 then redir + 1 else redir) st
            let unit := 32 * (32 + t.psz)
            let s := match s.recvBufs.find? fun r => r.ctx == c.id && r.addr == t.rbuf with
              | some r =>
                if (fill + 1) % 32 == 0 then
                  let s : State := s.credit (some (r.team, r.off)) unit
                  { s with recvBufs := s.recvBufs.map fun (x : RecvBuf) =>
                      if x.op == r.op then { x with credited := x.credited + unit } else x }
                else s
              | none => s
            s.answer t (.admitted fill)

/-- TOKEN_ARRIVAL (R433). -/
def execTokenArrival (t : Token) (s : State) : Result := .next (s.arriveToken t)

/-- XRECV (R430, R434): the bind takes effect at issue, and the engine takes the tokens that it holds for the buffer, one that the
bind has closed too (R433). -/
def execXrecv (x : X) (a b c : Opd) (s : State) : Result :=
  .next (s.issue (.xrecv x a b c) x fun s th =>
    let va := s.rd64 th a
    let n := (s.rd32 th c).toNat
    let ctx := (s.team th.team).ctx
    if s.flagFull th (th.flagOf x.sb) then (s, .stall (.flag (th.flagOf x.sb)))
    else match s.xCheck th va rbufOk with
    | (s, .error n) => (s, n)
    | (s, .ok bs) =>
      if n == 0 || 255 < n then (s, .trap .reservedField va)
      else match s.barObj th .t (s.rd32 th b).toNat with
      | .error (.fault .reservedField _) => (s, .trap .reservedField va)
      | .error e => (s, e.next)
      | .ok (t, q) =>
        if field bs 44 4 == 1 || s.recvBufs.any (fun r => r.ctx == ctx && r.addr == va) then (s, .trap .reservedField va)
        else
          let id := s.nextId
          let (s, nx) := s.engIssue th (.xrecv x a b c) x (objData (some (t, q))) bs plainSlot .engineOpComplete
          let ends := s.endsOf (s.ctx ctx).dctx (field bs 20 4)
          let r : RecvBuf := ⟨ctx, va, id, t, q, 0⟩
          let s := s.objSet t q oPEND (s.obj t q oPEND + 1)
          match s.rbufSet ctx va.toNat 0 n ends 0 0 1 with
          | (s, .error (cs, e)) => (s.modOp id fun o => { o with fault := some (cs, dword e) }, nx)
          | (s, .ok _) =>
            let s := { s with recvBufs := s.recvBufs ++ [r] }
            let s := if n ≤ ends || (s.ctx ctx).halted then s.closeRecv r else s
            let mine := s.heldToks.filter fun k => k.tok.dctx == (s.ctx ctx).dctx && k.tok.rbuf == va
            let s := { s with heldToks := s.heldToks.filter fun k => !mine.contains k }
            (mine.foldl (fun s k => s.arriveToken k.tok) s, nx))

/-- The token of an arrival. -/
def arrivingTok : Instr → Option Token
  | .tokenArrival t => some t
  | _ => none

/-- The tokens that this module's engines have sent to its own buffers arrive, in send order (R433). -/
def State.drainTokens (s : State) : State :=
  (s.agenda.filterMap arrivingTok).foldl State.arriveToken { s with agenda := s.agenda.filter fun i => (arrivingTok i).isNone }

/-! ## Scale-out pairs (R427) -/

/-- A pair; its sequence numbers start at 0 (log 2). -/
def State.pair (s : State) (w : Wire) : Pair := (s.pairs.find? fun p => p.wire == w).getD ⟨w, 0, 0⟩
/-- Stores a pair. -/
def State.setPair (s : State) (p : Pair) : State := { s with pairs := s.pairs.filter (fun q => q.wire != p.wire) ++ [p] }
/-- The destination of a message to a peer: a frame takes its pair's next sequence number (R427). -/
def State.dest (s : State) (p : PeerEntry) : State × Dest :=
  if p.kind == 2 then
    let q := s.pair p.wire
    (s.setPair { q with seq := q.seq + 1 }, .frame p.wire q.seq)
  else (s, .canopy p.module)
/-- A message sent now. -/
def State.sentNow (s : State) (d : Dest) : Sent := ⟨d, s.cycle, s.cycle⟩
/-- Whether a message went to a pair. -/
def Sent.on (m : Sent) (w : Wire) : Bool := match m.dest with
  | .frame v _ => v == w
  | .canopy _ => false
/-- Whether a message's pair has given no answer for 10 ms since the message was sent (R432). -/
def State.silent (s : State) (m : Sent) : Bool := match m.dest with
  | .frame w _ => max m.since (s.pair w).heard + 10 * Config.cyclesPerMs ≤ s.cycle
  | .canopy _ => false
/-- Whether a frame has gone unacknowledged for 50 µs since its last transmission (R427). -/
def State.resends (s : State) (m : Sent) : Bool := match m.dest with
  | .frame _ _ => m.last + 50 * Config.cyclesPerUs ≤ s.cycle
  | .canopy _ => false
/-- Makes an event due, once. -/
def State.afterOnce (s : State) (n : Nat) (i : Instr) : State := if s.timers.contains (s.cycle + n, i) then s else s.after n i
/-- The timers of a frame to a peer that has not answered: its retransmission, and the end of waiting (R427, R432). -/
def State.awaitPeer (s : State) (op peer : Nat) : State :=
  (s.afterOnce (50 * Config.cyclesPerUs) (.exchangeRetransmit peer)).afterOnce (10 * Config.cyclesPerMs) (.peerUnreachable op peer)

/-- The peers of a send to which messages of a pair are outstanding. -/
def SendRec.owing (r : SendRec) (w : Wire) : List Nat :=
  (r.toks.filter fun t => t.open_ && t.sent.any fun m => m.on w).map SendTok.peer ++ (r.ends.filter fun e => e.2.on w).map Prod.fst
/-- A scale-out peer has answered: it is not unreachable before another 10 ms are over (R432, R437). -/
def State.hear (s : State) : Dest → State
  | .canopy _ => s
  | .frame w _ =>
    let s := s.setPair { s.pair w with heard := s.cycle }
    let s := s.sends.foldl (fun s r => (r.owing w).foldl (fun s p => s.afterOnce (10 * Config.cyclesPerMs) (.peerUnreachable r.op p)) s) s
    s.xfers.foldl (fun s x => if x.sent.on w then s.afterOnce (10 * Config.cyclesPerMs) x.item else s) s

/-! ## Sending (R432) -/

/-- What another module answers to a token: one of the three answers, chosen freely (R433, log 12). -/
def State.freeResp (s : State) (k : Nat) : TokenResp :=
  let n := s.freeCount * 2 ^ 20 + 2 * k
  if Config.freeBool n then .admitted (Config.freeWord n).toNat else if Config.freeBool (n + 1) then .full else .fault

/-- Sends one token to an expert (R432): the faults that need no answer are known at once; on this module the arrival
follows; a Canopy peer answers; a scale-out peer answers or stays silent. -/
def State.sendToken (s : State) (o : Op) (k e : Nat) (tok : Token) : State :=
  let d := xd o.bytes
  let lost := fun (s : State) => s.respond o.id k .fault
  match s.expertOf o.ctx d e with
  | (s, .error _) => lost s
  | (s, .ok (p, pe, rbuf)) =>
    match s.engRead xTlb o.ctx o.priv ((d.payBase + tok.token * d.psz) % 2 ^ 64) d.psz with
    | (s, .error (c, a)) => lost (s.modOp o.id fun o => { o with fault := o.fault.orElse fun _ => some (c, dword a) })
    | (s, .ok pay) =>
      let t : Token := { tok with rbuf := dword rbuf, dctx := (s.ctx o.ctx).dctx, payload := pay, sender := s.moduleNo, op := o.id, entry := k
                                  psz := d.psz }
      let put := fun (s : State) (m : Option Sent) => s.modSend o.id fun r => { r with
        toks := r.toks.mapIdx fun i x => if i == k then { x with tok := t, peer := p, sent := m } else x }
      if pe.kind == 1 && pe.module == s.moduleNo then (put s none).later (.tokenArrival t)
      else if pe.kind == 1 && !s.reaches pe.module then lost (put s none)
      else
        let (s, dst) := s.dest pe
        let s := (put s (some (s.sentNow dst))).send (.token dst t)
        if pe.kind == 1 || Config.freeBool (s.freeCount * 2 ^ 20 + 2 ^ 19 + k) then (s.respond o.id k (s.freeResp k)).hear dst
        else s.awaitPeer o.id p

/-- The first round of an XSEND: sequence numbers, then every token in order (R432). -/
def State.startSend (s : State) (o : Op) : State :=
  match s.send? o.id with
  | none => s
  | some r =>
    let a := dword (o.data.getD 0 0)
    let x := s.xdesc o.ctx a
    let s := s.setXdesc { x with seq := x.seq + r.toks.length }
    let toks := r.toks.mapIdx fun i t => { t with tok := { t.tok with seq := (x.seq + i) % 2 ^ 64, round := 1 } }
    let s := s.modSend o.id fun r => { r with round := 1, toks := toks }
    (toks.zipIdx.foldl (fun s t => s.sendToken o t.2 t.1.tok.exp t.1.tok) s).sendCheck o.id

/-- The entries between head and tail of one peer (R432); an entry that cannot be read is left out, with its fault. -/
def State.takeList (s : State) (o : Op) (d : XD) (p head : Nat) : Nat → State × List SendTok
  | 0 => (s, [])
  | n + 1 =>
    let a := d.entry p head
    match s.engRead xTlb o.ctx o.priv a 32 with
    | (s, .error (c, e)) =>
      (s.modOp o.id fun o => { o with fault := o.fault.orElse fun _ => some (c, dword e) }).takeList o d p (head + 1) n
    | (s, .ok b) =>
      let t : Token := { exp := field b 0 2, alt := field b 2 2, src := field b 4 1, round := 0, token := field b 8 4, pos := field b 12 4
                         seq := 0, xid := field b 28 4, psz := d.psz, rbuf := 0, dctx := 0, payload := [], sender := 0, op := o.id, entry := 0 }
      let (s, l) := s.takeList o d p (head + 1) n
      (s, { addr := a, tok := t, status := 0, slot := 0, peer := p, sent := none, resp := none, fault := false } :: l)

/-- XSEND (R430, R432): it takes the entries at issue; XSENDs on one descriptor are performed one at a time. -/
def execXsend (x : X) (fin ret : Bool) (d a b : Opd) (s : State) : Result :=
  .next (s.issue (.xsend x fin ret d a b) x fun s th =>
    let va := s.rd64 th a
    let pb := (s.rd32 th b).toNat
    let ctx := (s.team th.team).ctx
    if s.flagFull th (th.flagOf x.sb) then (s, .stall (.flag (th.flagOf x.sb)))
    else match s.xCheck th va xdOk with
    | (s, .error n) => (s, n)
    | (s, .ok bs) =>
      let e := xd bs
      if e.npeer ≤ pb && pb != 2 ^ 32 - 1 then (s, .trap .reservedField va)
      else
        let peers := if pb == 2 ^ 32 - 1 then upto e.npeer else [pb]
        let id := s.nextId
        let (s, n) := s.engIssue th (.xsend x fin ret d a b) x [va.toNat] bs plainSlot .engineOpComplete
        match s.op? id with
        | none => (s, n)
        | some o =>
          let xs := s.xdesc ctx va
          let (s, l) := peers.foldl (fun (acc : State × List SendTok) p =>
            let (s, l) := acc.1.takeList o e p (xs.head p) (xs.tail p - xs.head p)
            (s, acc.2 ++ l)) (s, [])
          let s := s.setXdesc { xs with heads := peers.foldl (fun h p => assocSet h p (xs.tail p)) xs.heads }
          let busy := s.sends.any fun r => match s.op? r.op with
            | some p => p.ctx == ctx && p.data.getD 0 0 == va.toNat
            | none => false
          let s := { s with sends := s.sends ++ [⟨id, 0, l, [], none⟩] }
          (if busy then s else s.startSend o, n))

/-- An end marker counts for the module and for every buffer bound under its exchange (R433, R434). -/
def State.countEnd (s : State) (dctx xid : Nat) : State :=
  let n := s.endsOf dctx xid + 1
  let s : State :=
    { s with endMarks := s.endMarks.filter (fun (e : Nat × Nat × Nat) => !(e.1 == dctx && e.2.1 == xid)) ++ [(dctx, xid, n)] }
  s.recvBufs.foldl (fun s r =>
    if (s.ctx r.ctx).dctx != dctx then s
    else match s.engRead xTlb r.ctx true r.addr.toNat 64 with
      | (s, .error _) => s
      | (s, .ok b) =>
        if field b 20 4 != xid then s
        else
          let ends := field b 32 4 + 1
          let (s, _) := s.rbufSet r.ctx r.addr.toNat (field b 24 4) (field b 28 4) ends (field b 36 4) (field b 40 4) (field b 44 4)
          if field b 28 4 ≤ ends then s.closeRecv r else s) s

/-- An end marker to a peer was answered with a fault: the first such peer counts (R432). -/
def State.endLost (s : State) (op p : Nat) : State :=
  s.modSend op fun r => { r with endFault := some (min p (r.endFault.getD p)) }

/-- End markers of a finished send: to every present peer (R432), behind the tokens that its engine has sent before (R433). The
answer of a scale-out peer may stay away. -/
def State.sendEnds (s : State) (o : Op) : State :=
  let d := xd o.bytes
  (upto d.npeer).foldl (fun s p =>
    match s.peerOf o.ctx d p with
    | (s, .error _) => s.endLost o.id p
    | (s, .ok pe) =>
      if pe.kind == 0 then s
      else
        let dctx := (s.ctx o.ctx).dctx
        if pe.kind == 1 && pe.module == s.moduleNo then s.drainTokens.countEnd dctx d.xid
        else if pe.kind == 1 && !s.reaches pe.module then s.endLost o.id p
        else
          let (s, dst) := s.dest pe
          let s := s.send (.endMarker dst dctx d.xid)
          let n := s.freeCount * 2 ^ 20 + 2 ^ 18 + 2 * p
          if pe.kind == 1 || Config.freeBool n then (if Config.freeBool (n + 1) then s else s.endLost o.id p).hear dst
          else (s.modSend o.id fun r => { r with ends := r.ends ++ [(p, s.sentNow dst)] }).awaitPeer o.id p) s

/-- The result of a send whose rounds and end markers are over (R432); the next XSEND on its descriptor starts. -/
def State.sendOver (s : State) (op : Nat) : State :=
  match s.send? op, s.op? op with
  | some r, some o =>
    if !r.ends.isEmpty then s
    else
      let cnt := fun (k : Nat) => word (r.toks.filter fun t => t.status == k).length
      let ret : Option Opd := match o.instr with
        | .xsend _ _ true d _ _ => some d
        | _ => none
      let ws := match ret with
        | some d => runWrites d [cnt 1, cnt 2, cnt 3]
        | none => []
      let fault : Option (Cause × DWord) := match r.toks.find? SendTok.fault with
        | some t => some (.engineFault, dword t.addr)
        | none => r.endFault.map fun p => (.engineFault, dword ((xd o.bytes).peerBase + 32 * p))
      let s := s.modOp op fun x => { x with writes := ws, fault := x.fault.orElse fun _ => fault }
      let s := { s with sends := s.sends.filter fun x => x.op != op }
      let s := s.once (.engineOpComplete op)
      match s.sends.find? fun x => x.round == 0 && (match s.op? x.op with
          | some p => p.ctx == o.ctx && p.data.getD 0 0 == o.data.getD 0 0
          | none => false) with
      | some x => match s.op? x.op with
        | some p => s.startSend p
        | none => s
      | none => s
  | _, _ => s

/-- Every entry of a send is written back (R432). -/
def State.writeBackSend (s : State) (o : Op) : State :=
  match s.send? o.id with
  | none => s
  | some r => r.toks.foldl (fun s t => match s.engWrite xTlb o.ctx o.priv .write t.addr (headerBytes t.tok t.status t.slot) with
    | (s, .ok _) => s
    | (s, .error (c, e)) =>
      let s := s.sealStop o.ctx (c, e)
      s.modOp o.id fun o => { o with fault := o.fault.orElse fun _ => some (c, dword e) }) s

/-- The status of an entry after a response (R432). -/
def SendTok.settle (t : SendTok) (a : TokenResp) : SendTok := match a with
  | .admitted n => { t with status := t.tok.round, slot := n }
  | .full => { t with status := 3 }
  | .fault => { t with fault := true }

/-- XSEND_ROUND_2 (R432): the responses of a round are known. After the first round the entries that were full go to their
second choice; after the last the entries are written back and the end markers sent. -/
def execXsendRound2 (op : Nat) (resp : List TokenResp) (s : State) : Result :=
  .next (match s.send? op, s.op? op with
    | some r, some o =>
      if r.round == 0 || r.toks.any SendTok.open_ || resp.length != r.toks.length then s
      else
        let again := r.toks.zipIdx.map fun t =>
          r.round == 1 && resp.getD t.2 .full == .full && t.1.tok.alt != 0xFFFF && !t.1.fault
        let toks := r.toks.mapIdx fun i t =>
          if again.getD i false then { t with resp := none, sent := none, tok := { t.tok with round := 2 } }
          else if r.round == 2 && t.tok.round == 1 then t
          else t.settle (resp.getD i .full)
        let s := s.modSend op fun r => { r with toks := toks, round := 2 }
        if again.any id then
          (toks.zipIdx.foldl (fun s t => if again.getD t.2 false then s.sendToken o t.2 t.1.tok.alt t.1.tok else s) s).sendCheck op
        else
          let s := s.writeBackSend o
          let s := match o.instr with
            | .xsend _ true _ _ _ _ => s.sendEnds o
            | _ => s
          s.sendOver op
    | _, _ => s)

/-! ## Other arrivals (R433) -/

/-- END_MARKER_ARRIVAL (R433, R434): another module's marker counts, and is acknowledged; without an instance of its domain
context it is answered with a fault. -/
def execEndMarkerArrival (dctx xid peer : Nat) (s : State) : Result :=
  .next (match s.instance? dctx with
    | none => s.send (.endMarkerAck peer dctx xid false)
    | some _ => (s.countEnd dctx xid).send (.endMarkerAck peer dctx xid true))

/-- A token has been held for 2^20 cycles at an unbound buffer (R433). -/
def execTokenHoldTimeout (hold : Nat) (s : State) : Result :=
  .next (match s.heldToks.find? fun k => k.id == hold with
    | none => s
    | some k =>
      if s.nowCycle < k.since + Config.longWait then s
      else
        let s : State := { s with heldToks := s.heldToks.filter fun (x : HeldToken) => x.id != hold }
        s.answer k.tok .fault)

/-- A transfer's item is over (R437): every byte acknowledged, or an engine fault. -/
def State.xferOver (s : State) (x : XferRec) (ok : Bool) : State :=
  let s : State := { s with xfers := s.xfers.erase x }
  s.itemEnd x.session x.queue x.seq (if ok then 0 else causeCode .engineFault) []

/-- Transfers to a peer whose frames are due are sent again; this time it may answer (R427, R437). -/
def State.resendXfers (s : State) (peer : Nat) : State :=
  (s.xfers.filter fun x => x.peer == peer && s.resends x.sent).foldl (fun s x =>
    let s := s.send (.transfer x.sent.dest x.dctx x.va x.data)
    let s := { s with xfers := s.xfers.map fun (y : XferRec) => if y.item == x.item then { y with sent := { y.sent with last := s.cycle } } else y }
    let n := s.freeCount * 2 ^ 20 + 2 ^ 16 + 2 * x.seq
    if Config.freeBool n then (s.xferOver { x with sent := { x.sent with last := s.cycle } } (Config.freeBool (n + 1))).hear x.sent.dest
    else s.afterOnce (50 * Config.cyclesPerUs) (.exchangeRetransmit peer)) s

/-- The tokens of a send to a peer whose frames are due are sent again, each with its sequence number (R427). -/
def State.resendToks (s : State) (peer : Nat) (r : SendRec) : State :=
  r.toks.zipIdx.foldl (fun s t => match t.1.sent with
    | none => s
    | some m =>
      if !t.1.open_ || t.1.peer != peer || !s.resends m then s
      else
        let s := s.send (.token m.dest t.1.tok)
        let s := s.modSend r.op fun r => { r with
          toks := r.toks.mapIdx fun i x => if i == t.2 then { x with sent := some { m with last := s.cycle } } else x }
        if Config.freeBool (s.freeCount * 2 ^ 20 + t.2) then (s.respond r.op t.2 (s.freeResp t.2)).hear m.dest
        else s.afterOnce (50 * Config.cyclesPerUs) (.exchangeRetransmit peer)) s

/-- The end marker of a send to a peer is sent again when its frame is due (R427). -/
def State.resendEnd (s : State) (peer : Nat) (r : SendRec) : State :=
  match s.op? r.op, r.ends.find? fun e => e.1 == peer && s.resends e.2 with
  | some o, some (_, m) =>
    let s := s.send (.endMarker m.dest (s.ctx o.ctx).dctx (xd o.bytes).xid)
    let n := s.freeCount * 2 ^ 20 + 2 ^ 17 + 2 * peer
    if Config.freeBool n then
      let s := s.modSend r.op fun r => { r with ends := r.ends.filter fun e => e.1 != peer }
      ((if Config.freeBool (n + 1) then s else s.endLost r.op peer).hear m.dest).sendOver r.op
    else
      (s.modSend r.op fun r => { r with ends := r.ends.map fun e => if e.1 == peer then (e.1, { m with last := s.cycle }) else e }).afterOnce
        (50 * Config.cyclesPerUs) (.exchangeRetransmit peer)
  | _, _ => s

/-- EXCHANGE_RETRANSMIT (R427): a scale-out peer's frames that have gone unacknowledged for 50 µs are sent again; this time it may
answer. -/
def execExchangeRetransmit (peer : Nat) (s : State) : Result :=
  .next (((s.sends.foldl (fun s r => s.resendEnd peer r) (s.sends.foldl (fun s r => s.resendToks peer r) s))).resendXfers peer)

/-- PEER_UNREACHABLE (R432): what a scale-out peer has not answered for 10 ms is answered as a fault. -/
def execPeerUnreachable (op peer : Nat) (s : State) : Result :=
  .next (match s.send? op with
    | none => s
    | some r =>
      let due := r.toks.zipIdx.filter fun t => t.1.open_ && t.1.peer == peer && t.1.sent.any s.silent
      let z := due.foldl (fun s t => s.respond op t.2 .fault) s
      if r.ends.any fun e => e.1 == peer && s.silent e.2 then
        ((z.modSend op fun r => { r with ends := r.ends.filter fun e => e.1 != peer }).endLost op peer).sendOver op
      else z)

/-- R434, R401: a context enters trap-save: its buffers close, and tokens held for it are answered full. -/
def State.closeExchange (s : State) (ctx : Nat) : State :=
  let s := (s.recvBufs.filter fun r => r.ctx == ctx).foldl State.closeRecv s
  let mine := s.heldToks.filter fun k => (s.instance? k.tok.dctx).any fun c => c.id == ctx
  let s := { s with heldToks := s.heldToks.filter fun k => !mine.contains k }
  mine.foldl (fun s k => s.answer k.tok .full) s

end Sys2Proof.Machine
end

