-- ==== Sys2Proof/Machine/Ladder.lean ====
section
/-!
DEFINITION. The pre-emption ladder (R400 to R405): drain, trap-save with save-exit and team images, the saved state, and the
forced reset.
-/

namespace Sys2Proof.Machine

/-- STATE of `PREEMPT_CTL` (R400). -/
def Context.stage (c : Context) : Nat := c.preemptCtl.toNat / 2 ^ 29

/-- Sets STATE of `PREEMPT_CTL`. -/
def State.setStage (s : State) (ctx n : Nat) : State :=
  s.modCtx ctx fun c => { c with preemptCtl := word (c.preemptCtl.toNat % 2 ^ 29 + n * 2 ^ 29) }

/-- D1 in cycles, as the ladder found it (R400). -/
def Context.drainCycles (c : Context) : Nat := c.preemptLive.toNat % 256 * Config.cyclesPerMs
/-- D2 in cycles, as the ladder found it (R400). -/
def Context.saveCycles (c : Context) : Nat := max 1 (c.preemptLive.toNat / 256 % 256) * Config.cyclesPerMs

/-- Teams of a context. -/
def State.ctxTeams (s : State) (ctx : Nat) : List Team := s.teams.filter fun t => t.ctx == ctx
/-- Threads of a context. -/
def State.ctxThreads (s : State) (ctx : Nat) : List Thread := s.threads.filter fun u => (s.team u.team).ctx == ctx
/-- Groups that host threads of a context. -/
def State.ctxGroups (s : State) (ctx : Nat) : List Nat :=
  (s.groups.filter fun g => s.threads.any fun u => u.group == g.id && (s.team u.team).ctx == ctx).map Group.id

/-- The pre-empt item of a context reaches its end (R435). -/
def State.ladderReport (s : State) (ctx : Nat) : State := match (s.ctx ctx).saveItem with
  | some (x, q, n) => (s.modCtx ctx fun c => { c with saveItem := none }).itemEnd x q n 0 []
  | none => s

/-- Step saved of the ladder. -/
def State.ladderSaved (s : State) (ctx : Nat) : State := ((s.setStage ctx 4).ladderReport ctx).admitAll.once .taskDispatch

/-! ## Discarding work -/

/-- Work of a context in flight: the launches of which a cluster has been admitted or a task is outstanding (R401). -/
def State.inFlight (s : State) (ctx : Nat) : List Launch :=
  s.launches.filter fun l => l.ctx == ctx && !l.done && (l.next != 0 || l.tasks != 0)

/-- A launch ends failed at once. -/
def State.endLaunch (s : State) (l : Launch) (code : Nat) : State :=
  (s.modLaunch l.id fun x => { x with done := true, left := 0, tasks := 0 }).itemEnd l.session l.queue l.seq code
    (leBytes 8 l.number.toNat)

/-- Resources of a set of teams are free: threads, groups, beads, operations and all that stands for them. Bytes that an
operation has written remain, and nothing further is written for it. -/
def State.dropTeams (s : State) (ts : List Nat) : State :=
  let us := (s.threads.filter fun u => ts.contains u.team).map Thread.id
  let gs := (s.groups.filter fun g => s.threads.any fun u => u.group == g.id && ts.contains u.team).map Group.id
  let cores := ((s.groups.filter fun g => gs.contains g.id).map Group.core
    ++ (s.teams.filter fun t => ts.contains t.id).map Team.home).eraseDups
  let ops := (s.ops.filter fun o => ts.contains o.team).map Op.id
  let pts := (s.points.filter fun p => us.contains p.thread).map PointRec.id
  let cs := (s.teams.filter fun t => ts.contains t.id).map Team.cluster
  let s := s.dropHeld us
  let areas := (s.beads.filter fun b => us.contains b.thread && b.spill.isSome).map fun b => (s.ctxOf (s.th b.thread)).id
  let s : State := { s with
    cores := s.cores.map fun c => { c with
      matQueue := c.matQueue.filter fun o => !gs.contains o.group
      matRun := c.matRun.filter fun o => !gs.contains o.group }
    teams := s.teams.filter fun t => !ts.contains t.id
    groups := s.groups.filter fun g => !gs.contains g.id
    threads := s.threads.filter fun u => !ts.contains u.team
    beads := s.beads.filter fun b => !us.contains b.thread
    ops := s.ops.filter fun o => !ops.contains o.id
    batches := s.batches.filter fun b => !us.contains b.thread
    points := s.points.filter fun p => !pts.contains p.id
    publishes := s.publishes.filter fun p => !us.contains p.thread
    phases := s.phases.filter fun p => !ts.contains p.team
    ranges := s.ranges.filter fun r => !ts.contains r.team
    recvBufs := s.recvBufs.filter fun r => !ops.contains r.op
    sends := s.sends.filter fun r => !ops.contains r.op
    logQueue := s.logQueue.filter fun o => !ops.contains o
    issues := s.issues.filter fun i => !i.all.any us.contains }
  let s : State := { s with
    clusters := s.clusters.filter fun c => !cs.contains c.id || s.teams.any fun t => t.cluster == c.id }
  let s := s.unfuse
  let s := areas.eraseDups.foldl State.areaFreed s
  cores.foldl (fun s c => (s.freed c).tilesFreed c) s

/-- A task that a team was running does not finish: it fails with a cause (R357). -/
def State.failTasks (s : State) (ts : List Team) (c : Cause) : State :=
  ts.foldl (fun s t => match t.task with
    | some r => (s.taskFail t.ctx t.launch t.number c (s.ringEntry t.ctx r) r.q).countTask t.launch false
    | none => s) s

/-- The queued records of a context, of launches and of items, do not run: their entries are dead, and each task fails (R357). -/
def State.deadRecords (s : State) (ctx : Nat) (c : Cause) : State :=
  let dead := (s.ctx ctx).queues.flatMap fun q => q.recs.filter fun r => !r.entryBad
  let s := dead.foldl (fun s r => s.taskFail ctx r.owner (s.ownerNumber r.owner) c (s.ringEntry ctx r) r.q) s
  s.modCtx ctx fun x => { x with queues := x.queues.map fun q => { q with recs := q.recs.map fun r => { r with entryBad := true } } }

/-- Postings that the distributor keeps for joins and streams are dropped: their tasks fail (R357). -/
def State.failKept (s : State) (ctx : Nat) (c : Cause) : State :=
  ((s.ctx ctx).kept.filter fun p => p.post.isNone).foldl (fun s p =>
    (s.taskFail ctx p.task.owner (s.ownerNumber p.task.owner) c (((s.ctx ctx).queue? p.q).elim 0 fun k => k.ring.toNat) p.q).countTask
      p.task.owner false) s

/-- All the work that a context holds ends failed with a cause; images and kept postings are discarded (R401, R411). -/
def State.discardWork (s : State) (ctx : Nat) (c : Cause) : State :=
  let ls := s.inFlight ctx
  let s := s.failTasks (s.ctxTeams ctx) c
  let s := s.dropTeams ((s.ctxTeams ctx).map Team.id)
  let s := ({ s with clusters := s.clusters.filter fun x => x.ctx != ctx } : State).unfuse
  let s := (s.failKept ctx c).deadRecords ctx c
  let s := s.modCtx ctx fun x => { x with kept := x.kept.filter fun p => p.post.isSome && s.threads.any fun u => some u.id == p.post.map (·.1) }
  let s := ls.foldl (fun s l => s.endLaunch l (causeCode c)) s
  (s.dropImages ctx fun _ => true).admitAll.once .taskDispatch

/-- Step forced reset of the ladder (R401): every launch in flight fails, every image and resource is gone, the report is made
and STATE returns to 0. -/
def State.forcedReset (s : State) (ctx : Nat) : State :=
  (((s.setStage ctx 3).discardWork ctx .preemption).setStage ctx 0).ladderReport ctx

/-! ## Delivery of 0x50 (R402) -/

/-- Whether a thread waits for a signature of its group that has not issued. -/
def State.signOpen (s : State) (u : Thread) : Bool :=
  (s.group u.group).g.toList.any fun c => hasBit c.signed u.rank && c.pc == u.pc

/-- Takes a thread out of what holds it, when 0x50 may be taken there (R120, R176, R197, R304, R399); none while an interlock
or an engine operation holds it. -/
def State.unhold (s : State) (u : Thread) : Option State := match u.hold with
  | .none | .sleep _ | .waitj _ | .trap => some s
  | .lane => some (s.modGroup u.group fun g => { g with arrivals := g.arrivals.filter fun r => r.thread != u.id })
  | .waitObj t q _ _ _ => some (s.objSet t q oWCNT (s.obj t q oWCNT + 2 ^ 32 - 1))
  | .reorder => some (s.withdrawReorder u.id)
  | .move => some (s.modGroup u.group fun g => { g with moveHold := false })
  | .sign => if s.signOpen u then some s else none
  | .tile _ _ | .flags | .op _ | .publish _ | .point _ | .bead | .spec | .tpost _ => none

/-- A thread takes 0x50 at its next instruction boundary (R402): it stands at its next instruction, its reductions are
flushed, and an earlier trap stays pending. -/
def State.take50 (s : State) (t : Nat) : State :=
  let u := s.th t
  let gr := s.group u.group
  if u.status != .live || !gr.resident || gr.saved || u.preempt.isSome || u.handler.isSome || u.spec.isSome then s
  else match s.unhold u with
    | none => s
    | some s =>
      let s := if u.redBuf.isEmpty then s else
        let (s, id) := s.flushPoint t false none none
        s.later (.reductionApply id)
      s.modTh t fun u => { u with preempt := some u.pc, hold := .trap }

/-- Every thread of a context's resident groups that can takes 0x50, and the groups whose threads all have enter its handler
(R402). A speculating group is rolled back first (R399). -/
def State.sweep50 (s : State) (ctx : Nat) : State :=
  let c := s.ctx ctx
  if c.frozen then s
  else (s.ctxGroups ctx).foldl (fun s g =>
    if !(s.group g).resident then s
    else
      let s := s.rollbackGroup g
      let s := (s.liveOf g).foldl (fun s u => s.take50 u.id) s
      if (s.liveOf g).all fun u => u.preempt.isSome then s.enterHandlers g else s) s

/-! ## Images -/

/-- R402 step 2: every flag count of a thread equals the number of its signatures that are still open. -/
def State.flagsSettled (s : State) (u : Thread) : Bool :=
  (List.finRange 12).all fun f => u.flagCount f ==
    ((s.group u.group).g.toList.map fun c => (c.caps.filter fun k => k.thread == u.id && k.flag == some f).length).sum

/-- R402 steps 2 and 3, R403: nothing of a group's threads is outstanding. -/
def State.quiet (s : State) (g : Nat) : Bool :=
  (s.liveOf g).all fun u => s.flagsSettled u && !s.publishes.any (fun p => p.thread == u.id) && !s.ops.any (fun o => o.thread == u.id)
    && !s.points.any fun p => p.thread == u.id && p.object.isNone

/-- Save-exit of one group (R402 steps 4 and 5), or the saved image of a parked group, whose park image is then freed (R401).
The Boolean tells whether the image found room. -/
def State.saveExit (s : State) (g : Nat) : State × Bool :=
  let gr := s.group g
  let ctx := match s.liveOf g with
    | u :: _ => (s.team u.team).ctx
    | [] => 0
  let s := s.publishCore gr.core 0xFF#8
  match s.saveGroup g 1 with
  | (s, false) => (s, false)
  | (s, true) =>
    let s := s.modGroup g fun x => { x with resident := false, saved := true }
    let s := s.unTimer fun i => i == .handlerWatchdog g
    let s := (s.liveOf g).foldl (fun s u => s.withdrawReorder u.id) s
    let s := if gr.resident then s else s.dropImages ctx fun i => i.kind == 2 && i.reason == 2 && i.group == g
    ((s.freed gr.core).tilesFreed gr.core, true)

/-- Whether a team is parked. -/
def Team.isParked (t : Team) : Bool := t.state == .parked || t.state == .readyParked

/-- A fault of an engine operation that a thread of a group holds when its save-exit would write the image: it is delivered at
the GEXIT, which it prevents (R326, R416, log 65). -/
def State.saveFault (s : State) (g : Nat) : Option (Nat × FaultRec) :=
  (s.liveOf g).findSome? fun u => u.engineFault.map fun f => (u.id, f)

/-- Groups of a team that can be saved now are, and a group without room ends the ladder (R402, R405). -/
def State.saveGroups (s : State) (ctx team : Nat) : State :=
  (s.teamGroups team).foldl (fun s g =>
    let gr := s.group g
    if (s.ctx ctx).stage != 2 then s
    else if gr.resident && gr.saved && s.quiet g && (s.saveFault g).isSome then match s.saveFault g with
      | some (t, f) => s.deliver t f (s.nextId * 8)
      | none => s
    else if (gr.resident && gr.saved && s.quiet g) || (!gr.resident && !gr.saved && gr.beadCores.isEmpty && (s.team team).isParked) then
      match s.saveExit g with
      | (s, true) => s
      | (s, false) => s.forcedReset ctx
    else s) s

/-- The last image of a context has been written (R401). -/
def State.savedCheck (s : State) (ctx : Nat) : State :=
  if (s.ctx ctx).stage == 2 && (s.ctxTeams ctx).all fun t => t.state == .saved then s.ladderSaved ctx else s

/-- TEAM_IMAGE_WRITE (R401 to R405, R409): the images of a team's groups once their waits are over; the team's own image once
no group of it is resident and no operation of it is outstanding. -/
def execTeamImageWrite (team : Nat) (s : State) : Result :=
  .next (match s.teams.find? fun t => t.id == team with
    | none => s
    | some m =>
      let ctx := m.ctx
      if (s.ctx ctx).stage != 2 || (s.ctx ctx).frozen || m.state == .saved then s
      else
        let s := s.saveGroups ctx team
        let gs := s.teamGroups team
        if (s.ctx ctx).stage != 2 || gs.isEmpty || (s.team team).state == .parking || (s.team team).state == .parkingReady
            || gs.any (fun g => (s.group g).resident) || s.ops.any (fun o => o.team == team) then s
        else match s.saveTeam team with
          | (s, false) => s.forcedReset ctx
          | (s, true) =>
            let s := (s.modTeam team fun t => { t with state := .saved }).once (.teamResident m.home)
            s.admitAll.savedCheck ctx)

/-! ## The steps -/

/-- Step trap-save (R401): exchange receives end (R434), every resident group takes 0x50 and every team is to be saved. -/
def State.trapSave (s : State) (ctx : Nat) : State :=
  let s := (s.setStage ctx 2).modCtx ctx fun c => { c with ladderAt := s.cycle }
  let s := s.after (s.ctx ctx).saveCycles (.trapSaveDeadline ctx)
  let s := (s.closeExchange ctx).sweep50 ctx
  ((s.ctxTeams ctx).foldl (fun s t => s.once (.teamImageWrite t.id)) s).savedCheck ctx

/-- What the ladder of a context looks for at every pass: the end of a drain, threads that may take 0x50 now, and images that
may be written now. -/
def State.ladderPoll (s : State) (ctx : Nat) : State :=
  let c := s.ctx ctx
  if c.frozen then s
  else if c.stage == 1 then (if (s.ctxTeams ctx).isEmpty then s.ladderSaved ctx else s)
  else if c.stage == 2 then
    let s := s.sweep50 ctx
    (((s.ctxTeams ctx).filter fun t => t.state != .saved).foldl (fun s t => s.once (.teamImageWrite t.id)) s).savedCheck ctx
  else s

/-- A pre-emption request for a context whose STATE is 0 (R400, R401). Its clusters block no other from now on (R152). -/
def State.startLadder (s : State) (ctx : Nat) : State :=
  let s := s.modCtx ctx fun c => { c with preemptLive := c.preemptCtl, ladderAt := s.cycle }
  if (s.ctx ctx).drainCycles == 0 then (s.trapSave ctx).admitAll
  else ((s.setStage ctx 1).after (s.ctx ctx).drainCycles (.drainDeadline ctx)).admitAll.ladderPoll ctx

/-- The drain deadline D1 (R401); a freeze stops it until release (R248). -/
def execDrainDeadline (ctx : Nat) (s : State) : Result :=
  .next (
    let c := s.ctx ctx
    if c.stage != 1 || c.frozen || s.nowCycle < c.ladderAt + c.drainCycles then s else s.trapSave ctx)

/-- The trap-save deadline D2 (R401); a freeze stops it until release (R248). -/
def execTrapSaveDeadline (ctx : Nat) (s : State) : Result :=
  .next (
    let c := s.ctx ctx
    if c.stage != 2 || c.frozen || s.nowCycle < c.ladderAt + c.saveCycles then s else s.forcedReset ctx)

/-- Pre-empt item (R401, R435): it ends at STATE 4 or at the forced reset. -/
def execPreempt (h : Hdr) (s : State) : Result :=
  .next (s.ctxItem h (.preempt h) fun s c =>
    if c.stage != 0 then s.itemDone h 0x86 []
    else (s.modCtx c.id fun c => { c with saveItem := some (h.session, h.queue, h.seq) }).startLadder c.id)

end Sys2Proof.Machine
end

