-- ==== Sys2Proof/Machine/Restore.lean ====
section
/-!
DEFINITION. Restoring saved clusters and unparking teams (R156, R411 to R413).
-/

namespace Sys2Proof.Machine

/-! ## One thread and one group -/

/-- The equivalence record that a restore sets from the image of a thread that left its 0x50 handler (R199, R408): `TRAP_EQP` gives
the number, and the point at `TRAP_PCX` the function. -/
def State.imageEqp (s : State) (u : Thread) : Option EqpRec :=
  if u.trapEqp == 0xFFFFFFFF#32 then none
  else (s.pointOf u u.trapPcx).map fun p => { p.1 with num := u.trapEqp.toNat }

/-- A restored or unparked thread stands at its resumption point as a clause start entered by a trap return (R397, R413). A
saved thread leaves its 0x50 handler; a pending trap is held again. -/
def State.reviveThread (s : State) (u : Thread) : State :=
  let ctx := (s.team u.team).ctx
  let saved : Bool := match u.handler with
    | some h => h.cause == .preemption
    | none => false
  let portable : Bool := match s.imageAt ctx u.trapPcn.toNat with
    | some (_, im) => im.kind == 1
    | none => u.portable
  let (s, e) := if saved then s.leaveTrap u.id u.trapPcn portable else
    (s.modTh u.id fun u => { u with clause := none, entered := false, byTransfer := false }, none)
  let s := s.modTh u.id fun v => { v with eqp := if saved then s.imageEqp u else v.eqp }
  let s := s.modTh u.id fun u => { u with
    hold := if u.pend.isSome then .trap else if u.reorder.isSome then .reorder else .none
    preempt := none, waitCount := 0 }
  match e with
  | some (c, a) => s.raise u.id (plainTrap c (dword a) u.trapPcn false (s.nextId * 8))
  | none => s

/-- A group is seated on a core with its state: tiles, open signatures, whose counts start again at 0, and its threads
(R252, R412, R413). -/
def State.reviveGroup (s : State) (g core : Nat) : State :=
  let s := s.modGroup g fun x => { x with
    core := core, saved := false
    g := x.g.map fun c => if c.signed == 0 then c else { c with since := s.cycle } }
  let s := s.seat g (slicesOf ((s.liveOf g).map Thread.rank))
  let s := s.acquireCore core
  let s := (List.finRange 8).foldl (fun s r =>
    if (s.conv g r).signed == 0 then s else s.after (Config.longWait + 1) (.signatureAbandon g r)) s
  ((s.liveOf g).foldl (fun s u => s.reviveThread u) s).enterHandlers g

/-! ## Clusters (R412) -/

/-- The launch shape of a cluster: CW, CH, NT, allowed kinds, K and PRIO; a task's cluster is one core. -/
def State.clusterShape (s : State) (c : Cluster) : Nat × Nat × Nat × List CoreKind × Nat × Nat :=
  match s.teams.find? fun t => t.cluster == c.id with
  | none => (1, 1, 1, [], 0, 0)
  | some t =>
    if t.task.isSome then (1, 1, 1, t.kinds, t.spadK, t.prio)
    else
      let g := geomOf (s.launchOf c.launch).geom
      (g.cw, g.ch, g.nt, t.kinds, t.spadK, t.prio)

/-- Seats the saved groups of a cluster on cores of their kinds in its glade (R412); none when one does not fit. -/
def State.seatSaved (s : State) (glade : Nat) : List Nat → Option State
  | [] => some s
  | g :: r =>
    let gr := s.group g
    match (coresOf (kindOf gr.core) (gladeCores glade)).find? fun c =>
        s.fits c (slicesOf ((s.liveOf g).map Thread.rank)) (s.groupB g) && gr.tiles.length + s.tilesUsed c ≤ tileCap (kindOf c) with
    | none => none
    | some c => (s.reviveGroup g c).seatSaved glade r

/-- Groups of a cluster's beads stand in the new glade's bead store with their lists of cores, and are placed (R192, R412). -/
def State.reviveBeads (s : State) (glade : Nat) (rect : List Nat) (g : Nat) : State :=
  let gr := s.group g
  let old := gr.beadCores.headD 0
  let core := (s.liveOf g).any fun u => (u.reorder.map ReorderRec.core).getD false
  let cores := if core then [12 * glade + old % 12] else coresOf (kindOf old) rect
  ((s.liveOf g).foldl (fun s u => s.storeBead u.id) (s.modGroup g fun x => { x with beadCores := cores })).placeRod g

/-- Tries to restore a cluster whole in one glade (R412). -/
def State.restoreIn (s : State) (c : Cluster) (glade : Nat) : Option State :=
  let (cw, ch, nt, ks, k, _) := s.clusterShape c
  match s.placeIn cw ch nt ks k glade with
  | none => none
  | some (rect, homes) =>
    let ts := s.teams.filter fun t => t.cluster == c.id
    let s := s.modCluster c.id fun x => { x with rect := rect, cores := homes, state := .placed, restored := false }
    let s := ts.foldl (fun s t =>
      let home := homes.getD t.hteam (homes.headD 0)
      let started := (s.teamGroups t.id).any fun g => (s.group g).saved || !(s.group g).beadCores.isEmpty
      let base := (s.spadRange home t.spadK).getD 0
      let s := s.modTeam t.id fun x => { x with
        home := home, base := base, state := if started then .resident else .waiting, stallAt := none, blockedAt := none }
      if started then s else ((s.teamGroups t.id).foldl (fun s g => s.modGroup g fun x => { x with core := home }) s).once
        (.teamResident home)) s
    let gs := (ts.flatMap fun t => s.teamGroups t.id).eraseDups
    let s := (gs.filter fun g => !(s.group g).beadCores.isEmpty).foldl (fun s g => s.reviveBeads glade rect g) s
    match s.seatSaved glade (gs.filter fun g => (s.group g).saved) with
    | none => none
    | some s => some ((s.dropImages c.ctx fun i => ts.any fun t => t.id == i.team).modCtx c.ctx fun x =>
        { x with startGlade := (glade + 1) % Config.nGlades })

/-- Where a try of a queued restored cluster begins (R151, R412): at its launch's GLADE, or at the context's pointer. -/
def State.restoreStart (s : State) (c : Cluster) : Nat :=
  let g := if s.teams.any (fun t => t.cluster == c.id && t.task.isSome) then 255 else (geomOf (s.launchOf c.launch).geom).glade
  if g < 96 then g else (s.ctx c.ctx).startGlade

/-- Restores a cluster in the first glade from `start` on that takes it (R151, R412); the Boolean tells whether one did. -/
def State.restoreCluster (s : State) (c : Cluster) (start : Nat) : State × Bool :=
  match (upto Config.nGlades).findSome? fun i => s.restoreIn c ((start + i) % Config.nGlades) with
  | some s => (s, true)
  | none => (s, false)

/-- The checks of R411 on every image of a context. -/
def State.imagesUsable (s : State) (ctx : Nat) : List SaveImg → State × Bool
  | [] => (s, true)
  | i :: r => match s.imageUsable ctx i with
    | (s, false) => (s, false)
    | (s, true) => s.imagesUsable ctx r

/-- Clusters of a context that hold saved teams, in launch acceptance order and by `%hclu`. -/
def State.savedClusters (s : State) (ctx : Nat) : List Cluster :=
  (sortKey ((s.clusters.filter fun c => c.ctx == ctx && s.teams.any fun t => t.cluster == c.id && t.state == .saved).map
    fun c => ((s.launchOf c.launch).order * 2 ^ 32 + c.hclu, c))).map (·.2)

/-- The glade at which the search of a resume begins: R412 leaves it open, and it is a free value (log 3). -/
def State.resumeStart (s : State) : Nat := (Config.freeWord (s.freeCount * 2 ^ 20 + 2 ^ 15)).toNat % Config.nGlades

/-- Restores a saved context (R411, R412): each cluster at once where it fits, else queued; the result is the report's code. -/
def State.resumeCtx (s : State) (ctx : Nat) : State × Nat :=
  if (s.ctx ctx).stage != 4 then (s, 0x86)
  else match s.imagesUsable ctx (s.ctx ctx).images with
  | (s, false) => ((s.discardWork ctx .imageLost).setStage ctx 0, 0x52)
  | (s, true) =>
    let start := s.resumeStart
    let s := s.setStage ctx 0
    let (n, s) := s.fresh
    let s := (s.savedClusters ctx).foldl (fun s c =>
      match s.restoreCluster c start with
      | (s, true) => s
      | (s, false) => s.modCluster c.id fun x =>
        { x with state := .queued, restored := true, order := n, die := start / 12 }) s
    (s.admitAll.once .taskDispatch, 0)

/-- Resume item (R412, R435). -/
def execResume (h : Hdr) (s : State) : Result :=
  .next (s.ctxItem h (.resume h) fun s c => match s.resumeCtx c.id with
    | (s, code) => s.itemDone h code [])

/-! ## Admission of pending clusters (R152) -/

/-- A pending cluster of an admission queue: the next one of a launch, or a restored one. -/
inductive Pending where
  | fresh (l : Launch)
  | back (c : Cluster)

/-- The place of a pending cluster in its queue (R152, R412): PRIO, acceptance, launch, `%hclu`. -/
def State.pendingKey (s : State) : Pending → Nat
  | .fresh l => (7 - (geomOf l.geom).prio) * 2 ^ 192 + l.order * 2 ^ 128 + l.order * 2 ^ 64 + l.next
  | .back c =>
    let (_, _, _, _, _, prio) := s.clusterShape c
    (7 - prio) * 2 ^ 192 + c.order * 2 ^ 128 + (s.launchOf c.launch).order * 2 ^ 64 + c.hclu

/-- The pending clusters of a die that may be tried now, in order (R152). -/
def State.pending (s : State) (die : Nat) : List Pending :=
  let runs := fun (ctx : Nat) => (s.ctx ctx).stage == 0
  let fresh := (s.launches.filter fun l => !l.done && l.die == die && l.next < (geomOf l.geom).count && runs l.ctx).map
    Pending.fresh
  let back := (s.clusters.filter fun c => c.state == .queued && c.die == die && runs c.ctx).map Pending.back
  (sortKey ((fresh ++ back).map fun p => (s.pendingKey p, p))).map (·.2)

/-- CLUSTER_ADMIT (R151, R152): the first pending cluster of a die's queue is placed; one that fits nowhere blocks the rest. -/
def execClusterAdmit (die : Nat) (s : State) : Result :=
  .next (match s.pending die with
    | [] => s
    | .fresh l :: _ => match s.admitLaunch l with
      | (s, true) => s.once (.clusterAdmit die)
      | (s, false) => s
    | .back c :: _ => match s.restoreCluster c (s.restoreStart c) with
      | (s, true) => s.once (.clusterAdmit die)
      | (s, false) => s)

end Sys2Proof.Machine
end

