-- ==== Sys2Proof/Machine/Admit.lean ====
section
/-!
DEFINITION. The candidates of a core (R154, R353), parking and unparking (R155 to R157), the team stall (R168, R169), the end of a
SLEEP (R120), and the choice of a group's next handler entry with its watchdog (R394, R395).
-/

namespace Sys2Proof.Machine

/-! ## Becoming resident (R154) -/

/-- The teams that share groups with some teams, in any number of steps: they park and unpark together. -/
def State.sharing (s : State) : Nat → List Nat → List Nat
  | 0, ts => ts
  | n + 1, ts =>
    let gs := (ts.flatMap s.teamGroups).eraseDups
    let more := (ts ++ (s.threads.filter fun u => u.status == .live && gs.contains u.group).map Thread.team).eraseDups
    if more.length == ts.length then ts else s.sharing n more

/-- The teams that park and unpark with a team. -/
def State.parkSet (s : State) (t : Nat) : List Nat := s.sharing s.teams.length [t]

/-- Bytes of a group's whole register holding (R145). -/
def State.groupBytes (s : State) (g : Nat) : Nat := sliceCount (slicesOf ((s.liveOf g).map Thread.rank)) * 32 * s.groupB g

/-- Whether all the groups of a candidate fit at once (R145, R154). -/
def State.candFits (s : State) (t : Team) : Bool :=
  if t.state == .waiting then
    let n := (s.teamGroups t.id).length
    s.takes t.home n (n * 128 * t.regsB)
  else
    let gs := ((s.parkSet t.id).flatMap s.teamGroups).eraseDups
    ((gs.map fun g => (s.group g).core).eraseDups).all fun c =>
      let here := gs.filter fun g => (s.group g).core == c
      s.takes c here.length (here.map s.groupBytes).sum

/-- The park image of a group. -/
def State.parkImage? (s : State) (ctx g : Nat) : Option SaveImg :=
  (s.ctx ctx).images.find? fun i => i.kind == 2 && i.reason == 2 && i.group == g

/-- The checks of R411 on the park images of some groups. -/
def State.parkUsable (s : State) (ctx : Nat) : List Nat → State × Bool
  | [] => (s, true)
  | g :: r => match s.parkImage? ctx g with
    | none => (s, false)
    | some i => match s.imageUsable ctx i with
      | (s, false) => (s, false)
      | (s, true) => s.parkUsable ctx r

/-- A parked team whose images are lost is not resumed: its threads end failed with 0x52 (R156). -/
def State.loseTeams (s : State) (ts gs : List Nat) : State :=
  let s := (s.threads.filter fun u => ts.contains u.team && u.status == .live).foldl
    (fun s u => s.modTh u.id fun x => { x with status := .failed, hold := .none, pend := none }) s
  let s := ts.foldl (fun s t => (s.failTeam t .imageLost).modTeam t fun x => { x with state := .resident }) s
  gs.foldl State.afterEnd s

/-- A ready-parked team becomes resident on the cores that hosted its groups (R154, R156, R413). -/
def State.unpark (s : State) (t : Team) : State :=
  let ts := s.parkSet t.id
  let gs := (ts.flatMap s.teamGroups).eraseDups
  let (s, ok) := s.parkUsable t.ctx gs
  let s := s.dropImages t.ctx fun i => i.kind == 2 && i.reason == 2 && gs.contains i.group
  if !ok then s.loseTeams ts gs
  else
    let us := gs.flatMap s.liveOf
    let s := us.foldl (fun s u => match u.hold with
      | .waitObj o q _ _ _ => s.objSet o q oWCNT (s.obj o q oWCNT + 2 ^ 32 - 1)
      | _ => s) s
    let s := ts.foldl (fun s t => s.modTeam t fun x => { x with state := .resident, stallAt := none, blockedAt := none }) s
    let s := gs.foldl (fun s g => s.reviveGroup g (s.group g).core) s
    (us.foldl (fun s u => if (s.th u.id).hold == Hold.reorder then s.reorderCheck u.id else s) s).admitAll

/-- A candidate becomes resident. -/
def State.makeResident (s : State) (t : Team) : State := if t.state == .waiting then s.startTeam t.id else s.unpark t

/-- The candidates of a core in the order of R154. -/
def State.candidates (s : State) (core : Nat) : List Team :=
  let cs := s.teams.filter fun t => (s.ctx t.ctx).stage < 2 &&
    ((t.state == .waiting && t.home == core) ||
     (t.state == .readyParked && (s.teamGroups t.id).any fun g => (s.group g).core == core))
  (sortKey (cs.map fun t => ((7 - t.prio) * 2 ^ 130 + (if t.state == .waiting then 2 ^ 128 + t.seqNo else t.parkOrder), t))).map (·.2)

/-- Tries candidates in order; each that fits becomes resident (R154). -/
def State.tryTeams (s : State) (l : List Team) : State :=
  l.foldl (fun s t =>
    let now := s.team t.id
    if now.state == t.state && s.candFits now then s.makeResident now else s) s

/-! ## Parking (R155, R156) -/

/-- Whether a thread is parked at a `WAIT` or a `WAITJ` (R155, R171). -/
def Thread.parked (u : Thread) : Bool := match u.hold with
  | .waitObj _ _ _ _ _ | .waitj _ => true
  | _ => false

/-- Whether a thread is parked at a `WAIT` or a `WAITJ`, or counts as such at a REORDER (R155, R186). -/
def Thread.atWait (u : Thread) : Bool := u.parked || u.hold == Hold.reorder

/-- R155: a resident team is blocked. -/
def State.blocked (s : State) (t : Nat) : Bool :=
  let us := s.liveTeam t
  (s.team t).state == .resident && !us.isEmpty && us.all Thread.atWait

/-- R155: a set of teams that may be parked, and since when it is blocked. -/
def State.parkable (s : State) (ts : List Nat) : Option Nat :=
  let ok := ts.all fun t =>
    let m := s.team t
    s.blocked t && (s.ctx m.ctx).stage < 2 && m.blockedAt.isSome && 8192 ≤ s.cycle - m.blockedAt.getD s.cycle
      && (s.liveTeam t).all fun u => u.flagBits == 0 && (s.liveOf u.group).all fun v => v.handler.isNone
  if ok then some ((ts.map fun t => (s.team t).blockedAt.getD 0).foldl max 0) else none

/-- The parkable sets with a group on a core, the longest blocked first. -/
def State.parkSets (s : State) (core : Nat) : List (List Nat) :=
  let here := (s.hosted core).flatMap fun g => (s.liveOf g.id).map Thread.team
  let sets := (here.eraseDups.map fun t => sortKey ((s.parkSet t).map fun x => (x, x))).eraseDups.map fun l => l.map (·.1)
  (sortKey (sets.filterMap fun ts => (s.parkable ts).map fun b => (b, ts))).map (·.2)

/-- The state as it would be with some teams' groups out of their places. -/
def State.without (s : State) (ts : List Nat) : State :=
  let gs := (ts.flatMap s.teamGroups).eraseDups
  { s with groups := s.groups.map fun g => if gs.contains g.id then { g with resident := false } else g }

/-- The shortest start of a list of sets whose parking makes a candidate fit. -/
def State.enough (s : State) (t : Team) : List (List Nat) → List Nat → Option (List Nat)
  | [], acc => if (s.without acc).candFits t then some acc else none
  | ts :: r, acc => if (s.without acc).candFits t then some acc else s.enough t r (acc ++ ts)

/-- Writes the park images of some groups (R156); the error names the context whose save area has no room for one. -/
def State.parkImages (s : State) : List Nat → Except Nat State
  | [] => .ok s
  | g :: r => match s.saveGroup g 2 with
    | (s, true) => s.parkImages r
    | (_, false) => .error (((s.liveOf g).head?.map fun u => (s.ctxOf u).id).getD 0)

/-- Whether the non-resident entries of their home cores take some teams more (R153, R155). -/
def State.entriesTake (s : State) (ts : List Nat) : Bool :=
  ts.all fun t =>
    let home := (s.team t).home
    s.entriesUsed home + (ts.filter fun u => (s.team u).home == home).length ≤ 64

/-- Parks teams for the first candidate of a core that does not fit (R155, R156). A park without room is not made, and the core
tries none again until a range of that save area has been freed. -/
def State.parkFor (s : State) (core : Nat) (t : Team) : State :=
  if (s.core core).parkWait.isSome || 64 ≤ s.entriesUsed core ||
      s.teams.any fun m => (m.state == .parking || m.state == .parkingReady) &&
        (s.teamGroups m.id).any fun g => (s.group g).core == core then s
  else match s.enough t (s.parkSets core) [] with
    | none => s
    | some ts => if !s.entriesTake ts then s else match s.parkImages ((ts.flatMap s.teamGroups).eraseDups) with
      | .error c => s.modCore core fun x => { x with parkWait := some c }
      | .ok s => ts.foldl (fun s m =>
        let (n, s) := s.fresh
        (s.modTeam m fun x => { x with state := .parking, parkOrder := n }).later (.parkImageWritten m)) s

/-- PARK_IMAGE_WRITTEN (R156, R157): the places and holdings of a parked team are free; a completion that came meanwhile makes
it ready. -/
def execParkImageWritten (team : Nat) (s : State) : Result :=
  .next (
    let m := s.team team
    if m.state != .parking && m.state != .parkingReady then s
    else
      let gs := s.teamGroups team
      let s := s.modTeam team fun x => { x with state := if x.state == .parking then .parked else .readyParked }
      let s := gs.foldl (fun s g => s.modGroup g fun x => { x with resident := false }) s
      (gs.map fun g => (s.group g).core).eraseDups.foldl (fun s c => s.freed c) s)

/-- TEAM_RESIDENT (R154, R192, R353): after the glade's waiting groups, the candidates of a core and one task are tried in one
order; for a first candidate that does not fit, teams are parked. -/
def execTeamResident (core : Nat) (s : State) : Result :=
  .next (
    let s := s.offerRods (gladeOf core)
    let cands := s.candidates core
    let task := firstHead (s.taskHeads.filter fun h => s.taskFits h.2.2.bytes core)
    let s := match task with
      | none => s.tryTeams cands
      | some h =>
        let p := taskPrio h.2.2.bytes
        let s := s.tryTeams (cands.filter fun t => p ≤ t.prio)
        let s := if s.taskFits h.2.2.bytes core then s.dispatchHead h else s
        s.tryTeams (cands.filter fun t => t.prio < p)
    let s := match cands with
      | t :: _ => if (s.team t.id).state == t.state && !s.candFits (s.team t.id) then s.parkFor core t else s
      | [] => s
    if s.taskHeads.isEmpty then s else s.once .taskDispatch)

/-! ## The team stall (R168, R169) -/

/-- Whether a thread counts as parked for R168: one at a cluster-domain REORDER does while every participant that has not
arrived is parked (R186). -/
def State.stalled (s : State) (u : Thread) : Bool := match u.hold with
  | .waitObj _ _ _ _ _ | .waitj _ => true
  | .reorder => match u.reorder with
    | none => false
    | some r => r.core || (s.parts r).all Thread.atWait
  | _ => false

/-- R168: the conditions under which a team's stall counter counts. -/
def State.stalling (s : State) (t : Nat) : Bool :=
  let m := s.team t
  let us := s.liveTeam t
  !us.isEmpty && !(s.ctx m.ctx).halted && m.state != .saved
    && us.all (fun u => s.stalled u && u.flagBits == 0)
    && !s.ops.any fun o => o.team == t && (match o.instr.path with
      | some p => p.engine
      | none => false)

/-- `TRAP_ADDR` of a team stall (R169). -/
def Thread.stallAddr (u : Thread) : Nat := match u.hold with
  | .waitObj _ _ o _ _ => o
  | .waitj n => n.val
  | _ => 0

/-- TEAM_STALL (R168, R169): every live thread takes 0x30 where it is parked, its group's speculation rolled back first (R279,
R399); a parked team becomes ready. -/
def execTeamStall (team : Nat) (s : State) : Result :=
  .next (
    let m := s.team team
    if !s.stalling team || !(m.stallAt.any fun c => c + Config.longWait ≤ s.nowCycle) then s
    else
      let s := ((s.liveTeam team).map Thread.group).eraseDups.foldl State.rollbackGroup s
      let us := s.liveTeam team
      let stamp := s.nextId * 8
      let s := s.modTeam team fun x => { x with
        stallAt := none, blockedAt := none
        state := match x.state with
          | .parked => .readyParked
          | .parking => .parkingReady
          | y => y }
      let s := us.foldl (fun s u =>
        let s := match u.hold with
          | .waitObj t q _ _ _ => s.objSet t q oWCNT (s.obj t q oWCNT + 2 ^ 32 - 1)
          | .reorder => s.withdrawReorder u.id
          | _ => s
        (s.modTh u.id fun x => { x with hold := .none }).raise u.id (plainTrap .teamStall (dword u.stallAddr) u.pc true stamp)) s
      (us.map Thread.group).eraseDups.foldl (fun s g =>
        if (s.group g).resident then s.enterHandlers g else s.once (.teamResident (s.group g).core)) s)

/-! ## Sleeping and handlers -/

/-- SLEEP_END (R120). -/
def execSleepEnd (thread : Nat) (s : State) : Result :=
  .next (match s.thread? thread with
    | none => s
    | some u => match u.hold with
      | .sleep w => if w ≤ s.nowCycle then s.rerun thread else s
      | _ => s)

/-- HANDLER_ENTRY (R164, R394, R395): what the end of a group's handler brings about, and the choice of its next entry. -/
def execHandlerEntry (group : Nat) (s : State) : Result := .next (s.afterEnd group)

/-- HANDLER_WATCHDOG (R395, R400): a handler that has run for the limit fails; a freeze stops the watchdog, and a group that has
save-exited runs no handler (R402). -/
def execHandlerWatchdog (group : Nat) (s : State) : Result :=
  .next (match (s.liveOf group).find? fun u => u.handler.isSome with
    | none => s
    | some u =>
      let c := s.ctxOf u
      match u.handler, c.watchdog with
      | some h, some n =>
        if c.frozen || (s.group group).saved && !(s.group group).resident || s.nowCycle < h.since + n then s
        else s.failHandler group .watchdog
      | _, _ => s)

end Sys2Proof.Machine
end

