-- ==== Sys2Proof/Machine/MergeOps.lean ====
section
/-!
DEFINITION. The merge instructions (R342 to R347). Every one acts at the merge unit of the team's home core when it arrives
there.
-/

namespace Sys2Proof.Machine

/-- Sets a team's merge register. -/
def State.setMreg (s : State) (team : Nat) (m : Fin 8) (r : MergeReg) : State :=
  s.modTeam team fun t => { t with merge := t.merge.set m.val r }

/-- MOPEN (R343). -/
def execMopen (x : X) (md : Fin 8) (a b : Opd) (s : State) : Result :=
  .next (s.issue (.mopen x md a b) x fun s th =>
    let va := s.rd64 th a
    if mreg (s.team th.team).merge md.val != .closed then (s, .trap .reservedField th.pc)
    else if !canonicalVa va.toNat then (s, .trap .notPresent va)
    else if va.toNat % 8 != 0 then (s, .trap .alignment va)
    else (s.setMreg th.team md (.array va (s.rd32 th b).toNat 0 none none), .next))

/-- The combining instructions (R344), after the operations in progress on their sources (R342). -/
def State.combine (s : State) (th : Thread) (op : Fin 4) (ty : Ty) (md ma mb : Fin 8) : State × Next :=
  let s := (s.settleMerge th.team ma).settleMerge th.team mb
  let rs := (s.team th.team).merge
  if s.mergeBusy th.team ma.val then (s, .stall (.merge ma.val))
  else if s.mergeBusy th.team mb.val then (s, .stall (.merge mb.val))
  else if md == ma || md == mb || ma == mb || mreg rs md.val != .closed || !(mreg rs ma.val).usable || !(mreg rs mb.val).usable then
    (s, .trap .reservedField th.pc)
  else
    let s := s.setMreg th.team ma ((mreg rs ma.val).bind md)
    let s := s.setMreg th.team mb ((mreg rs mb.val).bind md)
    (s.setMreg th.team md (.stream op ma mb ty none none), .next)

/-- MINT (R344). -/
def execMint (x : X) (md ma mb : Fin 8) (s : State) : Result :=
  .next (s.issue (.mint x md ma mb) x fun s th => s.combine th 0 .none md ma mb)
/-- MUNI (R344). -/
def execMuni (x : X) (md ma mb : Fin 8) (s : State) : Result :=
  .next (s.issue (.muni x md ma mb) x fun s th => s.combine th 1 .none md ma mb)
/-- MSUB (R344). -/
def execMsub (x : X) (md ma mb : Fin 8) (s : State) : Result :=
  .next (s.issue (.msub x md ma mb) x fun s th => s.combine th 2 .none md ma mb)
/-- MMADD (R344). -/
def execMmadd (x : X) (ty : Ty) (md ma mb : Fin 8) (s : State) : Result :=
  .next (s.issue (.mmadd x ty md ma mb) x fun s th => s.combine th 3 ty md ma mb)

/-- MNEXT (R345), a collective. -/
def execMnext (x : X) (ma : Fin 8) (d c : Opd) (s : State) : Result :=
  .next (s.issueG (.mnext x ma d c) x fun g s th => s.meet th (.mnext x ma d c) g)

/-- MNEXT.st (R346), an operation that the merge unit carries out pair by pair (R325). -/
def execMnextSt (x : X) (colour : Fin 8) (ma : Fin 8) (d b c : Opd) (s : State) : Result :=
  .next (s.issue (.mnextSt x colour ma d b c) x fun s th =>
    let va := (s.rd64 th b).toNat
    let m := (s.rd32 th c).toNat
    if s.flagFull th (th.flagOf x.sb) then (s, .stall (.flag (th.flagOf x.sb)))
    else if va % 8 != 0 then (s, .trap .alignment (dword va))
    else if 2 ^ 24 < m then (s, .trap .reservedField th.pc)
    else if !(mreg (s.team th.team).merge ma.val).usable then (s, .trap .reservedField th.pc)
    else s.engIssue th (.mnextSt x colour ma d b c) x [va, m] [] plainSlot .engineOpComplete)

/-- MCLOSE (R347). -/
def execMclose (x : X) (ma : Fin 8) (s : State) : Result :=
  .next (s.issue (.mclose x ma) x fun s th =>
    let rs := (s.team th.team).merge
    if (mreg rs ma.val).isBound then (s, .trap .reservedField th.pc)
    else if s.mergeBusy th.team ma.val then (s, .stall (.merge ma.val))
    else (s.modTeam th.team fun t => { t with merge := (mTree rs 8 ma.val).foldl (fun l k => l.set k .closed) t.merge }, .next))

end Sys2Proof.Machine
end

