-- ==== Sys2Proof/Machine/Issue.lean ====
section
/-!
DEFINITION. Clause starts (R33, R48 to R51, R71, R459), bundler passes (R158 to R162), and the instruction
cache (R158).
-/

namespace Sys2Proof.Machine

/-! ## Line checks -/

/-- Whether the number of ones among bits [lo, lo + n) is odd. -/
def oddOnes (b lo n : Nat) : Bool := (upto n).foldl (fun p i => p != bitAt b (lo + i)) false

/-- R49: a parity mismatch of a line. -/
def parityBad (b : BitVec 512) : Bool :=
  let n := b.toNat
  oddOnes n 0 256 != bitAt (lineWord b) 30 || oddOnes n 256 254 != bitAt (lineWord b) 31

/-- The line-level checks of R50, in order. -/
def checkLine (b : BitVec 512) (k : Nat) (byTransfer : Bool) : Option Cause :=
  let w := lineWord b
  let res := fun (n : Nat) => 12 ≤ n && n ≤ 14
  if parityBad b then some .lineParity
  else if res (bitsAt w 12 4) || res (bitsAt w 16 4) then some .reservedField
  else if bitAt w 29 && !bitAt w 20 then some .reservedField
  else if byTransfer && !bitAt w (20 + k) then some .illegalTarget
  else none

/-- WAIT of a line (R48). -/
def lineWait (b : BitVec 512) : Nat := lineWord b % 4096

/-- The first held fault record whose flag a WAIT mask names (R387). -/
def Thread.namedFault (th : Thread) (wait : Nat) : Option FaultRec :=
  th.faults.find? fun f => match f.flag with
    | some k => bitAt wait k.val
    | none => false

/-- A trap at a clause start or an instruction fetch: TRAP_PCN is the entry PC and RES is 0 (R50, R459). -/
def State.startTrap (s : State) (th : Thread) (c : Cause) (a : DWord) : State :=
  (s.raise th.id (plainTrap c a th.pc false s.trapStamp)).finish th.id .gone

/-! ## Clause starts -/

/-- A thread that stands at an equivalence point records it (R199). -/
def State.notePoint (s : State) (th : Thread) : State := match s.pointOf th th.pc with
  | some (e, _) => s.modTh th.id fun u => { u with eqp := some e }
  | none => s

/-- R197: whether a group may move at the point at which its bundle stands: every live thread is in the bundle that now starts
here and no WAIT or held fault keeps one. A group that speculates may move so, though not by MIGRATE (R279, log 44). -/
def State.mayMove (s : State) (th : Thread) (wait : Nat) : Bool :=
  let live := s.liveOf th.group
  s.together th.group && live.all (fun u =>
    u.hold == Hold.none && !u.entered && u.flagBits &&& wait == 0 && (u.namedFault wait).isNone && u.handler.isNone)
    && (match s.issues with
      | i :: _ => i.done.isEmpty && live.all fun u => i.todo.contains u.id
      | [] => false)

/-- R449: whether a group that runs the portable form may go on in the native image that the builder has added: the function
holds the point in that image. -/
def State.joinable (s : State) (th : Thread) : Bool :=
  th.portable && (match s.imageAt (s.team th.team).ctx th.pc.toNat, s.pointOf th th.pc with
    | some (o, _), some (e, _) =>
      let k := imageKind (kindOf (s.hostOf th))
      o.joined.contains (e.fn, k) && (o.pointPc k e.num e.fn).isSome
    | _, _ => false)

/-- The group moves at the point at which its bundle stands, if it can: to another kind (R197), or into a native image of its own
kind under the other conditions of R197 (R449). -/
def State.pointMove (s : State) (th : Thread) : State × Bool :=
  let (s, moved) := if (s.group th.group).target.isSome then s.tryMove th.group false else (s, false)
  if moved then (s, true)
  else if !s.joinable th then (s, false)
  else match s.moveDestOf th.group (kindOf (s.hostOf th)) with
    | .ok c => (s.moveGroup th.group c, true)
    | .error _ => (s, false)

/-- The thread's clause is open. At an equivalence point the group first moves if it can; its bundle then ends. -/
def State.openClause (s : State) (th : Thread) (c : Clause) (point : Bool) (wait : Nat) : State :=
  let s := if point then s.notePoint th else s
  let (s, moved) := if point && s.mayMove th wait then s.pointMove th else (s, false)
  if moved then (s.modIssue fun i => { i with todo := [], ends := true }).slotEnd
  else s.modTh th.id fun u => { u with clause := some c, entered := true }

/-- The line of a native clause start: the one that a thread held by WAIT fetched at this start (R51), or one fetched and checked
now (R33, R50). -/
def State.clauseLine (s : State) (th : Thread) : State × Except (Cause × DWord) (BitVec 512) := match th.clause with
  | some (.line b) => (s, .ok b)
  | _ =>
    if !nativePc th.pc.toNat then (s, .error (.illegalTarget, th.pc))
    else match s.fetchLine th with
      | (s, .error (c, a)) => (s, .error (c, dword a))
      | (s, .ok b) => match checkLine b (th.pc.toNat % 8) th.byTransfer with
        | some c => (s, .error (c, th.pc))
        | none => (s, .ok b)

/-- Whether WAIT of a line holds a thread at its start (R33). -/
def Thread.waitsAt (th : Thread) (b : BitVec 512) : Bool :=
  (th.namedFault (lineWait b)).isNone && th.flagBits &&& lineWait b != 0

/-- A thread held by WAIT keeps the line that it fetched at this clause start (R51). -/
def State.keepLine (s : State) (t : Nat) (b : BitVec 512) : State := s.modTh t fun u => { u with clause := some (.line b) }

/-- A native clause start (R33). -/
def State.startLine (s : State) (th : Thread) : State :=
  match s.clauseLine th with
  | (s, .error (c, a)) => s.startTrap th c a
  | (s, .ok b) => match th.namedFault (lineWait b) with
    | some f => (s.deliver th.id f s.trapStamp).finish th.id .gone
    | none =>
      if th.waitsAt b then (s.keepLine th.id b).finish th.id .retry
      else s.openClause th (.line b) (lineEqp b && th.pc.toNat % 8 == 0) (lineWait b)

/-- The overflow block of a portable function entered without a CALL is pushed at its first instruction (R69). -/
def State.pushFirst (s : State) (th : Thread) : State × Option (Cause × Nat) :=
  if !th.pushBlock then (s, none) else s.pushFrame th.id (s.frameOf (s.team th.team).ctx th.pc)

/-- The portable instruction at a thread's PC (R70, R71): its first 8 bytes, then the rest that XL names. -/
def State.portableWords (s : State) (th : Thread) : State × Except (Cause × Nat) (BitVec 128) :=
  let va := th.pc.toNat
  match s.fetchWords th va 2 with
  | (s, .error e) => (s, .error e)
  | (s, .ok b) => match s.fetchWords th (va + 8) (portableLen (leNat b) / 4 - 2) with
    | (s, .error e) => (s, .error e)
    | (s, .ok b') => (s, .ok (BitVec.ofNat 128 (leNat (b ++ b'))))

/-- A portable instruction is fetched. -/
def State.startPortable (s : State) (th : Thread) : State := match s.portableWords th with
  | (s, .error (c, a)) => s.startTrap th c (dword a)
  | (s, .ok b) => match s.pushFirst th with
    | (s, some (c, a)) => s.finish th.id (.trap c (dword a))
    | (s, none) => s.openClause (s.th th.id) (.portable b) (s.pointOf th th.pc).isSome 0

/-- CLAUSE_START (R33, R50, R197, R387, R459): the thread that issues now begins the clause at its PC. -/
def execClauseStart (s : State) : Result :=
  .next (match s.cur with
    | none => s
    | some th =>
      if s.stopped th then s.finish th.id .retry
      else if th.portable then s.startPortable th else s.startLine th)

/-! ## Bundler passes (R158 to R161) -/

/-- R33, R158: a thread that WAIT holds at a clause start. -/
def Thread.heldByWait (u : Thread) : Bool := match u.clause with
  | some (.line b) => !u.entered && u.waitsAt b
  | _ => false

/-- The line in which a thread stands. -/
def Thread.line (u : Thread) : DWord := dword (u.pc.toNat / 64 * 64)

/-- Whether what a stalled thread waits for has come (R158). -/
def State.stallOver (s : State) (u : Thread) : Stall → Bool
  | .flag f => !s.flagFull u f
  | .records => s.recordsOut u < 64
  | .range t q n => !s.rangeBusy t q n
  | .room c => s.rangeRoom c
  | .arrival t q => !s.arriving u.id t q
  | .spec => u.spec.isNone
  | .classes m => !s.classesOut u m
  | .conv r pc => ((s.conv u.group r).signed == 0 || (s.conv u.group r).pc == pc) && !hasBit (s.conv u.group r).signed u.rank
  | .tile n => !s.tileBusy u n
  | .trail => !s.ops.any fun o => o.tstepOf u.id
  | .merge m => !s.mergeBusy u.team m
  | .firstUse n => s.tileUse u.group n != .wait
  | .queue q => (s.ctxOf u).queueFree q
  | .far => !s.farBusy

/-- A thread whose stall is over may issue again (R158). -/
def State.endStall (s : State) (u : Thread) : State := match u.stall with
  | some w => if s.stallOver u w then s.modTh u.id fun v => { v with stall := none } else s
  | none => s

/-- R158: a thread that may issue in this pass, its line apart. -/
def State.ready (s : State) (u : Thread) : Bool :=
  u.status == .live && u.hold == Hold.none && u.stall.isNone && !u.skipPass && (s.group u.group).resident && !(s.ctxOf u).frozen && !u.heldByWait

/-- A thread that comes to stand at a clause start with completion flags up: when the line that it fetches there holds it by
WAIT, it keeps that line (R33, R51). -/
def State.holdAtStart (s : State) (core : Nat) (u : Thread) : State :=
  if u.portable || u.entered || u.clause.isSome || u.flagBits == 0 || !s.ready u || !s.icache.contains (core, u.line) then s
  else match s.clauseLine u with
    | (s', .ok b) => if u.waitsAt b then s'.keepLine u.id b else s
    | _ => s

/-- A bundle of a pass: its group, PC and threads. -/
structure Bundle where
  grp : Nat
  pc : Nat
  stamp : Nat
  threads : List Thread
  aged : Nat
  prio : Nat

/-- The bundles of a core's eligible threads: the parts of each group by PC (R158). -/
def State.bundles (s : State) (elig : List Thread) : List Bundle :=
  (elig.map fun u => (u.group, u.pc)).eraseDups.map fun p =>
    let us := elig.filter fun u => u.group == p.1 && u.pc == p.2
    let g := s.group p.1
    { grp := g.grp, pc := p.2.toNat, stamp := g.stamp, threads := us, aged := (us.map Thread.waitCount).foldl max 0
      prio := (us.map fun u => (s.team u.team).prio).foldl max 0 }

/-- The place of a bundle in the order of R160: lower comes first. -/
def Bundle.key (b : Bundle) : Nat :=
  if 512 ≤ b.aged then (2 ^ 20 - min b.aged (2 ^ 20)) * 2 ^ 80 + b.grp * 2 ^ 70 + b.pc
  else 2 ^ 200 + (7 - b.prio) * 2 ^ 150 + b.stamp * 2 ^ 80 + (32 - b.threads.length) * 2 ^ 70 + b.pc

/-- The pass of one core (R158 to R160): up to two bundles are selected, wait counts change, and lines that are not in the
instruction cache are asked for. -/
def State.corePass (s : State) (core : Nat) : State :=
  let gs := s.hosted core
  let onCore := fun (u : Thread) => gs.any fun g => g.id == u.group
  let s := (s.threads.filter onCore).foldl State.endStall s
  let s := (s.threads.filter onCore).foldl (fun s u => s.holdAtStart core u) s
  let here := s.threads.filter onCore
  let can := here.filter s.ready
  let elig := can.filter fun u => s.icache.contains (core, u.line)
  let missing := ((can.filter fun u => !s.icache.contains (core, u.line)).map Thread.line).eraseDups
  let s := missing.foldl (fun s l =>
    if s.icacheMiss.contains (core, l) then s
    else { s with icacheMiss := s.icacheMiss ++ [(core, l)] }.once (.instructionCacheFill core l)) s
  let order := (sortKey ((s.bundles elig).map fun b => (b.key, b))).map (·.2)
  let picked := order.take 2
  let chosen := picked.flatMap fun b => b.threads.map Thread.id
  let ids := elig.map Thread.id
  let mine := here.map Thread.id
  let s := gs.foldl (fun s g =>
    let live := here.filter fun u => u.group == g.id && u.status == .live
    let p := live.any fun u => !u.parked
    let e := elig.any fun u => u.group == g.id
    s.modGroup g.id fun x => { x with
      statP := if p then x.statP + 1 else x.statP
      statS := if p && !e then x.statS + 1 else x.statS }) s
  let s := { s with threads := s.threads.map fun u =>
    if mine.contains u.id then { u with
      skipPass := false
      waitCount := if chosen.contains u.id then 0 else if ids.contains u.id then u.waitCount + 1 else u.waitCount }
    else u }
  picked.zipIdx.foldl (fun s b =>
    let ts := (sortKey (b.1.threads.map fun u => (u.rank, u.id))).map (·.2)
    let (st, s) := s.fresh
    let i : Issue := { begun := false, core := core, port := b.2, todo := ts, done := [], all := ts, ends := false, left := 4, stamp := st }
    { s with issues := s.issues ++ [i] }) s

/-- What the clock shows of a team (R155, R168): since when it is blocked, and its stall counter. -/
def State.teamClock (s : State) (t : Team) : State :=
  let b := if s.blocked t.id then some (t.blockedAt.getD s.cycle) else none
  let c := if s.stalling t.id then some (t.stallAt.getD s.cycle) else none
  let s := s.modTeam t.id fun x => { x with blockedAt := b, stallAt := c }
  let s := if (s.parkable (s.parkSet t.id)).isNone then s else
    ((s.teamGroups t.id).map fun g => (s.group g).core).eraseDups.foldl
      (fun s c => if (s.candidates c).isEmpty || (s.core c).parkWait.isSome then s else s.once (.teamResident c)) s
  match c with
  | some n => if n + Config.longWait ≤ s.cycle then s.once (.teamStall t.id) else s
  | none => s

/-- Measurement windows that end before the next pass (R170, R171). -/
def State.windowEnds (s : State) : State :=
  let cs := (s.cores.map Core.id ++ (s.groups.filter Group.resident).map Group.core).eraseDups
  cs.foldl (fun s c =>
    if (s.cycle + 4) % 2 ^ (10 + bitsAt (s.core c).migPolicy.toNat 16 4) == 0 then s.once (.migrationWindowEnd c) else s) s

/-- BUNDLER_PASS (R158 to R162): the clock goes on to the next multiple of 4 cycles, and every core selects its bundles. -/
def execBundlerPass (s : State) : Result :=
  .next (
    let s : State := { s with cycle := (s.cycle / 4 + 1) * 4 }
    let s := s.powerDown.foldl (fun s p => s.once (.powerStateExit p.1)) s
    let s := s.contexts.foldl (fun s c => s.ladderPoll c.id) s
    let s := s.teams.foldl State.teamClock s
    let s := s.windowEnds
    let cs := ((s.groups.filter Group.resident).map Group.core).eraseDups
    ((sortKey (cs.map fun c => (c, c))).map (·.2)).foldl State.corePass s)

/-- INSTRUCTION_CACHE_FILL (R158): a line is present in a core's instruction cache. -/
def execInstructionCacheFill (core : Nat) (line : DWord) (s : State) : Result :=
  .next (if !s.icacheMiss.contains (core, line) then s
    else { s with
      icacheMiss := s.icacheMiss.filter (· != (core, line))
      icache := if s.icache.contains (core, line) then s.icache else s.icache ++ [(core, line)] })

end Sys2Proof.Machine
end

