-- ==== Sys2Proof/Machine/Host.lean ====
section
/-!
DEFINITION. The host's accesses to memory (R435, R437), invalidation and sealing (R244 to R246), and the freeze of a session
(R248).
-/

namespace Sys2Proof.Machine

/-- TLB of the host intake (log 7). -/
def hostTlb : Nat := 2048 + 99

/-- Why a host write is not performed: a trap cause, or a sealed frame at an address as written (R248). -/
inductive HostStop where
  | cause (c : Cause)
  | sealed (a : Nat)

/-- Checks of R435 on physical pieces: 8 for a read; 4, 7 and 8 for a write, where `ao` tells whether the leaf is append-only. -/
def State.hostCheck (s : State) (write ao : Bool) (va pa n : Nat) : Option HostStop :=
  if write && (s.sealOf pa).isSome then some (.sealed va)
  else if write && ao then some (.cause .appendOnly)
  else if (s.dataError pa n).isSome then some (.cause .memError)
  else none

/-- The placed pieces of a virtual range for the host (R435: checks 1, 3, 8, and 4 and 7 for a write). -/
def State.hostPlace (s : State) (ctx : Nat) (write : Bool) : List (Nat × Nat) → State × Except HostStop (List (Nat × Nat))
  | [] => (s, .ok [])
  | (va, n) :: r =>
    if !canonicalVa va then (s, .error (.cause .notPresent))
    else match s.translate hostTlb ctx va with
      | (s, .error c) => (s, .error (.cause c))
      | (s, .ok l) => match s.hostCheck write l.ao va l.pa n with
        | some e => (s, .error e)
        | none => match s.hostPlace ctx write r with
          | (s, .error e) => (s, .error e)
          | (s, .ok ps) => (s, .ok ((l.pa, n) :: ps))

/-- Whether a frame lies in a page that some context maps with AO = 1 (R247). -/
def State.appendFrame (s : State) (f : Nat) : Bool := (s.leavesOf [f]).any fun l => bitAt l.2.1 8

/-- The placed pieces of a physical range: checks 1 and 3 are skipped, and a write to a frame that is mapped append-only is
refused (R247). -/
def State.physPlace (s : State) (write : Bool) : List (Nat × Nat) → Except HostStop (List (Nat × Nat))
  | [] => .ok []
  | (pa, n) :: r =>
    if !paMapped pa then .error (.cause .notPresent)
    else match s.hostCheck write (write && s.appendFrame (pa / 65536)) pa pa n with
      | some e => .error e
      | none => match s.physPlace write r with
        | .error e => .error e
        | .ok ps => .ok ((pa, n) :: ps)

/-- The bytes of placed pieces at their homes. -/
def State.readPieces (s : State) (ps : List (Nat × Nat)) : List Byte := ps.flatMap fun p => s.homeRead p.1 p.2

/-- A session's write to a sealed frame freezes the session (R248, R464); its item fails. -/
def State.freezeSession (s : State) (h : Hdr) (a : Nat) : State :=
  let s : State := { s with sessions := s.sessions.map fun (x : Session) =>
    if x.id == h.session then { x with frozen := true, frozenAt := dword a } else x }
  let s := match s.sessions.find? fun x => x.id == h.session with
    | some x => s.sessionFreeze x h.queue h.seq
    | none => s
  s.itemDone h 0x86 []

/-- How a host access that failed ends its item. -/
def State.hostFail (s : State) (h : Hdr) : HostStop → State
  | .cause c => s.itemDone h (causeCode c) []
  | .sealed a => s.freezeSession h a

/-- WRITE_MEMORY_VIRTUAL (R262, R435, R437): performed at the home. -/
def execWriteMemoryVirtual (h : Hdr) (va : DWord) (data : List Byte) (s : State) : Result :=
  .next (s.ctxItem h (.writeMemoryVirtual h va data) fun s c =>
    match s.hostPlace c.id true (piecesOf va.toNat data.length) with
    | (s, .error e) => s.hostFail h e
    | (s, .ok ps) => (s.putPieces ps data).itemDone h 0 [])

/-- WRITE_MEMORY_PHYSICAL (R435, R437). -/
def execWriteMemoryPhysical (h : Hdr) (pa : DWord) (data : List Byte) (s : State) : Result :=
  .next (s.item h (.writeMemoryPhysical h pa data) fun s =>
    match s.physPlace true (piecesOf pa.toNat data.length) with
    | .error e => s.hostFail h e
    | .ok ps => (s.putPieces ps data).itemDone h 0 [])

/-- READ_MEMORY (R435, R437): with target CTX_ID 0 the address is physical (log 22). -/
def execReadMemory (h : Hdr) (addr : DWord) (len : Nat) (s : State) : Result :=
  .next (if h.ctx == 0 then s.item h (.readMemory h addr len) fun s =>
      match s.physPlace false (piecesOf addr.toNat len) with
      | .error e => s.hostFail h e
      | .ok ps => s.itemDone h 0 (s.readPieces ps)
    else s.ctxItem h (.readMemory h addr len) fun s c =>
      match s.hostPlace c.id false (piecesOf addr.toNat len) with
      | (s, .error e) => s.hostFail h e
      | (s, .ok ps) => s.itemDone h 0 (s.readPieces ps))

/-- INVALIDATE (R244): every TLB and walker cache drops the covered entries of the context, and the stores that the L1s hold
dirty, which may have used one, are performed at home. -/
def State.invalidate (s : State) (ctx va pages : Nat) : State :=
  let s := ((s.l1.map L1Line.core).eraseDups).foldl (fun s c => s.publishCore c 0xFF#8) s
  { s with tlb := s.tlb.filter fun e =>
      !(e.ctx == ctx && decide (e.page * 2 ^ e.size < va % 2 ^ 57 + pages * 65536) && decide (va % 2 ^ 57 < (e.page + 1) * 2 ^ e.size)) }

/-- Whether a reduction that waits to be applied was translated with an entry that the tables no longer give (R244, R266). -/
def State.oldReds (s : State) (c : Context) (va pages : Nat) : Bool :=
  let old := fun (e : RedEntry) => decide (va % 2 ^ 57 ≤ e.va % 2 ^ 57) && decide (e.va % 2 ^ 57 < va % 2 ^ 57 + pages * 65536)
    && (match s.walkFrom e.va walkLevels c.root.toNat with
      | .ok l => l.pa != e.pa || l.bits != e.leaf
      | .error _ => true)
  (s.batches.any fun b => b.ctx == c.id && old b.entry)
    || s.threads.any fun u => (s.team u.team).ctx == c.id && u.redBuf.any old

/-- INVALIDATE (R244, R437): the item is complete once every access that used an old entry has been performed at its home. -/
def execInvalidate (h : Hdr) (va : DWord) (pages : Nat) (s : State) : Result :=
  .next (s.ctxItem h (.invalidate h va pages) fun s c =>
    let s := s.invalidate c.id va.toNat pages
    if s.oldReds c va.toNat pages then
      (s.modItem h.session h.queue h.seq fun x => { x with state := .ready }).after 4 (.invalidate h va pages)
    else s.itemDone h 0 [])

/-! ## Sealing (R245, R246) -/

/-- Whether a frame lies in either copy of the save area of any context (R245, R404). -/
def State.inSaveArea (s : State) (f : Nat) : Bool :=
  s.contexts.any fun c => c.saveBase != 0 &&
    (let a := s.saveA c
     let hit := fun (b : Nat) => b / 65536 ≤ f && f < (b + c.saveCap) / 65536
     hit a || hit (a + copyB))

/-- The leaves that map the pages of a region, or none when one breaks R245. -/
def State.sealLeaves (s : State) (ctx va : Nat) : Nat → Option (List Leaf)
  | 0 => some []
  | n + 1 =>
    if !canonicalVa va then none
    else match s.walkFrom va walkLevels (s.ctx ctx).root.toNat with
    | .error _ => none
    | .ok l =>
      let f := l.pa / 65536
      if l.ao || (s.sealOf l.pa).isSome || s.inSaveArea f then none
      else (s.sealLeaves ctx (va + 65536) n).map (l :: ·)

/-- Every TLB drops the leaves of some frames, of whatever context (R245). -/
def State.dropFrames (s : State) (frames : List Nat) : State :=
  { s with tlb := s.tlb.filter fun e =>
      4096 ≤ e.core || !(let f := Leaf.frame e.leaf.toNat / 65536; frames.any fun x => f ≤ x && x < f + 2 ^ (e.size - 16)) }

/-- Seals a region of a context (R245): every write that the L1s hold is performed first, and SEAL and SEALID are set in every
leaf that maps one of its frames; the result is SEALID and M. -/
def State.sealRegion (s : State) (ctx : Nat) (va : DWord) (pages : Nat) : Option (State × Nat × BitVec 512) :=
  if va.toNat % 65536 != 0 || pages == 0 || 2 ^ 26 < pages || 1024 ≤ s.seals.length then none
  else match s.sealLeaves ctx va.toNat pages with
  | none => none
  | some ls =>
    let s := ((s.l1.map L1Line.core).eraseDups).foldl (fun s c => s.publishCore c 0xFF#8) s
    let id := s.sealCounter
    let m := shake256 (ascii "NQ7-SEAL" ++ leBytes 8 va.toNat ++ leBytes 8 (pages * 65536)
      ++ ls.flatMap fun l => s.homeRead (l.pa / 65536 * 65536) 65536) 64
    let mv := BitVec.ofNat 512 (leNat m)
    let h := leNat (shake256 (ascii "NQ7-TRAIL" ++ m) 16)
    let r : SealRec := { id := id, ctx := ctx, base := va, pages := pages, frames := ls.map fun l => l.pa / 65536, m := mv
                         h := BitVec.ofNat 128 (if h == 0 then 1 else h) }
    let s : State := { s with sealCounter := id + 1, seals := s.seals ++ [r] }
    let s := (s.leavesOf r.frames).foldl (fun s l => (s.sealLeaf ⟨0, l.2.1, l.2.2, l.1⟩).1) s
    some (s.dropFrames r.frames, id, mv)

/-- SEAL (R245, R437). -/
def execSeal (h : Hdr) (va : DWord) (pages : Nat) (s : State) : Result :=
  .next (s.ctxItem h (.seal h va pages) fun s c =>
    if 1024 ≤ s.seals.length then s.itemDone h 0x87 []
    else match s.sealRegion c.id va pages with
    | none => s.itemDone h 0x85 []
    | some (s, id, m) => s.itemDone h 0 (leBytes 4 id ++ leBytes 4 0 ++ leBytes 64 m.toNat))

end Sys2Proof.Machine
end

