-- ==== Sys2Proof/Machine/Loader.lean ====
section
/-!
DEFINITION. The loader (R80 to R85, R450, R460 to R462): sections are placed where the object stands, at its address plus their
offset.
-/

namespace Sys2Proof.Machine

/-- A section-table entry (R81). -/
structure Sec where
  type : Nat
  kind : Nat
  off : Nat
  size : Nat
  link : Nat
deriving DecidableEq, Repr, Inhabited

/-- Records of `n` bytes from a section. -/
def Sec.recs (x : Sec) (b : List Byte) (n : Nat) : List (List Byte) := (upto (x.size / n)).map fun i => slice b (x.off + n * i) n

/-- Numbers of a list strictly rise. -/
def rising : List Nat → Bool
  | a :: b :: r => a < b && rising (b :: r)
  | _ => true

/-- The header and section table of an object (R80, R81). -/
def objSections (b : List Byte) : Option (List Sec) :=
  let n := field b 6 2
  let tab := field b 32 8
  if b.length < 64 || field b 0 4 != 0x4337514E || field b 4 2 != 1 || (field b 8 1 != 1 && field b 8 1 != 2)
      || !allZero (slice b 9 7) || field b 28 4 != 0 || !allZero (slice b 40 24) || b.length < tab + 32 * n then none
  else
    let ss := (upto n).map fun i =>
      let e := slice b (tab + 32 * i) 32
      ({ type := field e 0 4, kind := field e 4 4, off := field e 8 8, size := field e 16 8, link := field e 24 8 } : Sec)
    if ss.all fun x => 1 ≤ x.type && x.type ≤ 14 && x.kind ≤ 3 && x.off + x.size ≤ b.length then some ss else none

/-- The sections of one type. -/
def ofType (ss : List Sec) (t : Nat) : List Sec := ss.filter fun x => x.type == t

/-- The image section that a section's link names. -/
def linked (ss : List Sec) (x : Sec) : Option Sec := (ss[x.link]?).bind fun y => if y.type == 1 then some y else none

/-- The limits of R81 on the numbers of sections. -/
def countsOk (va : Nat) (ss : List Sec) : Bool :=
  let imgs := ofType ss 1
  let kinds := imgs.map Sec.kind
  kinds.contains 1 && !kinds.contains 0 && kinds.eraseDups.length == kinds.length
    && imgs.all (fun x => (va + x.off) % (if x.kind == 1 then 4 else 64) == 0)
    && ((ofType ss 2).map Sec.link).eraseDups.length == (ofType ss 2).length
    && (ofType ss 13).length ≤ 1 && ((ofType ss 8).isEmpty || (ofType ss 13).length == 1) && (ofType ss 14).length ≤ 1
    && ss.all (fun x => !([2, 3, 4, 5, 14].contains x.type) || (linked ss x).isSome)
    && (ofType ss 3).all (fun x => (linked ss x).any fun y => y.kind == 1)
    && (ofType ss 14).all (fun x => (linked ss x).any fun y => y.kind == 1)
    && (ofType ss 4 ++ ofType ss 5).all fun x => (linked ss x).any fun y => y.kind != 1

/-- The ranges of an image (R81). -/
def imageRanges (b : List Byte) (va : Nat) (ss : List Sec) (x : Sec) : Option (List (Nat × Nat)) :=
  match (ofType ss 2).find? fun y => linked ss y == some x with
  | none => some [(va + x.off, va + x.off + x.size)]
  | some y =>
    let ps := (y.recs b 16).map fun e => (field e 0 8, field e 8 8)
    if y.size % 16 == 0 && ps.all (fun p => p.1 < p.2 && p.2 ≤ x.size)
        && (ps.zip (ps.drop 1)).all fun q => q.1.2 ≤ q.2.1 then
      some (ps.map fun p => (va + x.off + p.1, va + x.off + p.2))
    else none

/-- The start map of the portable image (R81): none given names no start, two are malformed, and an offset may be any below the
image's size (log 64). -/
def startMap (b : List Byte) (va : Nat) (ss : List Sec) : Option (List Nat) :=
  match ofType ss 3 with
  | [] => some []
  | [y] => match linked ss y with
    | none => none
    | some x =>
      let os := (y.recs b 4).map fun e => field e 0 4
      if y.size % 4 == 0 && rising os && os.all (· < x.size) then some (os.map (va + x.off + ·)) else none
  | _ => none

/-- The values of the symbol table (R460). Of several string tables the largest bounds a name's offset (log 64). -/
def symValues (b : List Byte) (va : Nat) (ss : List Sec) : Option (List Nat) :=
  match ofType ss 13 with
  | [] => some []
  | y :: _ =>
    let strs := ((ofType ss 12).map Sec.size).foldl max 0
    if y.size % 24 != 0 then none
    else (y.recs b 24).foldr (fun e acc => acc.bind fun l =>
      match ss[field e 8 4]? with
      | none => none
      | some x => if field e 16 8 ≤ x.size && field e 12 4 == 0 && field e 0 8 < strs then some ((va + x.off + field e 16 8) :: l) else none)
      (some [])

/-- Whether a signed value fits in `n` bits. -/
def fitsS (x : Int) (n : Nat) : Bool := -(2 ^ (n - 1) : Int) ≤ x && x < (2 ^ (n - 1) : Int)

/-- The bytes that a relocation writes at offset `p` of the object (R84), where the fields of R47, R57, R58 and R67 begin. The value
of kind 6 is a symbol's address, taken as unsigned: it fits when it is below 2^23 (log 64). -/
def relocBytes (b : List Byte) (va p kind val : Nat) (native : Bool) (natives : List (Nat × Nat)) (starts : List Nat) :
    Option (Nat × List Byte) :=
  match kind with
  | 1 => some (p, leBytes 8 val)
  | 2 =>
    let o := p - 7
    let loff : Int := (val / 64 : Nat) - ((va + o) / 64 : Nat)
    if !native || p < 7 || (va + o) % 64 % 12 != 0 || 60 ≤ (va + o) % 64 || !nativePc val
        || !(natives.any fun r => r.1 ≤ val && val < r.2) || !fitsS loff 26 then none
    else
      let w := field b o 12
      let w := w % 2 ^ 56 + (val % 8 + 8 * (loff % 2 ^ 26).toNat) * 2 ^ 56 + w / 2 ^ 85 * 2 ^ 85
      some (o, leBytes 12 w)
  | 3 =>
    let d : Int := (val : Int) - ((va + p : Nat) - 12 : Int)
    if native || p < 12 || !starts.contains val || d % 4 != 0 || !fitsS d 32 then none
    else some (p, leBytes 4 (d % 2 ^ 32).toNat)
  | 4 => some (p, leBytes 4 (val % 2 ^ 32))
  | 5 => some (p, leBytes 4 (val / 2 ^ 32 % 2 ^ 32))
  | 6 => if 2 ^ 23 ≤ val then none else some (p, leBytes (if native then 3 else 4) val)
  | _ => none

/-- The bytes of a line with both parity bits recomputed (R49, R84). -/
def fixParity (l : List Byte) : List Byte :=
  let n := leNat l % 2 ^ 510
  let p0 := if oddOnes n 0 256 then 2 ^ 510 else 0
  let p1 := if oddOnes n 256 254 then 2 ^ 511 else 0
  leBytes 64 (n + p0 + p1)

/-- New parity for the native lines that `n` bytes at offset `p` of an image touch: each 64-byte line of the image that has bytes
in an image range (R81, R84, log 53). -/
def newParity (va : Nat) (y : Sec) (natives : List (Nat × Nat)) (p n : Nat) (b : List Byte) : List Byte :=
  let k := (p - y.off) / 64
  (upto ((p - y.off + n - 1) / 64 + 1 - k)).foldl (fun b i =>
    let line := y.off + 64 * (k + i)
    if line + 64 ≤ y.off + y.size && natives.any (fun r => r.1 < va + line + 64 && va + line < r.2) then
      patch b line (fixParity (slice b line 64))
    else b) b

/-- Applies the relocations in table order; the lines of native images that they touch get new parity (R84). The link of a
relocation section is the index of the section that it patches, an image or not (log 64). -/
def relocate (b : List Byte) (va : Nat) (ss : List Sec) (syms : List Nat) (natives : List (Nat × Nat)) (starts : List Nat) :
    Option (List Byte) :=
  let one := fun (b : List Byte) (x : Sec) (e : List Byte) => do
    let y ← ss[x.link]?
    let val ← syms[field e 8 4]?
    let at_ := field e 0 8
    let native := y.type == 1 && y.kind != 1
    let (p, bs) ← relocBytes b va (y.off + at_) (field e 12 1) val native natives starts
    if field e 13 3 != 0 || p < y.off || y.off + y.size < p + bs.length then none
    else
      let b := patch b p bs
      if native then pure (newParity va y natives p bs.length b) else pure b
  (ofType ss 8).foldl (fun b x => b.bind fun b =>
    if x.size % 16 != 0 then none else (x.recs b 16).foldl (fun b e => b.bind fun b => one b x e) (some b)) (some b)

/-- The function table (R81): entries are addresses, as relocation leaves them, and the kernel flag is 0 or 1 (R462). Several function
tables are joined in section order, and a frame size is taken as it stands (log 64). -/
def funcTable (b : List Byte) (ss : List Sec) (kinds : List Nat) : Option (List Func) :=
  (ofType ss 6).foldr (fun x acc => acc.bind fun l =>
    if x.size % 40 != 0 then none
    else (x.recs b 40).foldr (fun e acc => acc.bind fun l =>
      let f : Func := { portable := field e 8 8, bramble := field e 16 8, larch := field e 24 8, frame := field e 32 2
                        kernel := field e 34 2 != 0 }
      if field e 36 4 != 0 || 1 < field e 34 2 || (f.bramble == 0) == kinds.contains 2 || (f.larch == 0) == kinds.contains 3 then none
      else some (f :: l)) (some l)) (some [])

/-- The point table (R461): offsets and numbers; exactly the instructions of the start map whose EQP is 1. -/
def pointTable (b : List Byte) (va : Nat) (ss : List Sec) (starts : List Nat) (img : Sec) : Option (List (Nat × Nat)) :=
  let marks := starts.filter fun a => bitAt (field b (a - va) 4) 14
  match ofType ss 14 with
  | [] => if marks.isEmpty then some [] else none
  | y :: _ =>
    let ps := (y.recs b 8).map fun e => (field e 0 4, field e 4 2)
    if y.size % 8 == 0 && (y.recs b 8).all (fun e => field e 6 2 == 0) && !marks.isEmpty
        && ps.map (fun p => va + img.off + p.1) == marks then some ps else none

/-- One state-mapping record and what follows it (R83). -/
def mapRecord (l : List Byte) : Option (Nat × List (Nat × Bool × Nat) × List Byte) :=
  let n := field l 4 2
  let ws := (upto n).map fun i => field l (8 + 4 * i) 4
  if l.length < 8 + 4 * n || field l 6 2 != 0 || !rising (ws.map fun w => w / 2 ^ 22)
      || ws.any (fun w => 2 ≤ bitsAt w 20 2 || bitsAt w 16 4 != 0 || (bitsAt w 20 2 == 0 && 128 ≤ w % 65536)) then none
  else some (field l 0 4, ws.map (fun w => (w / 2 ^ 22, bitAt w 20, w % 65536)), l.drop (8 + 4 * n))

/-- The state-mapping records of a table, in order. -/
def mapRecords : Nat → List Byte → Option (List (Nat × List (Nat × Bool × Nat)))
  | 0, l => if l.isEmpty then some [] else none
  | n + 1, l => match mapRecord l with
    | none => none
    | some (k, m, r) => (mapRecords n r).map ((k, m) :: ·)

/-- The line table of a native image with its state maps (R83). That it names the lines with EQP 1 and no other is not tested, and
two tables of one kind for an image are malformed (log 64). -/
def lineTable (b : List Byte) (ss : List Sec) (x : Sec) : Option (List LineEnt) :=
  let ls := (ofType ss 4).filter fun y => linked ss y == some x
  let ms := (ofType ss 5).filter fun y => linked ss y == some x
  let es := ls.flatMap fun y => y.recs b 16
  let bytes := ms.flatMap fun y => slice b y.off y.size
  if 1 < ls.length || 1 < ms.length || ls.any (fun y => y.size % 16 != 0) || es.any (fun e => field e 12 4 != 0)
      || !rising (es.map fun e => field e 0 4) then none
  else match mapRecords es.length bytes with
    | none => none
    | some rs =>
      if (es.zip rs).all fun p => field p.1 4 4 == p.2.1 then
        some ((es.zip rs).map fun p => { off := field p.1 0 4, num := field p.1 4 4, port := field p.1 8 4, map := p.2.2 })
      else none

/-- The 64-bit type codes of an argument (R59). -/
def wideArg (c : Nat) : Bool := match Ty.ofCode c with
  | some t => t.bits == 64
  | none => false

/-- The arguments of a team declaration (R462). -/
def argsOk (e : List Byte) : Bool :=
  (upto 64).all fun n =>
    let a := field e (40 + n) 1
    if a == 0 then true
    else if a == 0xFF then n != 0 && wideArg (field e (39 + n) 1)
    else (Ty.ofCode a).isSome && (!wideArg a || (n % 2 == 0 && field e (41 + n) 1 == 0xFF))

/-- Whether a core kind can hold a team of T threads with B registers each (R37): the limits on B, and the pool. -/
def poolOk (k : CoreKind) (t b : Nat) : Bool := match k with
  | .bramble => t ≤ 1024 && 128 ≤ b && b ≤ 1024 && t * b ≤ 131072
  | .larch => t ≤ 256 && 128 ≤ b && b ≤ 2048 && t * b ≤ 65536

/-- One team declaration (R462), for the core kinds that may run it; S above K breaks the record too (log 64). -/
def teamRecord (e : List Byte) (fs : List Func) (ks : List CoreKind) : Option TeamDecl :=
  let t := field e 4 2
  let b := field e 6 2
  let p := field e 16 4
  let roles := field e 24 8
  let fm := field e 20 4
  if !((fs[field e 0 4]?).any Func.kernel) || t % 32 != 0 || t == 0 || b % 8 != 0 || !(ks.any fun k => poolOk k t b)
      || 64 < field e 12 4 || field e 8 4 < field e 12 4 || p % 64 != 0 || fm &&& 0xFFFFC080 != 0
      || roles / 2 ^ (2 * (t / 32)) != 0 || field e 32 1 != (if roles == 0 then 0 else 1) || !allZero (slice e 33 7)
      || !allZero (slice e 104 24) || !argsOk e then none
  else some { fidx := field e 0 4, tsize := t, regsB := b, spadK := field e 8 4, specS := field e 12 4, spillP := p
              fmode := word fm, roles := (upto 32).map fun g => bitsAt roles (2 * g) 2, hasRoles := roles != 0 }

/-- The team declarations (R81, R462). -/
def teamTable (b : List Byte) (ss : List Sec) (fs : List Func) (kinds : List CoreKind) : Option (List TeamDecl) :=
  let ks := (fs.zipIdx.filter fun p => p.1.kernel).map (·.2)
  match ofType ss 9 with
  | [] => if ks.isEmpty then some [] else none
  | [y] =>
    if y.size % 128 != 0 || ks.isEmpty then none
    else
      let ds := (y.recs b 128).map fun e => teamRecord e fs kinds
      if ds.all Option.isSome && sortKey (ds.filterMap fun d => d.map fun d => (d.fidx, ())) == ks.map fun k => (k, ()) then
        some (ds.filterMap id)
      else none
  | _ => none

/-- The format-slot descriptors (R81, R85). -/
def slotTable (b : List Byte) (ss : List Sec) : Option (List (Nat × BitVec 512)) :=
  let ys := ofType ss 7
  let es := ys.flatMap fun y => y.recs b 128
  let l := es.map fun e => (field e 0 1, BitVec.ofNat 512 (field e 64 64))
  if ys.all (fun y => y.size % 128 == 0) && es.all (fun e => allZero (slice e 1 63))
      && l.all (fun p => 1 ≤ p.1 && p.1 < 64 && !slotInvalid p.2) && (l.map (·.1)).eraseDups.length == l.length then some l
  else none

/-- The points of an object agree with its line tables, and numbers are unique in each function (R461). -/
def CodeObj.pointsOk (o : CodeObj) : Bool := match o.image? 1 with
  | none => false
  | some pb =>
    let keys := o.points.map fun p => (o.fnAt 1 (pb.base + p.1), p.2)
    keys.eraseDups.length == keys.length && o.images.all fun im =>
      im.kind == 1 || im.lines.all fun l =>
        o.points.contains (l.port, l.num) && o.fnAt im.kind (im.base + l.off) == o.fnAt 1 (pb.base + l.port)

/-- What a load gives: the object, its bytes after relocation, and its format slots. -/
structure Loaded where
  obj : CodeObj
  bytes : List Byte
  slots : List (Nat × BitVec 512)

/-- Takes a code object from its bytes at address `va` (R80 to R85, R460 to R462); none when it is malformed. A team record's
registers are held to the kind of the native images that the object has (R37, log 64). -/
def parseObject (b : List Byte) (va handle : Nat) : Option Loaded := do
  let ss ← objSections b
  let img ← (ofType ss 1).find? fun x => x.kind == 1
  let starts ← startMap b va ss
  let ranges ← (ofType ss 1).foldr (fun x acc => do pure ((x, ← imageRanges b va ss x) :: (← acc))) (some [])
  let natives := (ranges.filter fun r => r.1.kind != 1).flatMap (·.2)
  let syms ← symValues b va ss
  let b ← if countsOk va ss then relocate b va ss syms natives starts else none
  let kinds := (ofType ss 1).map Sec.kind
  let funcs ← funcTable b ss kinds
  let points ← pointTable b va ss starts img
  let images ← ranges.foldr (fun r acc => do
    let lines ← if r.1.kind == 1 then pure [] else lineTable b ss r.1
    let im : Image := { kind := r.1.kind, base := va + r.1.off, size := r.1.size, ranges := r.2
                        starts := if r.1.kind == 1 then starts else [], lines := lines, pool := false }
    pure (im :: (← acc))) (some [])
  let decls ← teamTable b ss funcs (if kinds.contains 3 && !kinds.contains 2 then [.larch] else [.bramble, .larch])
  let slots ← slotTable b ss
  let o : CodeObj := { handle := handle, edition1 := field b 8 1 == 1, version := field b 24 4, images := images, funcs := funcs
                       points := points, decls := decls, joined := [] }
  if o.pointsOk then pure { obj := o, bytes := b, slots := slots } else none

/-- Makes a loaded object visible, in one step (R81, R85); threads that run already see its slots under R209. -/
def State.makeVisible (s : State) (ctx : Nat) (ps : List (Nat × Nat)) (old : List Byte) (l : Loaded) : State :=
  let s := if l.bytes == old then s else s.putPieces ps l.bytes
  l.slots.foldl (fun s p => s.writeSlot none ctx p.1 p.2) (s.modCtx ctx fun c => { c with objs := c.objs ++ [l.obj] })

/-- The result of a load (R437, R450): the handle, and after it a declared feature version above the device's own (log 64). -/
def loadResult (handle version : Nat) : List Byte :=
  leBytes 8 handle ++ if Config.featureVersion < version then leBytes 4 version ++ leBytes 4 0 else []

/-- LOAD_CODE_OBJECT (R81, R85, R450): a load that fails leaves nothing visible. An object that is malformed and also asks for a
feature that is absent fails as malformed (log 64). -/
def execLoadCodeObject (h : Hdr) (va : DWord) (size : Nat) (s : State) : Result :=
  .next (s.ctxItem h (.loadCodeObject h va size) fun s c =>
    let pieces := piecesOf va.toNat size
    match s.hostPlace c.id false pieces with
    | (s, .error e) => s.hostFail h e
    | (s, .ok ps) =>
      let b := s.readPieces ps
      let handle := c.objs.length + 1
      match parseObject b va.toNat handle with
      | none => s.itemDone h 0x82 []
      | some l =>
        if field b 16 8 &&& (2 ^ 64 - 1 - Config.features) != 0 then s.itemDone h 0x83 []
        else match if l.bytes == b then (s, .ok ps) else s.hostPlace c.id true pieces with
          | (s, .error e) => s.hostFail h e
          | (s, .ok ps) => (s.makeVisible c.id ps b l).itemDone h 0 (loadResult handle l.obj.version))

end Sys2Proof.Machine
end

