-- ==== Sys2Proof/Machine/HostWork.lean ====
section
/-!
DEFINITION. Intake items on contexts, launches, task seeds, logs, queries and transfers (R246, R339, R341, R352, R437, R440).
-/

namespace Sys2Proof.Machine

/-! ## Contexts (R440) -/

/-- Q`i` of a context descriptor: the ring base and c. -/
def descQueue (d : List Byte) (i : Nat) : TaskQueue :=
  let v := field d (64 + 8 * i) 8
  { ring := dword (v / 65536 * 65536), lgCap := v % 32, head := 0, tail := 0, recs := [] }

/-- Whether Q`i` keeps R440. -/
def descQueueOk (d : List Byte) (i : Nat) : Bool :=
  let v := field d (64 + 8 * i) 8
  (v % 32 == 0 || (6 ≤ v % 32 && v % 32 ≤ 20)) && bitsAt v 5 11 == 0

/-- R440: whether a descriptor keeps the table. -/
def descOk (d : List Byte) : Bool :=
  let root := field d 0 8
  d.length == 192 && root % 8192 == 0 && paMapped root && 1 ≤ field d 16 4 && field d 16 4 ≤ 65536
    && field d 24 8 &&& srReserved .trapBase == 0 && field d 40 4 &&& srReserved .preemptCtl == 0 && allZero (slice d 48 16)
    && (upto 16).all (descQueueOk d)

/-- R404 on the initial SAVE_BASE of a descriptor. -/
def State.descSaveOk (s : State) (d : List Byte) : Bool :=
  let v := field d 32 8
  v &&& srReserved .saveBase == 0 && s.saveOk (dword v)

/-- The context that a descriptor names. STATE of PREEMPT_CTL is read-only and starts at 0 (R400). -/
def descContext (id : Nat) (d : List Byte) (session queue : Nat) : Context :=
  Context.fresh id (dword (field d 0 8)) (dword (field d 8 8)) (field d 16 4) (field d 20 4) (field d 44 4)
    (dword (field d 24 8)) (dword (field d 32 8)) (word (field d 40 4 % 2 ^ 29)) ((upto 16).map (descQueue d)) session queue

/-- CREATE_CONTEXT (R435, R440). -/
def execCreateContext (h : Hdr) (desc : List Byte) (s : State) : Result :=
  .next (s.item h (.createContext h desc) fun s =>
    if !descOk desc then s.itemDone h 0x80 []
    else if !s.descSaveOk desc then s.itemDone h 0x86 []
    else if 256 ≤ s.contexts.length then s.itemDone h 0x87 []
    else
      let (id, s) := s.fresh
      let s : State := { s with contexts := s.contexts ++ [descContext id desc h.session h.queue] }
      s.itemDone h 0 (leBytes 4 id ++ leBytes 4 0))

/-- Whether a context holds any work (R435): launches, queued tasks, kept postings, teams or images, or its ladder runs. -/
def State.holdsWork (s : State) (c : Context) : Bool :=
  s.launches.any (fun l => l.ctx == c.id && !l.done) || s.teams.any (fun t => t.ctx == c.id)
    || c.queues.any (fun q => !q.recs.isEmpty) || !c.kept.isEmpty || !c.images.isEmpty || c.preemptCtl.toNat / 2 ^ 29 != 0

/-- WRITE_CONTEXT_DESCRIPTOR (R435, R440). -/
def execWriteContextDescriptor (h : Hdr) (desc : List Byte) (s : State) : Result :=
  .next (s.ctxItem h (.writeContextDescriptor h desc) fun s c =>
    if !descOk desc then s.itemDone h 0x80 []
    else if !s.descSaveOk desc || s.holdsWork c then s.itemDone h 0x86 []
    else
      let n := descContext c.id desc c.session c.queue
      (s.modCtx c.id fun x => { x with
        root := n.root, handles := n.handles, handleCount := n.handleCount, lattol := n.lattol, dctx := n.dctx, trapBase := n.trapBase
        saveBase := n.saveBase, preemptCtl := n.preemptCtl, preemptLive := n.preemptCtl, queues := n.queues }).itemDone h 0 [])

/-- Writes zero to every byte of a context's sealed frames, then removes them from the seal table (R246). -/
def State.scrub (s : State) (ctx : Nat) : State :=
  let fs := (s.seals.filter fun r => r.ctx == ctx).flatMap SealRec.frames
  let s := fs.foldl (fun s f => s.homeWrite (f * 65536) (List.replicate 65536 0#8)) s
  { s with seals := s.seals.filter fun r => r.ctx != ctx }

/-- Items of a context that wait for its work end failed, since the context is gone (log 2). -/
def State.endWaiting (s : State) (ctx : Nat) : State :=
  let seeds := s.intake.flatMap fun k => k.log.filterMap fun r => if r.state == .started then (match r.instr with
    | .seedTask h _ _ => if h.ctx == ctx then some (h, []) else none
    | .transfer h _ _ _ _ _ => if h.ctx == ctx then some (h, []) else none
    | .preempt h => if h.ctx == ctx then some (h, []) else none
    | _ => none) else none
  let gone := fun (x : XferRec) => seeds.any fun p => p.1.session == x.session && p.1.queue == x.queue && p.1.seq == x.seq
  let s : State := { s with xfers := s.xfers.filter fun x => !gone x }
  seeds.foldl (fun s p => s.itemDone p.1 0x86 p.2) s

/-- Every resource of a context is freed, its sealed frames are scrubbed and its freeze ends (R246, R248, R435). -/
def State.destroyCtx (s : State) (ctx : Nat) : State :=
  let s := ((s.l1.map L1Line.core).eraseDups).foldl (fun s c => s.publishCore c 0xFF#8) s
  let s := (s.recvBufs.filter fun r => r.ctx == ctx).foldl State.closeRecv s
  let ls := s.launches.filter fun l => l.ctx == ctx && !l.done
  let s := s.dropTeams ((s.ctxTeams ctx).map Team.id)
  let mine := s.heldToks.filter fun k => (s.instance? k.tok.dctx).any fun c => c.id == ctx
  let s := { s with clusters := s.clusters.filter fun x => x.ctx != ctx }
  let s := (ls.foldl (fun s l => s.endLaunch l 0x86) s).endWaiting ctx
  let s := s.scrub ctx
  let s : State := { s with
    contexts := s.contexts.filter fun c => c.id != ctx
    streams := s.streams.filter fun x => x.ctx != ctx
    xdescs := s.xdescs.filter fun x => x.ctx != ctx
    logs := s.logs.filter fun l => l.owner != ctx
    tlb := s.tlb.filter fun e => e.ctx != ctx
    xreqs := s.xreqs.filter fun x => x.ctx != ctx
    heldToks := s.heldToks.filter fun k => !mine.contains k }
  let s := mine.foldl (fun s k => s.later (.tokenArrival k.tok)) s
  s.admitAll.once .taskDispatch

/-- DESTROY_CONTEXT (R246, R248, R435). -/
def execDestroyContext (h : Hdr) (s : State) : Result :=
  .next (s.ctxItem h (.destroyContext h) fun s c => (s.destroyCtx c.id).itemDone h 0 [])

/-! ## Launches and seeds -/

/-- The team declaration of a kernel (R462). -/
def CodeObj.decl? (o : CodeObj) (fidx : Nat) : Option TeamDecl := o.decls.find? fun d => d.fidx == fidx

/-- LAUNCH (R147, R148, R152, R435): a launch that is accepted enters the admission queue of its start die. -/
def execLaunch (h : Hdr) (handle fidx : Nat) (geom : List Byte) (spillBase : DWord) (args : List Word) (s : State) : Result :=
  .next (s.ctxItem h (.launch h handle fidx geom spillBase args) fun s c =>
    let number := s.itemNumber h
    let fail := fun (code : Nat) => s.itemDone h code (leBytes 8 number.toNat)
    match c.objs.find? fun o => o.handle == handle with
    | none => fail 0x84
    | some o => match o.funcs[fidx]? with
      | none => fail 0x84
      | some f => match o.decl? fidx with
        | none => fail 0x81
        | some d =>
          let g := geomOf geom
          if !launchOk f.kernel d geom spillBase.toNat then fail 0x81
          else
            let (id, s) := s.fresh
            let die := (if g.glade < 96 then g.glade else c.startGlade) / 12
            let l : Launch := { id := id, ctx := c.id, number := number, handle := handle, fidx := fidx, geom := geom, spill := spillBase
                                args := args, decl := d, edition1 := o.edition1, left := g.count, next := 0, die := die, order := id
                                tasks := 0, failed := none, done := false, session := h.session, queue := h.queue, seq := h.seq }
            (({ s with launches := s.launches ++ [l] }.seeSlots fun x => x.ctx == c.id).itemRuns h).once (.clusterAdmit die))

/-- SEED_TASK (R349, R352, R357): the record enters its queue, or the item waits for a free entry. -/
def execSeedTask (h : Hdr) (queue : Nat) (record : List Byte) (s : State) : Result :=
  .next (s.ctxItem h (.seedTask h queue record) fun s c =>
    if (c.queue? queue).isNone || !c.taskOk record then s.itemDone h 0x80 []
    else if !c.queueFree queue then s
    else
      let r : TaskRec := { bytes := record, owner := .item h.session h.queue h.seq (s.itemNumber h), glade := none, core := none, q := 0
                           seq := 0, entryBad := false, written := false }
      (s.enqueue c.id queue r).itemDone h 0 [])

/-! ## Logs (R339, R341) -/

/-- Whether each 64 KiB page from `va` on is mapped in a context with V, W and AO set (R339). -/
def State.logPages (s : State) (ctx va : Nat) : Nat → Bool
  | 0 => true
  | n + 1 => canonicalVa va && (match s.walkFrom va walkLevels (s.ctx ctx).root.toNat with
    | .error _ => false
    | .ok l => l.w && l.ao) && s.logPages ctx (va + 65536) n

/-- The lowest log number, from 1, that no log holds (log 2). -/
def freeLog (used : List Nat) : Nat → Nat → Nat
  | 0, n => n
  | k + 1, n => if used.contains n then freeLog used k (n + 1) else n

/-- CREATE_LOG (R339). -/
def execCreateLog (h : Hdr) (lbase sigbase : DWord) (nseg : Nat) (s : State) : Result :=
  .next (s.ctxItem h (.createLog h lbase sigbase nseg) fun s c =>
    let sig := sigbase.toNat
    if lbase.toNat % 2 ^ 20 != 0 || sig % 256 != 0 || nseg == 0 || !canonicalVa lbase.toNat || !canonicalVa sig then s.itemDone h 0x80 []
    else if !s.logPages c.id lbase.toNat (16 * nseg) || !s.logPages c.id (sig / 65536 * 65536) ((sig % 65536 + 256 * nseg + 65535) / 65536) then
      s.itemDone h 0x86 []
    else if 256 ≤ s.logs.length then s.itemDone h 0x87 []
    else
      let id := freeLog (s.logs.map LogRec.id) 256 1
      let die := match s.walkFrom lbase.toNat walkLevels c.root.toNat with
        | .ok l => homeDie l.pa
        | .error _ => 0
      let l : LogRec := { id := id, owner := c.id, die := die, lbase := lbase, sigbase := sigbase, nseg := nseg, ap := 0, chain := 0
                          opened := true, segs := 0 }
      { s with logs := s.logs ++ [l] }.itemDone h 0 (leBytes 4 id ++ leBytes 4 0))

/-- Signs the full segments of a log in ascending order, up to the first whose writes fail (R341). -/
def State.signAll (s : State) (log : Nat) : Nat → State × Option Cause
  | 0 => (s, none)
  | n + 1 => match s.log? log with
    | none => (s, none)
    | some l =>
      if l.ap < (l.segs + 1) * 2 ^ 20 then (s, none)
      else match s.signSegment l with
        | (s, .error (c, _)) => (s, some c)
        | (s, .ok _) => s.signAll log n

/-- A close command (R341): the current segment is filled, its segments are signed, and OPEN is clear in every case. -/
def State.closeLog (s : State) (l : LogRec) : State × Option Cause :=
  let s := s.modLog l.id fun x => { x with opened := false }
  let n := (2 ^ 20 - l.ap % 2 ^ 20) % 2 ^ 20
  let filled : State × Option Cause :=
    if n == 0 then (s, none)
    else match s.engWrite (logTlb l.die) l.owner true .append ((l.lbase.toNat + l.ap) % 2 ^ 64) (List.replicate n 0xFF#8) with
      | (s, .error f) => (s.sealStop l.owner f, some f.1)
      | (s, .ok _) => (s.modLog l.id fun x => { x with ap := x.ap + n }, none)
  match filled with
  | (s, some c) => (s, some c)
  | (s, none) => s.signAll l.id (l.nseg + 1)

/-- CLOSE_LOG (R339, R341). -/
def execCloseLog (h : Hdr) (log : Nat) (s : State) : Result :=
  .next (s.ctxItem h (.closeLog h log) fun s c =>
    match s.log? log with
    | none => s.itemDone h 0x84 []
    | some l =>
      if !l.opened || l.owner != c.id then s.itemDone h 0x84 []
      else match s.closeLog l with
        | (s, e) => s.itemDone h ((e.map causeCode).getD 0) [])

/-! ## Queries (R437) -/

/-- Item state and cause of query kind 2. -/
def itemCode : Option ItemRec → Nat × Nat
  | none => (0, 0)
  | some r => match r.state with
    | .reported => (2, r.cause)
    | .acknowledged => (3, r.cause)
    | _ => (1, 0)

/-- The data of a query, or the report code with which it fails (R437). -/
def State.queryData (s : State) (h : Hdr) (kind : Nat) (arg : DWord) : Except Nat (List Byte) :=
  match kind with
  | 1 => if arg != 0 then .error 0x80 else match s.ctx? h.ctx with
    | none => .error 0x84
    | some c => .ok (leBytes 4 (c.preemptCtl.toNat / 2 ^ 29) ++ leBytes 4 c.images.length
        ++ leBytes 4 (s.launches.filter fun l => l.ctx == c.id && !l.done).length ++ leBytes 4 0)
  | 2 =>
    let r := itemCode ((s.intakeQ h.session h.queue).log.find? fun r => r.seq == arg.toNat)
    .ok (leBytes 1 r.1 ++ leBytes 1 r.2 ++ leBytes 6 0)
  | 3 => match s.stream? h.ctx arg with
    | none => .error 0x84
    | some x => .ok (x.bytes true)
  | 4 => match s.log? arg.toNat with
    | none => .error 0x84
    | some l => .ok (leBytes 8 l.ap ++ leBytes 4 l.nseg ++ leBytes 4 l.segs ++ leBytes 64 l.chain.toNat)
  | 5 => if arg != 0 then .error 0x80 else
    .ok (leBytes 8 s.boot ++ leBytes 8 Config.features ++ leBytes 4 Config.featureVersion ++ leBytes 4 0)
  | _ => .error 0x80

/-- QUERY (R437). -/
def execQuery (h : Hdr) (kind : Nat) (arg : DWord) (s : State) : Result :=
  .next (s.item h (.query h kind arg) fun s => match s.queryData h kind arg with
    | .error code => s.itemDone h code []
    | .ok d => s.itemDone h 0 d)

/-! ## Transfers (R437) -/

/-- The receiving side of a transfer: the bytes are written at the remote address in this module's instance of the domain
context (R437); the Boolean tells whether they were. -/
def State.takeTransfer (s : State) (dctx : Nat) (va : DWord) (data : List Byte) : State × Bool :=
  match s.instance? dctx with
  | none => (s, false)
  | some c => match s.engWrite xTlb c.id true .write va.toNat data with
    | (s, .ok _) => (s, true)
    | (s, .error (cs, a)) => (s.sealStop c.id (cs, a), false)

/-- Ends a transfer's item: done, or an engine fault. -/
def State.xferEnd (s : State) (h : Hdr) (ok : Bool) : State := s.itemDone h (if ok then 0 else causeCode .engineFault) []

/-- A transfer's item starts (R437). On this module the bytes are written at once; another module's answer is free (log 12);
a scale-out peer may stay silent. -/
def State.startTransfer (s : State) (h : Hdr) (c : Context) (va xdesc remote : DWord) (len peer : Nat) : State :=
  if !canonicalVa xdesc.toNat || xdesc.toNat % 64 != 0 then s.xferEnd h false
  else match s.engRead xTlb c.id true xdesc.toNat 64 with
  | (s, .error (e, _)) => s.itemDone h (causeCode e) []
  | (s, .ok b) =>
    if !xdOk b then s.xferEnd h false
    else match s.peerOf c.id (xd b) peer with
    | (s, .error (e, _)) => s.itemDone h (causeCode e) []
    | (s, .ok pe) =>
      if pe.kind == 0 || (pe.kind == 1 && !s.reaches pe.module) then s.xferEnd h false
      else match s.engRead xTlb c.id true va.toNat len with
      | (s, .error (e, _)) => s.itemDone h (causeCode e) []
      | (s, .ok data) =>
        if pe.kind == 1 && pe.module == s.moduleNo then
          match s.takeTransfer c.dctx remote data with
          | (s, ok) => s.xferEnd h ok
        else
          let (s, dst) := s.dest pe
          let s := s.send (.transfer dst c.dctx remote data)
          let n := s.freeCount * 2 ^ 20 + 2 ^ 16
          if pe.kind == 1 || Config.freeBool n then (s.xferEnd h (Config.freeBool (n + 1))).hear dst
          else
            let item := Instr.transfer h va xdesc remote len peer
            let s : State := { s with xfers := s.xfers ++ [⟨h.session, h.queue, h.seq, item, peer, s.sentNow dst, c.dctx, remote, data⟩] }
            (s.afterOnce (50 * Config.cyclesPerUs) (.exchangeRetransmit peer)).after (10 * Config.cyclesPerMs) item

/-- TRANSFER (R437): its item starts, or, 10 ms after its bytes were sent in vain, fails. -/
def execTransfer (h : Hdr) (va xdesc remote : DWord) (len peer : Nat) (s : State) : Result :=
  .next (match s.xfers.find? fun x => x.session == h.session && x.queue == h.queue && x.seq == h.seq with
    | some x => if s.silent x.sent then s.xferOver x false else s
    | none => s.ctxItem h (.transfer h va xdesc remote len peer) fun s c => s.startTransfer h c va xdesc remote len peer)

/-- TRANSFER_DATA_ARRIVAL (R437): another module's bytes are written and acknowledged; a fault is answered as one. -/
def execTransferDataArrival (dctx : Nat) (va : DWord) (data : List Byte) (peer : Nat) (s : State) : Result :=
  .next (match s.takeTransfer dctx va data with
    | (s, true) => s.send (.transferAck peer)
    | (s, false) => s.send (.remoteAns peer none))

end Sys2Proof.Machine
end

