-- ==== Sys2Proof/Machine/Ranger.lean ====
section
/-!
DEFINITION. The Ranger (R443 to R445): command sequence, answers and every command; module reset.
-/

namespace Sys2Proof.Machine

/-- The datagram that answers a command: its code and status, the sequence, and its body with the identity key's signature
over header and body (R443, R444). -/
def rangerAnswer (code status seq : Nat) (body : List Byte) : Out :=
  let head := [0x4E#8, 0x51#8, 0x37#8, 0x52#8, 1#8, byte (code + 0x80), byte status, 0#8] ++ leBytes 8 seq ++ leBytes 4 body.length
    ++ List.replicate 12 0#8
  .ranger (code + 0x80) status seq (body ++ leBytes 114 (Config.ed448Sign (head ++ body)).toNat)

/-- A command (R444): one whose sequence exceeds the last accepted one is performed by `f`, whose results are its status and
answer body; the last one again gets its answer again; a lower one gets status 1. -/
def State.command (s : State) (r : RHdr) (code : Nat) (f : State → State × Nat × List Byte) : State :=
  match s.rangerLast with
  | some o =>
    if r.seq == s.rangerSeq then s.send o
    else if r.seq < s.rangerSeq then s.send (rangerAnswer code 1 r.seq [])
    else
      let (s, st, body) := f s
      let a := rangerAnswer code st r.seq body
      { s with rangerSeq := r.seq, rangerLast := some a }.send a
  | none =>
    let (s, st, body) := f s
    let a := rangerAnswer code st r.seq body
    { s with rangerSeq := r.seq, rangerLast := some a }.send a

/-- The feature vector, bits 8:0 of R82, as 8 bytes. -/
def featureBytes : List Byte := leBytes 8 Config.features

/-- IDENT (R443, R444). -/
def execIdent (r : RHdr) (s : State) : Result :=
  .next (s.command r 0x01 fun s => (s, 0, leBytes 16 Config.serial.toNat ++ leBytes 57 Config.identityKey.toNat ++ leBytes 7 0
    ++ featureBytes ++ leBytes 4 Config.featureVersion ++ leBytes 4 (Config.firmwareVersion s.fwActive).toNat ++ leBytes 8 s.boot))

/-- What a quote signs (R445). -/
def State.quoteBody (s : State) (nonce : List Byte) : List Byte :=
  let seals := (sortKey (s.seals.map fun x => (x.id, x))).map (·.2)
  let logs := (sortKey (s.logs.map fun x => (x.id, x))).map (·.2)
  ascii "NQ7-QUOTE" ++ nonce ++ leBytes 64 (Config.firmwareMeasurement s.fwActive).toNat ++ featureBytes ++ leBytes 8 s.boot
    ++ leBytes 4 seals.length ++ (seals.flatMap fun x => leBytes 4 x.id ++ leBytes 64 x.m.toNat)
    ++ leBytes 4 logs.length ++ (logs.flatMap fun x => leBytes 4 x.id ++ leBytes 4 x.segs ++ leBytes 64 x.chain.toNat)

/-- QUOTE (R443 to R445). -/
def execQuote (r : RHdr) (nonce : List Byte) (s : State) : Result :=
  .next (s.command r 0x02 fun s =>
    let b := s.quoteBody nonce
    (s, 0, b ++ leBytes 114 (Config.ed448Sign b).toNat))

/-- FWUPD (R443, R444): the image is checked when the chunk that ends at the total length arrives, and waits for the next
module reset in the inactive bank. -/
def execFwupd (r : RHdr) (off total : Nat) (chunk : List Byte) (s : State) : Result :=
  .next (s.command r 0x03 fun s =>
    let buf := s.fwBuffer ++ List.replicate (off + chunk.length - s.fwBuffer.length) 0#8
    let buf := patch buf off chunk
    if total < off + chunk.length then (s, 1, [])
    else if off + chunk.length != total then ({ s with fwBuffer := buf }, 0, [])
    else
      let img := buf.take total
      let s : State := { s with fwBuffer := [] }
      if Config.firmwareVerify img then ({ s with fwPending := some img }, 0, []) else (s, 1, []))

/-- A ring with a new number of tokens (R228): tokens are added at the lowest stations without one, and surplus free ones go
(log 2). -/
def Ring.setN (r : Ring) (n : Nat) : Ring :=
  { r with n := n, free := (r.free ++ (upto 12).filter fun k => !r.free.contains k).take (n - r.held.length) }

/-- POWER (R228, R443, R444). -/
def execPower (r : RHdr) (cap : Nat) (tokens : List Nat) (s : State) : Result :=
  .next (s.command r 0x04 fun s =>
    ({ s with packageCap := cap, rings := s.rings.mapIdx fun i x => x.setN (tokens.getD i x.n) }, 0, []))

/-! ## RELEASE (R248) -/

/-- The deadlines of a context's ladder and watchdogs begin again with what was left of them at the freeze (R248). -/
def State.rearm (s : State) (c : Context) : State :=
  let d := s.cycle - c.frozenSince
  let mine := (s.ctxThreads c.id).map Thread.id
  let gs := s.ctxGroups c.id
  let s : State := { s with threads := s.threads.map fun u => if mine.contains u.id then { u with
    handler := u.handler.map fun h => { h with since := h.since + d } } else u }
  let s := s.modCtx c.id fun x => { x with ladderAt := x.ladderAt + d }
  let s := s.unTimer fun i => i == .drainDeadline c.id || i == .trapSaveDeadline c.id || gs.any fun g => i == .handlerWatchdog g
  let x := s.ctx c.id
  let s := if x.stage == 1 then s.due (x.ladderAt + x.drainCycles) (.drainDeadline c.id)
    else if x.stage == 2 then s.due (x.ladderAt + x.saveCycles) (.trapSaveDeadline c.id) else s
  (gs.filter fun g => (s.group g).resident || !(s.group g).saved).foldl (fun s g => match (s.liveOf g).findSome? Thread.handler, x.watchdog with
    | some h, some n => s.due (h.since + n) (.handlerWatchdog g)
    | _, _ => s) s

/-- The fault of a thread that a freeze recorded is delivered (R248): exactly, as R35 and R142 lay down. -/
def State.deliverFrozen (s : State) (t : Nat) (p : PendTrap) : State :=
  let th := s.th t
  if th.status != .live then s
  else if th.handler.isSome then (s.modTh t fun u => { u with hold := .none }).failHandler th.group p.cause
  else s.modTh t fun u => { u with pend := some p, hold := .trap }

/-- The context goes on (R248): its engines take up their operations again, and the recorded faults are delivered. -/
def State.releaseCtx (s : State) (ctx : Nat) : State :=
  let c := s.ctx ctx
  if !c.frozen then s
  else
    let s := s.modCtx ctx fun x => { x with frozen := false, frozenFaults := [] }
    let s := s.rearm c
    let s := c.frozenFaults.foldl (fun s f => s.deliverFrozen f.1 f.2) s
    let s := (s.ops.filter fun o => o.ctx == ctx).foldl (fun s o => s.once (.engineOpComplete o.id)) s
    let s := s.logQueue.foldl (fun s k => match (s.op? k).bind fun o => s.log? (o.data.getD 0 0) with
      | some l => s.later (.logRecordWrite l.die)
      | none => s) s
    let s := (s.ctxGroups ctx).foldl (fun s g => s.enterHandlers g) s
    s.admitAll.once .taskDispatch

/-- RELEASE (R248, R443, R444): of a context, or of a host session. -/
def execRelease (r : RHdr) (agent id : Nat) (s : State) : Result :=
  .next (s.command r 0x05 fun s =>
    if agent == 1 then
      if (s.ctx? id).isNone then (s, 1, []) else (s.releaseCtx id, 0, [])
    else if s.sessions.any fun x => x.id == id then
      ({ s with sessions := s.sessions.map fun x => if x.id == id then { x with frozen := false } else x }, 0, [])
    else (s, 1, []))

/-- SEAL (R245, R443, R444). -/
def execRangerSeal (r : RHdr) (ctx : Nat) (va : DWord) (pages : Nat) (s : State) : Result :=
  .next (s.command r 0x06 fun s => match (s.ctx? ctx).bind fun c => s.sealRegion c.id va pages with
    | none => (s, 1, [])
    | some (s, id, m) => (s, 0, leBytes 4 id ++ leBytes 4 0 ++ leBytes 64 m.toNat))

/-- PREEMPT (R401, R443, R444). -/
def execRangerPreempt (r : RHdr) (ctx : Nat) (s : State) : Result :=
  .next (s.command r 0x07 fun s => match s.ctx? ctx with
    | none => (s, 1, [])
    | some c => if c.stage != 0 then (s, 1, []) else (s.startLadder c.id, 0, []))

/-- SESSION (R443, R444): a session that opens numbers its queues from 1 (R438); one that closes receives nothing more (R464). -/
def execSession (r : RHdr) (op id : Nat) (key : List Byte) (s : State) : Result :=
  .next (s.command r 0x08 fun s =>
    let x : Session := { id := id, key := key, frozen := false, frozenAt := 0 }
    if op == 2 then ({ s with sessions := s.sessions.filter fun y => y.id != id }, 0, [])
    else if s.sessions.any fun y => y.id == id then
      ({ s with sessions := s.sessions.map fun y => if y.id == id then { y with key := key } else y }, 0, [])
    else ({ s with sessions := s.sessions ++ [x], intake := s.intake.filter fun q => q.session != id }, 0, []))

/-- DOMAIN (R423, R443, R444). -/
def execDomain (r : RHdr) (no : Nat) (routes : List Nat) (s : State) : Result :=
  .next (s.command r 0x09 fun s => ({ s with moduleNo := no, routes := routes }, 0, []))

/-- One 64-byte record of the machine error log (R444). -/
def errRecord (x : Nat × Nat × List Byte) : List Byte := leBytes 8 x.1 ++ leBytes 1 x.2.1 ++ leBytes 7 0 ++ x.2.2 ++ leBytes 8 0

/-- ERRLOG (R443, R444): up to 64 records from a number on; the log's first record has number 0 (log 2). -/
def execErrlog (r : RHdr) (first : Nat) (s : State) : Result :=
  .next (s.command r 0x0A fun s => (s, 0, ((s.errLog.drop first).take 64).flatMap errRecord))

/-- Module reset (R443): the boot count rises by 1, everything starts as at reset, and a stored firmware image takes effect. The
Ranger, in its own power domain (R2), keeps its sequence, its error log and its sessions; a session's windows start again (log 2). -/
def State.moduleReset (s : State) : State :=
  { State.reset with
    boot := s.boot + 1, rangerSeq := s.rangerSeq, rangerLast := s.rangerLast, rangerInbox := s.rangerInbox, outbox := s.outbox
    sessions := s.sessions.map fun x => { x with frozen := false, frozenAt := 0 }
    fwBuffer := s.fwBuffer, fwActive := s.fwPending.orElse fun _ => s.fwActive, errLog := s.errLog, turns := s.turns, freeCount := s.freeCount }

/-- RESET (R443, R444): its answer is sent before the reset. -/
def execReset (r : RHdr) (s : State) : Result :=
  .next (
    let old : Bool := match s.rangerLast with
      | some _ => r.seq ≤ s.rangerSeq
      | none => false
    let s := s.command r 0x0B fun s => (s, 0, [])
    if old then s else s.moduleReset)

/-- XDIR (R443, R444, R447). -/
def execXdir (r : RHdr) (base : DWord) (count : Nat) (s : State) : Result :=
  .next (s.command r 0x0C fun s => ({ s with xdirBase := base, xdirCount := count }, 0, []))

/-- An unknown code, or a body that breaks its layout: answered with status 2, and no effect (R444). -/
def execRangerUnknownCode (r : RHdr) (code : Nat) (s : State) : Result :=
  .next (s.send (rangerAnswer code 2 r.seq []))

/-- LOSS_OF_POWER (R410, R441): the module comes up again by module reset; memory reads as after power-on. -/
def execLossOfPower (s : State) : Result := .next s.moduleReset

end Sys2Proof.Machine
end

