-- ==== Sys2Proof/Machine/Parts.lean ====
section
/-!
DEFINITION. Part faults and recovery (R422, R424, R441, R442), power states (R446), background translation (R447 to R449), and
accesses of other modules (R424).
-/

namespace Sys2Proof.Machine

/-! ## Part faults -/

/-- The machine error log's record of a part fault, kind 4 (R437), or of its recovery, with cause 0; it names no context (log 20). -/
def partBody (cause part index : Nat) : List Byte :=
  leBytes 4 0 ++ leBytes 4 0 ++ leBytes 1 4 ++ leBytes 1 cause ++ leBytes 6 0 ++ leBytes 8 0 ++ leBytes 8 0
    ++ leBytes 8 (part + 256 * index)

/-- The number of a part's kind, and its index (R437). -/
def PartFault.code : PartFault → Nat × Nat
  | .hbm n => (1, n)
  | .dieLink n => (2, n)
  | .canopy n => (3, n)
  | .core n => (4, n)

/-- A part fault (R438, R441): it is recorded, held intake messages are lost, and recovery ends within 100 ms. -/
def State.partFault (s : State) (f : PartFault) : State :=
  if s.partFaults.contains f then s
  else
    let s : State := { s with
      partFaults := s.partFaults ++ [f], recovering := true
      errLog := s.errLog ++ [(s.cycle, 4, partBody (causeCode .memError) f.code.1 f.code.2)]
      intake := s.intake.map fun q => { q with heldMsgs := [] } }
    s.after (100 * Config.cyclesPerMs) .partFaultRecovery

/-- HBM_STACK_FAULT (R441): what lies on the stack cannot be read until it is mirrored again (log 20). -/
def execHbmStackFault (stack : Nat) (s : State) : Result := .next (s.partFault (.hbm stack))
/-- DIE_LINK_FAILURE (R422): traffic takes another way, and no request is lost. -/
def execDieLinkFailure (link : Nat) (s : State) : Result := .next (s.partFault (.dieLink link))
/-- CANOPY_LINK_FAILURE (R424, R425): traffic takes the links that are left. -/
def execCanopyLinkFailure (link : Nat) (s : State) : Result := .next (s.partFault (.canopy link))

/-- Save images whose mirrors recovery writes again: both copies of each image and directory. -/
def State.mirrors (s : State) : List (Nat × Nat) :=
  s.contexts.flatMap fun c => if c.saveBase == 0 then [] else
    let a := s.saveA c
    ((0, 65536) :: c.images.map fun i => (i.off, i.len)).flatMap fun r => [(a + r.1, r.2), (a + r.1 + copyB, r.2)]

/-- PART_FAULT_RECOVERY (R441): the intake logs and save images are mirrored again, and the machine error log says so (R443, log 20). -/
def execPartFaultRecovery (s : State) : Result :=
  .next (if !s.recovering then s else { s with
    recovering := false, mended := s.mended ++ s.mirrors
    errLog := s.errLog ++ (s.partFaults.getLast?.toList.map fun f => (s.cycle, 4, partBody 0 f.code.1 f.code.2)) })

/-! ## The fault of a core (R442) -/

/-- Teams that lose something with a core: homed on it, or with a thread in a group that it hosts; a parked group counts as hosted
by the core to which its unpark would bring it back (log 20). -/
def State.teamsOn (s : State) (core : Nat) : List Team :=
  let gs := (s.groups.filter fun g => g.core == core && (g.resident || (!g.saved && g.beadCores.isEmpty))).map Group.id
  s.teams.filter fun t => t.holds && (t.home == core || s.threads.any fun u => u.team == t.id && gs.contains u.group)

/-- Whether a team runs a task that may be dispatched again (R357). -/
def Team.idem (t : Team) : Bool := match t.task with
  | some r => taskIdem r.bytes
  | none => false

/-- A launch that a core's fault ends (R442): its groups and operations stop, its queued clusters, undispatched tasks and images
go, and it is reported failed with 0x14 once every store of its threads has been performed at home. -/
def State.faultLaunch (s : State) (l : Launch) : State :=
  let mine := fun (o : Owner) => o == .launch l.id
  let ts := (s.teams.filter fun t => t.launch == .launch l.id).map Team.id
  let s := s.dropImages l.ctx fun i => ts.contains i.team
  let s := s.dropTeams ts
  let s := { s with clusters := s.clusters.filter fun c => !(c.ctx == l.ctx && c.launch == l.id) }
  let s := s.modCtx l.ctx fun c => { c with
    kept := c.kept.filter fun p => !mine p.task.owner
    queues := c.queues.map fun q => { q with recs := q.recs.map fun r => if mine r.owner then { r with entryBad := true } else r } }
  let s := ((s.l1.map L1Line.core).eraseDups).foldl (fun s c => s.publishCore c 0xFF#8) s
  s.endLaunch l (causeCode .memError)

/-- A task with IDEM = 1 stands at the head of its queue again (R357, R442). -/
def State.redispatch (s : State) (t : Team) : State := match t.task with
  | none => s
  | some r =>
    let s := s.dropTeams [t.id]
    s.modQueue t.ctx r.q fun k => { k with head := k.head - 1, recs := { r with entryBad := false, written := true } :: k.recs }

/-- CORE_PART_FAULT (R441, R442). -/
def execCorePartFault (core : Nat) (s : State) : Result :=
  .next (
    if (s.core core).failed || Config.nCores ≤ core then s
    else
      let lost := s.teamsOn core
      let dead := lost.filter fun t => !t.idem
      let bad := s.launches.filter fun l => !l.done && dead.any fun t => t.launch == .launch l.id
      let s := (s.partFault (.core core)).modCore core fun c => { c with failed := true }
      let s := (s.failTasks dead .memError).lostPosts (lost.map Team.id)
      let s := bad.foldl (fun s l => s.faultLaunch l) s
      let s := s.dropTeams ((dead.filter fun t => s.teams.any fun x => x.id == t.id).map Team.id)
      let s := (lost.filter fun t => t.idem && s.teams.any fun x => x.id == t.id).foldl State.redispatch s
      s.admitAll.once .taskDispatch)

/-! ## Power states (R446) -/

/-- The number of a state in the order of R446's table, with its exit latency in µs. -/
def powerLatency : Nat → Nat
  | 1 => 2
  | 2 => 40
  | 3 => 800
  | _ => 25000

/-- T: the smallest latency tolerance among contexts that hold work or a bound stream. -/
def State.tolerance (s : State) : Nat :=
  (s.contexts.filter fun c => s.holdsWork c || s.streams.any fun x => x.ctx == c.id).foldl (fun m c => min m c.lattol) 0xFFFFFFFF

/-- The state of a part; 0 when it is in none. -/
def State.powerOf (s : State) (p : PowerPart) : Nat := ((s.powerDown.find? fun x => x.1 == p).map (·.2)).getD 0

/-- Whether an engine of a die has work (R446): an operation of a core of the die; the exchange engine of the die that homes a
descriptor or a receive buffer, with a send, a transfer, a bound buffer or a held token (R426); a record for a log of the die. -/
def State.dieWorks (s : State) (d : Nat) : Bool :=
  s.ops.any (fun o => dieOf o.core == d)
    || s.sends.any (fun r => (s.op? r.op).any fun o => s.homedOn d o.ctx (o.data.getD 0 0))
    || s.recvBufs.any (fun r => s.homedOn d r.ctx r.addr.toNat)
    || s.heldToks.any (fun k => (s.instance? k.tok.dctx).any fun c => s.homedOn d c.id k.tok.rbuf.toNat)
    || s.xfers.any (fun x => match x.item with
      | .transfer h _ a _ _ _ => s.homedOn d h.ctx a.toNat
      | _ => false)
    || s.logQueue.any fun k => ((s.op? k).bind fun o => s.log? (o.data.getD 0 0)).any fun l => l.die == d

/-- Condition of a state for a part (R446). -/
def State.powerCond (s : State) (p : PowerPart) (n : Nat) : Bool := match p with
  | .glade g =>
    if n == 1 then !s.threads.any fun u => gladeOf (s.hostOf u) == g && s.ready u
    else n == 2 && !s.teams.any (fun t => t.holds && gladeOf t.home == g) && !s.groups.any fun x =>
      (x.resident && gladeOf x.core == g) || x.beadCores.any fun c => gladeOf c == g
  | .die d => n == 3 && (upto 12).all (fun i => s.powerOf (.glade (12 * d + i)) == 2) && !s.dieWorks d
  | .module => n == 4 && (upto Config.nDies).all (fun d => s.powerOf (.die d) == 3) && s.streams.isEmpty
      && s.intake.all fun q => q.log.all fun r => r.state == .acknowledged || r.state == .reported

/-- The deepest state whose condition holds and whose exit latency is at most T. -/
def State.deepest (s : State) (p : PowerPart) : Nat :=
  ([4, 3, 2, 1].find? fun n => s.powerCond p n && powerLatency n ≤ s.tolerance).getD 0

/-- POWER_STATE_ENTER (R446): a part that has been idle long enough enters the deepest state it may (log 5). -/
def execPowerStateEnter (p : PowerPart) (s : State) : Result :=
  .next (let n := s.deepest p
    if n ≤ s.powerOf p then s else { s with powerDown := s.powerDown.filter (fun x => x.1 != p) ++ [(p, n)] })

/-- POWER_STATE_EXIT (R446): arriving work wakes a part. -/
def execPowerStateExit (p : PowerPart) (s : State) : Result :=
  .next (let n := s.powerOf p
    if n == 0 || s.powerCond p n then s else { s with powerDown := s.powerDown.filter fun x => x.1 != p })

/-! ## Background translation (R447 to R449) -/

/-- The entry of the translation directory that a request names, as it stands at home. -/
def State.xEntry (s : State) (r : XReq) : List Byte := s.homeRead r.entry 128

/-- A native image that is ready joins a loaded code object (R449), mapped at its place in the pool (log 21). -/
def CodeObj.join (o : CodeObj) (r : XReq) (image size : Nat) : CodeObj :=
  let k := imageKind r.kind
  if o.handle != r.handle || o.joined.contains (r.fidx, k) then o
  else
    let lines := (Config.builtLines (leNat r.key)).map fun l => (⟨l.1, l.2.1, l.2.2.1, l.2.2.2⟩ : LineEnt)
    let im : Image := { kind := k, base := image, size := size, ranges := [(image, image + size)], starts := [], lines := lines, pool := true }
    { o with
      images := o.images ++ [im], joined := o.joined ++ [(r.fidx, k)]
      funcs := o.funcs.mapIdx fun i f => if i != r.fidx then f else
        match r.kind with
        | .bramble => { f with bramble := image }
        | .larch => { f with larch := image } }

/-- Bytes of an image that the builder writes (R448, log 3). -/
def builtImage (key : List Byte) (n : Nat) : List Byte := (upto n).map fun i => Config.builtByte (leNat key) i

/-- TRANSLATION_BUILD_COMPLETE (R448, R449): the builder has written a native image into the pool, in whole lines, and sets its
entry ready; or the entry is ready already. The image joins every loaded object that asked for it. -/
def execTranslationBuildComplete (key : List Byte) (kind : CoreKind) (image : DWord) (size : Nat) (s : State) : Result :=
  .next (match s.xreqs.find? fun r => r.key == key && r.kind == kind with
    | none => s
    | some r =>
      let e := s.xEntry r
      let st := field e 32 1
      let mine := field e 34 6 == Config.serial.toNat % 2 ^ 48
      let a := if st == 2 then field e 40 8 else image.toNat
      let n := if st == 2 then field e 48 4 else size
      if e.take 32 != key || !(st == 2 || (st == 1 && mine)) || a % 64 != 0 || n == 0 || n % 64 != 0 || !paMapped a || !paMapped (a + n - 1) then s
      else
        let s := if st == 2 then s else
          (s.homePut a (builtImage key n)).homePut r.entry (key ++ [2#8] ++ slice e 33 7 ++ leBytes 8 a ++ leBytes 4 n ++ List.replicate 76 0#8)
        let rs := s.xreqs.filter fun x => x.key == key && x.kind == kind
        let s : State := { s with xreqs := s.xreqs.filter fun x => !(x.key == key && x.kind == kind) }
        rs.foldl (fun s x => s.modCtx x.ctx fun c => { c with objs := c.objs.map fun o => o.join x a n }) s)

/-- TRANSLATION_BUILD_TIMEOUT (R448): an entry that has been building for 100 ms is set back to absent (log 21); one that is ready
stays to be joined (R449). -/
def execTranslationBuildTimeout (key : List Byte) (s : State) : Result :=
  .next (match s.xreqs.find? fun r => r.key == key with
    | none => s
    | some r =>
      let e := s.xEntry r
      if s.nowCycle < r.since + 100 * Config.cyclesPerMs || (e.take 32 == key && field e 32 1 == 2) then s
      else
        let s := if e.take 32 == key && field e 32 1 == 1 then s.homePut r.entry (List.replicate 128 0#8) else s
        { s with xreqs := s.xreqs.filter fun x => x.key != key })

/-! ## Accesses of other modules -/

/-- The local physical address at which another module's access is performed, when it names mapped memory of this module. -/
def State.homeOf (s : State) (pa n : Nat) : Bool := s.localPa pa && paMapped pa && (s.dataError pa n).isNone

/-- REMOTE_ACCESS_ARRIVAL (R424, R425): performed at the home slice and answered, a write with no bytes; an access that fails is
answered as one and writes nothing. -/
def execRemoteAccessArrival (peer : Nat) (req : RemoteReq) (s : State) : Result :=
  let answer := fun (s : State) (a : Option (List Byte)) => Host.Outcome.next (s.send (.remoteAns peer a))
  let aligned := fun (pa n : Nat) => s.homeOf pa n && pa % max n 1 == 0 && (s.sealOf pa).isNone
  match req with
  | .read pa n => answer s (if s.homeOf pa n then some (s.homeRead pa n) else none)
  | .walk pa => answer s (if s.homeOf pa 16 then some (s.homeRead pa 16) else none)
  | .write pa bs => if s.homeOf pa bs.length && (s.sealOf pa).isNone then answer (s.homeWrite pa bs) (some []) else answer s none
  | .atom pa op ty b c =>
    let n := ty.bits / 8
    if aligned pa n then
      let r := s.atomHome pa op ty b.toNat c.toNat
      answer r.1 (some (leBytes n r.2))
    else answer s none
  | .batch pa op ty b =>
    if aligned pa (ty.bits / 8) then answer (s.atomHome pa op ty b.toNat 0).1 (some []) else answer s none

end Sys2Proof.Machine
end

