-- ==== Sys2Proof/Machine/Complete.lean ====
section
/-!
DEFINITION. The completion of engine operations (R325, R326), and TRETRY with the replay of a fault record (R396 to R398).
-/

namespace Sys2Proof.Machine

/-! ## Completion -/

/-- An engine operation of a context that runs completes under its own rules; one that must wait is looked at again. -/
def State.engineDone (s : State) (o : Op) : State := match o.instr with
  | .lds _ ty n _ _ _ _ _ _ =>
    if !o.started then s else if s.copyBehind o then s.later (.engineOpComplete o.id) else s.ldsDone o ty n
  | .cpy _ s2g _ _ colour slot r _ _ _ _ =>
    if !o.started then s else if s.copyBehind o then s.later (.engineOpComplete o.id) else s.cpyDone o s2g colour slot r
  | .fetch _ lgn d _ _ _ => s.fetchDone o (2 ^ lgn.val) d
  | .tstep _ d pe _ _ _ _ =>
    if s.ops.any fun p => p.tstepOf o.thread && p.id < o.id then s.later (.engineOpComplete o.id) else s.tstepDone o d pe
  | .tpost _ _ _ => s.tpostDone o
  | .xrecv _ _ _ _ =>
    if s.recvBufs.any fun r => r.op == o.id then s else s.engEnd o (o.obj 0) (o.fault.map fun f => (f.1, f.2.toNat))
  | .xsend _ _ _ _ _ _ => if (s.send? o.id).isSome then s else s.opDone o
  | .mnextSt _ colour ma d _ _ =>
    if s.mergeBehind o ma.val then s.later (.engineOpComplete o.id) else s.mnextSteps o colour ma d none
  | .xlist _ _ _ _ _ _ | .dappend _ _ _ _ _ _ _ | .dcut _ _ _ _ | .dckpt _ _ _ _ _ _ | .dtake _ _ _
  | .dcurs _ _ _ => s.opDone o
  | _ => s

/-- ENGINE_OP_COMPLETE (R325, R326); a frozen context's operation waits for release (R248). -/
def execEngineOpComplete (op : Nat) (s : State) : Result :=
  .next (match s.op? op with
    | none => s
    | some o => if (s.ctx o.ctx).frozen then s else s.engineDone o)

/-! ## Replay (R398) -/

/-- A guard that always passes: a recorded operation passed its own. -/
def always (x : X) : X := { x with g := ⟨false, 7⟩ }

/-- The k-th recorded source word as an operand. -/
def srcAt (k : Nat) : Opd := .v (Fin.ofNat 1024 (128 + k))

/-- A typed operand whose recorded words begin at the k-th; an inline constant stands in the instruction word itself (R61). -/
def srcOr (o : Opd) (k : Nat) : Opd := match o with
  | .k c => .k c
  | _ => srcAt k

/-- Issues the operation of a replay record again, its sources taken from the recorded words (R386, R398): a signer signs again. -/
def State.issueAgain (s : State) : Instr → Result
  | .ld x t n sp c d _ off => execLd (always x) t n sp c d (srcAt 0) off s
  | .ldf x t p scl c d _ _ off => execLdf (always x) t p scl c d (srcAt 0) (srcAt 2) off s
  | .flushred x => execFlushred (always x) s
  | .atom x op t acq pub sc sp c d _ b b' off =>
    let n := if sp == .g then 2 else 1
    execAtom (always x) op t acq pub sc sp c d (srcAt 0) (srcOr b n) (srcOr b' (n + opLen t)) off s
  | .mma x ta tb sat burst sc d _ _ tile ha hb gr =>
    execMma (always x) ta tb sat burst sc d (srcAt 0) (srcAt 8) tile ha hb gr s
  | .accz x rel tile gr => execAccz (always x) rel tile gr s
  | .fslot x h c _ off => execFslot (always x) h c (srcAt 0) off s
  | .accld x t sp c _ tile => execAccld (always x) t sp c (srcAt 0) tile s
  | .lds x t n sp bar _ _ _ off => execLds (always x) t n sp bar (srcAt 0) (srcAt 2) (srcAt 3) off s
  | .cpy x g sp bar c h r _ _ _ hnd => execCpy (always x) g sp bar c h r (srcAt 0) (srcAt 2) (srcAt 3) hnd s
  | .fetch x n d _ _ hnd => execFetch (always x) n d (srcAt 0) (srcAt 1) hnd s
  | .tstep x d p _ _ _ hnd => execTstep (always x) d p (srcAt 0) (srcAt 2) (srcAt 3) hnd s
  | .tlog x r d _ _ _ hnd => execTlog (always x) r d (srcAt 0) (srcAt 1) (srcAt 2) hnd s
  | .mnextSt x c m d _ _ => execMnextSt (always x) c m d (srcAt 0) (srcAt 2) s
  | .tpost x q _ => execTpost (always x) q (srcAt 0) s
  | .dappend x r t d _ _ _ => execDappend (always x) r t d (srcAt 0) (srcAt 2) (srcAt 3) s
  | .dcut x r d _ => execDcut (always x) r d (srcAt 0) s
  | .dckpt x clr _ _ _ i => execDckpt (always x) clr (srcAt 0) (srcAt 2) (srcAt 4) i s
  | .dtake x d _ => execDtake (always x) d (srcAt 0) s
  | .dcurs x d _ => execDcurs (always x) d (srcAt 0) s
  | .xlist x r d _ _ _ => execXlist (always x) r d (srcAt 0) (srcAt 2) (srcAt 4) s
  | .xsend x e r d _ _ => execXsend (always x) e r d (srcAt 0) (srcAt 2) s
  | .xrecv x _ _ _ => execXrecv (always x) (srcAt 0) (srcAt 2) (srcAt 3) s
  | _ => .next s

/-- A line that holds one word in every slot, and one flag as SETA and SETB (15 for none). -/
def replayLine (w : Nat) (flag : Option (Fin 12)) : BitVec 512 :=
  let f := match flag with
    | some k => k.val
    | none => 15
  BitVec.ofNat 512 (((upto 5).map fun k => w % 2 ^ 96 * 2 ^ (96 * k)).sum + (f * 2 ^ 12 + f * 2 ^ 16) * 2 ^ 480)

/-- The thread as it stood at the original issue of a recorded operation: its PC, word, flag, window base, privilege and
sources. -/
def Thread.atIssue (th : Thread) (f : FaultRec) : Thread :=
  { th with
    clause := some (.line (replayLine f.word.toNat f.flag)), pc := f.pc, wbase := f.wbase, portable := false, hold := .none, stall := none, pend := none
    handler := if f.priv then th.handler else none, depth := th.depth - 1, ovf := f.src.mapIdx fun i w => (128 + i, w) }

/-- Puts a thread back in its handler after a replay, with the flags, faults and other effects of the issue. -/
def Thread.backFrom (u th : Thread) : Thread :=
  { u with
    clause := th.clause, pc := th.pc, wbase := th.wbase, portable := th.portable, hold := th.hold, stall := th.stall, pend := th.pend, handler := th.handler
    depth := th.depth, ovf := th.ovf, entered := th.entered, byTransfer := th.byTransfer, replay := none }

/-- What the handler waits for when the operation that it replays cannot issue yet (R398). -/
def Thread.replayStall (u : Thread) (i : Instr) : Next := match u.stall, u.hold, i with
  | some w, _, _ => .stall w
  | none, .tile n _, _ => .stall (.firstUse n.val)
  | none, .tpost _, .tpost _ q _ => .stall (.queue q.val)
  | _, _, _ => .retry

/-- Replay of R398; an operation that cannot issue yet leaves its thread stalled. An issue check that now fails makes a new fault
record. -/
def State.replayOp (s : State) (th : Thread) (f : FaultRec) : Except Next State :=
  let i : Issue := { begun := true, core := s.hostOf th, port := 0, todo := [th.id, th.id], done := [], all := [th.id], ends := true, left := 0
                     stamp := s.nextId }
  match ({ s.setTh (th.atIssue f) with issues := [i] } : State).issueAgain f.instr with
  | .next s' =>
    let u := s'.th th.id
    let s2 : State := { s'.setTh (u.backFrom th) with issues := s.issues }
    match u.pend with
    | some p => .ok (let (n, s3) := s2.fresh; s3.holdFault th.id { f with ord := n, cause := p.cause, addr := p.addr })
    | none => if u.hold == Hold.none && u.pc != f.pc then .ok s2 else .error (u.replayStall f.instr)
  | _ => .error .retry

/-- TRETRY (R396 to R398). -/
def execTretry (x : X) (s : State) : Result :=
  .next (s.issue (.tretry x) x fun s th =>
    if th.returnBad then (s, .trap .reservedField th.pc)
    else match if th.trapCause.getLsbD 14 then th.replay else none with
      | none => s.returnOp th false
      | some f => match s.replayOp th f with
        | .error n => (s, n)
        | .ok s => s.returnOp (s.th th.id) false)

end Sys2Proof.Machine
end

