-- ==== Sys2Proof/Machine/Logic.lean ====
section
/-!
DEFINITION. Logic, shifts and bit fields (R129, R130), compare, select and predicates (R131, R132).
-/

namespace Sys2Proof.Machine

/-- A bitwise complement in `w` bits. -/
def bitNot (w x : Nat) : Nat := 2 ^ w - 1 - x % 2 ^ w

/-- AND (R129). -/
def execAnd (x : X) (ty : Ty) (d a b : Opd) (s : State) : Result :=
  .next (s.issue (.and x ty d a b) x fun s th => s.plain th ty d (s.rd th ty a &&& s.rd th ty b))
/-- OR (R129). -/
def execOr (x : X) (ty : Ty) (d a b : Opd) (s : State) : Result :=
  .next (s.issue (.or x ty d a b) x fun s th => s.plain th ty d (s.rd th ty a ||| s.rd th ty b))
/-- XOR (R129). -/
def execXor (x : X) (ty : Ty) (d a b : Opd) (s : State) : Result :=
  .next (s.issue (.xor x ty d a b) x fun s th => s.plain th ty d (s.rd th ty a ^^^ s.rd th ty b))

/-- IMM of the logic immediates: sign-extended to 64 bits for b64 (R129). -/
def logicImm (ty : Ty) (imm : Word) : Nat := if ty.bits == 64 then (imm.signExtend 64).toNat else imm.toNat

/-- AND, immediate form (R129). -/
def execAndImm (x : X) (ty : Ty) (d a : Opd) (imm : Word) (s : State) : Result :=
  .next (s.issue (.andImm x ty d a imm) x fun s th => s.plain th ty d (s.rd th ty a &&& logicImm ty imm))
/-- OR, immediate form (R129). -/
def execOrImm (x : X) (ty : Ty) (d a : Opd) (imm : Word) (s : State) : Result :=
  .next (s.issue (.orImm x ty d a imm) x fun s th => s.plain th ty d (s.rd th ty a ||| logicImm ty imm))
/-- XOR, immediate form (R129). -/
def execXorImm (x : X) (ty : Ty) (d a : Opd) (imm : Word) (s : State) : Result :=
  .next (s.issue (.xorImm x ty d a imm) x fun s th => s.plain th ty d (s.rd th ty a ^^^ logicImm ty imm))

/-- NOT (R129). -/
def execNot (x : X) (ty : Ty) (d a : Opd) (s : State) : Result :=
  .next (s.issue (.not x ty d a) x fun s th => s.plain th ty d (bitNot ty.bits (s.rd th ty a)))

/-- LUT3 on `w` bits: bit i is LUT[4a + 2b + c] (R129). -/
def lut3 (lut : Byte) (a b c : Nat) : Nat → Nat
  | 0 => 0
  | w + 1 =>
    let k := 4 * (a % 2) + 2 * (b % 2) + c % 2
    (if lut.getLsbD k then 1 else 0) + 2 * lut3 lut (a / 2) (b / 2) (c / 2) w

/-- LUT3 (R129). -/
def execLut3 (x : X) (ty : Ty) (lut : Byte) (d a b c : Opd) (s : State) : Result :=
  .next (s.issue (.lut3 x ty lut d a b c) x fun s th =>
    s.plain th ty d (lut3 lut (s.rd th ty a) (s.rd th ty b) (s.rd th ty c) ty.bits))

/-- Logical left shift in `w` bits; k at or above w gives 0 (R129). -/
def shlBits (w x k : Nat) : Nat := if w ≤ k then 0 else x * 2 ^ k % 2 ^ w
/-- Logical right shift; k at or above w gives 0 (R129). -/
def shrBits (w x k : Nat) : Nat := if w ≤ k then 0 else x / 2 ^ k
/-- Arithmetic right shift; k at or above w copies the top bit (R129). -/
def sarBits (w x k : Nat) : Nat := wrapTo w (intVal true w x / (2 ^ min k (w - 1) : Nat))
/-- Left rotation by k mod w (R129). -/
def rotBits (w x k : Nat) : Nat := (x * 2 ^ (k % w) + x / 2 ^ (w - k % w)) % 2 ^ w

/-- SHL (R129). -/
def execShl (x : X) (ty : Ty) (d a b : Opd) (s : State) : Result :=
  .next (s.issue (.shl x ty d a b) x fun s th => s.plain th ty d (shlBits ty.bits (s.rd th ty a) (s.rd32 th b).toNat))
/-- SHR (R129). -/
def execShr (x : X) (ty : Ty) (d a b : Opd) (s : State) : Result :=
  .next (s.issue (.shr x ty d a b) x fun s th => s.plain th ty d (shrBits ty.bits (s.rd th ty a) (s.rd32 th b).toNat))
/-- SAR (R129). -/
def execSar (x : X) (ty : Ty) (d a b : Opd) (s : State) : Result :=
  .next (s.issue (.sar x ty d a b) x fun s th => s.plain th ty d (sarBits ty.bits (s.rd th ty a) (s.rd32 th b).toNat))
/-- ROT (R129). -/
def execRot (x : X) (ty : Ty) (d a b : Opd) (s : State) : Result :=
  .next (s.issue (.rot x ty d a b) x fun s th => s.plain th ty d (rotBits ty.bits (s.rd th ty a) (s.rd32 th b).toNat))

/-- Length of the field of BFX and BFI within `w` bits; 0 for an empty field (R130). -/
def fieldLen (w b : Nat) : Nat := if w ≤ b % 256 then 0 else min (bitsAt b 8 8) (w - b % 256)

/-- BFX (R129, R130). -/
def execBfx (x : X) (ty : Ty) (sgn : Bool) (d a b : Opd) (s : State) : Result :=
  .next (s.issue (.bfx x ty sgn d a b) x fun s th =>
    let c := (s.rd32 th b).toNat
    let l := fieldLen ty.bits c
    let f := bitsAt (s.rd th ty a) (c % 256) l
    s.plain th ty d (if l == 0 then 0 else if sgn then wrapTo ty.bits (intVal true l f) else f))

/-- BFI (R129, R130). -/
def execBfi (x : X) (ty : Ty) (d a b c : Opd) (s : State) : Result :=
  .next (s.issue (.bfi x ty d a b c) x fun s th =>
    let k := (s.rd32 th b).toNat
    let p := k % 256
    let l := fieldLen ty.bits k
    let v := s.rd th ty c
    s.plain th ty d (if l == 0 then v
      else v % 2 ^ p + bitsAt (s.rd th ty a) 0 l * 2 ^ p + v / 2 ^ (p + l) * 2 ^ (p + l)))

/-- Count of 1 bits among the low `w` bits. -/
def popBits : Nat → Nat → Nat
  | 0, _ => 0
  | w + 1, x => x % 2 + popBits w (x / 2)
/-- Leading zeros in `w` bits; w for 0. -/
def clzBits (w x : Nat) : Nat := if x % 2 ^ w == 0 then w else w - 1 - (x % 2 ^ w).log2
/-- The low `w` bits in reverse order. -/
def revBits : Nat → Nat → Nat
  | 0, _ => 0
  | w + 1, x => x % 2 * 2 ^ w + revBits w (x / 2)

/-- POPC: the destination is one 32-bit register (R129). -/
def execPopc (x : X) (ty : Ty) (d a : Opd) (s : State) : Result :=
  .next (s.issue (.popc x ty d a) x fun s th => s.plain th .b32 d (popBits ty.bits (s.rd th ty a)))
/-- CLZ (R129). -/
def execClz (x : X) (ty : Ty) (d a : Opd) (s : State) : Result :=
  .next (s.issue (.clz x ty d a) x fun s th => s.plain th .b32 d (clzBits ty.bits (s.rd th ty a)))
/-- BREV (R129). -/
def execBrev (x : X) (ty : Ty) (d a : Opd) (s : State) : Result :=
  .next (s.issue (.brev x ty d a) x fun s th => s.plain th ty d (revBits ty.bits (s.rd th ty a)))

/-- Byte i of PERMB (R130). -/
def permByte (a b c i : Nat) : Nat :=
  let sl := bitsAt c (4 * i) 4
  let y := bitsAt (a % 2 ^ 32 + b * 2 ^ 32) (8 * (sl % 8)) 8
  if 8 ≤ sl then (if 128 ≤ y then 255 else 0) else y

/-- PERMB (R130). -/
def execPermb (x : X) (d a b c : Opd) (s : State) : Result :=
  .next (s.issue (.permb x d a b c) x fun s th =>
    let p := permByte (s.rd32 th a).toNat (s.rd32 th b).toNat (s.rd32 th c).toNat
    (s.wr32 th.id d (word (p 0 + p 1 * 2 ^ 8 + p 2 * 2 ^ 16 + p 3 * 2 ^ 24)), .next))

/-- The combining of R131. -/
def bopApply : Bop → Bool → Bool → Bool
  | .none, x, _ => x
  | .and, x, y => x && y
  | .or, x, y => x || y
  | .xor, x, y => x != y

/-- An integer comparison of codes 0 to 5 (R64, R131). -/
def cmpI (c : Cmp) (a b : Int) : Bool := match c with
  | .eq => a == b
  | .ne => a != b
  | .lt => decide (a < b)
  | .le => decide (a ≤ b)
  | .gt => decide (b < a)
  | .ge => decide (b ≤ a)
  | _ => false

/-- PCMPI (R131). -/
def execPcmpi (x : X) (cmp : Cmp) (ty : Ty) (bop : Bop) (d : Fin 8) (a b : Opd) (c : Psel) (s : State) : Result :=
  .next (s.issue (.pcmpi x cmp ty bop d a b c) x fun s th =>
    let r := bopApply bop (cmpI cmp (s.rdInt th ty a) (s.rdInt th ty b)) (th.psel c)
    (s.modTh th.id fun u => u.setPred d r, .next))

/-- PCMPF (R131): element 0 of f16 and bf16 operands; a signalling NaN sets INV. -/
def execPcmpf (x : X) (cmp : Cmp) (ty : Ty) (bop : Bop) (d : Fin 8) (a b : Opd) (c : Psel) (s : State) : Result :=
  .next (s.issue (.pcmpf x cmp ty bop d a b c) x fun s th =>
    let e := th.arith none
    let va := e.input ty (s.rd th ty a)
    let vb := e.input ty (s.rd th ty b)
    let r := bopApply bop (cmpF cmp va vb) (th.psel c)
    (s.modTh th.id fun u => (u.sticky (if va.isSnan || vb.isSnan then fINV else 0)).setPred d r, .next))

/-- PLUT (R132). -/
def execPlut (x : X) (lut : Byte) (d a b c : Fin 8) (s : State) : Result :=
  .next (s.issue (.plut x lut d a b c) x fun s th =>
    let n := fun (p : Fin 8) => if th.pred p then 1 else 0
    (s.modTh th.id fun u => u.setPred d (lut.getLsbD (4 * n a + 2 * n b + n c)), .next))

/-- SEL (R132). -/
def execSel (x : X) (ty : Ty) (d a b : Opd) (c : Psel) (s : State) : Result :=
  .next (s.issue (.sel x ty d a b c) x fun s th => s.plain th ty d (s.rd th ty (if th.psel c then a else b)))

/-- MOV (R132). -/
def execMov (x : X) (ty : Ty) (d a : Opd) (s : State) : Result :=
  .next (s.issue (.mov x ty d a) x fun s th => s.plain th ty d (s.rd th ty a))

/-- MOVI: b32 takes IMM, b64 its sign extension (R132). -/
def execMovi (x : X) (ty : Ty) (d : Opd) (imm : Word) (s : State) : Result :=
  .next (s.issue (.movi x ty d imm) x fun s th => s.plain th ty d (logicImm ty imm))

end Sys2Proof.Machine
end

