-- ==== Sys2Proof/Machine/Dispatch.lean ====
section
/-!
DEFINITION. The meaning of every instruction and event: one arm for each constructor of `Instr`.
-/

namespace Sys2Proof.Machine

def exec (i : Instr) (s : State) : Host.Outcome State Fault Refusal :=
  match i with
  | .nop v0 => Sys2Proof.Machine.execNop v0 s
  | .bra v0 v1 => Sys2Proof.Machine.execBra v0 v1 s
  | .brx v0 v1 => Sys2Proof.Machine.execBrx v0 v1 s
  | .call v0 v1 v2 => Sys2Proof.Machine.execCall v0 v1 v2 s
  | .callx v0 v1 v2 => Sys2Proof.Machine.execCallx v0 v1 v2 s
  | .ret v0 => Sys2Proof.Machine.execRet v0 s
  | .exit v0 => Sys2Proof.Machine.execExit v0 s
  | .gexit v0 => Sys2Proof.Machine.execGexit v0 s
  | .yield v0 => Sys2Proof.Machine.execYield v0 s
  | .trap v0 v1 => Sys2Proof.Machine.execTrap v0 v1 s
  | .tret v0 => Sys2Proof.Machine.execTret v0 s
  | .tretry v0 => Sys2Proof.Machine.execTretry v0 s
  | .tfence v0 => Sys2Proof.Machine.execTfence v0 s
  | .getsr v0 v1 v2 => Sys2Proof.Machine.execGetsr v0 v1 v2 s
  | .setsr v0 v1 v2 => Sys2Proof.Machine.execSetsr v0 v1 v2 s
  | .sleep v0 v1 => Sys2Proof.Machine.execSleep v0 v1 s
  | .iadd v0 v1 v2 v3 v4 v5 => Sys2Proof.Machine.execIadd v0 v1 v2 v3 v4 v5 s
  | .iaddImm v0 v1 v2 v3 v4 v5 => Sys2Proof.Machine.execIaddImm v0 v1 v2 v3 v4 v5 s
  | .isub v0 v1 v2 v3 v4 v5 => Sys2Proof.Machine.execIsub v0 v1 v2 v3 v4 v5 s
  | .imul v0 v1 v2 v3 v4 v5 => Sys2Proof.Machine.execImul v0 v1 v2 v3 v4 v5 s
  | .imulh v0 v1 v2 v3 v4 => Sys2Proof.Machine.execImulh v0 v1 v2 v3 v4 s
  | .imad v0 v1 v2 v3 v4 v5 v6 => Sys2Proof.Machine.execImad v0 v1 v2 v3 v4 v5 v6 s
  | .idiv v0 v1 v2 v3 v4 v5 => Sys2Proof.Machine.execIdiv v0 v1 v2 v3 v4 v5 s
  | .irem v0 v1 v2 v3 v4 => Sys2Proof.Machine.execIrem v0 v1 v2 v3 v4 s
  | .imin v0 v1 v2 v3 v4 => Sys2Proof.Machine.execImin v0 v1 v2 v3 v4 s
  | .imax v0 v1 v2 v3 v4 => Sys2Proof.Machine.execImax v0 v1 v2 v3 v4 s
  | .iabs v0 v1 v2 v3 v4 => Sys2Proof.Machine.execIabs v0 v1 v2 v3 v4 s
  | .ineg v0 v1 v2 v3 v4 => Sys2Proof.Machine.execIneg v0 v1 v2 v3 v4 s
  | .idot4 v0 v1 v2 v3 v4 v5 v6 => Sys2Proof.Machine.execIdot4 v0 v1 v2 v3 v4 v5 v6 s
  | .lea v0 v1 v2 v3 v4 v5 => Sys2Proof.Machine.execLea v0 v1 v2 v3 v4 v5 s
  | .leaImm v0 v1 v2 v3 => Sys2Proof.Machine.execLeaImm v0 v1 v2 v3 s
  | .and v0 v1 v2 v3 v4 => Sys2Proof.Machine.execAnd v0 v1 v2 v3 v4 s
  | .or v0 v1 v2 v3 v4 => Sys2Proof.Machine.execOr v0 v1 v2 v3 v4 s
  | .xor v0 v1 v2 v3 v4 => Sys2Proof.Machine.execXor v0 v1 v2 v3 v4 s
  | .andImm v0 v1 v2 v3 v4 => Sys2Proof.Machine.execAndImm v0 v1 v2 v3 v4 s
  | .orImm v0 v1 v2 v3 v4 => Sys2Proof.Machine.execOrImm v0 v1 v2 v3 v4 s
  | .xorImm v0 v1 v2 v3 v4 => Sys2Proof.Machine.execXorImm v0 v1 v2 v3 v4 s
  | .not v0 v1 v2 v3 => Sys2Proof.Machine.execNot v0 v1 v2 v3 s
  | .lut3 v0 v1 v2 v3 v4 v5 v6 => Sys2Proof.Machine.execLut3 v0 v1 v2 v3 v4 v5 v6 s
  | .shl v0 v1 v2 v3 v4 => Sys2Proof.Machine.execShl v0 v1 v2 v3 v4 s
  | .shr v0 v1 v2 v3 v4 => Sys2Proof.Machine.execShr v0 v1 v2 v3 v4 s
  | .sar v0 v1 v2 v3 v4 => Sys2Proof.Machine.execSar v0 v1 v2 v3 v4 s
  | .rot v0 v1 v2 v3 v4 => Sys2Proof.Machine.execRot v0 v1 v2 v3 v4 s
  | .bfx v0 v1 v2 v3 v4 v5 => Sys2Proof.Machine.execBfx v0 v1 v2 v3 v4 v5 s
  | .bfi v0 v1 v2 v3 v4 v5 => Sys2Proof.Machine.execBfi v0 v1 v2 v3 v4 v5 s
  | .popc v0 v1 v2 v3 => Sys2Proof.Machine.execPopc v0 v1 v2 v3 s
  | .clz v0 v1 v2 v3 => Sys2Proof.Machine.execClz v0 v1 v2 v3 s
  | .brev v0 v1 v2 v3 => Sys2Proof.Machine.execBrev v0 v1 v2 v3 s
  | .permb v0 v1 v2 v3 v4 => Sys2Proof.Machine.execPermb v0 v1 v2 v3 v4 s
  | .pcmpi v0 v1 v2 v3 v4 v5 v6 v7 => Sys2Proof.Machine.execPcmpi v0 v1 v2 v3 v4 v5 v6 v7 s
  | .pcmpf v0 v1 v2 v3 v4 v5 v6 v7 => Sys2Proof.Machine.execPcmpf v0 v1 v2 v3 v4 v5 v6 v7 s
  | .plut v0 v1 v2 v3 v4 v5 => Sys2Proof.Machine.execPlut v0 v1 v2 v3 v4 v5 s
  | .sel v0 v1 v2 v3 v4 v5 => Sys2Proof.Machine.execSel v0 v1 v2 v3 v4 v5 s
  | .mov v0 v1 v2 v3 => Sys2Proof.Machine.execMov v0 v1 v2 v3 s
  | .movi v0 v1 v2 v3 => Sys2Proof.Machine.execMovi v0 v1 v2 v3 s
  | .fadd v0 v1 v2 v3 v4 v5 => Sys2Proof.Machine.execFadd v0 v1 v2 v3 v4 v5 s
  | .fsub v0 v1 v2 v3 v4 v5 => Sys2Proof.Machine.execFsub v0 v1 v2 v3 v4 v5 s
  | .fmul v0 v1 v2 v3 v4 v5 => Sys2Proof.Machine.execFmul v0 v1 v2 v3 v4 v5 s
  | .fmad v0 v1 v2 v3 v4 v5 v6 => Sys2Proof.Machine.execFmad v0 v1 v2 v3 v4 v5 v6 s
  | .fmin v0 v1 v2 v3 => Sys2Proof.Machine.execFmin v0 v1 v2 v3 s
  | .fmax v0 v1 v2 v3 => Sys2Proof.Machine.execFmax v0 v1 v2 v3 s
  | .dadd v0 v1 v2 v3 v4 v5 => Sys2Proof.Machine.execDadd v0 v1 v2 v3 v4 v5 s
  | .dmul v0 v1 v2 v3 v4 v5 => Sys2Proof.Machine.execDmul v0 v1 v2 v3 v4 v5 s
  | .dmad v0 v1 v2 v3 v4 v5 v6 => Sys2Proof.Machine.execDmad v0 v1 v2 v3 v4 v5 v6 s
  | .padd2 v0 v1 v2 v3 v4 v5 v6 => Sys2Proof.Machine.execPadd2 v0 v1 v2 v3 v4 v5 v6 s
  | .pmul2 v0 v1 v2 v3 v4 v5 v6 => Sys2Proof.Machine.execPmul2 v0 v1 v2 v3 v4 v5 v6 s
  | .pfma2 v0 v1 v2 v3 v4 v5 v6 v7 => Sys2Proof.Machine.execPfma2 v0 v1 v2 v3 v4 v5 v6 v7 s
  | .cvt v0 v1 v2 v3 v4 v5 v6 v7 v8 => Sys2Proof.Machine.execCvt v0 v1 v2 v3 v4 v5 v6 v7 v8 s
  | .cvtq v0 v1 v2 v3 v4 v5 v6 v7 v8 v9 => Sys2Proof.Machine.execCvtq v0 v1 v2 v3 v4 v5 v6 v7 v8 v9 s
  | .cvtd v0 v1 v2 v3 v4 v5 v6 v7 => Sys2Proof.Machine.execCvtd v0 v1 v2 v3 v4 v5 v6 v7 s
  | .nzcnt v0 v1 v2 v3 v4 v5 v6 => Sys2Proof.Machine.execNzcnt v0 v1 v2 v3 v4 v5 v6 s
  | .nzmap v0 v1 v2 v3 v4 v5 v6 => Sys2Proof.Machine.execNzmap v0 v1 v2 v3 v4 v5 v6 s
  | .rcp v0 v1 v2 v3 => Sys2Proof.Machine.execRcp v0 v1 v2 v3 s
  | .rsq v0 v1 v2 v3 => Sys2Proof.Machine.execRsq v0 v1 v2 v3 s
  | .sqrt v0 v1 v2 v3 v4 => Sys2Proof.Machine.execSqrt v0 v1 v2 v3 v4 s
  | .ex2 v0 v1 v2 => Sys2Proof.Machine.execEx2 v0 v1 v2 s
  | .lg2 v0 v1 v2 => Sys2Proof.Machine.execLg2 v0 v1 v2 s
  | .sin v0 v1 v2 => Sys2Proof.Machine.execSin v0 v1 v2 s
  | .cos v0 v1 v2 => Sys2Proof.Machine.execCos v0 v1 v2 s
  | .sincos v0 v1 v2 => Sys2Proof.Machine.execSincos v0 v1 v2 s
  | .tanh v0 v1 v2 => Sys2Proof.Machine.execTanh v0 v1 v2 s
  | .shfl v0 v1 v2 v3 v4 v5 v6 v7 => Sys2Proof.Machine.execShfl v0 v1 v2 v3 v4 v5 v6 v7 s
  | .vote v0 v1 v2 v3 v4 => Sys2Proof.Machine.execVote v0 v1 v2 v3 v4 s
  | .ballot v0 v1 v2 v3 => Sys2Proof.Machine.execBallot v0 v1 v2 v3 s
  | .matchv v0 v1 v2 v3 v4 => Sys2Proof.Machine.execMatchv v0 v1 v2 v3 v4 s
  | .compact v0 v1 v2 v3 => Sys2Proof.Machine.execCompact v0 v1 v2 v3 s
  | .scan v0 v1 v2 v3 v4 v5 v6 => Sys2Proof.Machine.execScan v0 v1 v2 v3 v4 v5 v6 s
  | .gred v0 v1 v2 v3 v4 v5 => Sys2Proof.Machine.execGred v0 v1 v2 v3 v4 v5 s
  | .convergenceMismatchTimeout v0 v1 v2 => Sys2Proof.Machine.execConvergenceMismatchTimeout v0 v1 v2 s
  | .join v0 v1 v2 => Sys2Proof.Machine.execJoin v0 v1 v2 s
  | .waitj v0 v1 => Sys2Proof.Machine.execWaitj v0 v1 s
  | .reorder v0 v1 v2 v3 v4 v5 v6 => Sys2Proof.Machine.execReorder v0 v1 v2 v3 v4 v5 v6 s
  | .reorderGroupPlace v0 => Sys2Proof.Machine.execReorderGroupPlace v0 s
  | .migrate v0 v1 v2 => Sys2Proof.Machine.execMigrate v0 v1 v2 s
  | .groupMove v0 => Sys2Proof.Machine.execGroupMove v0 s
  | .migrationWindowEnd v0 => Sys2Proof.Machine.execMigrationWindowEnd v0 s
  | .mma v0 v1 v2 v3 v4 v5 v6 v7 v8 v9 v10 v11 v12 => Sys2Proof.Machine.execMma v0 v1 v2 v3 v4 v5 v6 v7 v8 v9 v10 v11 v12 s
  | .mmas v0 v1 v2 v3 v4 v5 v6 v7 v8 v9 v10 v11 v12 v13 v14 => Sys2Proof.Machine.execMmas v0 v1 v2 v3 v4 v5 v6 v7 v8 v9 v10 v11 v12 v13 v14 s
  | .accz v0 v1 v2 v3 => Sys2Proof.Machine.execAccz v0 v1 v2 v3 s
  | .signatureAbandon v0 v1 => Sys2Proof.Machine.execSignatureAbandon v0 v1 s
  | .tileWaitTimeout v0 v1 => Sys2Proof.Machine.execTileWaitTimeout v0 v1 s
  | .matrixOpStart v0 => Sys2Proof.Machine.execMatrixOpStart v0 s
  | .matrixOpComplete v0 => Sys2Proof.Machine.execMatrixOpComplete v0 s
  | .accld v0 v1 v2 v3 v4 v5 => Sys2Proof.Machine.execAccld v0 v1 v2 v3 v4 v5 s
  | .accst v0 v1 v2 v3 v4 v5 v6 => Sys2Proof.Machine.execAccst v0 v1 v2 v3 v4 v5 v6 s
  | .ldf v0 v1 v2 v3 v4 v5 v6 v7 v8 => Sys2Proof.Machine.execLdf v0 v1 v2 v3 v4 v5 v6 v7 v8 s
  | .fslot v0 v1 v2 v3 v4 => Sys2Proof.Machine.execFslot v0 v1 v2 v3 v4 s
  | .powerTokenMove v0 => Sys2Proof.Machine.execPowerTokenMove v0 s
  | .powerTokenRelease v0 => Sys2Proof.Machine.execPowerTokenRelease v0 s
  | .ld v0 v1 v2 v3 v4 v5 v6 v7 => Sys2Proof.Machine.execLd v0 v1 v2 v3 v4 v5 v6 v7 s
  | .st v0 v1 v2 v3 v4 v5 v6 v7 => Sys2Proof.Machine.execSt v0 v1 v2 v3 v4 v5 v6 v7 s
  | .loadComplete v0 => Sys2Proof.Machine.execLoadComplete v0 s
  | .storePerformed v0 => Sys2Proof.Machine.execStorePerformed v0 s
  | .lds v0 v1 v2 v3 v4 v5 v6 v7 v8 => Sys2Proof.Machine.execLds v0 v1 v2 v3 v4 v5 v6 v7 v8 s
  | .pref v0 v1 v2 v3 v4 => Sys2Proof.Machine.execPref v0 v1 v2 v3 v4 s
  | .atom v0 v1 v2 v3 v4 v5 v6 v7 v8 v9 v10 v11 v12 => Sys2Proof.Machine.execAtom v0 v1 v2 v3 v4 v5 v6 v7 v8 v9 v10 v11 v12 s
  | .red v0 v1 v2 v3 v4 v5 v6 => Sys2Proof.Machine.execRed v0 v1 v2 v3 v4 v5 v6 s
  | .reductionApply v0 => Sys2Proof.Machine.execReductionApply v0 s
  | .flushred v0 => Sys2Proof.Machine.execFlushred v0 s
  | .fence v0 v1 v2 v3 v4 => Sys2Proof.Machine.execFence v0 v1 v2 v3 v4 s
  | .xfence v0 v1 => Sys2Proof.Machine.execXfence v0 v1 s
  | .binit v0 v1 v2 v3 v4 v5 v6 v7 v8 => Sys2Proof.Machine.execBinit v0 v1 v2 v3 v4 v5 v6 v7 v8 s
  | .arrive v0 v1 v2 v3 v4 v5 v6 v7 => Sys2Proof.Machine.execArrive v0 v1 v2 v3 v4 v5 v6 v7 s
  | .wait v0 v1 v2 v3 v4 v5 v6 v7 => Sys2Proof.Machine.execWait v0 v1 v2 v3 v4 v5 v6 v7 s
  | .btest v0 v1 v2 v3 v4 v5 => Sys2Proof.Machine.execBtest v0 v1 v2 v3 v4 v5 s
  | .binval v0 v1 v2 v3 => Sys2Proof.Machine.execBinval v0 v1 v2 v3 s
  | .phaseComplete v0 v1 => Sys2Proof.Machine.execPhaseComplete v0 v1 s
  | .rollback v0 => Sys2Proof.Machine.execRollback v0 s
  | .cpy v0 v1 v2 v3 v4 v5 v6 v7 v8 v9 v10 => Sys2Proof.Machine.execCpy v0 v1 v2 v3 v4 v5 v6 v7 v8 v9 v10 s
  | .copyOpStart v0 => Sys2Proof.Machine.execCopyOpStart v0 s
  | .engineOpComplete v0 => Sys2Proof.Machine.execEngineOpComplete v0 s
  | .fetch v0 v1 v2 v3 v4 v5 => Sys2Proof.Machine.execFetch v0 v1 v2 v3 v4 v5 s
  | .tstep v0 v1 v2 v3 v4 v5 v6 => Sys2Proof.Machine.execTstep v0 v1 v2 v3 v4 v5 v6 s
  | .trailRd v0 v1 => Sys2Proof.Machine.execTrailRd v0 v1 s
  | .trailZ v0 => Sys2Proof.Machine.execTrailZ v0 s
  | .trailWr v0 v1 => Sys2Proof.Machine.execTrailWr v0 v1 s
  | .tlog v0 v1 v2 v3 v4 v5 v6 => Sys2Proof.Machine.execTlog v0 v1 v2 v3 v4 v5 v6 s
  | .logRecordWrite v0 => Sys2Proof.Machine.execLogRecordWrite v0 s
  | .logSegmentClose v0 => Sys2Proof.Machine.execLogSegmentClose v0 s
  | .mopen v0 v1 v2 v3 => Sys2Proof.Machine.execMopen v0 v1 v2 v3 s
  | .mint v0 v1 v2 v3 => Sys2Proof.Machine.execMint v0 v1 v2 v3 s
  | .muni v0 v1 v2 v3 => Sys2Proof.Machine.execMuni v0 v1 v2 v3 s
  | .msub v0 v1 v2 v3 => Sys2Proof.Machine.execMsub v0 v1 v2 v3 s
  | .mmadd v0 v1 v2 v3 v4 => Sys2Proof.Machine.execMmadd v0 v1 v2 v3 v4 s
  | .mnext v0 v1 v2 v3 => Sys2Proof.Machine.execMnext v0 v1 v2 v3 s
  | .mnextSt v0 v1 v2 v3 v4 v5 => Sys2Proof.Machine.execMnextSt v0 v1 v2 v3 v4 v5 s
  | .mclose v0 v1 => Sys2Proof.Machine.execMclose v0 v1 s
  | .tpost v0 v1 v2 => Sys2Proof.Machine.execTpost v0 v1 v2 s
  | .tpostHoldTimeout v0 => Sys2Proof.Machine.execTpostHoldTimeout v0 s
  | .targ v0 v1 v2 => Sys2Proof.Machine.execTarg v0 v1 v2 s
  | .taskDispatch => Sys2Proof.Machine.execTaskDispatch s
  | .taskComplete v0 => Sys2Proof.Machine.execTaskComplete v0 s
  | .dappend v0 v1 v2 v3 v4 v5 v6 => Sys2Proof.Machine.execDappend v0 v1 v2 v3 v4 v5 v6 s
  | .dcut v0 v1 v2 v3 => Sys2Proof.Machine.execDcut v0 v1 v2 v3 s
  | .dckpt v0 v1 v2 v3 v4 v5 => Sys2Proof.Machine.execDckpt v0 v1 v2 v3 v4 v5 s
  | .dtake v0 v1 v2 => Sys2Proof.Machine.execDtake v0 v1 v2 s
  | .dcurs v0 v1 v2 => Sys2Proof.Machine.execDcurs v0 v1 v2 s
  | .xlist v0 v1 v2 v3 v4 v5 => Sys2Proof.Machine.execXlist v0 v1 v2 v3 v4 v5 s
  | .xsend v0 v1 v2 v3 v4 v5 => Sys2Proof.Machine.execXsend v0 v1 v2 v3 v4 v5 s
  | .xsendRound2 v0 v1 => Sys2Proof.Machine.execXsendRound2 v0 v1 s
  | .xrecv v0 v1 v2 v3 => Sys2Proof.Machine.execXrecv v0 v1 v2 v3 s
  | .tokenArrival v0 => Sys2Proof.Machine.execTokenArrival v0 s
  | .endMarkerArrival v0 v1 v2 => Sys2Proof.Machine.execEndMarkerArrival v0 v1 v2 s
  | .tokenHoldTimeout v0 => Sys2Proof.Machine.execTokenHoldTimeout v0 s
  | .exchangeRetransmit v0 => Sys2Proof.Machine.execExchangeRetransmit v0 s
  | .peerUnreachable v0 v1 => Sys2Proof.Machine.execPeerUnreachable v0 v1 s
  | .fseedWrite v0 v1 => Sys2Proof.Machine.execFseedWrite v0 v1 s
  | .spillBaseWrite v0 v1 => Sys2Proof.Machine.execSpillBaseWrite v0 v1 s
  | .spillLimitWrite v0 v1 => Sys2Proof.Machine.execSpillLimitWrite v0 v1 s
  | .trapCauseWrite v0 v1 => Sys2Proof.Machine.execTrapCauseWrite v0 v1 s
  | .trapBaseWrite v0 v1 => Sys2Proof.Machine.execTrapBaseWrite v0 v1 s
  | .saveBaseWrite v0 v1 => Sys2Proof.Machine.execSaveBaseWrite v0 v1 s
  | .preemptCtlWrite v0 v1 => Sys2Proof.Machine.execPreemptCtlWrite v0 v1 s
  | .migPolicyWrite v0 v1 => Sys2Proof.Machine.execMigPolicyWrite v0 v1 s
  | .specCtlWrite v0 v1 => Sys2Proof.Machine.execSpecCtlWrite v0 v1 s
  | .controlRegisterWrite v0 v1 v2 => Sys2Proof.Machine.execControlRegisterWrite v0 v1 v2 s
  | .clauseStart => Sys2Proof.Machine.execClauseStart s
  | .bundlerPass => Sys2Proof.Machine.execBundlerPass s
  | .sleepEnd v0 => Sys2Proof.Machine.execSleepEnd v0 s
  | .teamStall v0 => Sys2Proof.Machine.execTeamStall v0 s
  | .clusterAdmit v0 => Sys2Proof.Machine.execClusterAdmit v0 s
  | .teamResident v0 => Sys2Proof.Machine.execTeamResident v0 s
  | .teamEnd v0 => Sys2Proof.Machine.execTeamEnd v0 s
  | .gridEnd v0 => Sys2Proof.Machine.execGridEnd v0 s
  | .handlerEntry v0 => Sys2Proof.Machine.execHandlerEntry v0 s
  | .handlerWatchdog v0 => Sys2Proof.Machine.execHandlerWatchdog v0 s
  | .drainDeadline v0 => Sys2Proof.Machine.execDrainDeadline v0 s
  | .teamImageWrite v0 => Sys2Proof.Machine.execTeamImageWrite v0 s
  | .trapSaveDeadline v0 => Sys2Proof.Machine.execTrapSaveDeadline v0 s
  | .hbmStackFault v0 => Sys2Proof.Machine.execHbmStackFault v0 s
  | .dieLinkFailure v0 => Sys2Proof.Machine.execDieLinkFailure v0 s
  | .canopyLinkFailure v0 => Sys2Proof.Machine.execCanopyLinkFailure v0 s
  | .corePartFault v0 => Sys2Proof.Machine.execCorePartFault v0 s
  | .partFaultRecovery => Sys2Proof.Machine.execPartFaultRecovery s
  | .powerStateEnter v0 => Sys2Proof.Machine.execPowerStateEnter v0 s
  | .powerStateExit v0 => Sys2Proof.Machine.execPowerStateExit v0 s
  | .createContext v0 v1 => Sys2Proof.Machine.execCreateContext v0 v1 s
  | .writeContextDescriptor v0 v1 => Sys2Proof.Machine.execWriteContextDescriptor v0 v1 s
  | .destroyContext v0 => Sys2Proof.Machine.execDestroyContext v0 s
  | .loadCodeObject v0 v1 v2 => Sys2Proof.Machine.execLoadCodeObject v0 v1 v2 s
  | .launch v0 v1 v2 v3 v4 v5 => Sys2Proof.Machine.execLaunch v0 v1 v2 v3 v4 v5 s
  | .seedTask v0 v1 v2 => Sys2Proof.Machine.execSeedTask v0 v1 v2 s
  | .writeMemoryVirtual v0 v1 v2 => Sys2Proof.Machine.execWriteMemoryVirtual v0 v1 v2 s
  | .writeMemoryPhysical v0 v1 v2 => Sys2Proof.Machine.execWriteMemoryPhysical v0 v1 v2 s
  | .readMemory v0 v1 v2 => Sys2Proof.Machine.execReadMemory v0 v1 v2 s
  | .invalidate v0 v1 v2 => Sys2Proof.Machine.execInvalidate v0 v1 v2 s
  | .seal v0 v1 v2 => Sys2Proof.Machine.execSeal v0 v1 v2 s
  | .createLog v0 v1 v2 v3 => Sys2Proof.Machine.execCreateLog v0 v1 v2 v3 s
  | .closeLog v0 v1 => Sys2Proof.Machine.execCloseLog v0 v1 s
  | .bindStream v0 v1 => Sys2Proof.Machine.execBindStream v0 v1 s
  | .unbindStream v0 v1 => Sys2Proof.Machine.execUnbindStream v0 v1 s
  | .streamCursor v0 v1 v2 => Sys2Proof.Machine.execStreamCursor v0 v1 v2 s
  | .streamFrame v0 v1 v2 v3 v4 v5 => Sys2Proof.Machine.execStreamFrame v0 v1 v2 v3 v4 v5 s
  | .preempt v0 => Sys2Proof.Machine.execPreempt v0 s
  | .resume v0 => Sys2Proof.Machine.execResume v0 s
  | .query v0 v1 v2 => Sys2Proof.Machine.execQuery v0 v1 v2 s
  | .reportAcknowledgement v0 v1 v2 => Sys2Proof.Machine.execReportAcknowledgement v0 v1 v2 s
  | .transfer v0 v1 v2 v3 v4 v5 => Sys2Proof.Machine.execTransfer v0 v1 v2 v3 v4 v5 s
  | .reservedIntakeType v0 v1 => Sys2Proof.Machine.execReservedIntakeType v0 v1 s
  | .reportResend v0 v1 => Sys2Proof.Machine.execReportResend v0 v1 s
  | .ident v0 => Sys2Proof.Machine.execIdent v0 s
  | .quote v0 v1 => Sys2Proof.Machine.execQuote v0 v1 s
  | .fwupd v0 v1 v2 v3 => Sys2Proof.Machine.execFwupd v0 v1 v2 v3 s
  | .power v0 v1 v2 => Sys2Proof.Machine.execPower v0 v1 v2 s
  | .release v0 v1 v2 => Sys2Proof.Machine.execRelease v0 v1 v2 s
  | .rangerSeal v0 v1 v2 v3 => Sys2Proof.Machine.execRangerSeal v0 v1 v2 v3 s
  | .rangerPreempt v0 v1 => Sys2Proof.Machine.execRangerPreempt v0 v1 s
  | .session v0 v1 v2 v3 => Sys2Proof.Machine.execSession v0 v1 v2 v3 s
  | .domain v0 v1 v2 => Sys2Proof.Machine.execDomain v0 v1 v2 s
  | .errlog v0 v1 => Sys2Proof.Machine.execErrlog v0 v1 s
  | .reset v0 => Sys2Proof.Machine.execReset v0 s
  | .xdir v0 v1 v2 => Sys2Proof.Machine.execXdir v0 v1 v2 s
  | .rangerUnknownCode v0 v1 => Sys2Proof.Machine.execRangerUnknownCode v0 v1 s
  | .translationBuildComplete v0 v1 v2 v3 => Sys2Proof.Machine.execTranslationBuildComplete v0 v1 v2 v3 s
  | .translationBuildTimeout v0 => Sys2Proof.Machine.execTranslationBuildTimeout v0 s
  | .publishComplete v0 => Sys2Proof.Machine.execPublishComplete v0 s
  | .parkImageWritten v0 => Sys2Proof.Machine.execParkImageWritten v0 s
  | .instructionCacheFill v0 v1 => Sys2Proof.Machine.execInstructionCacheFill v0 v1 s
  | .remoteAccessArrival v0 v1 => Sys2Proof.Machine.execRemoteAccessArrival v0 v1 s
  | .transferDataArrival v0 v1 v2 v3 => Sys2Proof.Machine.execTransferDataArrival v0 v1 v2 v3 s
  | .lossOfPower => Sys2Proof.Machine.execLossOfPower s

end Sys2Proof.Machine
end

