-- ==== Sys2Proof/Machine/Fetch.lean ====
section
/-!
DEFINITION. Which move comes next (log 4), the slot that a bundle issues, decoded (R65, R71), and the placing of one
instruction word as the next to run.
-/

namespace Sys2Proof

/-- Events that come from outside the module, or from a part of it that fails (R422, R424, R433, R437, R441, R446, R448). -/
def Instr.external : Instr → Bool
  | .hbmStackFault _ | .dieLinkFailure _ | .canopyLinkFailure _ | .corePartFault _ | .partFaultRecovery | .powerStateEnter _
  | .translationBuildComplete _ _ _ _ | .remoteAccessArrival _ _ | .transferDataArrival _ _ _ _ | .tokenArrival _
  | .endMarkerArrival _ _ _ | .lossOfPower => true
  | _ => false

end Sys2Proof

namespace Sys2Proof.Machine

/-- What a step does: run an instruction or an event, or nothing more. -/
inductive Move where
  | run (i : Instr) (s : State)
  | done (s : State)

/-- Cause of a rejected encoding (R65). -/
def rejectCause : Reject → Cause
  | .illegalOpcode => .illegalOpcode
  | .reservedField => .reservedField
  | .illegalTarget => .illegalTarget

/-- The instruction that a thread stands at in its open clause (R65, R71). -/
def Thread.decode (th : Thread) : Option (Except Reject Instr) := match th.clause with
  | none => none
  | some (.line b) =>
    let k := th.pc.toNat % 8
    some (decodeNative (slotWord b k) th.setA th.setB (lineEqp b && k == 0))
  | some (.portable b) => some (decodePortable b.toNat (max 112 (th.frames.headD (112, 0)).1))

/-- The next slot of the first selected bundle: a thread at a new clause starts it (R33); else its slot is decoded and
runs, or raises its trap (R65). A thread that can no longer issue leaves the bundle; a bundle whose context has frozen ends
(R248). -/
def State.issueMove (s : State) : Move := match s.cur with
  | none => .done (s.modIssue fun i => { i with todo := i.todo.tail, ends := true }).slotEnd
  | some th =>
    if th.status != .live || th.hold != Hold.none then
      .done (s.modIssue fun i => { i with todo := i.todo.tail, ends := true }).slotEnd
    else if s.stopped th then .done (s.modIssue fun i => { i with todo := [], ends := true }).slotEnd
    else if !th.entered then .run .clauseStart s
    else match th.decode with
      | none => .run .clauseStart s
      | some (.error r) => .done (s.finish th.id (.trap (rejectCause r) th.pc))
      | some (.ok i) => .run i s

/-- The place of an instruction among those that issue in one cycle: operations on objects are taken in the order of R306. -/
def cycleClass : Option (Except Reject Instr) → Nat
  | some (.ok (.binit _ _ _ _ _ _ _ _ _)) => 0
  | some (.ok (.wait _ _ _ _ _ _ _ _)) | some (.ok (.btest _ _ _ _ _ _)) => 2
  | some (.ok (.binval _ _ _ _)) => 3
  | _ => 1

/-- The clause that a thread stands in, or would start now. -/
def State.clauseOf (s : State) (th : Thread) : Option Clause :=
  if th.entered then th.clause
  else if th.portable then match s.portableWords th with
    | (_, .ok b) => some (.portable b)
    | _ => none
  else match s.clauseLine th with
    | (_, .ok b) => some (.line b)
    | _ => none

/-- The key of a selected bundle in the order of issue: its cycle, then the class of its next instruction (R159, R306). -/
def State.issueKey (s : State) (i : Issue) : Nat :=
  (4 - i.left) * 4 + (match i.todo with
    | t :: _ => cycleClass ({ s.th t with clause := s.clauseOf (s.th t) } : Thread).decode
    | [] => 0)

/-- The selected bundles in the order in which their next slots issue. Of two bundles of one core and one key, that of port 0
comes first (R162, R306); bundles of one key on different cores keep their order. -/
def State.inOrder (s : State) : State := match s.issues with
  | _ :: _ :: _ => match sortKey (s.issues.map fun i => (s.issueKey i, i)) with
    | [] => s
    | (k, i) :: r =>
      let j := ((r.find? fun p => p.1 == k && p.2.core == i.core && p.2.port < i.port).map (·.2)).getD i
      s.setIssues (j :: ((i :: r.map (·.2)).erase j))
  | _ => s

/-- The first timer that is due at the cycle that issues now. -/
def State.dueTimer (s : State) : Option (Nat × Instr) := s.timers.find? fun t => t.1 ≤ s.nowCycle

/-- The default order of moves (log 4). -/
def State.defaultMove (s : State) : Move := match s.dueTimer with
  | some t => .run t.2 { s with timers := s.timers.erase t }
  | none => match s.issues with
    | _ :: _ => s.inOrder.issueMove
    | [] => match s.agenda with
      | i :: r => .run i { s with agenda := r }
      | [] => .run .bundlerPass s

/-- Writes the k-th cached line back and drops it. -/
def State.evictLine (s : State) (k : Nat) : State := match s.l1[k]? with
  | none => s
  | some l => s.dropLine l

/-- A message from the host (R435): one with a wrong magic, session or TAG is discarded; a wrong version, length or zero field
makes an item that fails with report code 0x80 (R436). -/
def State.receive (s : State) (m : List Byte) : State :=
  let r := decodeHdr m
  let body := m.drop 48
  match s.sessions.find? fun x => x.id == r.session with
  | none => s
  | some x =>
    if !r.magicOk || messageTag x.key (m.take 32) body != r.tag then s
    else
      let h : Hdr := ⟨r.session, r.queue, r.seq, r.ctx⟩
      s.arriveMsg h (if r.versionOk && r.zeroOk && r.len == body.length && body.length ≤ 8192 then decodeBody h r.type body
        else .reservedIntakeType h r.type)

/-- The command in a Ranger datagram (R443, R444): none when its magic or the owner key's signature is wrong. -/
def rangerCommand (m : List Byte) : Option Instr :=
  let n := m.length - 114
  let r := decodeRangerHdr m
  let body := (m.take n).drop 32
  if m.length < 146 || !r.magicOk || !Config.ownerVerify (m.take n) (BitVec.ofNat 912 (leNat (m.drop n))) then none
  else some (if r.headOk && r.len == body.length && body.length ≤ 8192 then decodeRanger ⟨r.seq⟩ r.code body
    else .rangerUnknownCode ⟨r.seq⟩ r.code)

/-- A copy or an MNEXT.st that runs goes on by some elements: what it has written stays when its context freezes or ends before it
does (R325, R401). -/
def State.advanceOp (s : State) (o : Op) (k : Nat) : State := match o.instr with
  | .cpy _ s2g _ _ colour slot r _ _ _ _ =>
    if !o.started || s.copyBehind o || (s.ctx o.ctx).frozen then s else s.copySteps o s2g colour slot r (some k)
  | .mnextSt _ colour ma d _ _ =>
    if s.mergeBehind o ma.val || (s.ctx o.ctx).frozen then s else s.mnextSteps o colour ma d (some k)
  | _ => s

/-- The place in the agenda of what a turn takes: of the tokens that this module's engines send to its own buffers, the first sent
(R433). -/
def State.takeIdx (s : State) (k : Nat) : Nat :=
  if (s.agenda[k]?).any fun i => (arrivingTok i).isSome then s.agenda.findIdx fun i => (arrivingTok i).isSome else k

/-- Whether an event is the arrival of a token from this module, which no environment brings. -/
def State.ownToken (s : State) (i : Instr) : Bool := (arrivingTok i).any fun t => t.sender == s.moduleNo

/-- A move that the environment orders. -/
def State.turnMove (s : State) : Turn → Move
  | .issue => if s.issues.isEmpty then .done s else s.inOrder.issueMove
  | .take k =>
    let k := s.takeIdx k
    match s.agenda[k]? with
    | some i => .run i { s with agenda := s.agenda.eraseIdx k }
    | none => .done s
  | .rotate => match s.issues with
    | i :: r => .done { s with issues := r ++ [i] }
    | [] => .done s
  | .evict k => .done (s.evictLine k)
  | .evictTlb k => .done { s with tlb := s.tlb.eraseIdx k }
  | .land o =>
    match s.agenda.find? fun i => i == .loadComplete o || i == .storePerformed o || i == .engineOpComplete o with
    | some i => .run i { s with agenda := s.agenda.erase i }
    | none => .done s
  | .advance o k => match s.op? o with
    | some x => .done (s.advanceOp x k)
    | none => .done s
  | .seeSlots c => .done (s.seeSlots fun x => x.core == c)
  | .corrupt l => .done { s with poison := s.poison ++ [l * 64] }
  | .recv => match s.inbox with
    | m :: r => .done ({ s with inbox := r }.receive m)
    | [] => .done s
  | .recvRanger => match s.rangerInbox with
    | m :: r => match rangerCommand m with
      | some i => .run i { s with rangerInbox := r }
      | none => .done { s with rangerInbox := r }
    | [] => .done s
  | .happen i => if i.external && !s.ownToken i then .run i s else .done s

/-- What the step does now. The threads of a bundle issue one slot with no other agent's move between them: their accesses
are one request (R232, R233). -/
def State.nextMove (s : State) : Move := match s.meetDue with
  | g :: r => .done ({ s with meetDue := r }.meetTest g)
  | [] => if s.slotBegun then s.issueMove else match s.turns with
    | t :: r => (s.setTurns r).turnMove t
    | [] => s.defaultMove

/-- A native line that holds a word in slot 0, with SETA 0, SETB 1, every slot a legal target and EQP 1. -/
def lineWith (w : Nat) : BitVec 512 := BitVec.ofNat 512 (w + 0x21F10000 * 2 ^ 480)

/-- Places one native word as the next instruction (log 4): a context, launch, cluster, team, group and thread of their
own, and a bundle with that thread, the only one of the pass: others that it had selected may be selected again in the next. -/
def State.placeWord (s : State) (w : Nat) : State :=
  let n := s.nextId
  let th : Thread := { Thread.fresh n n n 0 0 0 0 0 0 0 false with
    entered := true, byTransfer := false, clause := some (.line (lineWith w)) }
  { s with
    contexts := s.contexts ++ [Context.fresh n 0 0 1 0 0 0 0 0x00080502 [] 0 0]
    launches := s.launches ++ [{
      id := n, ctx := n, number := 0, handle := 0, fidx := 0, geom := [], spill := 0, args := []
      decl := TeamDecl.plain 32 128, edition1 := false, left := 1, next := 1, die := 0, order := n, tasks := 0, failed := none, done := false, session := 0
      queue := 0, seq := 0 }]
    clusters := s.clusters ++ [{
      id := n, ctx := n, launch := n, hclu := 0, lx := 0, ly := 0, lz := 0, die := 0, cores := [1], fuse := false, rect := [1], state := .placed
      restored := false, order := n }]
    teams := s.teams ++ [{ Team.fresh n n n (.launch n) 0 0 1 (TeamDecl.plain 32 128) 0 [.bramble, .larch] 1 0 n [] with
      state := .resident }]
    groups := s.groups ++ [Group.fresh n 1 0 n .none 1]
    threads := s.threads ++ [th]
    issues := [{ begun := false, core := 1, port := 0, todo := [n], done := [], all := [n], ends := false, left := 4, stamp := n }]
    meetDue := []
    turns := .issue :: s.turns
    nextId := n + 1 }

end Sys2Proof.Machine
end

