-- ==== Sys2Proof/Machine/Step.lean ====
section
/-!
DEFINITION. One step of the module: one move of one agent (log 4).
-/

namespace Sys2Proof.Machine

/-- The next state: a move that the environment ordered, a timer that is due, a selected bundle's next slot, an event
that waits, a message, or else a bundler pass. -/
def step (s : State) : Host.Outcome State Fault Refusal :=
  match s.tick.nextMove with
  | .run i s => exec i s
  | .done s => .next s

/-- `s` with the native instruction word `w` as the next one to run (log 4): a thread of a fresh context stands in an
open clause that holds it in slot 0, in a bundle that the issue port takes first. -/
def State.withFetchWord (s : State) (nbits w : Nat) : State := s.placeWord (w % 2 ^ nbits % 2 ^ 96)

end Sys2Proof.Machine
end

