-- ==== Sys2Proof/Safety.lean ====
section
/-!
DEFINITION. The terms in which claims about the machine are stated: when a thread issues an instruction, what the state
that follows may differ in, the effect that the spec gives each register-only instruction, and what it means that a value is
rounded (R99 to R102).
-/

namespace Sys2Proof

/-- Instructions in which a thread whose guard fails still takes part: the collectives (R172, R177), MIGRATE (R195), the
signatures of the matrix engine (R214) and MNEXT (R345); and REORDER, which ends the line of native code whatever its guard
(R187). -/
def Instr.gathers : Instr → Bool
  | .shfl _ _ _ _ _ _ _ _ | .vote _ _ _ _ _ | .ballot _ _ _ _ | .matchv _ _ _ _ _ | .compact _ _ _ _
  | .scan _ _ _ _ _ _ _ | .gred _ _ _ _ _ _ | .migrate _ _ _ | .mma _ _ _ _ _ _ _ _ _ _ _ _ _
  | .mmas _ _ _ _ _ _ _ _ _ _ _ _ _ _ _ | .accz _ _ _ _ | .mnext _ _ _ _ | .reorder _ _ _ _ _ _ _ => true
  | _ => false

/-- The lane instructions (R177 to R180). -/
def Instr.lane : Instr → Bool
  | .shfl _ _ _ _ _ _ _ _ | .vote _ _ _ _ _ | .ballot _ _ _ _ | .matchv _ _ _ _ _ | .compact _ _ _ _
  | .scan _ _ _ _ _ _ _ | .gred _ _ _ _ _ _ => true
  | _ => false

end Sys2Proof

namespace Sys2Proof.Machine

/-- No trap waits for the entry of its handler. -/
def State.Calm (s : State) : Prop := ∀ u ∈ s.threads, u.pend = none

/-- Thread `th` is the next to issue, and nothing but its guard decides whether `i` has its effect: its context has not
stopped issuing (R243, R248), the privilege and role checks let it through (R46, R166, R167), it does not stall in a
speculation (R279), no operand stands in an overflow block (R69), and no trap waits. -/
structure State.Issues (s : State) (th : Thread) (i : Instr) : Prop where
  cur : s.cur = some th
  free : th.hold = Hold.none
  running : s.stopped th = false
  privilege : th.privileged = true ∨ (i.needsPrivilege = false ∧ i.writesConst = false)
  role : th.privileged = true ∨ s.roleAdmits th i.cls = true
  spec : th.spec = none ∨ i.specStalls = false
  resident : th.portable = true → ∀ dst g, ovfRegs dst (ovfOpds i g (s.slot (s.hostOf th) (s.team th.team).ctx)) = []
  calm : s.Calm

/-- The bundle and slot that a step from `s` issues, seen as the state in which it issues them (log 4): a slot that some thread of
its bundle has issued goes on whatever else waits; otherwise the selected bundles issue in the order of R306 when no timer is
due and nothing else is ordered, or when the order says so. -/
def State.Due (s q : State) : Prop :=
  s.meetDue = [] ∧
  ((s.slotBegun = true ∧ q = s) ∨ (s.slotBegun = false ∧ s.turns = [] ∧ s.dueTimer = none ∧ q = s.inOrder) ∨
    (s.slotBegun = false ∧ ∃ r, s.turns = .issue :: r ∧ q = (s.setTurns r).inOrder))

/-- The guard of a thread instruction passes in thread `th` (R45, R55). -/
def Thread.passes (th : Thread) (i : Instr) : Bool := match i.x with
  | some x => th.psel x.g
  | none => true

/-- Thread `th` issues `i`, and its guard passes. -/
structure State.Runs (s : State) (th : Thread) (i : Instr) : Prop extends s.Issues th i where
  guard : th.passes i = true

/-- `t` is `r` but for the records of threads and for which bundles still issue in this cycle. -/
def State.Rest (r t : State) : Prop :=
  { t with threads := r.threads, issues := r.issues, meetDue := r.meetDue } = r

/-- Running `i` in `s` answers a next state in which thread `th` has the record `u`, every other thread is as it was, and
all else is as in `r`. -/
def State.Becomes (s : State) (i : Instr) (th u : Thread) (r : State) : Prop :=
  ∃ t, exec i s = .next t ∧ t.thread? th.id = some u ∧ (∀ k, k ≠ th.id → t.thread? k = s.thread? k) ∧ r.Rest t

/-- Running `i` in `s` ends in the exact trap `c` of thread `th` with the address `a` (R385): nothing but what a raised
trap brings about (`State.finish`) has happened. -/
def State.Traps (s : State) (i : Instr) (th : Thread) (c : Cause) (a : DWord) : Prop :=
  exec i s = .next (s.finish th.id (.trap c a))

/-- Running `i` in `s` ends the instruction of thread `th` in the way `n`, in the state `r`: nothing follows but the drop
of the overflow entries it held and what that end brings about (`State.finish`). -/
def State.Ends (s : State) (i : Instr) (th : Thread) (r : State) (n : Next) : Prop :=
  exec i s = .next ((r.dropOvf th.id).finish th.id n)

/-! ## Memory as a core sees it -/

/-- The byte that a core reads at a physical address on the CORE path: its L1's when that holds it, else the one at home. -/
def State.seen (s : State) (core pa : Nat) : Byte := match s.l1Line? core (pa / 64 * 64) with
  | some l => if l.valid.getLsbD (pa % 64) then l.data.getD (pa % 64) 0 else s.homeByte pa
  | none => s.homeByte pa

/-- The form of the L1s: whole lines at physical addresses, one for each core and line address, whose dirty bytes are valid. -/
def State.L1Form (s : State) : Prop :=
  (∀ l ∈ s.l1, l.data.length = 64 ∧ l.pa % 64 = 0 ∧ l.pa < 2 ^ 52 ∧ l.dirty &&& l.valid = l.dirty ∧ l.colours.length = 8 ∧ l.own.length = 8) ∧
  s.l1.Pairwise fun a b => a.core ≠ b.core ∨ a.pa ≠ b.pa

/-- Thread `u` stands in `r` as it was, with the count of flag `f`, if one is named, higher by 1 and every other count as it was
(R34); a speculating thread's record of its speculation apart (R274). -/
def State.Counts (r : State) (u : Thread) (f : Option (Fin 12)) : Prop :=
  ∃ v, r.thread? u.id = some v ∧ v = { u with flags := v.flags, spec := v.spec } ∧
    ∀ g, v.flagCount g = u.flagCount g + if f = some g then 1 else 0

/-- An operation of thread `th` is in flight that began in this instruction: the thread goes on as `u`, its flag counts the
operation, and the event `e` of its completion waits. -/
def State.FliesAs (s : State) (i : Instr) (th u : Thread) (f : Fin 12) (o : Op) (e : Nat → Instr) (r : State) : Prop :=
  s.Ends i th r .next ∧ r.Counts u (some f) ∧ o ∈ r.ops ∧ o.instr = i ∧ o.thread = th.id ∧ o.flag = some f ∧ o.held = false ∧
    o.wbase = th.wbase ∧ e o.id ∈ r.agenda

/-- An operation is in flight that began in this instruction, and all else of its thread is as it was. -/
def State.Flies (s : State) (i : Instr) (th : Thread) (f : Fin 12) (o : Op) (e : Nat → Instr) (r : State) : Prop :=
  s.FliesAs i th th f o e r

/-- An engine operation of thread `th` has been issued (R325): a flagged one lets the thread go on with its flag's count higher
by 1, an unflagged one holds it; the operation is in flight and the event `e` that serves it waits. -/
def State.Engages (s : State) (i : Instr) (th : Thread) (x : X) (o : Op) (e : Nat → Instr) (r : State) : Prop :=
  s.Ends i th r (if (th.flagOf x.sb).isNone then .wait (.op o.id) else .next) ∧ r.Counts th (th.flagOf x.sb) ∧ o ∈ r.ops ∧
    o.instr = i ∧ o.thread = th.id ∧ o.flag = th.flagOf x.sb ∧ o.held = (th.flagOf x.sb).isNone ∧ e o.id ∈ r.agenda

/-! ## Host items and Ranger commands -/

/-- STATE of the ladder of a context (R400). -/
def State.stageOf (s : State) (ctx : Nat) : Nat := (s.ctx ctx).stage

/-- The intake item `i` stands ready in its queue's log (R439). -/
def State.Ready (s : State) (h : Hdr) (i : Instr) : Prop := ∃ r, s.itemRec h = some r ∧ r.state = .ready ∧ r.instr = i

/-- The state in which an item that stood ready is performed: its log entry says that it has started. -/
def State.started (s : State) (h : Hdr) (i : Instr) : State :=
  ({ s with agenda := s.agenda.erase i } : State).modItem h.session h.queue h.seq fun x => { x with state := .started }

/-- A Ranger command is new (R444): none has been accepted yet, or its sequence exceeds that of the last one. -/
def State.NewCommand (s : State) (r : RHdr) : Prop := s.rangerLast = none ∨ s.rangerSeq < r.seq

/-- A Ranger command is accepted and answered with a status and a body (R444). -/
def State.answered (s : State) (r : RHdr) (code status : Nat) (body : List Byte) : State :=
  let a := rangerAnswer code status r.seq body
  ({ s with rangerSeq := r.seq, rangerLast := some a } : State).send a

/-! ## Results of register-only instructions -/

/-- The words of a result of type `ty`: a pair for 64 bits, else one word extended as R114 says. -/
def resultWords (ty : Ty) (x : Nat) : List Word :=
  if ty.bits == 64 then [loWord (dword x), hiWord (dword x)] else [extWrite ty x]

/-- What a register-only instruction does: its destination, the words it writes there, the sticky flags it sets, and the
value that FSEED then holds. -/
structure Effect where
  dst : Opd
  words : List Word
  flags : Nat
  seed : Option Word

/-- A destination register receives words; a team constant leaves the thread as it is (R20). -/
def Thread.putDst (th : Thread) (d : Opd) (ws : List Word) : Thread := match d with
  | .v n => th.putRun n ws
  | _ => th

/-- Team constants receive words. -/
def setConsts : List Word → Nat → List Word → List Word
  | cs, _, [] => cs
  | cs, n, w :: r => setConsts (cs.set n w) (n + 1) r

/-- A destination that is a team constant receives words (R20). -/
def State.putDst (s : State) (th : Thread) (d : Opd) (ws : List Word) : State := match d with
  | .s n => s.modTeam th.team fun m => { m with consts := setConsts m.consts n ws }
  | _ => s

/-- A thread after an effect: flags, FSEED, destination, and the PC past the instruction; no overflow entry is held. -/
def Thread.apply (th : Thread) (e : Effect) : Thread :=
  let u := th.sticky e.flags
  { (({ u with fseed := e.seed.getD u.fseed } : Thread).putDst e.dst e.words).advance with ovf := [] }

/-- The instruction has exactly the effect `e`. -/
def State.HasEffect (s : State) (i : Instr) (th : Thread) (e : Effect) : Prop :=
  s.Becomes i th (th.apply e) (s.putDst th e.dst e.words)

/-- The effect of writing a result `x` of type `ty` with flags. -/
def giving (ty : Ty) (d : Opd) (r : Nat × Nat) : Option Effect := some ⟨d, resultWords ty r.1, r.2, none⟩
/-- The effect of writing one 32-bit word. -/
def giving32 (d : Opd) (w : Word) : Option Effect := some ⟨d, [w], 0, none⟩
/-- The effect of writing a pair. -/
def giving64 (d : Opd) (x : DWord) (flags : Nat) : Option Effect := some ⟨d, [loWord x, hiWord x], flags, none⟩
/-- The effect of a floating-point result with what its arithmetic raised (R23, R26). -/
def givingF (ty : Ty) (d : Opd) (r : Nat × Arith) : Option Effect := some ⟨d, resultWords ty r.1, r.2.flags, some r.2.seed⟩

/-- The integer instructions that form an exact value t and write it as R127 says, the rest of R126, and LEA (R128). -/
def integerEffect (s : State) (th : Thread) : Instr → Option Effect
  | .iadd _ ty sat d a b => giving ty d (intWrite ty sat (s.rdInt th ty a + s.rdInt th ty b))
  | .iaddImm _ ty sat d a imm => giving ty d (intWrite ty sat (s.rdInt th ty a + if ty.signed then imm.toInt else imm.toNat))
  | .isub _ ty sat d a b => giving ty d (intWrite ty sat (s.rdInt th ty a - s.rdInt th ty b))
  | .imul _ ty sat d a b => giving ty d (intWrite ty sat (s.rdInt th ty a * s.rdInt th ty b))
  | .imulh _ ty d a b => giving ty d (wrapTo ty.bits (s.rdInt th ty a * s.rdInt th ty b / 2 ^ ty.bits), 0)
  | .imad _ ty sat d a b c => giving ty d (intWrite ty sat (s.rdInt th ty a * s.rdInt th ty b + s.rdInt th ty c))
  | .idiv _ ty sat d a b => giving ty d (intQuot ty sat (s.rdInt th ty a) (s.rdInt th ty b))
  | .irem _ ty d a b => giving ty d (intRem ty (s.rdInt th ty a) (s.rdInt th ty b))
  | .imin _ ty d a b => giving ty d (if s.rdInt th ty b < s.rdInt th ty a then s.rd th ty b else s.rd th ty a, 0)
  | .imax _ ty d a b => giving ty d (if s.rdInt th ty b < s.rdInt th ty a then s.rd th ty a else s.rd th ty b, 0)
  | .iabs _ ty sat d a => giving ty d (intWrite ty sat (s.rdInt th ty a).natAbs)
  | .ineg _ ty sat d a => giving ty d (intWrite ty sat (-(s.rdInt th ty a)))
  | .idot4 _ ty sat d a b c =>
    let e := fun (o : Opd) (i : Nat) => tyInt (dotTy ty) (bitsAt (s.rdP th (dotTy ty) o) (8 * i) 8)
    giving ty d (intWrite ty sat (s.rdInt th ty c + e a 0 * e b 0 + e a 1 * e b 1 + e a 2 * e b 2 + e a 3 * e b 3))
  | .lea _ sx sh d a b =>
    let y : DWord := if sx then (s.rd32 th b).signExtend 64 else (s.rd32 th b).zeroExtend 64
    giving64 d (s.rd64 th a + (y <<< sh.val)) 0
  | .leaImm _ d a imm => giving64 d (s.rd64 th a + imm.signExtend 64) 0
  | _ => none

/-- Logic, shifts and bit fields (R129, R130), SEL, MOV and MOVI (R132): none sets a flag. -/
def logicEffect (s : State) (th : Thread) : Instr → Option Effect
  | .and _ ty d a b => giving ty d (s.rd th ty a &&& s.rd th ty b, 0)
  | .or _ ty d a b => giving ty d (s.rd th ty a ||| s.rd th ty b, 0)
  | .xor _ ty d a b => giving ty d (s.rd th ty a ^^^ s.rd th ty b, 0)
  | .andImm _ ty d a imm => giving ty d (s.rd th ty a &&& logicImm ty imm, 0)
  | .orImm _ ty d a imm => giving ty d (s.rd th ty a ||| logicImm ty imm, 0)
  | .xorImm _ ty d a imm => giving ty d (s.rd th ty a ^^^ logicImm ty imm, 0)
  | .not _ ty d a => giving ty d (bitNot ty.bits (s.rd th ty a), 0)
  | .lut3 _ ty lut d a b c => giving ty d (lut3 lut (s.rd th ty a) (s.rd th ty b) (s.rd th ty c) ty.bits, 0)
  | .shl _ ty d a b => giving ty d (shlBits ty.bits (s.rd th ty a) (s.rd32 th b).toNat, 0)
  | .shr _ ty d a b => giving ty d (shrBits ty.bits (s.rd th ty a) (s.rd32 th b).toNat, 0)
  | .sar _ ty d a b => giving ty d (sarBits ty.bits (s.rd th ty a) (s.rd32 th b).toNat, 0)
  | .rot _ ty d a b => giving ty d (rotBits ty.bits (s.rd th ty a) (s.rd32 th b).toNat, 0)
  | .bfx _ ty sgn d a b =>
    let c := (s.rd32 th b).toNat
    let l := fieldLen ty.bits c
    let f := bitsAt (s.rd th ty a) (c % 256) l
    giving ty d (if l = 0 then 0 else if sgn then wrapTo ty.bits (intVal true l f) else f, 0)
  | .bfi _ ty d a b c =>
    let k := (s.rd32 th b).toNat
    let l := fieldLen ty.bits k
    let v := s.rd th ty c
    giving ty d (if l = 0 then v else
      v % 2 ^ (k % 256) + bitsAt (s.rd th ty a) 0 l * 2 ^ (k % 256) + v / 2 ^ (k % 256 + l) * 2 ^ (k % 256 + l), 0)
  | .popc _ ty d a => giving32 d (word (popBits ty.bits (s.rd th ty a)))
  | .clz _ ty d a => giving32 d (word (clzBits ty.bits (s.rd th ty a)))
  | .brev _ ty d a => giving ty d (revBits ty.bits (s.rd th ty a), 0)
  | .permb _ d a b c =>
    let p := permByte (s.rd32 th a).toNat (s.rd32 th b).toNat (s.rd32 th c).toNat
    giving32 d (word (p 0 + p 1 * 2 ^ 8 + p 2 * 2 ^ 16 + p 3 * 2 ^ 24))
  | .sel _ ty d a b c => giving ty d (if th.psel c then s.rd th ty a else s.rd th ty b, 0)
  | .mov _ ty d a => giving ty d (s.rd th ty a, 0)
  | .movi _ ty d imm => giving ty d (if ty.bits = 64 then (imm.signExtend 64).toNat else imm.toNat, 0)
  | _ => none

/-- Floating-point arithmetic (R133, R134): one scalar operation under the rounding of R113; a packed one works on element
0, then on element 1 with the flags and FSEED that element 0 left. -/
def floatEffect (s : State) (th : Thread) : Instr → Option Effect
  | .fadd _ r sat d a b => givingF .f32 d (fop (th.arith r) .add .f32 sat false (s.rd th .f32 a) (s.rd th .f32 b) 0)
  | .fsub _ r sat d a b => givingF .f32 d (fop (th.arith r) .sub .f32 sat false (s.rd th .f32 a) (s.rd th .f32 b) 0)
  | .fmul _ r sat d a b => givingF .f32 d (fop (th.arith r) .mul .f32 sat false (s.rd th .f32 a) (s.rd th .f32 b) 0)
  | .fmad _ r sat d a b c =>
    givingF .f32 d (fop (th.arith r) .mad .f32 sat false (s.rd th .f32 a) (s.rd th .f32 b) (s.rd th .f32 c))
  | .fmin _ d a b => givingF .f32 d (fminmax (th.arith none) .f32 false (s.rd th .f32 a) (s.rd th .f32 b))
  | .fmax _ d a b => givingF .f32 d (fminmax (th.arith none) .f32 true (s.rd th .f32 a) (s.rd th .f32 b))
  | .dadd _ r sat d a b => givingF .f64 d (fop (th.arith r) .add .f64 sat false (s.rd th .f64 a) (s.rd th .f64 b) 0)
  | .dmul _ r sat d a b => givingF .f64 d (fop (th.arith r) .mul .f64 sat false (s.rd th .f64 a) (s.rd th .f64 b) 0)
  | .dmad _ r sat d a b c =>
    givingF .f64 d (fop (th.arith r) .mad .f64 sat false (s.rd th .f64 a) (s.rd th .f64 b) (s.rd th .f64 c))
  | .padd2 _ ty r sat d a b => packed ty (th.arith r) .add sat d (s.rdP th ty a) (s.rdP th ty b) 0
  | .pmul2 _ ty r sat d a b => packed ty (th.arith r) .mul sat d (s.rdP th ty a) (s.rdP th ty b) 0
  | .pfma2 _ ty r sat d a b c => packed ty (th.arith r) .mad sat d (s.rdP th ty a) (s.rdP th ty b) (s.rdP th ty c)
  | _ => none
where
  /-- Both elements of a packed operation. -/
  packed (ty : Ty) (e : Arith) (op : Fop) (sat : Bool) (d : Opd) (a b c : Nat) : Option Effect :=
    let x := fop e op ty sat true (a % 65536) (b % 65536) (c % 65536)
    let y := fop x.2 op ty sat true (a / 65536) (b / 65536) (c / 65536)
    some ⟨d, [word (x.1 + y.1 * 65536)], y.2.flags, some y.2.seed⟩

/-- Conversion, dequantisation and nonzero analysis (R135, R137, R138). -/
def convertEffect (s : State) (th : Thread) : Instr → Option Effect
  | .cvt _ t sty di si r sat d a =>
    let src := if sty.bits = 64 then s.rd th sty a else s.rdP th sty a
    let y := cvtElem (th.arith r) t sty sat (elementOf sty si.val src)
    if t.bits < 32 then
      let old := (s.rd32 th d).toNat
      let lo := t.bits * di.val
      some ⟨d, [word (old % 2 ^ lo + y.1 * 2 ^ lo + old / 2 ^ (lo + t.bits) * 2 ^ (lo + t.bits))], y.2.flags, some y.2.seed⟩
    else givingF t d y
  | .cvtd _ t sty slot nosc (.v n) a b =>
    let sl := s.slot (s.hostOf th) (s.team th.team).ctx slot.val
    let sc := if nosc then none else some ((s.rd32 th b).toNat % 4096)
    some ⟨.v n, packElems t.bits ((runElems sty [word (s.rdP th sty a)]).map fun c => decodeTo t sty sl sc c), 0, none⟩
  | .nzcnt _ ty slot ftz d a b => giving32 d (s.rd32 th b + word ((s.nzMap th ty slot ftz a).countP id))
  | .nzmap _ ty slot ftz d a b =>
    let m := s.nzMap th ty slot ftz a
    giving32 d (word ((s.rd32 th b).toNat * 2 ^ m.length + (m.zipIdx.map fun p => if p.1 then 2 ^ p.2 else 0).sum))
  | _ => none

/-- The special functions (R139). -/
def specialEffect (s : State) (th : Thread) : Instr → Option Effect
  | .rcp _ ty d a => giving ty d (rcpRsq .rcp ty (fzBit th.fmode ty) (s.rd th ty a))
  | .rsq _ ty d a => giving ty d (rcpRsq .rsq ty (fzBit th.fmode ty) (s.rd th ty a))
  | .sqrt _ ty r d a => givingF ty d (sqrtOp (th.arith r) ty (s.rd th ty a))
  | .ex2 _ d a => one .ex2 d a
  | .lg2 _ d a => one .lg2 d a
  | .sin _ d a => one .sin d a
  | .cos _ d a => one .cos d a
  | .tanh _ d a => one .tanh d a
  | .sincos _ d a =>
    let p := special32 .sin (fzBit th.fmode .f32) (s.rd th .f32 a)
    let q := special32 .cos (fzBit th.fmode .f32) (s.rd th .f32 a)
    some ⟨d, [word p.1, word q.1], p.2 ||| q.2, none⟩
  | _ => none
where
  /-- One f32 function. -/
  one (fn : SpFn) (d a : Opd) : Option Effect := giving .f32 d (special32 fn (fzBit th.fmode .f32) (s.rd th .f32 a))

/-- What a compare or PLUT gives: the predicate, its value and the flags it sets (R131, R132). -/
def predEffect (s : State) (th : Thread) : Instr → Option (Fin 8 × Bool × Nat)
  | .pcmpi _ cmp ty bop d a b c => some (d, bopApply bop (cmpI cmp (s.rdInt th ty a) (s.rdInt th ty b)) (th.psel c), 0)
  | .pcmpf _ cmp ty bop d a b c =>
    let x := (th.arith none).input ty (s.rd th ty a)
    let y := (th.arith none).input ty (s.rd th ty b)
    some (d, bopApply bop (cmpF cmp x y) (th.psel c), if x.isSnan || y.isSnan then fINV else 0)
  | .plut _ lut d a b c =>
    some (d, lut.getLsbD (4 * (th.pred a).toNat + 2 * (th.pred b).toNat + (th.pred c).toNat), 0)
  | _ => none

/-! ## Rounding -/

/-- The exact value of a finite number. -/
def FVal.value : FVal → ℚ
  | .fin neg m e => (if neg then -1 else 1) * m * 2 ^ e
  | _ => 0

/-- The rounding rules of R100 and R102: `w` is the point that `v` takes on the grid of spacing `u`. -/
def RoundsTo (rnd : Rnd) (v u w : ℚ) : Prop :=
  0 ≤ w * v ∧ (∃ k : ℤ, w = k * u) ∧ match rnd with
  | .rm .rn => 2 * |w - v| ≤ u ∧ (2 * |w - v| = u → ∃ k : ℤ, w = 2 * k * u)
  | .rm .rz => |w| ≤ |v| ∧ |v| - |w| < u
  | .rm .rd => w ≤ v ∧ v - w < u
  | .rm .ru => v ≤ w ∧ w - v < u
  | .stoch seed => seed ≠ 0 ∧ ∃ k : ℕ, k * u ≤ |v| ∧ |v| < (k + 1) * u ∧
      |w| = (if seed - 1 < ⌊(|v| - k * u) / u * 2 ^ 32⌋₊ then k + 1 else k) * u

end Sys2Proof.Machine
end

