-- ==== Sys2Proof/Certificates/Slice0/Obligations.lean ====
section
/-!
DEFINITION. The statements for the provers. A free value (log 3) stands in them only as the function of the state that the
model applies, so that each holds whatever that value is.
-/

open Sys2Proof Sys2Proof.Machine

/-! ## Fetch, decode and issue -/

/-- A thread whose turn it is, in an open clause, runs exactly the instruction that its slot decodes to (R33, R65, R70): a step
is `exec` of it, the counter of free values apart. -/
def Obligations.StepRunsDecoded : Prop :=
  ∀ (s q : State) (th : Thread) (i : Instr), s.Due q → q.cur = some th → th.status = .live → th.hold = Hold.none →
    q.stopped th = false → th.entered = true → th.decode = some (.ok i) → step s = exec i q.tick

/-- A slot that decode rejects raises its cause at that slot, exactly, with the slot's PC, and nothing else happens (R65): a
reserved opcode 0x01 first; then a flag mark on an opcode without one, the mark 3 or a mark of an absent flag 0x02. -/
def Obligations.RejectedSlotTraps : Prop :=
  (∀ (s q : State) (th : Thread) (r : Reject), s.Due q → q.cur = some th → th.status = .live → th.hold = Hold.none →
    q.stopped th = false → th.entered = true → th.decode = some (.error r) →
    step s = .next (q.tick.finish th.id (.trap (rejectCause r) th.pc))) ∧
  ∀ (w seta setb : Nat) (eqp : Bool),
    (opRow (bitsAt w 0 8) = none → decodeNative w seta setb eqp = .error .illegalOpcode) ∧
    ∀ row, opRow (bitsAt w 0 8) = some row →
      (bitsAt w 12 2 = 3 ∨ (bitsAt w 12 2 ≠ 0 ∧ row.flag = false) ∨ (bitsAt w 12 2 = 1 ∧ seta = 15) ∨
        (bitsAt w 12 2 = 2 ∧ setb = 15)) → decodeNative w seta setb eqp = .error .reservedField

/-- The words of the spec's worked encodings (02, 05, 07, 08, 09, 13, 14, 16, 17, 19) decode to the instructions that they
stand for, and the portable bytes of 02's example, with the extension and without it, to theirs. -/
def Obligations.DecodeWords : Prop :=
  let t : X := ⟨⟨false, 7⟩, .none⟩
  let fa : X := ⟨⟨false, 7⟩, .fa⟩
  decodeNative 0x00004000000000121401D7A0 0 15 false = .ok (.ld fa .n32 0 .g 0 (.v 20) (.v 18) 0x40) ∧
  decodeNative 0x000000000000C1141500C710 0 15 false =
    .ok (.iadd t .s32 false (.v 21) (.v 20) (.k 1)) ∧
  decodeNative 0x000000140F00381028050754 0 15 false =
    .ok (.cvtq t .e2m1 .f32 5 none false false (.v 40) (.v 56) (.v 16)) ∧
  decodeNative 0x0000000000C2000114000772 0 15 false = .ok (.ballot t (.v 20) ⟨false, 1⟩ (.k 2)) ∧
  decodeNative 0x000000010800141400000782 0 15 false = .ok (.reorder t false 0 (.v 20) (.v 20) .b 1) ∧
  decodeNative 0x080005001200282000049790 0 15 false =
    .ok (.mma fa .e4m3 .e4m3 false false false (.v 0) (.v 32) (.v 40) 5 0 0 2) ∧
  decodeNative 0x00000001000000121402C7A0 0 15 false = .ok (.ld t .b32 0 .t 0 (.v 20) (.v 18) 0) ∧
  decodeNative 0x0200020000151426280007D2 0 15 false =
    .ok (.tstep t (.v 40) 2 (.v 38) (.v 20) (.v 21) 2) ∧
  decodeNative 0x0700000042000000000007D9 0 15 false = .ok (.mmadd t .n32 2 0 1) ∧
  decodeNative 0x0300000000002000000017E0 0 15 false = .ok (.tpost fa 3 (.v 32)) ∧
  decodeNative 0x0000000005000000140007E1 0 15 false = .ok (.targ t (.word 5) (.v 20)) ∧
  decodeNative 0x0000000003151412320017E2 0 15 false =
    .ok (.dappend fa true true (.v 50) (.v 18) (.v 20) (.v 21)) ∧
  decodeNative 0x00000000000000000000070A 0 15 false = .ok (.tret t) ∧
  decodeNative 0x00000000000000000000070B 0 15 false = .ok (.tretry t) ∧
  decodeNative 0x000001014019181A000021D0 15 1 false =
    .ok (.cpy ⟨⟨false, 1⟩, .fb⟩ false .t true 0 0 .rn (.v 26) (.v 24) (.v 25) 1) ∧
  decodeNative 0x0000000000C11812000017E9 0 15 false = .ok (.xrecv fa (.v 18) (.v 24) (.k 1)) ∧
  decodeNative 0x0000000001303212340007E7 0 15 false =
    .ok (.xlist t true (.v 52) (.v 18) (.v 50) (.v 48)) ∧
  decodeNative 0x000000000300C212360007E8 0 15 false =
    .ok (.xsend t true true (.v 54) (.v 18) (.k 2)) ∧
  decodePortable 0x40000000001820A02A019710 112 = .ok (.iadd t .s32 false (.v 21) (.v 20) (.k 1)) ∧
  decodePortable 0x000020A02A018710 112 = .ok (.iadd t .s32 false (.v 21) (.v 20) (.v 1))

/-- Every bit of an encoding is kept, one way: a well-formed native instruction, whose mark its opcode admits, decodes from its
own words (R54 to R65). -/
def Obligations.DecodeOfEncode : Prop :=
  ∀ (i : Instr) (w : Nat), WellFormed i → encodeNative i = some w →
    (∀ row, opRow (bitsAt w 0 8) = some row → row.flag = true ∨ bitsAt w 12 2 = 0) →
    w < 2 ^ 96 ∧ decodeNative w 0 1 true = .ok i

/-- And the other way: a slot that decodes is the encoding of its instruction, which is well-formed, so that no bit of the slot
is ignored (R54 to R65). -/
def Obligations.EncodeOfDecode : Prop :=
  ∀ (w : Nat) (i : Instr), w < 2 ^ 96 → decodeNative w 0 1 true = .ok i → WellFormed i ∧ encodeNative i = some w

/-- A guard that tests false makes the instruction a no-operation for its thread: the thread goes on to the next slot, and
nothing else of the machine changes (R21), for every instruction but those in which such a thread still takes part. Past a
REORDER it goes on too, in native code with the next line, since the slots after a REORDER never issue (R187). -/
def Obligations.FailedGuardIsNoOperation : Prop :=
  (
    ∀ (s : State) (th : Thread) (i : Instr) (x : X), s.Issues th i → i.x = some x → th.psel x.g = false → i.gathers = false →
      s.Becomes i th { th.advance with ovf := [] } s) ∧
  (
    ∀ (s : State) (th : Thread) (x : X) (core : Bool) (n : Fin 8) (key b : Opd) (kind : KindSel) (colours : Byte),
      let i := Instr.reorder x core n key b kind colours
      s.Issues th i → th.psel x.g = false →
        (th.portable = true → s.Becomes i th { th.advance with ovf := [] } s) ∧
        (th.portable = false → th.pc.toNat % 64 ≤ 4 → s.Becomes i th
          { th with pc := dword (th.pc.toNat / 64 * 64 + 64), clause := none, entered := false, byTransfer := false, ovf := [] } s))

/-- What stands before an instruction whatever its guard: in a frozen context the thread does not issue, but for the threads of a
bundle that has begun its slot in the cycle of the freeze (R243, R248); unprivileged code that names a privileged instruction or
writes a team constant raises 0x06 with the slot's PC (R20, R46, R65 order 7); then a group whose role bars the class, or whose
team has roles and none may issue it, raises 0x05 with the slot's PC (R166, R167). Privileged are TRET, TRETRY and TRAIL.wr, and
a team constant is written by any instruction whose destination byte names one, here IADD and the pair of a 64-bit MOV. -/
def Obligations.ChecksBeforeGuard : Prop :=
  (
    ∀ (s : State) (th : Thread) (i : Instr) (x : X), s.cur = some th → i.x = some x →
      let run : Prop := (s.ctxOf th).frozen = false ∨ ∃ b r, s.issues = b :: r ∧ b.begun = true
      (¬run → exec i s = .next (s.finish th.id .retry)) ∧
      (run → th.privileged = false → (i.needsPrivilege = true ∨ i.writesConst = true) → s.Traps i th .privilege th.pc) ∧
      (run → th.privileged = false → i.needsPrivilege = false → i.writesConst = false →
        ((s.group th.group).role.admits i.cls = false ∨ i.cls = .barred ∧ (s.team th.team).hasRoles = true) →
        s.Traps i th .roleViolation th.pc)) ∧
  (
    ∀ (x : X) (a b : Opd) (n : Fin 64) (ty : Ty) (sat : Bool),
      (Instr.tret x).needsPrivilege = true ∧ (Instr.tretry x).needsPrivilege = true ∧ (Instr.trailWr x a).needsPrivilege = true ∧
      (Instr.iadd x ty sat (.s n) a b).writesConst = true ∧ (Instr.mov x .b64 (.s n) a).writesConst = true ∧
      ∀ k, (Instr.iadd x ty sat (.v k) a b).writesConst = false)

/-! ## The end of an instruction, and exceptions -/

/-- How an instruction of the current bundle ends while no trap waits (R32, R159): the next slot, a taken transfer, a hold, another try, a stall
with what it waits for (R158). The thread's record is the one named; every other thread and all else is as it was. Native slot k of line L goes
on to slot k + 1, and slot 4 to slot 0 of line L + 64; a taken transfer closes the clause, so that the slots after it do not issue. -/
def Obligations.EndOfInstruction : Prop :=
  (
    ∀ (s : State) (th : Thread), s.cur = some th → th.hold = Hold.none → s.Calm →
      ∀ (n : Next) (u : Thread),
        (n = .next ∧ u = th.advance) ∨
        (∃ pc p, n = .goto pc p ∧
          u = { th with pc := pc, portable := p, clause := none, entered := false, byTransfer := true }) ∨
        (∃ h, n = .wait h ∧ u = { th with hold := h }) ∨ (n = .retry ∧ u = th) ∨
        (∃ w, n = .stall w ∧ u = { th with stall := some w }) →
        (s.finish th.id n).thread? th.id = some u ∧ (∀ k, k ≠ th.id → (s.finish th.id n).thread? k = s.thread? k) ∧
          s.Rest (s.finish th.id n)) ∧
  (
    (∀ (th : Thread) (l k : Nat), th.portable = false → l % 64 = 0 → l + 64 < 2 ^ 64 → th.pc = BitVec.ofNat 64 (l + k) → k ≤ 4 →
      th.advance.pc = BitVec.ofNat 64 (if k < 4 then l + k + 1 else l + 64) ∧
      th.advance.clause = (if k < 4 then th.clause else none)) ∧
    ∀ (s : State) (th : Thread) (pc : DWord) (p : Bool), s.cur = some th → th.hold = Hold.none → s.Calm →
      ∃ u, (s.finish th.id (.goto pc p)).thread? th.id = some u ∧ u.pc = pc ∧ u.clause = none ∧ u.entered = false)

/-- A raised trap of a thread outside a speculation and a handler is exact (R35, R385): while other threads of its bundle have
still to issue the slot, it only waits, with its cause, its address, TRAP_PCN at the instruction and RES 1. TRAP_CAUSE as
delivered (R389): the cause in bits 7:0 with bits 11:8 zero, DEFER, RES, REPLAY, FLAG or 15, the count of the marked run and,
unless that is 0, its first register. A sealed write that is refused freezes its context, with its fault recorded and, of the
writes that one cycle refuses, the lowest first failing byte (R248, R464); no handler is entered. -/
def Obligations.RaisedTrap : Prop :=
  (
    ∀ (s : State) (th : Thread) (c : Cause) (a : DWord), s.cur = some th → th.spec = none → th.handler = none →
      c ≠ .sealedWrite → (∃ i r, s.issues = i :: r ∧ i.todo.tail ≠ []) →
      (s.finish th.id (.trap c a)).thread? th.id =
          some { th with pend := some (plainTrap c a th.pc true s.trapStamp), hold := .trap } ∧
        (∀ k, k ≠ th.id → (s.finish th.id (.trap c a)).thread? k = s.thread? k) ∧ s.Rest (s.finish th.id (.trap c a))) ∧
  (
    ∀ p : PendTrap, p.dcnt < 32 →
      p.word.toNat % 4096 = causeCode p.cause ∧ p.word.getLsbD 12 = p.defer ∧ p.word.getLsbD 13 = p.res ∧
      p.word.getLsbD 14 = p.replay.isSome ∧ p.word.toNat / 2 ^ 15 % 16 = (match p.flag with | some f => f.val | none => 15) ∧
      p.word.toNat / 2 ^ 19 % 32 = p.dcnt ∧ p.word.toNat / 2 ^ 24 = if p.dcnt = 0 then 0 else p.dreg % 256) ∧
  (
    ∀ (s : State) (th : Thread) (x : Context) (p : PendTrap), s.thread? th.id = some th → s.ctx? (s.team th.team).ctx = some x →
      th.spec = none → p.cause = .sealedWrite → p.defer = false →
      let z := s.raise th.id p
      let lower : Prop := x.frozenSince = s.cycle ∧ p.addr < x.frozenAt
      z.thread? th.id = some { th with hold := .trap } ∧ (∀ k, k ≠ th.id → z.thread? k = s.thread? k) ∧
      z.mem = s.mem ∧ z.groups = s.groups ∧ z.teams = s.teams ∧
      z.ctx? x.id = some { x with
        frozen := true, frozenFaults := x.frozenFaults ++ [(th.id, p)],
        frozenSince := if x.frozen then x.frozenSince else s.cycle,
        frozenAt := if x.frozen = true ∧ ¬lower then x.frozenAt else p.addr })

/-- TAKING AN EXCEPTION, for one thread (R392, R393): with a good vector and room for the window slide, the thread stands at
the handler's entry, privileged, with TRAP_CAUSE, TRAP_ADDR and TRAP_PCN of the trap, one call deeper, its window registers 0
and its globals as they were; with no good vector the handler fails with the trap's cause, and with no room with 0x33, after a
sealed frame with the address that it refused (R40). The vector stands at TRAP_BASE + 8 * (256 * kind + cause), where bit 56 of
TRAP_BASE stands for the bits above it (R27, R391); without a table there is none. That an entry at the largest call depth has
no room is the model's choice (log 27). -/
def Obligations.TakeTrap : Prop :=
  (
    ∀ (s : State) (t : Nat) (p : PendTrap),
      ((s.readVector t p.cause).2 = none → (s.takeTrap t p).2 = some (p.cause, none)) ∧
      ∀ r pc portable, s.readVector t p.cause = (r, some (pc, portable)) →
        ((r.th t).depth = 2 ^ 24 - 1 → s.takeTrap t p = (r, some (.spill, none))) ∧
        ((r.th t).depth ≠ 2 ^ 24 - 1 → ∀ q e,
          r.slideWindow t 112 (r.th t).pc (r.frameOf (r.team (r.th t).team).ctx pc) = (q, e) →
          (∀ f, e = some f → s.takeTrap t p = (q, some (.spill, if f.1 = .sealedWrite then some f.2 else none))) ∧
          ∀ v : Thread, e = none → q.thread? t = some v →
            (s.takeTrap t p).2 = none ∧
            ∃ u, (s.takeTrap t p).1.thread? t = some u ∧ u.trapCause = p.word ∧ u.trapAddr = p.addr ∧ u.trapPcn = p.pcn ∧
              (u.trapEqp, u.trapPcx) = ((q.eqpRegs v).1, (q.eqpRegs v).2) ∧ u.replay = p.replay ∧
              u.privileged = true ∧ u.pc = pc ∧ u.portable = portable ∧ u.hold = Hold.none ∧ u.stall = none ∧
              u.skipPass = v.skipPass ∧ u.clause = none ∧
              u.entered = false ∧ u.byTransfer = true ∧ u.regs = v.regs ∧ u.depth = v.depth ∧ u.fstat = v.fstat ∧
              ∀ k, k ≠ t → (s.takeTrap t p).1.thread? k = q.thread? k)) ∧
  (
    ∀ (s : State) (t : Nat) (c : Cause),
      ((s.ctxOf (s.th t)).trapBase = 0 → (s.readVector t c).2 = none) ∧
      ∀ x : Context, x.trapBase.toNat < 2 ^ 57 →
        let base := if x.trapBase.toNat < 2 ^ 56 then x.trapBase.toNat else x.trapBase.toNat + (2 ^ 64 - 2 ^ 57)
        x.vector .bramble c = base + 8 * causeCode c ∧ x.vector .larch c = base + 2048 + 8 * causeCode c)

/-- RETURN FROM AN EXCEPTION (R396 to R398): with a call of the handler still open, TRET and TRETRY raise 0x02 with the slot's PC. TRET goes on
after TRAP_PCN when RES is 1, and TRETRY at TRAP_PCN, first issuing the recorded operation again when REPLAY is 1; where that operation cannot
issue yet the thread stalls at its TRETRY. The return PC is checked, the user's frame comes back, and the thread then stands there unprivileged
at a clause start that no TGT bit is asked for; the rest of its registers are those of the frame. -/
def Obligations.HandlerReturns : Prop :=
  ∀ (s : State) (th : Thread) (x : X),
    (∀ i ∈ [Instr.tret x, .tretry x], s.Runs th i →
      (∃ h, th.handler = some h ∧ th.depth ≠ h.depth + 1) → s.Ends i th s (.trap .reservedField th.pc)) ∧
    ((∃ h, th.handler = some h ∧ th.depth = h.depth + 1) →
      (∀ q v pc i, s.Runs th i →
          (i = .tret x ∧ v = th ∧ (q, pc) = (if th.trapCause.getLsbD 13 then s.pcAfter th th.trapPcn else (s, th.trapPcn)) ∨
            i = .tretry x ∧ v = th ∧ q = s ∧ pc = th.trapPcn ∧ (th.trapCause.getLsbD 14 = false ∨ th.replay = none) ∨
            i = .tretry x ∧ v = q.th th.id ∧ pc = v.trapPcn ∧ th.trapCause.getLsbD 14 = true ∧
              ∃ f, th.replay = some f ∧ s.replayOp th f = .ok q) →
          (∀ n, q.checkTarget v false pc = .error n → s.Ends i th q n) ∧
          ∀ p r e, q.checkTarget v false pc = .ok p → q.leaveTrap v.id pc p = (r, e) →
            (∀ f, e = some f → s.Ends i th r (.trap f.1 (dword f.2))) ∧
            (e = none → s.Ends i th (r.handlerOver v.group) .gone)) ∧
      ∀ f n, s.Runs th (.tretry x) → th.trapCause.getLsbD 14 = true → th.replay = some f → s.replayOp th f = .error n →
        s.Ends (.tretry x) th s n) ∧
    (∀ o im pc, s.imageAt (s.team th.team).ctx pc.toNat = some (o, im) → im.kind ≠ 1 → s.pcAfter th pc =
      (s, if pc.toNat % 8 < 4 then pc + 1 else dword (pc.toNat / 64 * 64 + 64))) ∧
    ∀ (q r : State) (t : Nat) (pc ret : DWord) (p : Bool) (v : Thread), q.unslideWindow t (fun _ => true) = (r, .ok ret) →
      r.thread? t = some v → ∃ z u, q.leaveTrap t pc p = (z, none) ∧ z.thread? t = some u ∧ u.pc = pc ∧ u.portable = p ∧
        u.privileged = false ∧ u.replay = none ∧ u.clause = none ∧ u.entered = false ∧ u.byTransfer = false ∧ u.regs = v.regs ∧
        u.preds = v.preds ∧ u.fstat = v.fstat ∧ u.fmode = v.fmode ∧ u.trail = v.trail ∧ u.flags = v.flags ∧
        u.hidden = v.hidden ∧ (∀ k, k ≠ t → z.thread? k = r.thread? k) ∧ r.Rest z

/-! ## The register window -/

/-- SlideWindow while the resident hidden parts fit (R36, R38): the callee's v16 + i is the caller's v16 + n + i, its last n
window registers are 0, the globals stay, the caller's v16 to v15 + n and its return PC are kept, and memory is untouched. The
return finds the caller's frame again: UnslideWindow gives the recorded PC and the thread's record as it was before the call,
if no load still has to land in a hidden frame. A slide that does not fit stores the oldest hidden part at SPILL_BASE + SPILL_PTR
in 64-byte lines of colour c0, as the entry that R39 lays out, and SPILL_PTR rises by its size; the rest is as before. The return
to a part that is not resident takes n, the return PC and the registers from what memory then holds below SPILL_PTR, which falls
by the entry's size (R39, R43). -/
def Obligations.WindowSlides : Prop :=
  (
    ∀ (s : State) (t n frame : Nat) (ret : DWord) (th : Thread), s.thread? t = some th → n ≤ 112 → frame ≤ 112 →
      residentRegs th.hidden + n + 128 ≤ (s.team th.team).regsB →
      ∃ r u, s.slideWindow t n ret frame = (r, none) ∧ r.thread? t = some u ∧
        (∀ i, i < 112 → u.get (16 + i) = if i + n < 112 then th.get (16 + n + i) else 0) ∧
        (∀ i, i < 16 → u.get i = th.get i) ∧ u.wbase = th.wbase + n ∧ u.depth = th.depth + 1 ∧
        u.hidden = { ret := ret, n := n, base := th.wbase, regs := th.getRun 16 n } :: th.hidden ∧
        u.spillPtr = th.spillPtr ∧ u.preds = th.preds ∧ u.fstat = th.fstat ∧ u.trail = th.trail ∧ u.flags = th.flags ∧
        (∀ k, k ≠ t → r.thread? k = s.thread? k) ∧ s.Rest r) ∧
  (
    ∀ (s r : State) (t n frame : Nat) (ret : DWord) (th : Thread) (ok : DWord → Bool), s.thread? t = some th → n ≤ 112 →
      frame ≤ 112 → residentRegs th.hidden + n + 128 ≤ (s.team th.team).regsB → th.late = [] → ok ret = true →
      s.slideWindow t n ret frame = (r, none) →
      ∃ q, r.unslideWindow t ok = (q, .ok ret) ∧ q.thread? t = some th ∧ (∀ k, k ≠ t → q.thread? k = s.thread? k) ∧ s.Rest q) ∧
  (
    (∀ (s : State) (t n frame : Nat) (ret : DWord) (th : Thread) (o : Hidden) (keep : List Hidden), s.thread? t = some th →
      n ≤ 112 → frame ≤ 112 →
      let h : Hidden := { ret := ret, n := n, base := th.wbase, regs := th.getRun 16 n }
      h :: th.hidden = keep ++ [o] → (s.team th.team).regsB - 128 < residentRegs (keep ++ [o]) →
      residentRegs keep ≤ (s.team th.team).regsB - 128 →
      th.spillPtr.toNat + (entryBytes o).length ≤ th.spillLimit.toNat →
      let q := s.modTh t fun u => { u with hidden := h :: u.hidden }
      ∀ r, q.spillLines t (canonVa th.spillBase.toNat + th.spillPtr.toNat) ((entryBytes o).length / 64) (entryBytes o) = (r, none) →
        r.thread? t = q.thread? t →
        ∃ z u, s.slideWindow t n ret frame = (z, none) ∧ z.thread? t = some u ∧
          (∀ i, i < 112 → u.get (16 + i) = if i + n < 112 then th.get (16 + n + i) else 0) ∧ (∀ i, i < 16 → u.get i = th.get i) ∧
          u.wbase = th.wbase + n ∧ u.depth = th.depth + 1 ∧ u.hidden = keep ∧
          u.spillPtr = th.spillPtr + word (entryBytes o).length ∧ (∀ k, k ≠ t → z.thread? k = r.thread? k) ∧ r.Rest z) ∧
    (∀ (s r : State) (t va k : Nat) (b : List Byte),
      s.spillLines t va 0 b = (s, none) ∧
      (s.storeG (s.th t) (s.th t).privileged va 0 (b.take 64) = (r, .ok ()) →
        s.spillLines t va (k + 1) b = r.spillLines t (va + 64) k (b.drop 64))) ∧
    ∀ o : Hidden, 8 ≤ o.n → o.n ≤ 112 → o.n % 8 = 0 → o.regs.length = o.n →
      let b := entryBytes o
      let size := (16 + 4 * o.n + 63) / 64 * 64
      b.length = size ∧ field b 0 8 = o.ret.toNat ∧ field b 8 1 = o.n ∧ field b 9 7 = 0 ∧
        (∀ i, i < o.n → field b (16 + 4 * i) 4 = (o.regs.getD i 0).toNat) ∧
        field b (16 + 4 * o.n) (size - 24 - 4 * o.n) = 0 ∧ field b (size - 8) 8 = o.n) ∧
  ∀ (s q : State) (t : Nat) (th : Thread) (tail : List Byte) (ok : DWord → Bool), s.thread? t = some th → th.hidden = [] →
    th.depth ≠ 0 → (th.frames.headD (0, 0)).1 ≤ 112 → th.late = [] →
    let top := canonVa th.spillBase.toNat + th.spillPtr.toNat
    let n := field tail 0 1
    let size := (16 + 4 * n + 63) / 64 * 64
    s.spillRead t (top - 8) 1 = (q, .ok tail) → q.thread? t = some th →
      ((n < 8 ∨ 112 < n ∨ n % 8 ≠ 0 ∨ th.spillPtr.toNat < size) → ∃ z, s.unslideWindow t ok = (z, .error (.spill, top - 8)) ∧
        z.thread? t = some th) ∧
      (8 ≤ n → n ≤ 112 → n % 8 = 0 → size ≤ th.spillPtr.toNat → ∀ r e, q.spillRead t (top - size) (size / 8) = (r, .ok e) →
        r.thread? t = some th → e.length = size →
        ((field e 8 1 ≠ n ∨ field e 9 7 ≠ 0 ∨ field tail 1 7 ≠ 0) → ∃ z, s.unslideWindow t ok = (z, .error (.spill, top - size)) ∧
          z.thread? t = some th) ∧
        (field e 8 1 = n → field e 9 7 = 0 → field tail 1 7 = 0 → ok (dword (field e 0 8)) = true →
          ∃ z u, s.unslideWindow t ok = (z, .ok (dword (field e 0 8))) ∧ z.thread? t = some u ∧
            (∀ i, i < 112 → u.get (16 + i) = if i < n then word (field e (16 + 4 * i) 4) else th.get (16 + i - n)) ∧
            (∀ i, i < 16 → u.get i = th.get i) ∧ u.wbase = th.wbase - n ∧ u.depth = th.depth - 1 ∧ u.hidden = [] ∧
            u.spillPtr = th.spillPtr - word size ∧ u.preds = th.preds ∧ u.flags = th.flags ∧
            (∀ k, k ≠ t → z.thread? k = r.thread? k) ∧ r.Rest z))

/-- A spill fault leaves the thread as it was (R40): an entry that would end beyond SPILL_LIMIT is cause 0x33 at SPILL_BASE, as a
canonical address (R41), + SPILL_LIMIT, a line of an entry that cannot be stored ends the slide with its fault, the lines before it
staying in memory, and a return at depth 0 is cause 0x33 at address 0. An instruction in portable code that names entries of its
frame's overflow block (R69), here MOV of w128 and above, loads the entry from the spill stack before it and stores the written
one there after it, on the CORE path. -/
def Obligations.SpillFaultIsExact : Prop :=
  (
    (∀ (s : State) (t n frame : Nat) (ret : DWord) (th : Thread), s.thread? t = some th → 8 ≤ n → n ≤ 112 → th.hidden = [] →
      (s.team th.team).regsB < 128 + n → th.spillLimit.toNat < th.spillPtr.toNat + entrySize n →
      ∃ r, s.slideWindow t n ret frame = (r, some (.spill, canonVa th.spillBase.toNat + th.spillLimit.toNat)) ∧
        r.thread? t = some th ∧ (∀ k, k ≠ t → r.thread? k = s.thread? k) ∧ s.Rest r) ∧
    (∀ (s : State) (t n frame : Nat) (ret : DWord) (th : Thread) (o : Hidden) (keep : List Hidden), s.thread? t = some th →
      let h : Hidden := { ret := ret, n := n, base := th.wbase, regs := th.getRun 16 n }
      h :: th.hidden = keep ++ [o] → (s.team th.team).regsB - 128 < residentRegs (keep ++ [o]) →
      th.spillPtr.toNat + (entryBytes o).length ≤ th.spillLimit.toNat →
      let q := s.modTh t fun u => { u with hidden := h :: u.hidden }
      ∀ r f, q.spillLines t (canonVa th.spillBase.toNat + th.spillPtr.toNat) ((entryBytes o).length / 64) (entryBytes o) = (r, some f) →
        r.thread? t = q.thread? t → s.slideWindow t n ret frame = (r.setTh th, some f) ∧ (r.setTh th).thread? t = some th) ∧
    (∀ (s r : State) (t va k : Nat) (b : List Byte) (f : Stop),
      s.storeG (s.th t) (s.th t).privileged va 0 (b.take 64) = (r, .error f) →
        s.spillLines t va (k + 1) b = (r, some (match f with
          | .fault .sealedWrite a => (.sealedWrite, a)
          | .fault _ a => (.spill, a)
          | .stall _ => (.spill, 0)))) ∧
    ∀ (s : State) (t : Nat) (th : Thread) (ok : DWord → Bool), s.thread? t = some th → th.depth = 0 →
      s.unslideWindow t ok = (s, .error (.spill, 0))) ∧
  (
    ∀ (s r q : State) (th : Thread) (x : X) (m n : Fin 1024) (b : List Byte), s.cur = some th → th.portable = true →
      th.passes (.mov x .b32 (.v n) (.v m)) = true → (s.ctxOf th).frozen = false →
      (th.privileged = true ∨ (s.group th.group).role.admits .common = true) → 128 ≤ m.val → 128 ≤ n.val → th.ovf = [] →
      s.loadG th th.privileged (th.ovfAddr m.val) 4 = (r, .ok b) → r.th th.id = th → r.thread? th.id = some th →
      (let r' := (r.modTh th.id fun u => { u with ovf := [(m.val, word (leNat b))] }).modTh th.id fun u => u.put n.val (word (leNat b))
       r'.storeG (r'.th th.id) th.privileged (th.ovfAddr n.val) 0 (leBytes 4 (word (leNat b)).toNat) = (q, .ok ())) →
      exec (.mov x .b32 (.v n) (.v m)) s = .next ((q.dropOvf th.id).finish th.id .next))

/-! ## Results in registers -/

/-- Register-only instructions complete with exactly the effect that the spec gives them: IADD with its immediate form, ISUB,
IMUL, IMULH, IMAD, IDIV, IREM, IMIN, IMAX, IABS, INEG, IDOT4, LEA and its immediate form (R126 to R128); logic, shifts, bit
fields, SEL, MOV and MOVI (R129, R130, R132); FADD to PFMA2 (R133, R134); CVT, CVTD, NZCNT and NZMAP (R135, R137, R138); RCP to
TANH (R139), where a value inside the bounds of R109 that the spec leaves to the implementation is the free value of log 10.
The destination, the flags, FSEED and the PC change; every other thread and all else is as it was. -/
def Obligations.RegisterResults : Prop :=
  (
    ∀ (s : State) (th : Thread) (i : Instr) (e : Effect), s.Runs th i → integerEffect s th i = some e → s.HasEffect i th e) ∧
  (
    ∀ (s : State) (th : Thread) (i : Instr) (e : Effect), s.Runs th i → logicEffect s th i = some e → s.HasEffect i th e) ∧
  (
    ∀ (s : State) (th : Thread) (i : Instr) (e : Effect), s.Runs th i → floatEffect s th i = some e → s.HasEffect i th e) ∧
  (
    ∀ (s : State) (th : Thread) (i : Instr) (e : Effect), s.Runs th i → convertEffect s th i = some e → s.HasEffect i th e) ∧
  (
    ∀ (s : State) (th : Thread) (i : Instr) (e : Effect), s.Runs th i → specialEffect s th i = some e → s.HasEffect i th e)

/-- How an exact integer T is written (R127, R94), in terms of numbers: under wrap it is T modulo 2^w and sets no flag; under
SAT it is T clamped to the range of the type, and SAT is set when it clamps. Division by zero gives all ones, or the sign of a
signed dividend in every bit, with the dividend as the remainder and DVZ; the signed minimum by -1 gives the minimum with OVF,
or the maximum with SAT under SAT, and remainder 0 with no flag; every other quotient is truncated toward zero. -/
def Obligations.IntegerArithmetic : Prop :=
  (
    ∀ (ty : Ty) (t : Int), ty.int = true →
      let m : Int := 2 ^ ty.bits
      let lo : Int := if ty.signed then -(m / 2) else 0
      let hi : Int := if ty.signed then m / 2 - 1 else m - 1
      (((intWrite ty false t).1 : Int) = t % m ∧ (intWrite ty false t).2 = 0) ∧
      (lo ≤ t → t ≤ hi → ((intWrite ty true t).1 : Int) = t % m ∧ (intWrite ty true t).2 = 0 ∧ tyInt ty (intWrite ty true t).1 = t) ∧
      (t < lo → tyInt ty (intWrite ty true t).1 = lo ∧ (intWrite ty true t).2 = 32) ∧
      (hi < t → tyInt ty (intWrite ty true t).1 = hi ∧ (intWrite ty true t).2 = 32)) ∧
  (
    ∀ (ty : Ty) (sat : Bool) (x y : Nat), ty.int = true → x < 2 ^ ty.bits → y < 2 ^ ty.bits →
      let a := tyInt ty x
      let b := tyInt ty y
      let q := intQuot ty sat a b
      let r := intRem ty a b
      (b = 0 → q = (if ty.signed = false ∨ a < 0 then 2 ^ ty.bits - 1 else 0, 2) ∧ r = (x, 2)) ∧
      (ty.signed = true → a = -(2 ^ (ty.bits - 1)) → b = -1 →
        q = (if sat then (2 ^ (ty.bits - 1) - 1, 32) else (2 ^ (ty.bits - 1), 4)) ∧ r = (0, 0)) ∧
      (b ≠ 0 → ¬(ty.signed = true ∧ a = -(2 ^ (ty.bits - 1)) ∧ b = -1) →
        tyInt ty q.1 = a.tdiv b ∧ q.2 = 0 ∧ tyInt ty r.1 = a.tmod b ∧ r.2 = 0))

/-- Shifts, rotation, NOT, LUT3, BREV, POPC, CLZ and bit fields bit by bit, for w of 8, 16, 32 or 64 bits and a shift count of
any size (R129, R130): bit i of LUT3 is bit 4a + 2b + c of the table, and the leading zeros of a value other than 0 end at its
highest 1. A field starts at bits 7:0 of the control operand, takes bits 15:8 of it as its length, and is cut at the top of the
operand; BFX gives it from bit 0 up, and BFI lays the low bits of A over it and keeps the rest of C. -/
def Obligations.LogicBits : Prop :=
  (
    ∀ (w x k i : Nat), w ∈ [8, 16, 32, 64] → x < 2 ^ w → i < w →
      (shlBits w x k).testBit i = (decide (k ≤ i) && x.testBit (i - k)) ∧
      (shrBits w x k).testBit i = (decide (i + k < w) && x.testBit (i + k)) ∧
      (sarBits w x k).testBit i = x.testBit (if i + k < w then i + k else w - 1) ∧
      (rotBits w x k).testBit i = x.testBit ((i + w - k % w) % w) ∧
      shlBits w x k < 2 ^ w ∧ shrBits w x k < 2 ^ w ∧ sarBits w x k < 2 ^ w ∧ rotBits w x k < 2 ^ w) ∧
  (
    ∀ (w x y z : Nat) (lut : Byte), w ∈ [8, 16, 32, 64] → x < 2 ^ w →
      (∀ i, i < w → (bitNot w x).testBit i = !x.testBit i ∧ (revBits w x).testBit i = x.testBit (w - 1 - i) ∧
        (lut3 lut x y z w).testBit i = lut.getLsbD (4 * (x.testBit i).toNat + 2 * (y.testBit i).toNat + (z.testBit i).toNat)) ∧
      popBits w x = ((List.range w).filter fun i => x.testBit i).length ∧
      clzBits w 0 = w ∧ (x ≠ 0 → clzBits w x < w ∧ x.testBit (w - 1 - clzBits w x) = true ∧ x < 2 ^ (w - clzBits w x))) ∧
  (
    ∀ (w c i : Nat), w ∈ [8, 16, 32, 64] → i < w →
      let p := c % 256
      let l := fieldLen w c
      (l = if w ≤ p then 0 else min (c / 256 % 256) (w - p)) ∧
      (∀ a, (bitsAt a p l).testBit i = (decide (i < l) && a.testBit (p + i))) ∧
      ∀ a v, v < 2 ^ w → l ≠ 0 →
        (v % 2 ^ p + bitsAt a 0 l * 2 ^ p + v / 2 ^ (p + l) * 2 ^ (p + l)).testBit i =
          if p ≤ i ∧ i < p + l then a.testBit (i - p) else v.testBit i)

/-- PCMPI, PCMPF and PLUT write their predicate with the value and the flags of R131 and R132, and nothing else; predicate 7
takes no write. -/
def Obligations.PredicateResults : Prop :=
  ∀ (s : State) (th : Thread) (i : Instr) (d : Fin 8) (v : Bool) (fl : Nat), s.Runs th i →
    predEffect s th i = some (d, v, fl) →
    s.Becomes i th { ((th.sticky fl).setPred d v).advance with ovf := [] } s ∧
      (d = 7 → (th.setPred d v) = th) ∧ (d ≠ 7 → (th.setPred d v).pred d = v) ∧
      ∀ q, q ≠ d → (th.setPred d v).pred q = th.pred q

/-- NaNs in scalar arithmetic (R88): a result with a NaN operand is the canonical NaN of the format, whatever the operand's
sign and payload, and INV is raised exactly when an operand is a signalling NaN. RoundToFormat in numbers (R99 to R102): a value
of the format comes back unchanged with no flag; any other value x with 2^lg ≤ |x| < 2^(lg + 1) takes the point of its grid that
the rounding in force names, with INX, and UFL when it is tiny; a tiny result is flushed under FZ; a point beyond the largest
finite value overflows by R100's table. FADD to PFMA2, CVT, CVTQ and MmaSum round their exact result so once (R103, R106, R133,
R135, R136), with the zero signs of R99. Every exact case of R110: NaN, infinities and zeros of every function, a negative input
of RSQ, SQRT and LG2, EX2 of an integer from -149 to 127, LG2(1.0); and every other finite input sets INX. -/
def Obligations.FloatCases : Prop :=
  (
    ∀ (a : Arith) (op : Fop) (ty : Ty) (sat : Bool) (x y z : Nat), ty = .f32 ∨ ty = .f64 →
      let third := op == .mad
      ((a.input ty x).isNan || (a.input ty y).isNan || (third && (a.input ty z).isNan)) = true →
        fop a op ty sat false x y z =
          (if ty = .f64 then 0x7FF8000000000000 else 0x7FC00000,
            a.raise (if ((a.input ty x).isSnan || (a.input ty y).isSnan || (third && (a.input ty z).isSnan)) = true then 1 else 0))) ∧
  (∀ (t : Ty), t ∈ [Ty.f64, .f32, .f16, .bf16, .e4m3, .e5m2, .e2m1] → ∀ (rnd : Rnd) (sat fz neg : Bool),
    (∀ b m e, (ffmt t).decode b = .fin neg m e → b < 2 ^ (ffmt t).width → (fz = false ∨ (ffmt t).subnormal b = false) →
      ¬(t = .e2m1 ∧ b = 8) → roundTo t rnd sat fz (.fin neg m e) = (b, 0)) ∧
    (∀ m e, m ≠ 0 → roundTo t rnd sat fz (.fin neg m e) = roundRat (ffmt t) rnd sat fz neg m 1 e) ∧
    ∀ (n d : Nat) (e lg : Int) (v u w : ℚ), n ≠ 0 → d ≠ 0 → v = (if neg then -1 else 1) * (n / d : ℚ) * 2 ^ e →
      (2 : ℚ) ^ lg ≤ |v| → |v| < 2 ^ (lg + 1) → u = 2 ^ (max lg (ffmt t).emin - (ffmt t).mant) → RoundsTo rnd v u w →
      let r := roundRat (ffmt t) rnd sat fz neg n d e
      let top := FVal.value ((ffmt t).decode (ffmt t).maxFin)
      let tiny := lg < (ffmt t).emin
      (tiny → fz = true → r = ((ffmt t).signed neg 0, 8 + 16)) ∧
      (¬(tiny ∧ fz = true) → |w| ≤ top → (∃ m k, (ffmt t).decode r.1 = .fin (neg && !(decide (t = .e2m1 ∧ w = 0))) m k) ∧
        FVal.value ((ffmt t).decode r.1) = w ∧ r.1 < 2 ^ (ffmt t).width ∧
        r.2 = if w = v then 0 else 16 + if tiny then 8 else 0) ∧
      (¬(tiny ∧ fz = true) → top < |w| → r =
        if sat then ((ffmt t).signed neg (ffmt t).maxFin, 4 + 16 + 32)
        else if t = .e4m3 then (0x7F, 4 + 16)
        else if t = .e2m1 then ((ffmt t).signed neg 7, 4 + 16)
        else ((ffmt t).signed neg (match rnd with
          | .rm .rz => (ffmt t).maxFin
          | .rm .rd => if neg then (ffmt t).infBits else (ffmt t).maxFin
          | .rm .ru => if neg then (ffmt t).maxFin else (ffmt t).infBits
          | _ => (ffmt t).infBits), 4 + 16))) ∧
  (∀ (a : Arith) (t : Ty) (sat : Bool),
    let rounded := fun (stoch : Bool) (v : FVal) =>
      let sr := stoch && a.sr
      let seed := if sr then xorshiftStep a.seed else a.seed
      let r := roundTo t (if sr then .stoch seed.toNat else .rm a.rm) sat (a.fz t) v
      (r.1, { a with seed := seed, flags := a.flags ||| r.2 : Arith })
    (∀ (stoch : Bool) (op : Fop) (x y z : Nat) nx mx ex ny my ey nz mz ez, a.input t x = .fin nx mx ex → a.input t y = .fin ny my ey →
      (op = .mad → a.input t z = .fin nz mz ez) →
      let vx := FVal.value (.fin nx mx ex)
      let vy := FVal.value (.fin ny my ey)
      let down := a.rm == .rd && !(stoch && a.sr)
      let zero := fun (p q : Bool) => if p = q then p else down
      let v := match op with
        | .add => vx + vy
        | .sub => vx - vy
        | .mul => vx * vy
        | .mad => vx * vy + FVal.value (.fin nz mz ez)
      ∃ m e, FVal.value (.fin (decide (v < 0)) m e) = v ∧ fop a op t sat stoch x y z = rounded stoch (.fin (if v = 0 then (match op with
        | .add => zero nx ny
        | .sub => zero nx !ny
        | .mul => nx != ny
        | .mad => zero (nx != ny) nz) else decide (v < 0)) m e)) ∧
    (t.isInt = false → ∀ sty x,
      let stoch := t ∈ [Ty.f16, .bf16, .e4m3, .e5m2, .e2m1]
      (sty.isInt = true → cvtElem a t sty sat x = rounded stoch (.fin (decide (tyInt sty x < 0)) (tyInt sty x).natAbs 0)) ∧
      (sty.isInt = false → (sty = .e2m1 → x ≠ 8) → ∀ n m e, a.input sty x = .fin n m e →
        cvtElem a t sty sat x = rounded stoch (.fin n m e)) ∧
      ∀ sl n k m e, t ≠ .cb4 → 16 ≤ m → let q := quantElem a t sl sat stoch (.fin n k e) m
        let sr := stoch && a.sr
        let seed := if sr then xorshiftStep a.seed else a.seed
        (k ≠ 0 → ∀ j, let r := roundRat (ffmt t) (if sr then .stoch seed.toNat else .rm a.rm) sat (a.fz t) n k m (e - j)
          q j = (r.1, { a with seed := seed, flags := a.flags ||| r.2 : Arith })) ∧
        (k = 0 → ∀ j, q j = (if t = .e2m1 then 0 else (ffmt t).signed n 0, { a with seed := seed : Arith }))) ∧
    (t.isInt = true → ∀ sty x n m e k, sty.isInt = false → (sty = .e2m1 → x ≠ 8) → a.input sty x = .fin n m e →
      RoundsTo (.rm a.rm) (FVal.value (.fin n m e)) 1 (k : ℤ) →
      let r := intRange t.signed t.bits
      cvtElem a t sty sat x =
        if k < r.1 then (wrapTo t.bits r.1, a.raise (1 + if sat then 32 else 0))
        else if r.2 < k then (wrapTo t.bits r.2, a.raise (1 + if sat then 32 else 0))
        else (wrapTo t.bits k, a.raise (if (k : ℚ) = FVal.value (.fin n m e) then 0 else 16)))) ∧
  (∀ (c : FVal) (terms : List (FVal × Bool)), (∀ p ∈ terms, p.2 = false) → let all := c :: terms.map (·.1)
    (∀ x ∈ all, ∃ n m e, x = .fin n m e) → (∃ x ∈ all, x.value ≠ 0) →
      ∀ lg : Int, (∀ x ∈ all, |x.value| < 2 ^ (lg + 1)) → (∃ x ∈ all, (2 : ℚ) ^ lg ≤ |x.value|) →
        let unit : ℚ := 2 ^ (lg - 48)
        let sum := (all.map fun x => if 0 ≤ x.value then (⌊x.value / unit⌋ : ℚ) * unit else (⌈x.value / unit⌉ : ℚ) * unit).sum
        ∃ m e, FVal.value (.fin (decide (sum < 0)) m e) = sum ∧
          mmaSum c terms = (roundTo .f32 (.rm .rn) false false (.fin (decide (sum < 0)) m e)).1) ∧
  (∀ (fz neg : Bool) (b : Nat),
    let x := (ffmt .f32).decode (flushIn fz .f32 b)
    let sign := if neg then 0x80000000 else 0
    (∀ fn sg, x = .nan sg → special32 fn fz b = (0x7FC00000, if sg then 1 else 0)) ∧
    (x = .inf neg →
      special32 .ex2 fz b = (if neg then 0 else 0x7F800000, 0) ∧
      special32 .lg2 fz b = (if neg then (0x7FC00000, 1) else (0x7F800000, 0)) ∧
      special32 .sin fz b = (0x7FC00000, 1) ∧ special32 .cos fz b = (0x7FC00000, 1) ∧
      special32 .tanh fz b = (sign + 0x3F800000, 0)) ∧
    (∀ e, x = .fin neg 0 e →
      special32 .ex2 fz b = (0x3F800000, 0) ∧ special32 .lg2 fz b = (0xFF800000, 2) ∧ special32 .sin fz b = (sign, 0) ∧
      special32 .cos fz b = (0x3F800000, 0) ∧ special32 .tanh fz b = (sign, 0)) ∧
    (∀ m e, x = .fin true m e → m ≠ 0 → special32 .lg2 fz b = (0x7FC00000, 1)) ∧
    (special32 .lg2 fz 0x3F800000 = (0, 0)) ∧
    (∀ m e (k : Int), x = .fin neg m e → x.value = k → -149 ≤ k → k ≤ 127 → special32 .ex2 fz b =
      if -126 ≤ k then (((k + 127) * 2 ^ 23).toNat, 0) else if fz then (0, 8 + 16) else (2 ^ (k + 149).toNat, 0)) ∧
    ∀ fn m e, fn ∈ [SpFn.ex2, .lg2, .sin, .cos, .tanh] → x = .fin neg m e → m ≠ 0 → (fn = .lg2 → neg = false ∧ b ≠ 0x3F800000) →
      (fn = .ex2 → ∀ k : Int, x.value = k → k < -149 ∨ 127 < k) → (special32 fn fz b).2.testBit 4 = true) ∧
  ∀ (ty : Ty), ty = .f32 ∨ ty = .f64 → ∀ (fz neg : Bool) (b : Nat),
    let x := (ffmt ty).decode (flushIn fz ty b)
    let nan := if ty = .f64 then 0x7FF8000000000000 else 0x7FC00000
    let inf := if ty = .f64 then 0x7FF0000000000000 else 0x7F800000
    let sign := if neg then (if ty = .f64 then 0x8000000000000000 else 0x80000000) else 0
    (∀ fn sg, x = .nan sg → rcpRsq fn ty fz b = (nan, if sg then 1 else 0)) ∧
    (x = .inf neg → rcpRsq .rcp ty fz b = (sign, 0) ∧ rcpRsq .rsq ty fz b = if neg then (nan, 1) else (0, 0)) ∧
    (∀ e, x = .fin neg 0 e → rcpRsq .rcp ty fz b = (sign + inf, 2) ∧ rcpRsq .rsq ty fz b = (sign + inf, 2)) ∧
    (∀ m e, x = .fin true m e → m ≠ 0 → rcpRsq .rsq ty fz b = (nan, 1)) ∧
    (∀ m e, x = .fin neg m e → m ≠ 0 → (rcpRsq .rcp ty fz b).2.testBit 4 = true ∧
      (neg = false → (rcpRsq .rsq ty fz b).2.testBit 4 = true)) ∧
    ∀ a : Arith, a.fz ty = fz →
      (∀ sg, x = .nan sg → sqrtOp a ty b = (nan, a.raise (if sg then 1 else 0))) ∧
      (x = .inf neg → sqrtOp a ty b = if neg then (nan, a.raise 1) else (inf, a)) ∧
      (∀ e, x = .fin neg 0 e → sqrtOp a ty b = (sign, a)) ∧
      ∀ m e, x = .fin true m e → m ≠ 0 → sqrtOp a ty b = (nan, a.raise 1)

/-- CVTQ (R136): with both runs inside the register file it takes each element after FlushIn (R91), and writes the codes of the block to vD on,
the scale that ChooseScale picks to vB, and the flags and FSEED of the quantisation; a run that leaves the file raises 0x02. -/
def Obligations.QuantiseResult : Prop :=
  ∀ (s : State) (th : Thread) (x : X) (t sty : Ty) (h : Fin 64) (r : Option Rm) (xv sat : Bool) (d b a : Opd),
    s.Runs th (.cvtq x t sty h r xv sat d b a) →
    let sl := s.slot (s.hostOf th) (s.team th.team).ctx h.val
    let l := sl.blockLen
    let na := if sty = .f32 then l else l / 2
    let nd := l * t.bits / 32
    let e := th.arith r
    let vs := ((runElems sty (s.rdRun th .b32 a na)).map (flushIn (e.fz sty) sty)).map fun c =>
      (e.input sty c, xv && (if sty = .f32 then c == sl.xv * 65536 else c == sl.xv))
    let sc := chooseScale ((vs.filter fun p => !p.2).map (·.1)) t sl
    let q := quantBlock t sl sat sc.1 vs (e.raise sc.2)
    (th.runOk na a = true → th.runOk nd d = true →
      s.Ends (.cvtq x t sty h r xv sat d b a) th
        (((s.modTh th.id fun u => u.arithDone q.2).wrRun th.id d (packElems t.bits q.1)).wr32 th.id b (word sc.1)) .next) ∧
    (¬(th.runOk na a = true ∧ th.runOk nd d = true) →
      s.Ends (.cvtq x t sty h r xv sat d b a) th s (.trap .reservedField th.pc))

/-- The value of an operand that SETSR writes. -/
def srWritten (s : State) (th : Thread) (sr : SReg) (a : Opd) : DWord :=
  if Wf.wide sr then s.rd64 th a else (s.rd32 th a).zeroExtend 64

/-- GETSR and SETSR (R14, R22, R24, R26, R41 to R44, R62, R123, R124, R170, R309, R389 to R391, R400, R404). A read writes the
named register to the destination, a pair for a 64-bit register; below its privilege it raises 0x06 with the slot's PC. SETSR,
the general row and the rows of single registers, end as one write: below the register's privilege it raises 0x06, and with a 1
in a reserved bit 0x02, each leaving the state as it was; SEED 0 stores 1; the spill registers refuse a write while SPILL_PTR
is not 0; writing 1 to REPLAY drops the replay record; STATE of PREEMPT_CTL stays. TRAIL.rd copies the 128-bit trail to a run
of four registers, TRAIL.z clears it, TRAIL.wr loads it from such a run; each first waits until the thread's TSTEPs have
completed (R338). -/
def Obligations.SpecialRegisters : Prop :=
  (
    ∀ (s : State) (th : Thread) (x : X) (d : Opd) (sr : SReg), s.Runs th (.getsr x d sr) →
      ((srReadPriv sr = false ∨ th.privileged = true) → s.HasEffect (.getsr x d sr) th
        ⟨d, if Wf.wide sr then [loWord (s.readSr th sr), hiWord (s.readSr th sr)] else [loWord (s.readSr th sr)], 0, none⟩) ∧
      (srReadPriv sr = true → th.privileged = false → s.Ends (.getsr x d sr) th s (.trap .privilege th.pc))) ∧
  (
    ∀ (s : State) (th : Thread),
      s.readSr th .tid = th.tid ∧ s.readSr th .hcore = dword (s.team th.team).home ∧
      s.readSr th .glade = dword ((s.group th.group).core / 12) ∧ s.readSr th .die = dword ((s.group th.group).core / 144) ∧
      s.readSr th .fstat = th.fstat.zeroExtend 64 ∧ s.readSr th .trapPcn = th.trapPcn ∧
      s.readSr th .trapBase = (s.ctx (s.team th.team).ctx).trapBase ∧
      loWord (s.readSr th (.fast 0)) = word th.rank ∧ loWord (s.readSr th (.fast 1)) = loWord th.tid ∧
      loWord (s.readSr th (.fast 6)) = word (s.group th.group).core ∧
      loWord (s.readSr th (.fast 12)) = word (if (s.group th.group).core % 12 ∈ [0, 3, 8, 11] then 1 else 0) ∧
      (th.depth < 2 ^ 24 → loWord (s.readSr th (.fast 13)) = word th.depth)) ∧
  (
    ∀ (s r : State) (th : Thread) (x : X) (sr : SReg) (a : Opd) (n : Next) (i : Instr),
      (i, sr) ∈ [(.setsr x sr a, sr), (.controlRegisterWrite x sr a, sr), (.fseedWrite x a, .fseed),
        (.spillBaseWrite x a, .spillBase), (.spillLimitWrite x a, .spillLimit), (.trapCauseWrite x a, .trapCause),
        (.trapBaseWrite x a, .trapBase), (.saveBaseWrite x a, .saveBase), (.preemptCtlWrite x a, .preemptCtl),
        (.migPolicyWrite x a, .migPolicy), (.specCtlWrite x a, .specCtl)] →
      s.Runs th i → s.writeSr th sr (srWritten s th sr a) = (r, n) → s.Ends i th r n) ∧
  (
    ∀ (s : State) (th : Thread) (sr : SReg) (v : DWord),
      (srWritePriv sr = true → th.privileged = false → s.writeSr th sr v = (s, .trap .privilege th.pc)) ∧
      ((srWritePriv sr = false ∨ th.privileged = true) →
        (v.toNat &&& srReserved sr ≠ 0 → s.writeSr th sr v = (s, .trap .reservedField th.pc)) ∧
        (v.toNat &&& srReserved sr = 0 →
          (sr = .fstat → s.writeSr th sr v = (s.modTh th.id fun u => { u with fstat := loWord v }, .next)) ∧
          (sr = .fmode → s.writeSr th sr v = (s.modTh th.id fun u => { u with fmode := loWord v }, .next)) ∧
          (sr = .fseed → s.writeSr th sr v =
            (s.modTh th.id fun u => { u with fseed := if loWord v = 0 then 1 else loWord v }, .next)) ∧
          (sr = .spillBase → s.writeSr th sr v = if th.spillPtr = 0 then (s.modTh th.id fun u => { u with spillBase := v }, .next)
            else (s, .trap .reservedField th.pc)) ∧
          (sr = .spillLimit → s.writeSr th sr v =
            if th.spillPtr = 0 then (s.modTh th.id fun u => { u with spillLimit := loWord v }, .next)
            else (s, .trap .reservedField th.pc)) ∧
          (sr = .trapAddr → s.writeSr th sr v = (s.modTh th.id fun u => { u with trapAddr := v }, .next)) ∧
          (sr = .trapPcn → s.writeSr th sr v = (s.modTh th.id fun u => { u with trapPcn := v }, .next)) ∧
          (sr = .trapPcx → s.writeSr th sr v = (s.modTh th.id fun u => { u with trapPcx := v }, .next)) ∧
          (sr = .trapEqp → s.writeSr th sr v = (s.modTh th.id fun u => { u with trapEqp := loWord v }, .next)) ∧
          (sr = .trapCause → ∃ w, s.writeSr th sr v = (s.modTh th.id fun u => { u with
              trapCause := w, replay := if th.trapCause.getLsbD 14 && !v.getLsbD 14 then u.replay else none }, .next) ∧
            ∀ k, k < 32 → w.getLsbD k = if k = 14 then th.trapCause.getLsbD 14 && !v.getLsbD 14 else v.getLsbD k) ∧
          (sr = .trapBase → s.writeSr th sr v = (s.modCtx (s.team th.team).ctx fun c => { c with trapBase := v }, .next)) ∧
          (sr = .saveBase → s.saveOk v = true → (s.ctxOf th).preemptCtl.toNat < 2 ^ 29 → (s.ctxOf th).images = [] →
            s.writeSr th sr v = (s.modCtx (s.team th.team).ctx fun c => { c with saveBase := v }, .next)) ∧
          (sr = .preemptCtl → ∃ f : Context → Context,
            s.writeSr th sr v = (s.modCtx (s.team th.team).ctx f, .next) ∧ ∀ c, (f c).preemptCtl.toNat / 2 ^ 29 =
              c.preemptCtl.toNat / 2 ^ 29 ∧ (f c).preemptCtl.toNat % 2 ^ 29 = v.toNat % 2 ^ 29) ∧
          (sr = .specCtl → s.writeSr th sr v = (s.modTeam th.team fun t => { t with specCtl := loWord v }, .next)) ∧
          (sr = .migPolicy → s.writeSr th sr v =
            (s.modCore (s.group th.group).core fun c => { c with migNext := some (loWord v) }, .next))))) ∧
  (
    ∀ (s : State) (th : Thread) (x : X) (n : Fin 1024), n.val + 4 ≤ 128 →
      ((s.ops.any fun o => o.tstepOf th.id) = false →
        (s.Runs th (.trailRd x (.v n)) →
          s.Becomes (.trailRd x (.v n)) th { (th.putRun n (quadWords th.trail)).advance with ovf := [] } s) ∧
        (s.Runs th (.trailZ x) → s.Becomes (.trailZ x) th { th.advance with trail := 0, ovf := [] } s) ∧
        (s.Runs th (.trailWr x (.v n)) →
          s.Becomes (.trailWr x (.v n)) th { th.advance with trail := quadOf (th.getRun n 4), ovf := [] } s)) ∧
      ((s.ops.any fun o => o.tstepOf th.id) = true →
        ∀ i ∈ [Instr.trailRd x (.v n), .trailZ x, .trailWr x (.v n)], s.Runs th i → s.Ends i th s (.stall .trail)) ∧
      ∀ q : Quad, quadOf (quadWords q) = q)

/-! ## Control flow -/

/-- BRA, BRX, CALL, CALLX and RET (R31, R58, R67, R117, R118). A target is legal when it lies in an image of its context, at an
instruction of the start map or at a valid native PC, and, for BRA and CALL, in the image in which the instruction stands; any
other raises 0x03 with the target as address before anything changes. A call at depth 2^24 - 1 raises 0x33 with address 0; else
the window slides by 8 NSL with the next PC as its return, and a return unslides it. The target of a B-format transfer is the
line of the instruction, LOFF lines on, at its slot; in portable code the instruction's own address and the offset. -/
def Obligations.Transfers : Prop :=
  (
    ∀ (s : State) (th : Thread) (x : X) (t : Target) (a : Opd) (nsl : Fin 16),
      let ctx := (s.team th.team).ctx
      (∀ pc, s.imageAt ctx pc.toNat = none → ∀ same, s.checkTarget th same pc = .error (.trap .illegalTarget pc)) ∧
      (∀ pc o im, s.imageAt ctx pc.toNat = some (o, im) →
        let good := if im.kind = 1 then im.starts.contains pc.toNat = true else pc.toNat % 64 / 8 = 0 ∧ pc.toNat % 8 ≤ 4
        (¬good → ∀ same, s.checkTarget th same pc = .error (.trap .illegalTarget pc)) ∧
        (good → s.checkTarget th false pc = .ok (im.kind == 1)) ∧
        ∀ o' im', s.imageAt ctx th.pc.toNat = some (o', im') → good →
          s.checkTarget th true pc = if o'.handle = o.handle ∧ im'.base = im.base ∧ im'.kind = im.kind then .ok (im.kind == 1)
            else .error (.trap .illegalTarget pc)) ∧
      (∀ i same pc, (i, same, pc) ∈ [(.bra x t, true, th.targetPc t), (.brx x a, false, s.rd64 th a),
          (.call x t nsl, true, th.targetPc t), (.callx x a nsl, false, s.rd64 th a)] → s.Runs th i →
        (∀ n, s.checkTarget th same pc = .error n → s.Ends i th s n) ∧
        ∀ p, s.checkTarget th same pc = .ok p →
          (i ∈ [.bra x t, .brx x a] → s.Ends i th s (.goto pc p)) ∧
          (i ∈ [.call x t nsl, .callx x a nsl] →
            (th.depth = 2 ^ 24 - 1 → s.Ends i th s (.trap .spill 0)) ∧
            (th.depth ≠ 2 ^ 24 - 1 →
              let q := if p then s.xlateLookup ctx (s.hostOf th) pc else s
              let e := q.callEntry ctx (s.hostOf th) pc p
              ∀ r f, q.slideWindow th.id (8 * nsl.val) th.nextPc (if e.2 then q.frameOf ctx e.1 else 0) = (r, f) →
                s.Ends i th r (match f with | none => .goto e.1 e.2 | some f => .trap f.1 (dword f.2))))) ∧
      (s.Runs th (.ret x) → ∀ r e, s.unslideWindow th.id (fun pc => (s.target ctx pc).isSome) = (r, e) →
        (∀ f, e = .error f → s.Ends (.ret x) th r (.trap f.1 (dword f.2))) ∧
        ∀ pc o im, e = .ok pc → r.target ctx pc = some (o, im) → s.Ends (.ret x) th r (.goto pc (im.kind == 1)))) ∧
  (
    ∀ (th : Thread) (loff : BitVec 26) (slot : Fin 5) (off : BitVec 32),
      (((th.targetPc (.line loff slot)).toNat : Int) =
        ((th.pc.toNat / 64 : Int) * 64 + 64 * loff.toInt + slot.val) % 2 ^ 64) ∧
      ((th.targetPc (.off off)).toNat : Int) = (th.pc.toNat + off.toInt) % 2 ^ 64)

/-- NOP has no effect whatever its guard (R55); YIELD only keeps the thread out of the next pass; SLEEP completes and holds the
thread for max(IMM, 1) cycles (R120); TRAP raises 0x60 with IMM (R121); TFENCE raises 0x20 with the enabled flags that stand in
FSTAT, if any, and otherwise only goes on (R122). EXIT and GEXIT first raise 0x20 for a pending arithmetic flag, then wait for
the completion flags, then deliver a held fault, then wait while a recorded range keeps the exit from being counted (R272);
after that EXIT ends the thread, and GEXIT records its arrival (R119, R184, R326). In a handler TFENCE goes on, since TE acts as
0 there (R393); GEXIT in the handler of 0x50 records the arrival of its save-exit at once (R402), unless an engine operation's
fault is held, which it delivers (R326, R416, log 65). JOIN writes its register once for the bundle, with the ranks that execute
it, and WAITJ parks a thread whose rank stands in its register; once every rank of the register is parked on it or exited, every
parked thread goes on past its WAITJ and the register becomes 0 (R182, R183). -/
def Obligations.ThreadControl : Prop :=
  (
    ∀ (s : State) (th : Thread) (x : X) (imm : Word),
      (s.Issues th (.nop x) → s.Becomes (.nop x) th { th.advance with ovf := [] } s) ∧
      (s.Runs th (.yield x) → s.Becomes (.yield x) th { th.advance with ovf := [], skipPass := true } s) ∧
      (s.Runs th (.sleep x imm) →
        let wake := s.nowCycle + max imm.toNat 1
        s.Ends (.sleep x imm) th ((s.modTh th.id fun u => { u with hold := .sleep wake }).due wake (.sleepEnd th.id)) .next) ∧
      (s.Runs th (.trap x imm) → s.Ends (.trap x imm) th s (.trap .userTrap (imm.zeroExtend 64))) ∧
      (s.Runs th (.tfence x) → th.handler = none →
        let pend := (th.fstat &&& (th.fmode >>> 8)).toNat % 64
        (pend ≠ 0 → s.Ends (.tfence x) th s (.trap .arithmetic (dword pend))) ∧
        (pend = 0 → s.Becomes (.tfence x) th { th.advance with ovf := [] } s)) ∧
      (s.Runs th (.tfence x) → th.handler ≠ none → s.Becomes (.tfence x) th { th.advance with ovf := [] } s)) ∧
  (
    ∀ (s : State) (th : Thread) (x : X) (or : Bool) (n : Fin 16),
      (∀ i, s.Runs th i → (i = .exit x ∨ i = .gexit x ∧ ∀ h, th.handler = some h → h.cause ≠ .preemption) →
        (th.pendArith ≠ 0 → s.Ends i th s (.trap .arithmetic (dword th.pendArith))) ∧
        (th.pendArith = 0 →
          (th.flagBits ≠ 0 → s.Ends i th s (.wait .flags)) ∧
          (th.flagBits = 0 →
            (∀ f l, th.faults = f :: l → s.Ends i th (s.deliver th.id f s.trapStamp) .gone) ∧
            (th.faults = [] →
              (∀ w, s.exitStall th = some w → s.Ends i th s (.stall w)) ∧
              (s.exitStall th = none →
                (i = .exit x → s.Ends i th ((s.exitThread th.id).afterEnd th.group) .gone) ∧
                (i = .gexit x → s.Ends i th (s.meet th i true).1 .gone)))))) ∧
      (∀ h, th.handler = some h → h.cause = .preemption → s.Runs th (.gexit x) →
        (th.engineFault = none → s.Ends (.gexit x) th (s.meet th (.gexit x) true).1 .gone) ∧
        ∀ f, th.engineFault = some f → s.Ends (.gexit x) th (s.deliver th.id f s.trapStamp) .gone) ∧
      (∀ v, (s.countExit (s.th th.id)).thread? th.id = some v → ∃ u, (s.exitThread th.id).thread? th.id = some u ∧
        u.status = .exited ∧ u.hold = Hold.none ∧ u.hidden = [] ∧ ∀ k, k ≠ th.id →
          (s.exitThread th.id).thread? k = (s.countExit (s.th th.id)).thread? k) ∧
      (∀ q l, s.issues = q :: l → s.Runs th (.join x or n) →
        let rs := rankMask ((((q.done ++ q.todo).map s.th).filter fun u => u.pc == th.pc && u.psel x.g || u.id == th.id).map
          Thread.rank)
        let old := (s.group th.group).j.getD n.val 0
        ((q.done.any fun t => (s.th t).psel x.g) = true → s.Becomes (.join x or n) th { th.advance with ovf := [] } s) ∧
        ((q.done.any fun t => (s.th t).psel x.g) = false → s.Ends (.join x or n) th ((s.modGroup th.group fun g =>
          { g with j := g.j.setIfInBounds n.val (if or then old ||| rs else rs) }).rejoinTest th.group n) .next)) ∧
      (s.Runs th (.waitj x n) →
        (hasBit ((s.group th.group).j.getD n.val 0) th.rank = false →
          s.Becomes (.waitj x n) th { th.advance with ovf := [] } s) ∧
        (hasBit ((s.group th.group).j.getD n.val 0) th.rank = true →
          s.Ends (.waitj x n) th ((s.modTh th.id fun u => { u with hold := .waitj n }).rejoinTest th.group n) .gone)) ∧
      ∀ g, let parked := (s.liveOf g).filter fun u => u.hold == Hold.waitj n
        let m := (s.group g).j.getD n.val 0
        ((∃ k, m.getLsbD k = true ∧ (∀ u ∈ parked, u.rank ≠ k) ∧ (s.exitedMask g).getLsbD k = false) →
          (∀ u ∈ parked, u.rank < 32) → s.rejoinTest g n = s) ∧
        (m = 0 → s.rejoinTest g n = parked.foldl (fun s u => s.release u.id) s) ∧
        (m ≠ 0 → (∀ k, k < 32 → m.getLsbD k = true → (∃ u ∈ parked, u.rank = k) ∨ (s.exitedMask g).getLsbD k = true) →
          s.rejoinTest g n = (parked.foldl (fun s u => s.release u.id) s).modGroup g fun x =>
            { x with j := x.j.setIfInBounds n.val 0 }) ∧
        (s.threads.Pairwise (fun u v => u.id ≠ v.id) →
          let r := parked.foldl (fun s u => s.release u.id) s
          (∀ u ∈ parked, r.thread? u.id = some { u.advance with hold := .none }) ∧
          ∀ k, (∀ u ∈ parked, u.id ≠ k) → r.thread? k = s.thread? k))

/-! ## Groups -/

/-- The seven lane instructions (R172 to R180). A thread records its arrival, with its member mask, whatever its guard, and is
held; the rendezvous of its PC is tested once no other thread of the group issues in the cycle, and completes when every rank
that a mask names is recorded or has exited. Then a thread whose guard failed only goes on, and each other one gets its result;
masks that differ, or lack a thread's own rank, raise 0x32 in those threads. Past the cycle in which its count reaches 2^20 the
threads that still wait take 0x32 with the missing ranks as address, and every other one goes on. -/
def Obligations.LaneInstructions : Prop :=
  ∀ (s : State) (th : Thread) (i : Instr) (x : X), i.x = some x →
    (i.lane = true → s.Issues th i →
      let r : Arrival := { ovf := th.ovf, pc := th.pc, mask := s.memberMask th i, thread := th.id, rank := th.rank,
                           guard := th.psel x.g, inHandler := th.privileged, since := s.nowCycle, instr := i }
      let q := ((s.modGroup th.group fun g => { g with arrivals := g.arrivals ++ [r] }).modTh th.id fun u =>
        { u with hold := .lane }).due (s.nowCycle + 2 ^ 20 + 1) (.convergenceMismatchTimeout th.group th.pc th.privileged)
      s.Ends i th (if q.cycleOver th.group then q.tryMeet th.group th.pc th.privileged else q) .gone) ∧
    ∀ (g : Nat) (pc : DWord) (h : Bool) (r : Arrival) (l : List Arrival), s.arrivalsAt g pc h = r :: l → r.instr = i →
      let rs := r :: l
      let present := rs.filter Arrival.guard
      let q := (s.clearArrivals g rs).unTimer fun j => j == .convergenceMismatchTimeout g pc h
      let out := fun z : State => (rs.filter fun a => !a.guard).foldl (fun z a => z.release a.thread) z
      (s.missing g rs ≠ 0 → s.tryMeet g pc h = s) ∧
      (i.lane = true → s.missing g rs = 0 →
        (maskBad present = true → s.tryMeet g pc h = ((out q).laneTrap present Arrival.mask).enterHandlers g) ∧
        (maskBad present = false →
          let ps := present.map fun a => { (out q).th a.thread with ovf := a.ovf }
          s.tryMeet g pc h = (ps.map fun u => (u.id, (out q).laneOut i ps u)).foldl (fun z o => z.laneGive o.1 o.2) (out q))) ∧
      exec (.convergenceMismatchTimeout g pc h) s = .next (
        if (s.ctxOf (s.th r.thread)).halted = true ∨ ∀ a ∈ rs, s.nowCycle ≤ a.since + 2 ^ 20 then s
        else ((out (s.clearArrivals g rs)).laneTrap present fun _ => s.missing g rs).enterHandlers g)

/-- What they give a thread (R178 to R180), for threads `ps` of different ranks below 32 that are present: SHFL reads operand A
of the thread that its mode names, if that is present, and its own otherwise, one register or a pair (R177), whatever its mask
operand; VOTE counts; bit r of BALLOT and MATCH stands for rank r;
COMPACT counts the lower ranks and all. A GRED of integers gives their sum, their least, their greatest, or their bits combined;
a SCAN that adds gives the sum up to the thread, with its own value unless it is exclusive. -/
def Obligations.LaneResults : Prop :=
  ∀ (s : State) (ps : List Thread) (th : Thread) (x : X) (a : Opd) (b : Psel) (c d e : Opd) (p : Fin 8), th ∈ ps →
    (∀ u ∈ ps, u.rank < 32) → (ps.map Thread.rank).Nodup →
    (∀ (m : ShflMode) (seg : Fin 8), seg.val ≤ 5 → ∀ k, (s.rd32 th a).toNat = k →
      let w := 32 / 2 ^ seg.val
      let src : Option Nat := match m with
        | .idx => some (th.rank / w * w + k % w)
        | .up => if k ≤ th.rank % w then some (th.rank - k) else none
        | .down => if th.rank % w + k < w then some (th.rank + k) else none
        | .xor => if k < w then some (th.rank ^^^ k) else none
      ∀ ty len, (ty, len) ∈ [(Ty.b32, 1), (.b64, 2)] →
        (∀ u ∈ ps, src = some u.rank → s.laneOut (.shfl x m seg ty d c a e) ps th = laneRegs d (s.rdRun u ty c len)) ∧
        ((∀ u ∈ ps, src ≠ some u.rank) → s.laneOut (.shfl x m seg ty d c a e) ps th = laneRegs d (s.rdRun th ty c len))) ∧
    (∀ n, n = ps.countP (fun u => u.psel b) →
      (s.laneOut (.vote x .all p b c) ps th).pred = some (p, decide (n = ps.length)) ∧
      (s.laneOut (.vote x .any p b c) ps th).pred = some (p, decide (0 < n)) ∧
      (s.laneOut (.vote x .uni p b c) ps th).pred = some (p, decide (n = 0 ∨ n = ps.length)) ∧
      s.laneOut (.compact x d b c) ps th =
        laneRegs d [word (ps.countP fun u => u.psel b && decide (u.rank < th.rank)), word n]) ∧
    (∃ w, s.laneOut (.ballot x d b c) ps th = laneRegs d [w] ∧
      ∀ k, w.getLsbD k = ps.any fun u => u.rank == k && u.psel b) ∧
    (∀ ty, ∃ w, s.laneOut (.matchv x ty d a c) ps th = laneRegs d [w] ∧
      ∀ k, w.getLsbD k = ps.any fun u => u.rank == k && s.rd u ty a == s.rd th ty a) ∧
    ∀ ty, ty = .s32 ∨ ty = .n32 →
      s.laneOut (.gred x .add ty d a c) ps th = laneRegs d [word ((ps.map fun u => s.rd u ty a).sum)] ∧
      (∀ excl, s.laneOut (.scan x .add ty excl d a c) ps th = laneRegs d [word (((ps.filter fun u =>
        decide (u.rank < th.rank) || (!excl && u.rank == th.rank)).map fun u => s.rd u ty a).sum)]) ∧
      (∀ op, op = .min ∨ op = .max → ∃ u ∈ ps, s.laneOut (.gred x op ty d a c) ps th = laneRegs d [word (s.rd u ty a)] ∧
        ∀ v ∈ ps, let p := tyInt ty (s.rd u ty a); let q := tyInt ty (s.rd v ty a)
          if op = .min then p ≤ q else q ≤ p) ∧
      ∀ op, op = .and ∨ op = .or ∨ op = .xor → ∃ w, s.laneOut (.gred x op ty d a c) ps th = laneRegs d [w] ∧
        ∀ k, k < 32 → let on := fun u => (s.rd u ty a).testBit k
          w.getLsbD k = if op = .and then ps.all on else if op = .or then ps.any on else ps.countP on % 2 == 1

/-- REORDER (R185 to R188): it waits for the completion flags; in a call, with an open signature or merge register, without REO
for a cluster, or where the next PC is no point that maps the payload, it raises 0x31 with address 0; else the thread's
reductions are flushed, its writes of the named colours are published, its key, payload, kind and resumption point are recorded,
and it waits. The REORDER completes once every participant has arrived: not before; and then, when their teams are resident, the
participants are sorted and placed anew. It fails as a whole, each participant with 0x31 at its REORDER, with address 1 when they
name different points, and 2 when a new group has no core of its kind (R189). Otherwise the participants are sorted by key and
%tid: each key gives its full groups of 32, and the members left over, key by key, are cut into groups of 32 (R191). A member
becomes a bead with its key, point and payload at its position in its group (R190). A thread placed in a native image has the
identity and the carried state it had, no predicate, no flag count, depth 0, its payload where the map of the point puts it, and
every other register 0 (R193). -/
def Obligations.ReorderArrives : Prop :=
  (∀ (s : State) (th : Thread) (x : X) (core : Bool) (n : Fin 8) (key b : Opd) (kind : KindSel) (colours : Byte),
    let i := Instr.reorder x core n key b kind colours
    let bad := th.depth ≠ 0 ∨ (∃ c ∈ (s.group th.group).g.toList, hasBit c.signed th.rank = true) ∨
      (∃ m ∈ (s.team th.team).merge, m ≠ .closed) ∨ (core = false ∧ s.reoSet th = false) ∨
      s.reorderPoint th b (n.val + 1) = none
    s.Runs th i →
      (th.flagBits ≠ 0 → s.Ends i th s (.wait .flags)) ∧
      (th.flagBits = 0 → bad → s.Ends i th s (.trap .reorderState 0)) ∧
      (th.flagBits = 0 → ¬bad → ∀ e k, s.reorderPoint th b (n.val + 1) = some (e, k) →
        let z := s.flushPoint th.id false none none
        let y := z.1.publish (z.1.hostOf th) (if core then .team else .clu) colours
        let r : ReorderRec := { core := core, key := s.rd32 th key, kbase := k, payload := s.rdRun th .b32 b (n.val + 1),
                                kind := kind, colours := colours, point := e, portable := th.portable,
                                parts := y.reorderParts th core, flush := z.2 }
        s.Ends i th ((y.modTh th.id fun u => { u with hold := .reorder, reorder := some r }).reorderCheck th.id) .gone) ∧
      ∀ (q : State) (t : Nat) (r : ReorderRec), (q.th t).reorder = some r →
        let ps := q.parts r
        let here := fun (u : Thread) => u.hold = .reorder ∧ u.reorder.map ReorderRec.core = some r.core
        ((∃ u ∈ ps, ¬here u) → q.reorderCheck t = q) ∧
        ((∀ u ∈ ps, here u ∧ (q.team u.team).state = .resident) → q.reorderCheck t = q.reorderGo ps)) ∧
  (∀ (q : State) (ps : List Thread),
    let q' := q.closeSilently (ps.filterMap fun u => u.reorder.map ReorderRec.flush)
    let fails := fun a : Nat => ps.foldl (fun z u => z.enterFor u.id)
      (ps.foldl (fun z u => (z.modTh u.id fun v => { v with hold := .none, reorder := none }).raise u.id
        (plainTrap .reorderState (dword a) u.pc true (q.nextId * 8))) q')
    let sorted := sortKey (ps.map fun u => ((((u.reorder.map ReorderRec.key).getD 0).toNat * 2 ^ 64 + u.tid.toNat), u.id))
    let rods := rodGroups (sorted.map fun p => (p.1 / 2 ^ 64, p.2))
    let points := ps.filterMap fun u => u.reorder.map ReorderRec.point
    sorted.Pairwise (fun a b => a.1 ≤ b.1) ∧ (sorted.map Prod.snd).Perm (ps.map Thread.id) ∧
    ((∃ e ∈ points, ∃ f ∈ points, e ≠ f) → q.reorderGo ps = fails 1) ∧
    (∀ e, points ≠ [] → (∀ f ∈ points, f = e) →
      ((∃ m ∈ rods, q.rodCores m = []) → q.reorderGo ps = fails 2) ∧
      ((∀ m ∈ rods, q.rodCores m ≠ []) →
        let old := (ps.map Thread.group).eraseDups
        let made := (rods.map fun m => (m, q'.rodCores m)).zipIdx.foldl (fun (z : State × List Nat) p =>
          ((z.1.makeRod p.1.1 p.1.2 p.2).1, z.2 ++ [(z.1.makeRod p.1.1 p.1.2 p.2).2]))
          (old.foldl (fun z g => z.publishCore (z.group g).core 0xFF) q', [])
        q.reorderGo ps = made.2.foldl State.placeRod (old.foldl State.dissolve made.1)))) ∧
  (∀ l : List (Nat × Nat),
    let keys := (l.map Prod.fst).eraseDups
    let members := fun k => (l.filter fun p => p.1 == k).map Prod.snd
    let full := (keys.map fun k => (members k).length / 32).sum
    (rodGroups l).flatten.Perm (l.map Prod.snd) ∧ (∀ m ∈ rodGroups l, m ≠ [] ∧ m.length ≤ 32) ∧
    (∀ m ∈ (rodGroups l).dropLast, m.length = 32) ∧
    ((rodGroups l).take full).flatten = keys.flatMap (fun k => (members k).take ((members k).length / 32 * 32)) ∧
    ((rodGroups l).drop full).flatten = keys.flatMap fun k => (members k).drop ((members k).length / 32 * 32)) ∧
  (∀ (q : State) (g t n : Nat) (u : Thread) (r : ReorderRec), q.thread? t = some u → u.reorder = some r →
    let z := q.makeBead g t n
    z.thread? t = some { u with group := g, rank := n, hold := .bead, clause := none, entered := false } ∧
    (∀ k, k ≠ t → z.thread? k = q.thread? k) ∧
    ((∀ b ∈ q.beads, b.thread ≠ t) → ∃ b, z.beads.find? (fun b => b.thread == t) = some b ∧ b.key = r.key.toNat ∧
      b.eqp = r.point.num ∧ b.kbase = r.kbase ∧ b.payload = r.payload ∧ b.fromPortable = r.portable)) ∧
  ∀ (q : State) (g c : Nat) (gr : Group) (e : EqpRec) (pc : DWord) (map : List (Nat × Bool × Nat)),
    q.groups.find? (fun x => x.id == g) = some gr → q.threads.Pairwise (fun u v => u.id ≠ v.id) →
    ((upto gr.beadCores.length).map fun i => gr.beadCores.getD ((gr.beadNo + i) % gr.beadCores.length) 0).find?
      (fun c => q.fits c gr.slices (q.groupB g)) = some c →
    (∀ m ∈ map, m.2.1 = false ∧ m.2.2 < 128) → (map.map fun m => m.2.2).Nodup →
    (∀ u ∈ q.threads, u.group = g → u.status = .live → u.reorder.map ReorderRec.point = some e ∧
      (∃ b ∈ q.beads, b.thread = u.id) ∧
      ∃ o, (q.ctxOf u).objs.find? (fun o => o.handle == e.handle) = some o ∧ o.resumeAt (kindOf c) e = some (pc, false, map)) →
    let z := q.placeRod g
    (z.group g).core = c ∧ (z.group g).resident = true ∧
    (∀ k, (∀ u ∈ q.threads, u.id = k → ¬(u.group = g ∧ u.status = .live)) → z.thread? k = q.thread? k) ∧
    ∀ u ∈ q.threads, u.group = g → u.status = .live → ∀ b, q.beads.find? (fun b => b.thread == u.id) = some b →
      ∃ w, z.thread? u.id = some w ∧ w.preds = 0 ∧ w.flags = Vector.replicate 12 0 ∧ w.depth = 0 ∧ w.reorder = none ∧
        w.tid = u.tid ∧ w.team = u.team ∧ w.group = g ∧ w.rank = u.rank ∧ w.tindex = u.tindex ∧ w.trail = u.trail ∧
        w.fstat = u.fstat ∧ w.fmode = u.fmode ∧ w.fseed = u.fseed ∧ w.spillBase = u.spillBase ∧
        w.spillLimit = u.spillLimit ∧ w.spillPtr = u.spillPtr ∧
        w.pc = pc ∧ w.portable = false ∧ w.clause = none ∧ w.entered = false ∧ w.byTransfer = false ∧ w.hold = Hold.none ∧
        w.eqp = some e ∧
        (∀ (i : Nat) (x : Word) (m : Nat × Bool × Nat), b.payload[i]? = some x →
          map.find? (fun m => m.1 == b.kbase + i) = some m → w.get m.2.2 = x) ∧
        ∀ n, n < 128 → (∀ i, i < b.payload.length → ∀ m, map.find? (fun m => m.1 == b.kbase + i) = some m → m.2.2 ≠ n) →
          w.get n = 0

/-- MIGRATE records an arrival (R195); with no guard passed every thread goes on, with mixed guards the present ones take 0x32,
and else the group's target becomes the kind, or none for its own kind, and it moves at once if it can (R196, R197). A held
group moves when there is room, and goes on when a condition fails. A destination is a core of the target kind that has room. A
window's end starts the counts again and lets a written policy take effect (R170, R171); a waiting group is placed when a core
of its list takes it (R192). -/
def Obligations.GroupMoves : Prop :=
  ∀ (s : State) (th : Thread) (x : X) (kind : CoreKind) (now : Bool) (g : Nat) (rs : List Arrival),
    (s.Issues th (.migrate x kind now) →
      s.Ends (.migrate x kind now) th (s.meet th (.migrate x kind now) (th.psel x.g)).1 .gone) ∧
    (let present := rs.filter Arrival.guard
     let go := fun z : State => rs.foldl (fun z r => z.release r.thread) z
     let q := rs.foldl (fun z r => z.modTh r.thread fun u => { u with hold := .none }) (s.modGroup g fun y =>
       { y with target := if kind = kindOf (s.group g).core then none else some ⟨kind, true⟩ })
     (present = [] → s.migrateMeet g kind now rs = go s) ∧
     (present ≠ [] → present ≠ rs → s.migrateMeet g kind now rs =
       (((rs.filter fun r => !r.guard).foldl (fun z r => z.release r.thread) s).laneTrap present Arrival.mask).enterHandlers g) ∧
     (present = rs → rs ≠ [] →
       (∀ c, q.moveDest g = .ok c → s.migrateMeet g kind now rs = q.moveGroup g c) ∧
       (∀ e, q.moveDest g = .error e → (e = .cond ∨ now = false) →
         s.migrateMeet g kind now rs = rs.foldl (fun z r => z.advance r.thread) q))) ∧
    (∀ c, s.moveDest g = .ok c → ∃ t, (s.group g).target = some t ∧ kindOf c = t.kind ∧ t.kind ≠ kindOf (s.group g).core ∧
      s.fits c (s.group g).slices (s.groupB g) = true ∧ (∀ u ∈ s.liveOf g, u.depth = 0) ∧
      ∀ k ∈ (s.group g).g.toList, k.signed = 0) ∧
    ((s.group g).moveHold = false → exec (.groupMove g) s = .next s) ∧
    ((s.group g).moveHold = true →
      (∀ c, s.moveDest g = .ok c → exec (.groupMove g) s = .next (s.moveGroup g c)) ∧
      (s.moveDest g = .error .room → exec (.groupMove g) s = .next s) ∧
      (s.moveDest g = .error .cond → exec (.groupMove g) s = .next ((s.liveOf g).foldl
        (fun z u => if u.hold = Hold.move then z.release u.id else z) (s.modGroup g fun y => { y with moveHold := false })))) ∧
    ((s.group g).beadCores = [] → exec (.reorderGroupPlace g) s = .next s) ∧
    ((s.group g).beadCores ≠ [] → exec (.reorderGroupPlace g) s = .next (s.placeRod g) ∧
      ((∀ c ∈ (s.group g).beadCores, s.fits c (s.group g).slices (s.groupB g) = false) → s.placeRod g = s)) ∧
    ∀ core, ∃ t, exec (.migrationWindowEnd core) s = .next t ∧ (t.core core).migNext = none ∧
      (t.core core).migPolicy = ((s.core core).migNext).getD (s.core core).migPolicy ∧ t.threads = s.threads ∧ t.mem = s.mem ∧
      ∀ y ∈ t.groups, y.core = core → y.resident = true → y.statS = 0 ∧ y.statP = 0

/-! ## The matrix engine -/

/-- MMA, MMAS and ACCZ (R205, R214 to R218): where another PC's signature is open in the register, 0x32 with the signed ranks,
or a stall when the guard fails; a rank that has signed waits; bad metadata of MMAS raises 0x02 with the element; else the rank
signs whatever its guard, with its operands if that passes, and an unflagged signer is held. The last rank to sign issues it. -/
def Obligations.SignedInstructions : Prop :=
  ∀ (s : State) (th : Thread) (x : X) (ta tb : Ty) (s8 sat burst sc rel : Bool) (d a b c : Opd) (t ha hb : Fin 64) (r : Fin 8)
    (i : Instr) (cap : Capture) (bad : Option Nat),
    let flag := th.flagOf x.sb
    let g := th.psel x.g
    let scale := if sc then s.rdRun th .b32 d 2 else []
    (i, cap, bad) ∈
      [(.mma x ta tb sat burst sc d a b t ha hb r,
          ⟨s.nextId, th.rank, th.id, s.rdRun th .b32 a 8, s.rdRun th .b32 b 8, [], scale, flag⟩, none),
        (.mmas x ta tb s8 sat burst sc d a b c t ha hb r, ⟨s.nextId, th.rank, th.id, s.rdRun th .b32 a 8,
          s.rdRun th .b32 b (if s8 then 12 else 24), s.rdRun th .b32 c 4, scale, flag⟩, metaBad ta s8 (s.rdRun th .b32 c 4)),
        (.accz x rel t r, ⟨s.nextId, th.rank, th.id, [], [], [], [], flag⟩, none)] →
    s.Issues th i →
    let cr := s.conv th.group r
    (cr.signed ≠ 0 → cr.pc ≠ th.pc →
      s.Ends i th s (if g then .trap .convMismatch (cr.signed.zeroExtend 64) else .stall (.conv r th.pc))) ∧
    ((cr.signed = 0 ∨ cr.pc = th.pc) →
      (cr.signed &&& 1#32 <<< th.rank ≠ 0 → s.Ends i th s (.stall (.conv r th.pc))) ∧
      (cr.signed &&& 1#32 <<< th.rank = 0 →
        (∀ e, g = true → bad = some e → s.Ends i th s (.trap .reservedField (dword e))) ∧
        ((g = false ∨ bad = none) →
          (g = true → s.flagFull th flag = true → s.Ends i th s (.stall (.flag flag))) ∧
          ((g = false ∨ s.flagFull th flag = false) →
            let cr' : ConvReg := {
              pc := th.pc, instr := some i, since := if cr.signed = 0 then s.nowCycle else cr.since,
              signed := cr.signed ||| 1#32 <<< th.rank,
              present := if g then cr.present ||| 1#32 <<< th.rank else cr.present,
              caps := if g then cr.caps ++ [cap] else cr.caps,
              offs := if g then cr.offs else cr.offs ++ [(th.id, s.nextId)] }
            let q := s.setConv th.group r cr'
            let q := if cr.signed = 0 then q.due (s.nowCycle + 2 ^ 20 + 1) (.signatureAbandon th.group r) else q
            let q := if g then (match flag with
              | some f => q.modTh th.id fun u => u.flagUp f
              | none => q.modTh th.id fun u => { u with hold := .sign }) else q
            s.Ends i th (if cr'.signed ||| q.exitedMask th.group = 0xFFFFFFFF#32 then q.issueSign th.group r else q)
              (if g && flag.isNone then .gone else .next)))))

/-- What follows a signature (R201, R202, R216 to R218, R220): with no present rank it has no effect; slots that break R217 give
every present signer 0x02 with the slot; a tile beyond the group's limit gives 0x40 with its number; else the operation enters
the engine, at once or waiting for a tile. ACCZ.rel releases its number as it enters, unless an earlier operation on the number
still waits for a tile; what earlier operations on it would still write is then lost, and one that has entered behind it keeps the
number, with every word zero. Past 2^20 cycles an open signature is abandoned with 0x32 and the missing ranks, and after 2^20 cycles a
first use that still waits with 0x40. -/
def Obligations.SignatureIssues : Prop :=
  ∀ (s : State) (g : Nat) (r : Fin 8),
    let cr := s.conv g r
    let q := s.setConv g r ConvReg.empty
    (cr.present = 0 → s.issueSign g r = q) ∧
    (∀ i, cr.present ≠ 0 → cr.instr = some i →
      let ctx := (q.team (q.th ((cr.caps.map Capture.thread).headD 0)).team).ctx
      let core := (q.group g).core
      let sa := q.slotBits core ctx ((i.mat.map MatForm.ha).getD 0)
      let sb := q.slotBits core ctx ((i.mat.map MatForm.hb).getD 0)
      (∀ f h, i.mat = some f → f.bad (slotOf sa) (slotOf sb) = some h →
        s.issueSign g r = q.failSigners cr.caps i cr.pc .reservedField (dword h)) ∧
      ((∀ x t c, i ≠ .accz x true t c) → (∀ f, i.mat = some f → f.bad (slotOf sa) (slotOf sb) = none) →
        (q.tileUse g i.tileNo = .ready → s.issueSign g r = (q.holdTile g i.tileNo).enterMat g cr i sa sb none) ∧
        (q.tileUse g i.tileNo = .fail → s.issueSign g r = q.failSigners cr.caps i cr.pc .engineFault (dword i.tileNo)) ∧
        (q.tileUse g i.tileNo = .wait → i.tileNo < 64 → s.issueSign g r =
          (q.enterMat g cr i sa sb (some q.cycle)).after (2 ^ 20) (.tileWaitTimeout g (Fin.ofNat 64 i.tileNo)))) ∧
      (∀ x t c, i = .accz x true t c →
        let z := q.enterMat g cr i sa sb none
        ∀ o, ((z.core core).matQueue.getLast?) = some o → s.issueSign g r = z.actRel o)) ∧
    (∀ (z : State) (o : MatOp),
      let n := o.instr.tileNo
      (o.lost = true ∨ (∃ y ∈ z.matQueued, y.on o.group n = true ∧ y.id < o.id ∧ y.tileWait ≠ none) → z.actRel o = z) ∧
      (o.lost = false → (∀ y ∈ z.matQueued, y.on o.group n = true → y.id < o.id → y.tileWait = none) →
        ∃ y : State, y.groups = z.groups ∧ y.threads = z.threads ∧ y.mem = z.mem ∧
          (∀ p ∈ y.matOps, p.on o.group n = true → p.id ≤ o.id → p.lost = true) ∧
          ((∀ p ∈ z.matQueued, p.on o.group n = true → p.id ≤ o.id) → z.actRel o = y.releaseTile o.group n) ∧
          ((∃ p ∈ z.matQueued, p.on o.group n = true ∧ o.id < p.id) → z.actRel o = y.setTile o.group n []))) ∧
    (∀ u l i, s.liveOf g = u :: l → cr.instr = some i → cr.signed ≠ 0 → (s.ctxOf u).halted = false →
      exec (.signatureAbandon g r) s = .next (if s.nowCycle ≤ cr.since + 2 ^ 20 then s else
        q.failSigners cr.caps i cr.pc .convMismatch ((~~~cr.signed &&& ~~~(s.exitedMask g)).zeroExtend 64))) ∧
    ((s.liveOf g = [] ∨ cr.signed = 0) → exec (.signatureAbandon g r) s = .next s) ∧
    ∀ (u : Thread) (t : Fin 64) (n : Nat), s.matQueued = [] →
      (s.liveOf g).filter (fun v => match v.hold with | .tile k _ => k == t | _ => false) = [u] → u.hold = .tile t n →
      n + 2 ^ 20 ≤ s.nowCycle → ∃ z : State, z.threads = s.threads ∧ z.groups = s.groups ∧ exec (.tileWaitTimeout g t) s =
        .next (((z.modTh u.id fun v => { v with hold := .none }).raise u.id
          (plainTrap .engineFault (dword t.val) u.pc true (s.nextId * 8))).enterFor u.id)

/-- The engine (R215, R218 to R222, R225 to R229): multiplications start in issue order when their pipeline is free, ACCZ beside
them, each after the operations that stand before it on its tile, in this engine or in another that its group has left, and not
while it waits for a tile or for loads of it; a multiplication occupies the pipeline for 4 or 16 cycles and completes 16 cycles
later. With BURST it may follow at once; it is throttled, four times as long and counted as such, from the 65th of a run on while
its glade holds no token, and the 49th of a run asks for one. Without BURST the pipeline stands free for as long again. A
completion writes the tile, or nothing when the number was released in between, and lets the signers go on: ACCZ zeroes it but
for the rows that were loaded since its issue. A station's free
token moves one station in 2 cycles, and a station that asks takes the first that reaches it; it comes back 256 cycles after the
last long run, or, once it has held for 65,536 cycles and another asks, when the engines of its glade are free, so that the ring
carries no more tokens than N. -/
def Obligations.MatrixEngine : Prop :=
  (
    ∀ (s : State) (core : Nat),
      let z := ((s.core core).matQueue.filter fun o => Machine.Instr.releases o.instr).foldl State.actRel s
      (startable (z.matWaiting core) [] = none → exec (.matrixOpStart core) s = .next z) ∧
      (∀ o, startable (z.matWaiting core) [] = some o →
        (o ∈ (z.core core).matQueue ∧ o.tileWait = none ∧ o.waitLoads = [] ∧
          (∃ l r, z.matWaiting core = l ++ o :: r ∧ (∀ y ∈ l, y.on o.group o.instr.tileNo = false) ∧
            (o.instr.mat ≠ none → ∀ y ∈ l, y.instr.mat = none)) ∧
          ∀ c ∈ z.cores, c.id ≠ core → ∀ y ∈ c.matQueue ++ c.matRun, y.on o.group o.instr.tileNo = true → o.id ≤ y.id) ∧
        (o.instr.mat = none → exec (.matrixOpStart core) s = .next ((z.startZero core o).once (.matrixOpStart core))) ∧
        (o.instr.mat ≠ none → exec (.matrixOpStart core) s = .next
          (if z.nowCycle < (z.core core).matFree then z else z.startMul core o))) ∧
      ∀ o, let c := s.core core
        let t := max c.matFree o.since
        let run := if o.instr.burst then (if 0 < c.runLen ∧ t = c.runEnd then c.runLen + 1 else 1) else 0
        let token := ∃ h ∈ (s.ring (dieOf core)).held, h.1 = gladeOf core % 12
        let n := (if core % 12 ∈ [0, 3, 8, 11] then 16 else 4) * if 64 < run ∧ ¬token then 4 else 1
        let z := s.startMul core o
        (z.core core).matRun = c.matRun ++ [{ o with done := t + n + 16 }] ∧
          (z.core core).matFree = (if o.instr.burst then t + n else t + 2 * n) ∧ (z.core core).runLen = run ∧
          (z.core core).runEnd = t + n ∧
          (z.core core).throttle = (if 64 < run ∧ ¬token then c.throttle + word n else c.throttle) ∧
          (dieOf core < s.rings.length → (run = 49 →
              gladeOf core % 12 ∈ (z.ring (dieOf core)).requests ∨ gladeOf core % 12 ∈ (z.ring (dieOf core)).held.map Prod.fst) ∧
            (run ≠ 49 → (z.ring (dieOf core)).requests = (s.ring (dieOf core)).requests))) ∧
  (
    ∀ (s : State) (core : Nat),
      ((∀ o ∈ (s.core core).matRun, s.nowCycle < o.done) → exec (.matrixOpComplete core) s = .next s) ∧
      ∀ o, (s.core core).matRun.find? (fun o => decide (o.done ≤ s.nowCycle)) = some o →
        let q := s.modCore core fun c => { c with matRun := c.matRun.filter fun y => y.id != o.id }
        (o.lost = true → exec (.matrixOpComplete core) s = .next ((q.signersDone o.caps).tileNext core o)) ∧
        (∀ f, o.lost = false → o.instr.mat = some f → exec (.matrixOpComplete core) s = .next (((q.setTile o.group f.tile
          (f.apply (slotOf o.slotA) (slotOf o.slotB) o.caps (q.tile o.group f.tile))).signersDone o.caps).tileNext core o)) ∧
        ∀ x rel t r, o.lost = false → o.instr = .accz x rel t r → exec (.matrixOpComplete core) s =
          .next (((q.setTile o.group t.val (o.rows.foldl (fun t r => Sparse.writeN t (32 * r.1) r.2) [])).signersDone
            o.caps).tileNext core o)) ∧
  (
    (∀ (r : Ring) (now k : Nat), (∀ p ∈ r.free, p < 12) → r.moved + 2 * k ≤ now → now < r.moved + 2 * k + 2 → k ≤ 12 →
      r.upTo now = r.moves k) ∧
    (∀ (r : Ring) (k : Nat), r.moves (k + 1) = (r.moves 1).moves k) ∧
    (∀ r : Ring, r.requests.Nodup → (r.moves 1).free.length + (r.moves 1).held.length = r.free.length + r.held.length) ∧
    ∀ (r : Ring) (q : Nat), (r.moves 1).moved = r.moved + 2 ∧
      (q ∈ r.requests → (∃ p ∈ r.free, (p + 1) % 12 = q) →
        (q, r.moved + 2) ∈ (r.moves 1).held ∧ q ∉ (r.moves 1).requests) ∧
      (q ∈ r.requests → (∀ p ∈ r.free, (p + 1) % 12 ≠ q) → q ∈ (r.moves 1).requests)) ∧
  (
    ∀ (s : State) (die : Nat), die < s.rings.length →
      let z := s.ringNow die
      (z.ring die = (s.ring die).upTo s.nowCycle ∧ z.threads = s.threads ∧ z.mem = s.mem ∧ z.groups = s.groups) ∧
      exec (.powerTokenMove die) s = .next (if (z.ring die).requests = [] then z
        else z.due ((z.ring die).moved + 2) (.powerTokenMove die))) ∧
  (
    ∀ (s : State) (glade : Nat),
      let z := s.ringNow (glade / 12)
      let st := glade % 12
      let r := z.ring (glade / 12)
      let back := z.modRing (glade / 12) fun r =>
        { r with held := r.held.filter fun h => h.1 != st, leaving := r.leaving.filter fun h => h.1 != st,
                 free := if r.held.length + r.free.length ≤ r.n then r.free ++ [st] else r.free }
      let idle := (assoc r.idleSince st).getD 0 + 256
      let wanted := ∃ q ∈ r.requests, q ≠ st
      (assoc r.held st = none → exec (.powerTokenRelease glade) s = .next z) ∧
      ∀ since, assoc r.held st = some since →
        (idle ≤ s.nowCycle → exec (.powerTokenRelease glade) s = .next back) ∧
        (s.nowCycle < idle → assoc r.leaving st = none → ¬wanted →
          exec (.powerTokenRelease glade) s = .next (z.due idle (.powerTokenRelease glade))) ∧
        (s.nowCycle < idle → assoc r.leaving st = none → wanted → s.nowCycle < since + 65536 →
          exec (.powerTokenRelease glade) s = .next (z.due (min idle (since + 65536)) (.powerTokenRelease glade))) ∧
        (assoc r.leaving st = none → wanted → since + 65536 ≤ s.nowCycle →
          (∀ c ∈ gladeCores glade, (s.core c).runEnd ≤ s.nowCycle) → exec (.powerTokenRelease glade) s = .next back) ∧
        ∀ e, assoc r.leaving st = some e → e ≤ s.nowCycle → exec (.powerTokenRelease glade) s = .next back)

/-- One multiplication of unscaled dense fragments (R106, R107, R203, R219): the element of row r and column c of two present
ranks becomes the fixed-order sum of the old value and the K products, as f32 or as a 32-bit integer; every other word of the
tile keeps its value. -/
def Obligations.MatrixProduct : Prop :=
  ∀ (f : MatForm) (sa sb : SlotD) (caps : List Capture) (t : Sparse 32), f.sparse = none → sa.scaled = false → sb.scaled = false →
    (caps.map Capture.rank).Nodup → (∀ c ∈ caps, c.rank < 32) → Sparse.wf t = true →
    let prods := fun (r c : Capture) => (upto (fragK f.ta)).map fun k =>
      (fragVal f.ta sa 0 r.a k).mul (fragVal f.tb sb 0 c.b k)
    (∀ r ∈ caps, ∀ c ∈ caps, Sparse.read (f.apply sa sb caps t) (32 * r.rank + c.rank) =
      let old := (Sparse.read t (32 * r.rank + c.rank)).toNat
      word (if f.ta.isInt then intMmaWrite ((prods r c).foldl (fun z p => z + p.1.scaled 0) (intVal true 32 old)) f.sat
        else mmaSum ((ffmt .f32).decode old) (prods r c))) ∧
    (∀ k, (∀ r ∈ caps, ∀ c ∈ caps, k ≠ 32 * r.rank + c.rank) → Sparse.read (f.apply sa sb caps t) k = Sparse.read t k) ∧
    Sparse.wf (f.apply sa sb caps t) = true

/-- ACCLD and ACCST (R201, R202, R221, R222): a full flag stalls; ACCLD's first use of a tile at an aligned address fails with 0x40,
waits, or goes on; it loads the 128 bytes of the thread's row, which an ACCZ that issued before keeps (R220), and ACCST stores
them, rounded for a 16-bit format, once no operation of the thread on the tile is under way; a failed access is exact. A flagged
ACCLD goes on at once and is in flight with its row, or with its fault, which its completion holds for the flag; its completion
writes the row, and lets the operations that waited for it start. A flagged ACCST has stored its bytes and is in flight until they
are performed. -/
def Obligations.TileMoves : Prop :=
  ∀ (s : State) (th : Thread) (x : X) (ty mt : Ty) (sp : Space) (colour : Fin 8) (a : Opd) (t : Fin 64),
    let ld := Instr.accld x ty sp colour a t
    let st := Instr.accst x ty mt sp colour a t
    let flag := th.flagOf x.sb
    let row := fun (z : State) (g n rank : Nat) (ws : List Word) (op : Option Nat) =>
      (z.setTile g n (Sparse.writeN (z.tile g n) (32 * rank) ws)).mapMat fun o =>
        if o.on g n && o.instr.mat.isNone && !op.any o.waitLoads.contains then { o with rows := o.rows ++ [(rank, ws)] } else o
    (s.Runs th ld →
      let va := if sp = .g then (s.rd64 th a).toNat else (s.rd32 th a).toNat
      (s.flagFull th flag = true → s.Ends ld th s (.stall (.flag flag))) ∧
      (s.flagFull th flag = false →
        (va % 128 = 0 → s.tileUse th.group t.val = .fail → s.Ends ld th s (.trap .engineFault (dword t.val))) ∧
        (va % 128 = 0 → s.tileUse th.group t.val = .wait →
          s.Ends ld th (s.after (2 ^ 20) (.tileWaitTimeout th.group t)) (.wait (.tile t s.cycle))) ∧
        (va % 128 ≠ 0 ∨ s.tileUse th.group t.val = .ready → ∀ r e,
          (if sp = .g then s.loadG th th.privileged (s.rd64 th a).toNat 128 else s.loadW th sp (s.rd32 th a).toNat 128) = (r, e) →
          (∀ w, e = .error (.stall w) → s.Ends ld th s w.next) ∧
          (∀ c ad, e = .error (.fault c ad) → flag = none → s.Ends ld th r (.trap c (dword ad))) ∧
          (∀ bs, e = .ok bs → flag = none →
            s.Ends ld th (row (r.holdTile th.group t.val) th.group t.val th.rank (words4 32 bs) none) .next) ∧
          (∀ f c ad, flag = some f → e = .error (.fault c ad) → ∃ (o : Op) (q : State), s.Flies ld th f o .loadComplete q ∧
            o.fault = some (c, dword ad) ∧ o.writes = [] ∧ q.groups = r.groups) ∧
          (∀ f bs, flag = some f → e = .ok bs → ∃ (o : Op) (q : State), s.Flies ld th f o .loadComplete q ∧
            o.fault = none ∧ o.writes = [] ∧ o.data = th.rank :: (words4 32 bs).map BitVec.toNat ∧
            q.groups = (r.holdTile th.group t.val).groups)))) ∧
    (∀ o, s.op? o.id = some o → o.instr = ld →
      let g := (s.th o.thread).group
      let next := fun z : State => (z.mapMat fun m => if m.waitLoads.contains o.id then { m with
          waitLoads := m.waitLoads.erase o.id, since := if m.instr.mat.isSome then z.nowCycle else m.since } else m).startWhere
        fun m => m.group == (z.th o.thread).group
      (o.fault ≠ none → exec (.loadComplete o.id) s = .next (next (s.opDone o))) ∧
      ∀ rank ws, o.fault = none → o.data = rank :: ws →
        exec (.loadComplete o.id) s = .next (next ((row s g t.val rank (ws.map word) (some o.id)).opDone o))) ∧
    (s.Runs th st →
      (s.flagFull th flag = true → s.Ends st th s (.stall (.flag flag))) ∧
      (s.flagFull th flag = false → s.tileBusy th t.val = true → s.Ends st th s (.stall (.tile t.val))) ∧
      (s.flagFull th flag = false → s.tileBusy th t.val = false →
        let row := Sparse.readN (s.tile th.group t.val) (32 * th.rank) 32
        let bs := if mt = .none then (wordsBytes row, th.arith none) else rowRounded (th.arith none) mt row
        ∀ r e, (if sp = .g then s.storeG th th.privileged (s.rd64 th a).toNat colour bs.1
            else s.storeW th sp (s.rd32 th a).toNat bs.1) = (r, e) →
          (∀ w, e = .error (.stall w) → s.Ends st th s w.next) ∧
          (∀ c ad, e = .error (.fault c ad) → s.Ends st th r (.trap c (dword ad))) ∧
          (e = .ok () → flag = none → s.Ends st th (r.modTh th.id fun u => u.sticky bs.2.flags) .next) ∧
          (∀ f, flag = some f → e = .ok () → ∃ (o : Op) (q : State),
            s.FliesAs st th (th.sticky bs.2.flags) f o .storePerformed q ∧ o.fault = none ∧
            q.mem = r.mem ∧ q.l1 = r.l1 ∧ q.teams = r.teams)))

/-! ## Memory -/

/-- The checks of an access, in their order (R243): a canonical address, alignment, translation, a sealed frame, U, the
permission bits, append only, and, of a plain write, whether the module that holds the frame can be reached (R425); each names
the address. Of a read, an atomic and a reduction that last question is asked with the data, as of a line with an uncorrectable
error. -/
def Obligations.AccessChecks : Prop :=
  ∀ (s : State) (tlb ctx va size : Nat) (priv : Bool) (acc : Acc), 0 < size →
    (canonicalVa va = false → s.checkVa tlb ctx priv acc va size = (s, .error (.notPresent, va))) ∧
    (canonicalVa va = true → va % size ≠ 0 → s.checkVa tlb ctx priv acc va size = (s, .error (.alignment, va))) ∧
    (canonicalVa va = true → va % size = 0 →
      (∀ r c, s.translate tlb ctx va = (r, .error c) → s.checkVa tlb ctx priv acc va size = (r, .error (c, va))) ∧
      ∀ r l, s.translate tlb ctx va = (r, .ok l) →
        let stop := fun (c : Cause) => s.checkVa tlb ctx priv acc va size = (r, .error (c, va))
        (acc.writes = true → r.sealOf l.pa ≠ none → stop .sealedWrite) ∧
        ((acc.writes = false ∨ r.sealOf l.pa = none) →
          (l.user = false → priv = false → stop .permission) ∧
          ((l.user = true ∨ priv = true) →
            let need : Bool := match acc with
              | .read => l.r
              | .write | .append => l.w
              | .atomic => l.r && l.w
              | .fetch => l.x
            (need = false → stop .permission) ∧
            (need = true →
              (l.ao = true → acc = .write ∨ acc = .atomic → stop .appendOnly) ∧
              ((l.ao = false ∨ acc = .read ∨ acc = .fetch ∨ acc = .append) →
                (r.reaches (paModule l.pa) = true ∨ (acc ≠ .write ∧ acc ≠ .append) →
                  s.checkVa tlb ctx priv acc va size = (r, .ok l)) ∧
                (r.reaches (paModule l.pa) = false → (acc = .write ∨ acc = .append) → stop .memError) ∧
                (∀ n, 0 < n → l.pa / 64 = (l.pa + n - 1) / 64 → r.reaches (paModule (l.pa / 64 * 64)) = false →
                  r.dataError l.pa n = some l.pa))))))

/-- Memory as a core sees it (R141, R235, R251, R257, R258). Every operation on memory keeps its canonical form, with which the
machine starts (log 1). While its L1 has room, a core sees exactly the bytes that it stores, and every other byte as before; the
lines of other cores stay as they were. A load through it changes nothing that any core sees, where no region is sealed, fences
are not strengthened and the cluster is not fused: the walk writes SEAL into a leaf (R246), R281 acquires, and a fused set drops
copies (log 7). A publish performs every dirty byte of its core that carries a named colour at its home; an acquire leaves only
dirty bytes in the core's L1, so that every other byte is seen as it stands at home. -/
def Obligations.CoreMemory : Prop :=
  (
    Memory.wf State.reset.mem = true ∧
    ∀ (s : State) (th : Thread) (core ctx va n : Nat) (priv : Bool) (c : Fin 8) (cs : Byte) (bs : List Byte) (acc : Acc),
      Memory.wf s.mem = true →
      Memory.wf (s.homeWrite va bs).mem = true ∧ Memory.wf (s.translate core ctx va).1.mem = true ∧
      Memory.wf (s.loadG th priv va n).1.mem = true ∧ Memory.wf (s.storeG th priv va c bs).1.mem = true ∧
      Memory.wf (s.publishCore core cs).mem = true ∧ Memory.wf (s.acquireCore core).mem = true ∧
      Memory.wf (s.settle core va n).mem = true ∧ Memory.wf (s.engRead core ctx priv va n).1.mem = true ∧
      Memory.wf (s.engWrite core ctx priv acc va bs).1.mem = true) ∧
  (
    ∀ (s : State) (core pa va team : Nat) (colour : Fin 8) (checked : Bool) (bs : List Byte), s.L1Form → bs ≠ [] → pa + bs.length ≤ 2 ^ 52 →
      core < 2048 → (s.l1Held core).length + bs.length / 64 + 2 ≤ (if core % 12 ∈ [0, 3, 8, 11] then 8192 else 4096) →
      let r := s.l1Write core pa va colour team checked bs
      r.L1Form ∧ (∀ a, a < 2 ^ 52 → r.seen core a = if pa ≤ a ∧ a < pa + bs.length then bs.getD (a - pa) 0 else s.seen core a) ∧
        ∀ k line, k < 2048 → k ≠ core → r.l1Line? k line = s.l1Line? k line) ∧
  (
    ∀ (s r : State) (th : Thread) (priv : Bool) (va n : Nat) (e : Except Stop (List Byte)), s.L1Form → s.seals = [] →
      s.strong (s.team th.team).ctx = false → th.spec = none → (s.cluster (s.team th.team).cluster).fuse = false →
      s.hostOf th < 2048 →
      (s.l1Held (s.hostOf th)).length + n / 64 + 2 ≤ (if s.hostOf th % 12 ∈ [0, 3, 8, 11] then 8192 else 4096) →
      s.loadG th priv va n = (r, e) →
      r.mem = s.mem ∧ r.outbox = s.outbox ∧ r.threads = s.threads ∧ r.teams = s.teams ∧
        ∀ core a, core < 2048 → r.seen core a = s.seen core a) ∧
  (
    ∀ (s : State) (core : Nat) (colours : Byte), s.L1Form → core < 2048 →
      (∀ l ∈ s.l1, l.core = core → s.localPa l.pa = true → ∀ i, i < 64 → l.dirty.getLsbD i = true →
        colours.getLsbD (l.colours.getD (i / 8) 0).val = true →
        (s.publishCore core colours).homeByte (l.pa + i) = l.data.getD i 0) ∧
      (s.publishCore core colours).L1Form ∧ (∀ a, a < 2 ^ 52 → (s.publishCore core colours).seen core a = s.seen core a) ∧
      (∀ k line, k < 2048 → k ≠ core → (s.publishCore core colours).l1Line? k line = s.l1Line? k line) ∧
      ∀ a, (s.acquireCore core).seen core a = (match s.l1Line? core (a / 64 * 64) with
        | some l => if l.dirty.getLsbD (a % 64) then l.data.getD (a % 64) 0 else s.homeByte a
        | none => s.homeByte a))

/-- LD and LDF (R34, R142, R223, R224, R283): a full flag or a busy range stalls; an unflagged load writes its registers or
traps exactly; a flagged one goes on at once and is in flight with its registers or its fault, until its completion lands the
registers, holds the fault and counts the flag down. FSLOT writes its format slot in the same ways, or raises 0x02; the core of
the writer sees the slot at once, and another core with threads of the context once it acquires; an engine's command of the
writing thread sees it at once, and one of another thread sees the old slot (R209). -/
def Obligations.Loads : Prop :=
  ∀ (s : State) (th : Thread) (x : X) (ty : Ty) (n : Fin 16) (sp : Space) (colour : Fin 8) (d a b : Opd) (off : BitVec 24)
    (perm scl : Bool) (slot : Fin 64),
    let ld := Instr.ld x ty n sp colour d a off
    let ldf := Instr.ldf x ty perm scl colour d a b off
    let fs := Instr.fslot x slot colour a off
    let flag := th.flagOf x.sb
    (∀ i ∈ [ld, ldf, fs], s.Runs th i → s.flagFull th flag = true → s.Ends i th s (.stall (.flag flag))) ∧
    (∀ i r e, (i = ld ∧ (r, e) = (if sp = .g then s.loadElems th th.privileged ty (n.val + 1) (s.addrG th a off) else
          ((s.loadW th sp (s.offT th a off) ((n.val + 1) * (ty.bits / 8))).1,
            ((s.loadW th sp (s.offT th a off) ((n.val + 1) * (ty.bits / 8))).2.map fun bs => loadedRegs ty bs (n.val + 1)))) ∨
        i = ldf ∧ (r, e) = s.ldfOp th ty perm scl (s.addrG th a off) (s.rd32 th b).toNat) →
      s.Runs th i → s.flagFull th flag = false →
      (∀ w, e = .error (.stall w) → s.Ends i th s w.next) ∧
      (∀ c ad, e = .error (.fault c ad) → flag = none → s.Ends i th r (.trap c (dword ad))) ∧
      (∀ ws, e = .ok ws → flag = none → s.Ends i th (r.wrRun th.id d ws) .next) ∧
      (∀ f ws, flag = some f → e = .ok ws → ∃ (o : Op) (q : State), s.Flies i th f o .loadComplete q ∧ o.writes = runWrites d ws ∧
        o.fault = none ∧ q.mem = r.mem ∧ q.l1 = r.l1) ∧
      ∀ f c ad, flag = some f → e = .error (.fault c ad) → ∃ (o : Op) (q : State), s.Flies i th f o .loadComplete q ∧ o.writes = [] ∧
        o.fault = some (c, dword ad) ∧ q.mem = r.mem ∧ q.l1 = r.l1) ∧
    (∀ r bs, s.Runs th fs → s.flagFull th flag = false → s.loadG th th.privileged (s.addrG th a off) 64 = (r, .ok bs) →
      let w := BitVec.ofNat 512 (leNat bs)
      (slotInvalid w = true → flag = none → s.Ends fs th r (.trap .reservedField (dword (s.addrG th a off)))) ∧
      (slotInvalid w = false → flag = none → s.Ends fs th
        (r.writeSlot (some (r.hostOf th, th.id)) (r.team th.team).ctx slot.val w) .next) ∧
      ∀ f, flag = some f → ∃ (o : Op) (q : State), s.Flies fs th f o .loadComplete q ∧
        if slotInvalid w then o.fault = some (.reservedField, dword (s.addrG th a off)) else o.slot = w ∧ o.fault = none) ∧
    (∀ r c ad, s.Runs th fs → s.flagFull th flag = false → flag = none →
      s.loadG th th.privileged (s.addrG th a off) 64 = (r, .error (.fault c ad)) → s.Ends fs th r (.trap c (dword ad))) ∧
    (∀ (z : State) (core t ctx h k j : Nat) (w : BitVec 512), h < 64 →
      (∃ c ∈ z.contexts, c.id = ctx) → (z.ctx ctx).slots.length = 64 →
      let y := z.writeSlot (some (core, t)) ctx h w
      y.slotBits core ctx h = w ∧
      (k ≠ core → (∃ u ∈ z.threads, u.status = .live ∧ (z.team u.team).ctx = ctx ∧ z.hostOf u = k) →
        y.slotBits k ctx h = z.slotBits k ctx h ∧ (y.acquireCore k).slotBits k ctx h = w) ∧
      (j ≠ h → y.slotBits k ctx j = z.slotBits k ctx j) ∧
      ∀ p ∈ [Path.copy, .fetch, .tree], ∀ u : Thread, (z.team u.team).ctx = ctx →
        (u.id = t → z.hostOf u = core → y.engSlotBits u p h = w) ∧
        (u.id ≠ t → y.engSlotBits u p h = (match z.engView ctx h p with
          | some v => v.bits
          | none => (z.ctx ctx).slots.getD h plainSlot))) ∧
    (∀ o, s.op? o.id = some o →
      ((∀ x t p c a t', o.instr ≠ .accld x t p c a t') → (∀ x h c a f, o.instr ≠ .fslot x h c a f) →
        exec (.loadComplete o.id) s = .next (s.opDone o)) ∧
      (∀ x h c a f, o.instr = .fslot x h c a f → exec (.loadComplete o.id) s = .next
        ((if o.fault.isSome then s else s.writeSlot (some (o.core, o.thread)) o.ctx h.val o.slot).opDone o))) ∧
    ∀ (z : State) (o : Op) (u : Thread) (f : Fin 12), z.thread? o.thread = some u → u.status = .live → u.hold ≠ .flags →
      u.spec = none → z.pendOf u.group = [] → o.flag = some f → o.held = false → 0 < u.flagCount f → o.wbase = u.wbase →
      (∀ w ∈ o.writes, w.1 < 128) → (o.writes.map Prod.fst).Nodup → (∀ a, o.fault ≠ some (.sealedWrite, a)) →
      ∃ v, (z.opDone o).thread? o.thread = some v ∧
        v = { u with regs := v.regs, flags := v.flags, faults := v.faults } ∧
        (∀ w ∈ o.writes, v.get w.1 = w.2) ∧ (∀ k, k < 128 → k ∉ o.writes.map Prod.fst → v.get k = u.get k) ∧
        v.flagCount f + 1 = u.flagCount f ∧ (∀ g, g ≠ f → v.flagCount g = u.flagCount g) ∧
        (o.fault = none → v.faults = u.faults) ∧
        (∀ c ad, o.fault = some (c, ad) → ∃ r : FaultRec, v.faults = insertFault r u.faults ∧ r.cause = c ∧ r.addr = ad ∧
          r.instr = o.instr ∧ r.pc = o.pc ∧ r.src = o.src ∧ r.flag = some f ∧ r.ord = o.id) ∧
        (∀ k, k ≠ o.thread → (z.opDone o).thread? k = z.thread? k) ∧ ∀ p ∈ (z.opDone o).ops, p.id ≠ o.id

/-- ST (R142, R283, R285): it stores the bytes of its registers; a full flag or a busy range stalls, a failed check is exact
before any byte is stored, 0x02 where a formatted page takes no such type; a flagged store is in flight until it is performed
at home. -/
def Obligations.Stores : Prop :=
  ∀ (s : State) (th : Thread) (x : X) (ty : Ty) (n : Fin 16) (sp : Space) (colour : Fin 8) (b a : Opd) (off : BitVec 24),
    let i := Instr.st x ty n sp colour b a off
    let flag := th.flagOf x.sb
    let bs := storedBytes ty (s.rdRun th ty b ((n.val + 1) * Wf.regsOf ty))
    let va := s.addrG th a off
    let raw : Bool := decide (ty ∈ [.b8, .b16, .b32, .b64, .b128])
    (s.Runs th i →
      (s.flagFull th flag = true → s.Ends i th s (.stall (.flag flag))) ∧
      (s.flagFull th flag = false →
        (∀ r c ad, s.storeSp th sp a off colour raw bs = (r, .error (.fault c ad)) → s.Ends i th r (.trap c (dword ad))) ∧
        (∀ r w, s.storeSp th sp a off colour raw bs = (r, .error (.stall w)) → s.Ends i th r w.next) ∧
        ∀ r, s.storeSp th sp a off colour raw bs = (r, .ok ()) →
          (flag = none → s.Ends i th r .next) ∧
          ∀ f, flag = some f → ∃ (o : Op) (q : State), s.Flies i th f o .storePerformed q ∧ q.mem = r.mem ∧ q.l1 = r.l1 ∧ q.teams = r.teams)) ∧
    (∀ q l, s.checkCore th th.privileged .write va bs.length = (q, .ok l) →
      (q.formatted (q.hostOf th) (q.team th.team).ctx l = true → raw = false →
        s.storeSp th .g a off colour raw bs = (q, .error (.fault .reservedField va))) ∧
      ((q.formatted (q.hostOf th) (q.team th.team).ctx l = false ∨ raw = true) →
        s.storeSp th .g a off colour raw bs = q.storeG th th.privileged va colour bs) ∧
      (th.spec = none → q.strong (q.team th.team).ctx = false → s.storeG th th.privileged va colour bs =
        (q.l1Write (q.hostOf th) l.pa va colour th.team true bs, .ok ()))) ∧
    (∀ o, s.op? o.id = some o →
      (s.specStoreOp o = false → ∃ q : State, exec (.storePerformed o.id) s = .next (q.opDone o) ∧
        (o.data = [] → q = s) ∧ ∀ v m z l, o.data = [v, m] → s.translate o.core o.ctx v = (z, .ok l) → q = z.settle o.core l.pa m) ∧
      (s.specStoreOp o = true → exec (.storePerformed o.id) s = .next s)) ∧
    ∀ t q k, th.spec = none → (sp = .t ∨ sp = .c) → s.windowAligned th sp (s.offT th a off) bs.length = .ok (t, q) →
      s.rangeBusy t q bs.length = false → (∀ o ∈ (s.team t).objs, s.guarded t o q bs.length = none) →
      ∃ r, s.storeSp th sp a off colour raw bs = (r, .ok ()) ∧ r.mem = s.mem ∧ r.l1 = s.l1 ∧
        ∀ m ∈ s.teams, m.id = t → Sparse.wf (w := 8) m.spad = true → (s.teams.map Team.id).Nodup →
          Sparse.read (w := 8) (r.team t).spad k = if q ≤ k ∧ k < q + bs.length then bs.getD (k - q) 0
            else Sparse.read (w := 8) m.spad k

/-- ATOM (R262, R263, R289, R290) on global memory: its checks raise their traps, a formatted page takes b32 and b64 alone; a
publish precedes it, of scope .dom until other modules have performed its writes (R424), and an acquire follows it; the old value
is written to its destination, and the new one to memory at home; an uncorrectable error or a module that cannot be reached
(R425) is exact, or held for the flag. In a window it acts on the window's bytes. -/
def Obligations.Atomics : Prop :=
  ∀ (s : State) (th : Thread) (x : X) (op : Aop) (ty : Ty) (acq pub : Bool) (scope : Scope) (sp : Space) (colour : Fin 8)
    (d a b c : Opd) (off : BitVec 24),
    let i := Instr.atom x op ty acq pub scope sp colour d a b c off
    let flag := th.flagOf x.sb
    let vb := s.rd th ty b
    let vc := if op = .cas then s.rd th ty c else 0
    let n := ty.bits / 8
    let pubd := fun z : State => if pub then z.publish (s.hostOf th) scope (1#8 <<< colour.val) else z
    let acqd := fun z : State => if acq then z.acquireBy th scope else z
    let far := fun z : State => pub = true ∧ scope = .dom ∧ z.farBusy = true
    s.Runs th i →
      (s.flagFull th flag = true → s.Ends i th s (.stall (.flag flag))) ∧
      (s.flagFull th flag = false → sp = .g → ∀ r e, s.checkCore th th.privileged .atomic (s.addrG th a off) n = (r, e) →
        (∀ c ad, e = .error (.fault c ad) → s.Ends i th r (.trap c (dword ad))) ∧
        ∀ l, e = .ok l →
          (r.formatted (r.hostOf th) (r.team th.team).ctx l = true → ty ≠ .b32 → ty ≠ .b64 →
            s.Ends i th r (.trap .reservedField (dword (s.addrG th a off)))) ∧
          ((r.formatted (r.hostOf th) (r.team th.team).ctx l = false ∨ ty = .b32 ∨ ty = .b64) →
            (far (pubd r) → s.Ends i th (pubd r) (.stall .far)) ∧
            (¬far (pubd r) → ∀ q e, (pubd r).atomGlobal th op ty colour (s.addrG th a off) l vb vc = (q, e) →
              (∀ old, e = .ok old → flag = none → s.Ends i th ((acqd q).wrRun th.id d (elemRegs ty old)) .next) ∧
              (∀ f old, flag = some f → e = .ok old → ∃ (o : Op) (z : State), s.Flies i th f o .loadComplete z ∧
                o.writes = runWrites d (elemRegs ty old) ∧ o.fault = none ∧ z.mem = (acqd q).mem) ∧
              (∀ c ad, e = .error (.fault c ad) → flag = none → s.Ends i th q (.trap c (dword ad))) ∧
              ∀ f c ad, flag = some f → e = .error (.fault c ad) → ∃ (o : Op) (z : State), s.Flies i th f o .loadComplete z ∧
                o.writes = [] ∧ o.fault = some (c, dword ad) ∧ z.mem = q.mem))) ∧
      (s.flagFull th flag = false → sp = .t ∨ sp = .c → ∀ t q, s.windowAligned th sp (s.offT th a off) n = .ok (t, q) →
        (s.rangeBusy t q n = true → s.Ends i th s (.stall (.range t q n))) ∧
        (s.rangeBusy t q n = false → far (pubd s) → s.Ends i th (pubd s) (.stall .far)) ∧
        (s.rangeBusy t q n = false → ¬far (pubd s) →
          let r := (pubd s).atomSpad th op ty t q vb vc
          (flag = none → s.Ends i th ((acqd r.1).wrRun th.id d (elemRegs ty r.2)) .next) ∧
          ∀ f, flag = some f → ∃ (o : Op) (z : State), s.Flies i th f o .loadComplete z ∧
            o.writes = runWrites d (elemRegs ty r.2) ∧ o.fault = none ∧ z.teams = (acqd r.1).teams))

/-- The new value of an atomic (R289), in terms of numbers: integer sums wrap; min and max compare as the type does; inc wraps
to 0 at the operand, and dec wraps to the operand at 0 or above it; cas stores only when the old value is the third operand. At
home it reads the old bytes and writes the new ones in one step (R263). -/
def Obligations.AtomicValues : Prop :=
  (∀ (ty : Ty) (old b c : Nat), ty ∈ [.s32, .n32, .s64, .n64, .b32, .b64] → old < 2 ^ ty.bits → b < 2 ^ ty.bits →
    (∃ v, atomNew .add ty old b c = some v ∧ v < 2 ^ ty.bits ∧ v % 2 ^ ty.bits = (old + b) % 2 ^ ty.bits) ∧
    (∃ v, atomNew .min ty old b c = some v ∧ tyInt ty v = min (tyInt ty old) (tyInt ty b)) ∧
    (∃ v, atomNew .max ty old b c = some v ∧ tyInt ty v = max (tyInt ty old) (tyInt ty b)) ∧
    atomNew .exch ty old b c = some b ∧ atomNew .cas ty old b old = some b ∧ (c ≠ old → atomNew .cas ty old b c = none) ∧
    atomNew .inc ty old b c = some (if old < b then old + 1 else 0) ∧
    atomNew .dec ty old b c = some (if old = 0 ∨ b < old then b else old - 1)) ∧
  ∀ (s : State) (pa : Nat) (op : Aop) (ty : Ty) (b c : Nat), s.localPa pa = true → pa % 2 ^ 46 + ty.bits / 8 ≤ 2 ^ 46 →
    Memory.wf s.mem = true →
    (s.atomHome pa op ty b c).2 = leNat (s.homeRead pa (ty.bits / 8)) ∧
    ∀ v, atomNew op ty (leNat (s.homeRead pa (ty.bits / 8))) b c = some v →
      (s.atomHome pa op ty b c).1.homeRead pa (ty.bits / 8) = leBytes (ty.bits / 8) v ∧
      ∀ q, s.localPa q = true → (q % 2 ^ 46 < pa % 2 ^ 46 ∨ pa % 2 ^ 46 + ty.bits / 8 ≤ q % 2 ^ 46) →
        (s.atomHome pa op ty b c).1.homeByte q = s.homeByte q

/-- RED and FLUSHRED (R266, R267, R291, R292): a checked contribution enters the thread's buffer, where one to the same
address, operation and type is combined; FLUSHRED of an empty buffer is done, and else makes a flush point, which its
application closes: the batches are applied, then an unflagged FLUSHRED goes on and a flagged one's flag counts it; a batch that
failed raises its cause there, or is held for the flag. PREF goes on at once, and while the L1 has room it changes no byte that
any core sees (R288). -/
def Obligations.Reductions : Prop :=
  ∀ (s : State) (th : Thread) (x : X) (op : Aop) (ty : Ty) (colour : Fin 8) (a b : Opd) (off : BitVec 24) (l2 : Bool) (n : Fin 16),
    (s.Runs th (.pref x l2 n a off) →
      (l2 = true → s.Becomes (.pref x l2 n a off) th { th.advance with ovf := [] } s) ∧
      (l2 = false → ∃ q, s.Ends (.pref x l2 n a off) th q .next ∧
        (s.L1Form → s.seals = [] → (s.cluster (s.team th.team).cluster).fuse = false → s.hostOf th < 2048 →
          (s.l1Held (s.hostOf th)).length + n.val + 1 ≤ (if s.hostOf th % 12 ∈ [0, 3, 8, 11] then 8192 else 4096) →
          q.mem = s.mem ∧ q.threads = s.threads ∧ ∀ core a, core < 2048 → q.seen core a = s.seen core a))) ∧
    (s.Runs th (.red x op ty colour a b off) → ∀ r e,
      s.checkCore th th.privileged .atomic (s.addrG th a off) (ty.bits / 8) = (r, e) →
      (∀ c ad, e = .error (.fault c ad) → s.Ends (.red x op ty colour a b off) th r (.trap c (dword ad))) ∧
      ∀ l, e = .ok l →
        (r.formatted (r.hostOf th) (r.team th.team).ctx l = true → ty ≠ .b32 → ty ≠ .b64 →
          s.Ends (.red x op ty colour a b off) th r (.trap .reservedField (dword (s.addrG th a off)))) ∧
        ((r.formatted (r.hostOf th) (r.team th.team).ctx l = false ∨ ty = .b32 ∨ ty = .b64) →
          s.Ends (.red x op ty colour a b off) th
            (r.redEnter th { leaf := l.bits, pa := l.pa, va := s.addrG th a off, op := op, ty := ty, colour := colour,
                             value := dword (r.rd th ty b) }) .next)) ∧
    (∀ e y, th.redBuf = [] → s.redEnter th e = s.modTh th.id (fun u => { u with redBuf := u.redBuf ++ [e] }) ∧
      (e.pa = y.pa → e.op = y.op → e.ty = y.ty → s.redEnter { th with redBuf := [y] } e = s.modTh th.id fun u => { u with
        redBuf := u.redBuf.map fun z => if z = y then { z with
          value := dword (redCombine e.op e.ty y.value.toNat e.value.toNat), colour := e.colour } else z })) ∧
    (s.Runs th (.flushred x) →
      (th.redBuf = [] → s.Becomes (.flushred x) th { th.advance with ovf := [] } s) ∧
      (th.redBuf ≠ [] →
        (s.flagFull th (th.flagOf x.sb) = true → s.Ends (.flushred x) th s (.stall (.flag (th.flagOf x.sb)))) ∧
        (s.flagFull th (th.flagOf x.sb) = false →
          let p := s.flushPoint th.id (th.flagOf x.sb).isNone (th.flagOf x.sb) none
          (th.flagOf x.sb = none → s.Ends (.flushred x) th (p.1.later (.reductionApply p.2)) (.wait (.point p.2))) ∧
          ∀ f, th.flagOf x.sb = some f → s.Ends (.flushred x) th
            ((p.1.later (.reductionApply p.2)).modTh th.id fun u => u.flagUp f) .next))) ∧
    (∀ k, s.points.find? (fun p => p.id == k) = none → exec (.reductionApply k) s = .next s) ∧
    ∀ p, s.points.find? (fun q => q.id == p.id) = some p →
      let z := (s.closePoints [p.id]).1
      let q : State := { z with points := z.points.filter fun y => y.id != p.id }
      ((s.closePoints [p.id]).2 = [] → exec (.reductionApply p.id) s = .next (((if p.held = true ∧ (q.th p.thread).hold = .point p.id
        then q.release p.thread else q).flagDone p.thread p.flag).enterFor p.thread)) ∧
      (∀ f l, (s.closePoints [p.id]).2 = f :: l → p.held = true → exec (.reductionApply p.id) s = .next
        ((((q.modTh p.thread fun u => { u with hold := .none }).raise p.thread
          (plainTrap f.2.2.1 (dword f.2.2.2) p.pc true (p.id * 8))).flagDone p.thread p.flag).enterFor p.thread)) ∧
      ∀ f l, (s.closePoints [p.id]).2 = f :: l → p.held = false → ∃ r : FaultRec, r.cause = f.2.2.1 ∧ r.addr = dword f.2.2.2 ∧
        r.flag = p.flag ∧ r.pc = p.pc ∧
        exec (.reductionApply p.id) s = .next (((q.holdFault p.thread r).flagDone p.thread p.flag).enterFor p.thread)

/-- FENCE and XFENCE (R257, R270, R293, R294): a fence that publishes, colour 0 when it names none, holds the thread until its
publish is complete, when its writes are performed, of scope .dom on other modules too (R424), it acquires if it also does that,
and the thread goes on; one that only acquires does so at once, and drops nothing where every thread of its scope is on its core
(R256). The publish of an arrival counts it and gives the phase that it counts in (R301), once no recorded range lies over the
object (R272). XFENCE waits for the named classes, delivers a held fault of one, acquires, and with CORE publishes every colour
before; the engines of the classes it names with CORE then see the slots as its core does (R209). -/
def Obligations.Fences : Prop :=
  ∀ (s : State) (th : Thread) (x : X) (acq pub : Bool) (scope : Scope) (colours mask : Byte),
    let i := Instr.fence x acq pub scope colours
    (s.Runs th i →
      (pub = true → scope ≠ .thr → let p := s.beginPublish th scope (if colours = 0 then 1 else colours) acq none
        s.Ends i th p.1 (.wait (.publish p.2))) ∧
      ((pub = false ∨ scope = .thr) → acq = true → s.Ends i th (s.acquireBy th scope) .next) ∧
      ((pub = false ∨ scope = .thr) → acq = false → s.Becomes i th { th.advance with ovf := [] } s)) ∧
    (∀ k, s.publishes.find? (fun p => p.id == k) = none → exec (.publishComplete k) s = .next s) ∧
    (s.acquireBy th scope = if s.scopeHere th scope then s else s.acquire (s.hostOf th) scope) ∧
    (∀ p, s.publishes.find? (fun q => q.id == p.id) = some p →
      let busy := ∃ a, p.arrive = some a ∧ s.rangeBusy a.team a.off (s.objLen a.team a.off) = true
      let y := s.publish p.core p.scope p.colours
      let far := p.scope = .dom ∧ y.farBusy = true
      let z : State := { y with publishes := y.publishes.filter fun q => q.id != p.id }
      let z := if p.acq then z.acquireBy (z.th p.thread) p.scope else z
      (busy → exec (.publishComplete p.id) s = .next (s.after 4 (.publishComplete p.id))) ∧
      (¬busy → far → exec (.publishComplete p.id) s = .next (y.after 4 (.publishComplete p.id))) ∧
      (¬busy → ¬far → p.arrive = none → (z.th p.thread).status = .live → (z.th p.thread).hold = .publish p.id →
        exec (.publishComplete p.id) s = .next ((z.release p.thread).enterFor p.thread)) ∧
      ∀ a, ¬busy → ¬far → p.arrive = some a →
        let ph := z.objPhase a.team a.off
        let y : State := { z with points := z.points.map fun (q : PointRec) => if q.id == a.point then { q with phase := some ph } else q }
        let w := y.objCount a.team a.off a.n a.c
        (w.th p.thread).status = .live →
          ((w.th p.thread).hold = .publish p.id → exec (.publishComplete p.id) s = .next
            ((w.releaseWith p.thread (runWrites (a.dst.getD (.k 0)) [word ph]) id).enterFor p.thread)) ∧
          ((w.th p.thread).hold ≠ .publish p.id → exec (.publishComplete p.id) s = .next w)) ∧
    (s.Runs th (.xfence x mask) →
      let out := (∃ o ∈ s.ops, o.thread = th.id ∧ maskNames mask o.instr = true) ∨
        (mask.getLsbD 0 = true ∧ ∃ p ∈ s.points, p.thread = th.id ∧ p.flag ≠ none)
      (out → s.Ends (.xfence x mask) th s (.stall (.classes mask))) ∧
      (¬out →
        (∀ f, (th.faults.find? fun f => maskNames mask f.instr) = some f →
          s.Ends (.xfence x mask) th (s.deliver th.id f s.trapStamp) .gone) ∧
        ((∀ f ∈ th.faults, maskNames mask f.instr = false) → s.Ends (.xfence x mask) th
          (((if mask.getLsbD 0 then s.publishCore (s.hostOf th) 0xFF else s).acquireCore (s.hostOf th)).fenceSlots th mask) .next)))

/-! ## Barrier objects -/

/-- BINIT, BINVAL, ARRIVE, WAIT and BTEST (R298 to R305) on the object that `objAt` finds; its stall and its faults come first.
BINIT of a valid object, or with operands that R299 refuses, BINVAL of one in use, and an ARRIVE that R301 refuses, raise 0x02; a
map outside the window raises the cause of R231, and one in a recorded range stalls (R311).
A WAIT whose phase has passed acquires and goes on, or takes 0x40 where the object is in error; else it speculates or is
parked; BTEST answers at once. -/
def Obligations.BarrierInstructions : Prop :=
  ∀ (s : State) (th : Thread) (x : X) (sp : Space) (clu cex spec ret : Bool) (d a b c : Opd) (p : Fin 8) (off : BitVec 24),
    let init := Instr.binit x sp clu cex spec a b c off
    let inval := Instr.binval x sp a off
    let arr := Instr.arrive x sp ret d a b c off
    let wait := Instr.wait x sp ret spec d a b off
    let test := Instr.btest x sp p a b off
    (∀ i ∈ [init, inval, arr, wait, test], s.Runs th i →
      (∀ w, s.objAt th sp a off = .error (.stall w) → s.Ends i th s w.next) ∧
      ∀ cs ad, s.objAt th sp a off = .error (.fault cs ad) → s.Ends i th s (.trap cs (dword ad))) ∧
    ∀ t q o, s.objAt th sp a off = .ok (t, q, o) →
      let vb := (s.rd32 th b).toNat
      let vc := (s.rd32 th c).toNat
      (s.Runs th init →
        let size := 64 + mapBytes (s.team t).tsize
        let bad := s.objValid t q = true ∨ (cex = true ∧ (vb ≠ 0 ∨ 8 ≤ s.cexCount t)) ∨ (cex = false ∧ vb % 2 ^ 24 = 0 ∧ vc = 0)
        (∀ cs ad, cex = true → s.window th sp (s.offT th a off) size = .error (.fault cs ad) → s.Ends init th s (.trap cs o)) ∧
        ((cex = true → ∃ w, s.window th sp (s.offT th a off) size = .ok w) →
          (cex = true → s.rangeBusy t q size = true → s.Ends init th s (.stall (.range t q size))) ∧
          ((cex = true → s.rangeBusy t q size = false) →
            (bad → s.Ends init th s (.trap .reservedField o)) ∧
            (¬bad → s.Ends init th (s.objInit t q clu cex spec vb vc) .next)))) ∧
      (s.Runs th inval →
        let bad := s.objValid t q = false ∨ s.obj t q oWCNT ≠ 0 ∨ s.obj t q oPEND ≠ 0 ∨ s.obj t q oSGRP ≠ 0
        (bad → s.Ends inval th s (.trap .reservedField o)) ∧
        (¬bad → s.Ends inval th ((s.objSet t q oFLAGS (s.obj t q oFLAGS - 8)).modTeam t fun m =>
          { m with objs := m.objs.erase q }) .next)) ∧
      (s.Runs th arr →
        let bad := s.objValid t q = false ∨ 2 ^ 24 ≤ vb ∨ (vb = 0 ∧ vc = 0) ∨
          (s.objCex t q = true ∧ (vb ≠ 1 ∨ t ≠ th.team ∨ s.mapBit t q (2 * th.tindex) = true))
        let busy : Prop := s.objCex t q = true ∧ s.rangeBusy t (q + 64 + th.tindex / 4) 1 = true
        (busy → s.Ends arr th s (.stall (.range t (q + 64 + th.tindex / 4) 1))) ∧
        (¬busy → bad → s.Ends arr th s (.trap .reservedField o)) ∧
        (¬busy → ¬bad →
          let r := (if s.objCex t q then s.setMap t q (2 * th.tindex) true else s).arriveOp th t q vb vc (if ret then some d else none)
          s.Ends arr th r.1 (if ret then .wait (.publish r.2) else .next))) ∧
      (s.Runs th wait →
        let ph := word (s.obj t q oPHASE)
        let keep := if ret then some d else none
        (ph ≠ s.rd32 th b →
          let r := if ret then s.wr32 th.id d ph else s
          s.Ends wait th (r.acquire (r.hostOf th) (r.objScope t q))
            (if (r.acquire (r.hostOf th) (r.objScope t q)).objErr t q then .trap .engineFault o else .next)) ∧
        (ph = s.rd32 th b →
          (spec = true → s.canSpec th t q = true →
            s.Ends wait th (s.beginSpec th t q o.toNat (s.rd32 th b) keep) .next) ∧
          ((spec = false ∨ s.canSpec th t q = false) →
            s.Ends wait th (s.objSet t q oWCNT (s.obj t q oWCNT + 1)) (.wait (.waitObj t q o.toNat (s.rd32 th b) keep))))) ∧
      (s.Runs th test →
        let done : Bool := decide (word (s.obj t q oPHASE) ≠ s.rd32 th b)
        let r := s.modTh th.id fun u => u.setPred p done
        (done = false → s.Ends test th r .next) ∧
        (done = true → s.Ends test th (r.acquire (r.hostOf th) (r.objScope t q))
          (if (r.acquire (r.hostOf th) (r.objScope t q)).objErr t q then .trap .engineFault o else .next)))

/-- The fields of an object (R296, R302, R307), in a team whose window is in its canonical form: a set field reads as written,
every other byte of the window as before; counting an arrival raises ARRV by n and LAND by c, or sets the error when a count is
beyond its expected value, and completes the phase when both counts are reached. A completed phase becomes observable: PHASE
rises by 1 (R302), after the reductions of its arrivals and its commits, and before the threads that wait for it go on: each of
these acquires, WCNT falls by 1 for it, its destination receives the new PHASE and it goes on past its WAIT (R304). A
rollback waits for the flags of its threads; then each of them stands at its WAIT again, with the registers that it had there,
counts as waiting while the phase has not passed, so that WCNT rises by 1, and does not speculate in it again; SPEC_ROLLBACK
rises by 1 (R277). -/
def Obligations.BarrierPhases : Prop :=
  (
    ∀ (s : State) (m : Team) (o f v n c : Nat), s.teams.find? (fun x => x.id == m.id) = some m → Sparse.wf (w := 8) m.spad = true →
      v < 2 ^ 32 →
      (s.objSet m.id o f v).obj m.id o f = v ∧
      (∀ k, (k < o + f ∨ o + f + 4 ≤ k) →
        Sparse.read (w := 8) ((s.objSet m.id o f v).team m.id).spad k = Sparse.read (w := 8) m.spad k) ∧
      let a := s.obj m.id o oARRV + n
      let l := s.obj m.id o oLAND + c
      (s.obj m.id o oEXPA < a → s.objCount m.id o n c = s.objError m.id o 4 0) ∧
      (a ≤ s.obj m.id o oEXPA → s.obj m.id o oEXPB < l → s.objCount m.id o n c = s.objError m.id o 2 0) ∧
      (a ≤ s.obj m.id o oEXPA → l ≤ s.obj m.id o oEXPB →
        let r := (s.objSet m.id o oARRV a).objSet m.id o oLAND l
        s.objCount m.id o n c = if a = s.obj m.id o oEXPA ∧ l = s.obj m.id o oEXPB then r.objComplete m.id o else r)) ∧
  (
    ∀ (s : State) (t q g : Nat),
      ((∀ p ∈ s.phases, p ≠ ⟨t, q⟩) → exec (.phaseComplete t q) s = .next s) ∧
      (⟨t, q⟩ ∈ s.phases → s.points = [] → (s.team t).specObjs = [] →
        (∀ u ∈ s.threads, u.status = .live → ∀ o v d, u.hold ≠ .waitObj t q o v d) →
        ∃ r : State, exec (.phaseComplete t q) s = .next r ∧ r.phases = s.phases.erase ⟨t, q⟩ ∧ r.threads = s.threads ∧ r.mem = s.mem ∧
          r.l1 = s.l1 ∧ ∀ m, s.teams.find? (fun x => x.id == t) = some m → Sparse.wf (w := 8) m.spad = true →
            r.obj t q oPHASE = (s.obj t q oPHASE + 1) % 2 ^ 32) ∧
      (⟨t, q⟩ ∈ s.phases → s.points = [] → (s.team t).specObjs = [] → s.objErr t q = false → (s.threads.map Thread.id).Nodup →
        ∀ m, s.teams.find? (fun x => x.id == t) = some m → Sparse.wf (w := 8) m.spad = true →
        ∀ W, W = s.threads.filter (fun u => u.status == .live && (match u.hold with
            | .waitObj a b _ _ _ => a == t && b == q
            | _ => false)) → W.length ≤ s.obj t q oWCNT →
          (∀ u ∈ W, (s.team u.team).state = .resident ∧
            ∀ o v x, u.hold = .waitObj t q o v (some x) → ∃ n : Fin 1024, n.val < 128 ∧ x = .v n) →
          ∃ r : State, exec (.phaseComplete t q) s = .next r ∧ r.phases = s.phases.erase ⟨t, q⟩ ∧ r.mem = s.mem ∧
            r.obj t q oPHASE = (s.obj t q oPHASE + 1) % 2 ^ 32 ∧ r.obj t q oWCNT = s.obj t q oWCNT - W.length ∧
            (∀ u ∈ W, ∀ o v x, u.hold = .waitObj t q o v x →
              (∀ n, x = some (.v n) → r.thread? u.id =
                some { (u.put n.val (word (s.obj t q oPHASE + 1))).advance with hold := .none }) ∧
              (x = none → r.thread? u.id = some { u.advance with hold := .none }) ∧
              ∀ l ∈ r.l1, l.core = s.hostOf u → l.valid = l.dirty) ∧
            ∀ k, (∀ u ∈ W, u.id ≠ k) → r.thread? k = s.thread? k) ∧
      (s.specThreads g = [] → exec (.rollback g) s = .next s) ∧
      ∀ u r, s.specThreads g = [u] → u.spec = some r → s.ops = [] → (s.threads.map Thread.id).Nodup →
        (u.flagBits ≠ 0 → ∃ (z : State) (v : Thread), exec (.rollback g) s = .next z ∧ z.thread? u.id = some v ∧ v.hold = .spec ∧ v.spec = u.spec ∧
          (s.cycle + 4, .rollback g) ∈ z.timers) ∧
        (u.flagBits = 0 → u.pend = none → word (s.obj r.team r.off oPHASE) = r.operand →
          (∀ m ∈ s.teams, Sparse.wf (w := 8) m.spad = true) →
          ∃ (z : State) (v : Thread), exec (.rollback g) s = .next z ∧ z.thread? u.id = some v ∧ v.spec = none ∧ v.pc = r.pc ∧
          v.portable = r.portable ∧ v.clause = r.clause ∧ v.stall = none ∧
          v.regs = r.regs ∧ v.preds = r.preds ∧ v.fstat = r.fstat ∧ v.fseed = r.fseed ∧ v.trail = r.trail ∧
          v.hold = .waitObj r.team r.off r.o r.operand r.dst ∧ z.mem = s.mem ∧ z.l1 = s.l1 ∧
          v.faults = u.faults.filter (fun f => decide (f.ord < r.ord)) ∧ (r.team, r.off, r.operand.toNat) ∈ v.noSpec ∧
          ((∃ m ∈ s.teams, m.id = r.team) → (z.team r.team).specRollback = (s.team r.team).specRollback + 1 ∧
            z.obj r.team r.off oWCNT = (s.obj r.team r.off oWCNT + 1) % 2 ^ 32)))

/-! ## Engines -/

/-- CPY, LDS, FETCH, TSTEP and TLOG at issue (R286, R325, R328, R330, R334, R337, R340): a full flag stalls; a handle-table
entry that is beyond the table, cannot be read or is not valid raises its trap at the entry; the checks of each follow in their
order; then the operation is in flight with what it read. An LDS stalls too where its fault could be a 65th record (R387). -/
def Obligations.EngineIssue : Prop :=
  ∀ (s : State) (th : Thread) (x : X) (s2g bar ret : Bool) (sp : Space) (colour : Fin 8) (slot : Fin 64) (r : Rm) (ty : Ty)
    (n : Fin 16) (lg : Fin 4) (pe : Fin 8) (d a b c : Opd) (h : BitVec 16) (off : BitVec 24),
    let cpy := Instr.cpy x s2g sp bar colour slot r a b c h
    let fetch := Instr.fetch x lg d a b h
    let tstep := Instr.tstep x d pe a b c h
    let tlog := Instr.tlog x ret d a b c h
    let lds := Instr.lds x ty n sp bar a b c off
    (∀ i ∈ [cpy, fetch, tstep, tlog, lds], s.Runs th i → s.flagFull th (th.flagOf x.sb) = true →
      s.Ends i th s (.stall (.flag (th.flagOf x.sb)))) ∧
    (s.Runs th lds → s.flagFull th (th.flagOf x.sb) = false → 64 ≤ s.recordsOut th → s.Ends lds th s (.stall .records)) ∧
    (s.flagFull th (th.flagOf x.sb) = false →
      (∀ i ok, (i, ok) ∈ [(cpy, copyOk (slot != 0)), (fetch, tensorOk), (tstep, layoutOk), (tlog, bindingOk)] → s.Runs th i →
        ∀ q f, s.entry th h.toNat ok = (q, .error f) → s.Ends i th q (.trap f.1 (dword f.2))) ∧
      (∀ q bs, s.Runs th fetch → s.entry th h.toNat tensorOk = (q, .ok bs) →
        (tensorSlotOk (tensor bs) (slotOf (q.engSlotBits th .fetch (tensor bs).hslot)) = false →
          s.Ends fetch th q (.trap .reservedField (q.entryVa th h.toNat))) ∧
        (tensorSlotOk (tensor bs) (slotOf (q.engSlotBits th .fetch (tensor bs).hslot)) = true →
          ∃ (o : Op) (z : State), s.Engages fetch th x o .engineOpComplete z ∧ o.bytes = bs ∧ o.data = [(q.rd32 th a).toNat, (q.rd32 th b).toNat])) ∧
      (∀ q lb w tb, s.Runs th tstep → s.entry th h.toNat layoutOk = (q, .ok lb) →
        q.entry th (layout lb).hfeat tensorOk = (w, .ok tb) →
        tensorSlotOk (tensor tb) (slotOf (w.engSlotBits th .tree (tensor tb).hslot)) = true →
        let node := (w.rd64 th a).toNat
        (((layout lb).holds node = false ∨ node % (layout lb).rsz ≠ 0) → s.Ends tstep th w (.trap .engineFault (dword node))) ∧
        ((layout lb).holds node = true → node % (layout lb).rsz = 0 →
          ∃ (o : Op) (z : State), s.Engages tstep th x o .engineOpComplete z ∧ o.bytes = lb ++ tb ∧
            o.data = [node, (w.rd32 th b).toNat, (w.rd32 th c).toNat])) ∧
      (∀ q bind w lb, s.Runs th tlog → s.entry th h.toNat bindingOk = (q, .ok bind) →
        q.entry th ((q.rd32 th b).toNat % 65536) layoutOk = (w, .ok lb) →
        ((w.log? (field bind 4 4) = none ∨ ∃ l, w.log? (field bind 4 4) = some l ∧
            (l.opened = false ∨ l.owner ≠ (w.team th.team).ctx)) → s.Ends tlog th w (.trap .reservedField (w.entryVa th h.toNat))) ∧
        ∀ l, w.log? (field bind 4 4) = some l → l.opened = true → l.owner = (w.team th.team).ctx →
          ((w.ops.any fun o => o.tstepOf th.id) = true → s.Ends tlog th w (.stall .trail)) ∧
          ((w.ops.any fun o => o.tstepOf th.id) = false → ∃ (o : Op) (z : State), s.Engages tlog th x o (fun _ => .logRecordWrite l.die) z ∧
            o.id ∈ z.logQueue ∧ o.data = [l.id, (w.rd32 th c).toNat] ∧ o.bytes = leBytes 4 (w.rd32 th a).toNat ++ slice lb 36 4 ++
              leBytes 16 th.trail.toNat ++ leBytes 8 th.tid.toNat ++ leBytes 8 (w.team th.team).number.toNat)) ∧
      (∀ q bs, s.Runs th cpy → s.entry th h.toNat (copyOk (slot != 0)) = (q, .ok bs) →
        let va := (s.rd64 th a).toNat
        let o := (s.rd32 th b).toNat
        let t := copyTile bs
        (slot ≠ 0 → codecOk t (slotOf (q.engSlotBits th .copy slot.val)) va = false →
          s.Ends cpy th q (.trap .reservedField (dword va))) ∧
        ((slot = 0 ∨ codecOk t (slotOf (q.engSlotBits th .copy slot.val)) va = true) → canonicalVa va = true →
          (∀ v, copyOdd t (slot != 0) va o = some v → s.Ends cpy th q (.trap .alignment (dword v))) ∧
          (copyOdd t (slot != 0) va o = none → ∀ w, q.window th sp o t.span = .ok w → ∀ obj, q.barOf th sp bar c = .ok obj →
            (q.rangeRoom (q.team w.1).home = false → s.Ends cpy th q (.stall (.room (q.team w.1).home))) ∧
            (q.rangeRoom (q.team w.1).home = true → ∃ (p : Op) (z : State), s.Engages cpy th x p (fun _ => .copyOpStart (gladeOf (q.hostOf th))) z ∧
              p.bytes = bs ∧ p.data = [va, w.1, w.2, t.span] ++ objData obj ∧
              ⟨p.id, w.1, w.2 / 4 * 4, (w.2 + t.span + 3) / 4 * 4⟩ ∈ z.ranges)))) ∧
      (s.Runs th lds → s.recordsOut th < 64 → ∀ q e,
        s.loadSource th th.privileged ty (n.val + 1) (s.addrG th a off) (fun k => slotOf (s.engSlotBits th .copy k)) = (q, e) →
        (∀ f, e = .error f → s.Ends lds th q f.next) ∧
        ∀ l k, e = .ok (l, k) →
          let sl := slotOf (q.engSlotBits th .copy l.fs)
          let plane := match k with
            | some (_, e0, _) => if sl.scaled then planeBytes sl e0 (n.val + 1) else []
            | none => []
          (∀ r f, q.readable th plane = (r, some f) → s.Ends lds th r f.next) ∧
          ∀ r, q.readable th plane = (r, none) →
            let z := (n.val + 1) * (ty.bits / 8)
            let o := (s.rd32 th b).toNat
            (o % pow2Up z ≠ 0 → s.Ends lds th r (.trap .alignment (dword o))) ∧
            (o % pow2Up z = 0 → ∀ w, r.window th sp o z = .ok w → ∀ obj, r.barOf th sp bar c = .ok obj →
              (r.rangeRoom (r.team w.1).home = false → s.Ends lds th r (.stall (.room (r.team w.1).home))) ∧
              (r.rangeRoom (r.team w.1).home = true → ∃ (p : Op) (y : State), s.Ends lds th y .next ∧ y.Counts th (th.flagOf x.sb) ∧
                p ∈ y.ops ∧ p.instr = lds ∧ p.thread = th.id ∧ p.held = false ∧ p.flag = th.flagOf x.sb ∧
                p.data = [s.addrG th a off, w.1, w.2, z] ++ objData obj ∧
                ⟨p.id, w.1, w.2 / 4 * 4, (w.2 + z + 3) / 4 * 4⟩ ∈ y.ranges ∧ .copyOpStart (gladeOf (r.hostOf th)) ∈ y.agenda))))

/-- Engine operations at their completion (R248, R326, R331, R332, R334, R337): none in a frozen context; a copy engine starts
its oldest operation, which waits for an earlier one of its thread that overlaps it; a raw copy of one element moves its bytes
from global memory to the window or back, and credits its object; a FETCH writes the elements of its run, 0 outside the tensor,
or holds the first fault; a TSTEP writes its result and its leaf predicate and folds the trail, after the earlier ones of its
thread, and changes nothing on a fault. -/
def Obligations.EngineCompletion : Prop :=
  (
    ∀ (s : State) (o : Op), s.op? o.id = some o →
      ((s.ctx o.ctx).frozen = true → exec (.engineOpComplete o.id) s = .next s) ∧
      ((s.ctx o.ctx).frozen = false →
        (∀ x lg d a b h, o.instr = .fetch x lg d a b h → ∀ r e,
          s.fetchRun (o.fetchEnv o.bytes) (o.data.getD 0 0) (2 ^ lg.val) (o.data.getD 1 0) = (r, e) →
          exec (.engineOpComplete o.id) s = .next (match e with
            | .ok ws => r.opDone { o with writes := runWrites d ws }
            | .error f => r.opDone { o with fault := some (f.1, dword f.2) })) ∧
        (∀ x d pe a b c h, o.instr = .tstep x d pe a b c h →
          ((∃ p ∈ s.ops, p.tstepOf o.thread = true ∧ p.id < o.id) →
            exec (.engineOpComplete o.id) s = .next (s.later (.engineOpComplete o.id))) ∧
          ((∀ p ∈ s.ops, p.tstepOf o.thread = true → o.id ≤ p.id) → ∀ r e, s.treeStep o = (r, e) →
            exec (.engineOpComplete o.id) s = .next (match e with
              | .error f => r.opDone { o with fault := some (f.1, dword f.2) }
              | .ok k => r.opDoneWith { o with writes := runWrites d [loWord (dword k.d), hiWord (dword k.d)] } fun u =>
                  { u.setPred pe k.leaf with trail := gfMul (u.trail ^^^ trailV k.nid (o.data.getD 2 0) k.br) k.h }))) ∧
        (∀ x g sp bar c hs r a b d h, o.instr = .cpy x g sp bar c hs r a b d h →
          exec (.engineOpComplete o.id) s = .next (if o.started = false then s else
            if s.copyBehind o = true then s.later (.engineOpComplete o.id) else s.cpyDone o g c hs r)) ∧
        (∀ x ty n sp bar a b c off, o.instr = .lds x ty n sp bar a b c off → o.started = true → s.copyBehind o = false → ∀ r e,
          s.ldsBytes o ty (n.val + 1) = (r, e) → exec (.engineOpComplete o.id) s = .next (match e with
            | .error f => r.engEnd o (o.obj 4) (some f)
            | .ok bs => (((r.spadWrite (some o.team) (o.data.getD 1 0) (o.data.getD 2 0) bs).credit (o.obj 4) bs.length).engEnd o
                (o.obj 4) none)))) ∧
      (∀ g, s.ops.find? (fun p => p.copying && gladeOf p.core == g && !p.started) = some o → exec (.copyOpStart g) s =
        .next ((s.modOp o.id fun p => { p with started := true }).later (.engineOpComplete o.id))) ∧
      ∀ (e : FetchEnv) (i j : Nat), (e.t.nrow ≤ i ∨ e.t.ncol ≤ j) → s.fetchElem e i j = (s, .ok 0)) ∧
  (
    ∀ (s : State) (c : CopyEnv) (z y x : Nat),
      let g := (c.row z y + x * c.t.e) % 2 ^ 64
      let w := c.q + x * c.t.e + y * c.t.ssy + z * c.t.ssz
      (c.s2g = false → ∀ r bs, s.engRead (engTlb c.o.core) c.o.ctx c.o.priv g c.t.e = (r, .ok bs) →
        s.copyRaw c z y x = ((r.spadWrite (some c.o.team) c.team w bs).credit c.obj c.t.e, none)) ∧
      (c.s2g = true → ∀ r, s.engWrite (engTlb c.o.core) c.o.ctx c.o.priv .write g (s.spadRead c.team w c.t.e) = (r, .ok ()) →
        ∃ q : State, s.copyRaw c z y x = (q.credit c.obj c.t.e, none) ∧ q.mem = r.mem ∧ q.threads = r.threads ∧
          ∀ t, (q.team t).spad = (r.team t).spad) ∧
      ((c.row z y : Nat) : Int) = ((c.va : Int) + y * c.t.gsy + z * c.t.gsz) % 2 ^ 64)

/-- The log engine of a die (R340, R341): it takes its next TLOG; a log that is closed or full fails it with 0x40; else the
record is written at LBASE + AP, AP rises by 64, the record's number is the result, and a full segment is closed: its bytes and
the chain give the new chain value and the signature's record. -/
def Obligations.LogEngine : Prop :=
  ∀ (s : State) (die : Nat),
    (s.nextLog die = none → exec (.logRecordWrite die) s = .next s) ∧
    (∀ o l, s.nextLog die = some (o, l) →
      let va := l.lbase.toNat + l.ap
      let q := { s with logQueue := s.logQueue.filter (· != o.id) }
      ((l.opened = false ∨ l.nseg * 2 ^ 20 ≤ l.ap) →
        exec (.logRecordWrite die) s = .next (q.opDone { o with fault := some (.engineFault, dword va) })) ∧
      (l.opened = true → l.ap < l.nseg * 2 ^ 20 → ∀ r e, q.engWrite (logTlb die) l.owner true .append va
          (o.bytes ++ leBytes 8 (l.ap / 64) ++ leBytes 4 (o.data.getD 1 0) ++ List.replicate 12 0) = (r, e) →
        (∀ f, e = .error f → exec (.logRecordWrite die) s = .next (r.opDone { o with fault := some (f.1, dword f.2) })) ∧
        (e = .ok () →
          let p := (r.checkedWrite o.team (tagG va) (some 0)).modLog l.id fun k => { k with ap := k.ap + 64 }
          let z := if (l.ap + 64) % 2 ^ 20 = 0 then p.later (.logSegmentClose l.id) else p
          ∀ x ret d a b c h, o.instr = .tlog x ret d a b c h → exec (.logRecordWrite die) s = .next (z.opDone { o with
            writes := if ret then runWrites d [loWord (dword (l.ap / 64)), hiWord (dword (l.ap / 64))] else [] })))) ∧
    ∀ l, s.log? l.id = some l →
      (l.ap < (l.segs + 1) * 2 ^ 20 → exec (.logSegmentClose l.id) s = .next s) ∧
      ((l.segs + 1) * 2 ^ 20 ≤ l.ap → ∀ r e,
        s.engRead (logTlb l.die) l.owner true ((l.lbase.toNat + l.segs * 2 ^ 20) % 2 ^ 64) (2 ^ 20) = (r, e) →
        (∀ f, e = .error f → exec (.logSegmentClose l.id) s = .next r) ∧
        ∀ bs, e = .ok bs →
          let chain := shake256 (leBytes 64 l.chain.toNat ++ shake256 bs 64) 64
          let q := r.modLog l.id fun k => { k with chain := BitVec.ofNat 512 (leNat chain), segs := k.segs + 1 }
          ∀ z w, q.engWrite (logTlb l.die) l.owner true .append
            ((l.sigbase.toNat + 256 * l.segs) % 2 ^ 64) (leBytes 4 l.id ++ leBytes 4 l.segs ++ chain ++
              leBytes 114 (Config.ed448Sign (ascii "NQ7-LOGSEG" ++ leBytes 4 l.id ++ leBytes 4 l.segs ++ chain)).toNat ++
              List.replicate 70 0) = (z, w) →
            exec (.logSegmentClose l.id) s = .next (match w with
              | .error f => z.sealStop l.owner f
              | .ok _ => z))

/-- MOPEN, MINT, MUNI, MSUB, MMADD, MNEXT.st and MCLOSE (R343, R344, R346, R347): a register that is not as the instruction
needs it, or a bad operand, raises its trap; MOPEN opens an array at a canonical address that is a multiple of 8; a combining
instruction binds its two sources to a new stream, after the MNEXT.sts on them. MNEXT.st is an operation in flight (R325): at its
completion it writes up to M pairs, each consumed when it is written, and its result is their number; an earlier one on its
register goes first (R342). MCLOSE closes the register and its sources, after the MNEXT.sts on them. MNEXT is a collective
(R345). -/
def Obligations.MergeInstructions : Prop :=
  ∀ (s : State) (th : Thread) (x : X) (md ma mb : Fin 8) (ty : Ty) (colour : Fin 8) (d a b c : Opd),
    let rs := (s.team th.team).merge
    (s.Runs th (.mopen x md a b) →
      let va := s.rd64 th a
      (mreg rs md.val ≠ .closed → s.Ends (.mopen x md a b) th s (.trap .reservedField th.pc)) ∧
      (mreg rs md.val = .closed →
        (canonicalVa va.toNat = false → s.Ends (.mopen x md a b) th s (.trap .notPresent va)) ∧
        (canonicalVa va.toNat = true →
          (va.toNat % 8 ≠ 0 → s.Ends (.mopen x md a b) th s (.trap .alignment va)) ∧
          (va.toNat % 8 = 0 → s.Ends (.mopen x md a b) th
            (s.setMreg th.team md (.array va (s.rd32 th b).toNat 0 none none)) .next)))) ∧
    (∀ (i : Instr) (op : Fin 4) (t : Ty), (i, op, t) ∈ [(.mint x md ma mb, 0, .none), (.muni x md ma mb, 1, .none),
        (.msub x md ma mb, 2, .none), (.mmadd x ty md ma mb, 3, ty)] → s.Runs th i →
      let z := (s.settleMerge th.team ma).settleMerge th.team mb
      let rs := (z.team th.team).merge
      let good := md ≠ ma ∧ md ≠ mb ∧ ma ≠ mb ∧ mreg rs md.val = .closed ∧ (mreg rs ma.val).usable = true ∧
        (mreg rs mb.val).usable = true
      (z.mergeBusy th.team ma.val = true → s.Ends i th z (.stall (.merge ma.val))) ∧
      (z.mergeBusy th.team ma.val = false → z.mergeBusy th.team mb.val = true → s.Ends i th z (.stall (.merge mb.val))) ∧
      (z.mergeBusy th.team ma.val = false → z.mergeBusy th.team mb.val = false →
        (¬good → s.Ends i th z (.trap .reservedField th.pc)) ∧
        (good → s.Ends i th (((z.setMreg th.team ma ((mreg rs ma.val).bind md)).setMreg th.team mb
          ((mreg rs mb.val).bind md)).setMreg th.team md (.stream op ma mb t none none)) .next))) ∧
    (s.Issues th (.mnext x ma d c) → s.Ends (.mnext x ma d c) th (s.meet th (.mnext x ma d c) (th.psel x.g)).1 .gone) ∧
    (s.Runs th (.mnextSt x colour ma d b c) →
      (s.flagFull th (th.flagOf x.sb) = true → s.Ends (.mnextSt x colour ma d b c) th s (.stall (.flag (th.flagOf x.sb)))) ∧
      (s.flagFull th (th.flagOf x.sb) = false →
        let va := (s.rd64 th b).toNat
        let m := (s.rd32 th c).toNat
        (va % 8 ≠ 0 → s.Ends (.mnextSt x colour ma d b c) th s (.trap .alignment (dword va))) ∧
        (va % 8 = 0 →
          ((2 ^ 24 < m ∨ (mreg rs ma.val).usable = false) →
            s.Ends (.mnextSt x colour ma d b c) th s (.trap .reservedField th.pc)) ∧
          (m ≤ 2 ^ 24 → (mreg rs ma.val).usable = true →
            ∃ (o : Op) (z : State), s.Engages (.mnextSt x colour ma d b c) th x o .engineOpComplete z ∧ o.data = [va, m] ∧
              o.progress = 0)))) ∧
    (∀ o, s.op? o.id = some o → (s.ctx o.ctx).frozen = false → o.instr = .mnextSt x colour ma d b c →
      (s.mergeBehind o ma.val = true → exec (.engineOpComplete o.id) s = .next (s.later (.engineOpComplete o.id))) ∧
      (s.mergeBehind o ma.val = false → ∀ r k e,
        s.mStore o colour ma.val (o.data.getD 1 0 - o.progress) o.progress = (r, k, e) →
        exec (.engineOpComplete o.id) s = .next (match e with
          | some (some f) => r.opDone { o with fault := some (f.1, dword f.2) }
          | _ => r.opDone { o with writes := runWrites d [word k] })) ∧
      ∀ k r p l rs, s.mTake (s.team o.team).home o.ctx o.priv (s.team o.team).merge ma.val 1 = (r, p :: l, rs, none) →
        let va := (o.data.getD 0 0 + 8 * k) % 2 ^ 64
        ∀ q e, r.engWrite (engTlb (s.team o.team).home) o.ctx o.priv .write va (leBytes 4 p.1.toNat ++ leBytes 4 p.2.toNat) = (q, e) →
          (∀ f, e = .error f → s.mStore o colour ma.val 1 k = (q, k, some (some f))) ∧
          (e = .ok () → s.mStore o colour ma.val 1 k =
            ((q.checkedWrite o.team (tagG va) (some colour)).modTeam o.team fun t => { t with merge := rs }, k + 1, none))) ∧
    (s.Runs th (.mclose x ma) →
      let busy := ∃ o ∈ s.ops, o.team = th.team ∧ ∃ y col m e f g, o.instr = .mnextSt y col m e f g ∧ m.val ∈ mTree rs 8 ma.val
      ((mreg rs ma.val).isBound = true → s.Ends (.mclose x ma) th s (.trap .reservedField th.pc)) ∧
      ((mreg rs ma.val).isBound = false → busy → s.Ends (.mclose x ma) th s (.stall (.merge ma.val))) ∧
      ((mreg rs ma.val).isBound = false → ¬busy →
        s.Ends (.mclose x ma) th (s.modTeam th.team fun t =>
          { t with merge := (mTree rs 8 ma.val).foldl (fun l k => l.set k .closed) t.merge }) .next))

/-! ## Tasks -/

/-- TPOST (R349, R352, R359): an absent queue raises 0x02 with its number, and a record that breaks R349 0x02 with address 0;
with a free entry the record takes it and its operation is in flight; without one the posting waits and the thread is held, and
after 2^20 cycles it takes 0x40 at the ring base and its posting is withdrawn. TARG (R360) reads a word, a pair or the mask
2^EXT - 1 of the record of the thread's task; outside a task it raises 0x02 with address 0. -/
def Obligations.TaskInstructions : Prop :=
  ∀ (s : State) (th : Thread) (x : X) (q : Fin 16) (b d : Opd) (f : TargForm),
    let i := Instr.tpost x q b
    let ctx := (s.team th.team).ctx
    let r := s.postRec th i
    (s.Runs th i →
      (s.flagFull th (th.flagOf x.sb) = true → s.Ends i th s (.stall (.flag (th.flagOf x.sb)))) ∧
      (s.flagFull th (th.flagOf x.sb) = false →
        ((s.ctx ctx).queue? q.val = none → s.Ends i th s (.trap .reservedField (dword q.val))) ∧
        ∀ k, (s.ctx ctx).queue? q.val = some k →
          ((s.ctx ctx).taskOk r.bytes = false → s.Ends i th s (.trap .reservedField 0)) ∧
          ((s.ctx ctx).taskOk r.bytes = true →
            ((s.ctx ctx).queueFree q.val = true → ∃ (o : Op) (z : State) (k' : TaskQueue), s.Engages i th x o .engineOpComplete z ∧
              o.data = [q.val, k.tail] ∧ (z.ctx ctx).queue? q.val = some k' ∧ k'.head = k.head ∧ k'.tail = k.tail + 1 ∧
              k'.recs = k.recs ++ [{ r with q := q.val, seq := k.tail }]) ∧
            ((s.ctx ctx).queueFree q.val = false → s.Ends i th
              ((s.modCtx ctx fun c => { c with kept := c.kept ++ [⟨q.val, r, some (th.id, i)⟩] }).after (2 ^ 20) (.tpostHoldTimeout th.id))
              (.wait (.tpost s.cycle)))))) ∧
    (∀ since, s.thread? th.id = some th → th.hold = .tpost since →
      (s.nowCycle < since + 2 ^ 20 → exec (.tpostHoldTimeout th.id) s = .next s) ∧
      (since + 2 ^ 20 ≤ s.nowCycle → ∀ p k, ((s.ctxOf th).kept.find? fun p => (p.post.map (·.1)) == some th.id) = some p →
        (s.ctxOf th).queue? p.q = some k →
        let z := (s.dropHeld [th.id]).modTh th.id fun u => { u with hold := .none }
        exec (.tpostHoldTimeout th.id) s =
          .next ((z.raise th.id (plainTrap .engineFault k.ring th.pc true (z.nextId * 8))).enterFor th.id))) ∧
    (s.Runs th (.targ x f d) →
      ((s.team th.team).task = none → s.Ends (.targ x f d) th s (.trap .reservedField 0)) ∧
      ∀ r, (s.team th.team).task = some r → s.HasEffect (.targ x f d) th (match f with
        | .word k => ⟨d, [word (field r.bytes (4 * k.val) 4)], 0, none⟩
        | .pair k => ⟨d, [word (field r.bytes (4 * k.val) 4), word (field r.bytes (4 * k.val + 4) 4)], 0, none⟩
        | .ext => ⟨d, [word (2 ^ field r.bytes 22 2 - 1)], 0, none⟩))

/-- Dispatch and the end of tasks, teams and launches (R165, R353 to R357). Among the head records that fit somewhere the first
by PRIO, then queue number, is started on the first core of its search that takes it, as a team of 32 threads there, and leaves
its queue. A team ends when its last group has ended and nothing of its threads is outstanding; the lines that the team of a task
dirtied are written back, with what its publish carries on for other threads; it decrements its join unless a thread of it
failed, and is freed; then nothing of it is left. A launch whose clusters and tasks have all ended has every store performed at
home and its item reported. -/
def Obligations.TaskEvents : Prop :=
  (∀ l h, firstHead l = some h → h ∈ l ∧ ∀ y ∈ l, headBefore y h = false) ∧
  ∀ (s : State),
    (s.dropDead = s →
      let fit := s.taskHeads.filter fun h => (s.taskCores h.1 h.2.2).any fun c => s.taskFits h.2.2.bytes c
      (fit = [] → exec .taskDispatch s = .next s) ∧
      ∀ h core, firstHead fit = some h → ((s.taskCores h.1 h.2.2).find? fun c => s.taskFits h.2.2.bytes c) = some core →
        exec .taskDispatch s = .next (((s.startTask h.1 h.2.2 core).dequeue h.1 h.2.1).once .taskDispatch) ∧
        ∃ t ∈ (s.startTask h.1 h.2.2 core).teams, t.task = some h.2.2 ∧ t.home = core ∧ t.tsize = 32 ∧ t.state = .resident) ∧
    (∀ t, (s.teamOver t = false → exec (.teamEnd t) s = .next s) ∧
      (s.teamOver t = true → (s.team t).task = none →
        exec (.teamEnd t) s = .next ((s.dropTeam t).clusterOver (s.team t).cluster)) ∧
      (s.teamOver t = true → (s.team t).task ≠ none → exec (.teamEnd t) s = .next (s.once (.taskComplete t))) ∧
      (∀ u ∈ (s.dropTeam t).threads, u.team ≠ t) ∧ (∀ m ∈ (s.dropTeam t).teams, m.id ≠ t) ∧
      ((s.team t).task = none → exec (.taskComplete t) s = .next s) ∧
      ∀ r, (s.team t).task = some r →
        (s.teamOver t = false → exec (.taskComplete t) s = .next s) ∧
        (s.teamOver t = true →
          let m := s.team t
          let p := (s.writeBackTeam t).publishPassed m.lastCore
          let z := if (∃ u ∈ s.threads, u.team = t ∧ u.status = .failed) ∨ taskJoin r.bytes = 0 then p
            else p.joinStep m.ctx m.launch m.number m.lastCore (taskJoin r.bytes) r.q
          let y := z.dropTeam t
          exec (.taskComplete t) s = .next ((({ y with clusters := y.clusters.filter fun c => c.id != m.cluster } : State).countTask
            m.launch false).once .taskDispatch))) ∧
    (∀ n, s.launches.find? (fun l => l.id == n) = none → exec (.gridEnd n) s = .next s) ∧
    ∀ l, s.launches.find? (fun y => y.id == l.id) = some l →
      ((l.done = true ∨ l.left ≠ 0 ∨ l.tasks ≠ 0) → exec (.gridEnd l.id) s = .next s) ∧
      (l.done = false → l.left = 0 → l.tasks = 0 →
        let z := ((s.l1.map L1Line.core).eraseDups.foldl (fun z c => z.publishCore c 0xFF) s).modLaunch l.id fun y => { y with done := true }
        exec (.gridEnd l.id) s = .next (z.itemEnd l.session l.queue l.seq (match l.failed with | some c => causeCode c | none => 0)
          (leBytes 8 l.number.toNat)))

/-! ## Duplex streams -/

/-- DAPPEND, DCUT, DCKPT, DTAKE and DCURS (R366, R368 to R373, R463): the checks of the object address come first, and an
address at which no stream of the context is bound raises 0x02; then the operation is in flight, with its registers. DAPPEND
appends under the current cut, which raises G by 1 and writes the token at entry G mod OUT_CAP, else it counts a stale one or
answers 2 or 3; DCUT makes the cursor the new G, raises K, drops the checkpoints beyond it and logs the cut, or faults with a
full log; DCKPT sets or clears a slot, no position beyond G; DTAKE takes the next log entry or gives zeros; DCURS changes
nothing. -/
def Obligations.DuplexInstructions : Prop :=
  (
    ∀ (s : State) (th : Thread) (x : X) (ret trap clr : Bool) (d a b c : Opd) (n : Fin 8),
      let app := Instr.dappend x ret trap d a b c
      let cut := Instr.dcut x ret d a
      let ckpt := Instr.dckpt x clr a b c n
      let take := Instr.dtake x d a
      let curs := Instr.dcurs x d a
      let obj := s.rd64 th a
      (∀ i ∈ [app, cut, ckpt, take, curs], s.Runs th i → (i = take → s.op? s.nextId = none) →
        (s.flagFull th (th.flagOf x.sb) = true → s.Ends i th s (.stall (.flag (th.flagOf x.sb)))) ∧
        (s.flagFull th (th.flagOf x.sb) = false →
          (canonicalVa obj.toNat = false → s.Ends i th s (.trap .notPresent obj)) ∧
          (canonicalVa obj.toNat = true → obj.toNat % 256 ≠ 0 → s.Ends i th s (.trap .alignment obj)) ∧
          (canonicalVa obj.toNat = true → obj.toNat % 256 = 0 →
            s.stream? (s.team th.team).ctx obj = none →
            s.Ends i th s (.trap .reservedField obj)))) ∧
      (s.flagFull th (th.flagOf x.sb) = false → canonicalVa obj.toNat = true → obj.toNat % 256 = 0 → ∀ y, s.stream? (s.team th.team).ctx obj = some y →
        let old := y.ckpt.getD n.val (0, 0)
        let pos := s.rd64 th b
        (∀ i v regs, (i, v, regs) ∈
            [(app, (y.append ret trap (s.rd32 th b) (s.rd32 th c)).x, (y.append ret trap (s.rd32 th b) (s.rd32 th c)).regs),
             (cut, (y.cut 4).x, if ret then [word (y.cut 4).x.k, word (y.cut 4).rslot, word (y.cut 4).gap] else []),
             (ckpt, { y with ckpt := y.ckpt.set n.val (if clr then (old.1 &&& 0x7FFFFFFFFFFFFFFF, old.2)
               else (pos ||| 0x8000000000000000, s.rd64 th c)) }, []),
             (curs, y, y.snapshot)] → s.Runs th i →
          (i = cut → y.room ≠ 0) → (i = ckpt → clr = true ∨ pos.toNat ≤ y.g) →
          ∃ (o : Op) (z : State), s.Engages i th x o .engineOpComplete z ∧ o.writes = runWrites (if i = ckpt then .k 0 else d) regs ∧
            z.stream? y.ctx obj = some v) ∧
        (s.Runs th cut → y.room = 0 → ∃ (o : Op) (z : State), s.Engages cut th x o .engineOpComplete z ∧ o.writes = [] ∧
          o.fault = some (.engineFault, obj) ∧ z.streams = s.streams) ∧
        (s.Runs th ckpt → clr = false → y.g < pos.toNat → ∃ (o : Op) (z : State), s.Engages ckpt th x o .engineOpComplete z ∧
          o.fault = some (.engineFault, obj) ∧ z.streams = s.streams) ∧
        (s.Runs th take → y.logWr ≤ y.logRd → ∃ (o : Op) (z : State), s.Engages take th x o .engineOpComplete z ∧
          o.writes = runWrites d (List.replicate 8 0) ∧ z.stream? y.ctx obj = some y) ∧
        (s.Runs th take → y.logRd < y.logWr → ∀ r bs,
          s.engRead duTlb y.ctx true ((y.logBase.toNat + 32 * ((y.logRd + 1) % y.logCap)) % 2 ^ 64) 32 = (r, .ok bs) →
          ∃ (o : Op) (z : State), s.Engages take th x o .engineOpComplete z ∧ o.writes = runWrites d (words4 8 bs) ∧
            z.stream? y.ctx obj = some { y with logRd := y.logRd + 1 }) ∧
        (s.Runs th take → y.logRd < y.logWr → s.op? s.nextId = none → ∀ r f,
          s.engRead duTlb y.ctx true ((y.logBase.toNat + 32 * ((y.logRd + 1) % y.logCap)) % 2 ^ 64) 32 = (r, .error f) →
          ∃ (o : Op) (z : State), s.Engages take th x o .engineOpComplete z ∧ o.writes = [] ∧
            o.fault = some (f.1, dword f.2) ∧ z.streams = s.streams))) ∧
  (
    ∀ (y : Stream) (ret trap : Bool) (tok cut : Word) (flags : Nat),
      let r := y.append ret trap tok cut
      let st := if cut.toNat < y.k then 1 else if y.k < cut.toNat then 2 else if y.outCap ≤ y.g - y.p then 3 else 0
      (ret = true → r.regs = [word st, word y.g]) ∧ (ret = false → r.regs = []) ∧
      (st = 0 → r.x = { y with g := y.g + 1 } ∧ r.trap = none ∧ r.ws.head? =
        some ((y.outBase.toNat + 4 * (y.g % y.outCap)) % 2 ^ 64, leBytes 4 tok.toNat)) ∧
      (st ≠ 0 → r.ws = [] ∧ r.x = { y with nstale := if st = 1 then (y.nstale + 1) % 2 ^ 32 else y.nstale } ∧
        (trap = true → r.trap = some (if st = 1 then .staleCut else .engineFault)) ∧ (trap = false → r.trap = none)) ∧
      let z : Stream := (y.cut flags).x
      z = { y with g := y.p, k := (y.k + 1) % 2 ^ 32, logWr := y.logWr + 1, ckpt := z.ckpt } ∧ z.ckpt.length = y.ckpt.length ∧
      ∀ (n : Nat) c, y.ckpt[n]? = some c → ∃ c', z.ckpt[n]? = some c' ∧ c'.2 = c.2 ∧
        ckptPos c' = (ckptPos c).bind fun p => if p ≤ y.p then some p else none)

/-! ## The exchange engine -/

/-- XLIST, XSEND and XRECV (R426, R429 to R434): the checks of the descriptor's address, its read and its fields come first, in
this order. XLIST then appends to its peer's list, which faults when it is full, and its result is the entry's number; XSEND
takes the entries of its peers, and one for a peer beyond the table raises 0x02; XRECV raises 0x02 for a count that is not 1 to
255, a bound buffer or no valid object, and else binds the buffer. -/
def Obligations.ExchangeInstructions : Prop :=
  ∀ (s : State) (th : Thread) (x : X) (fin ret : Bool) (d a b c : Opd),
    let xl := Instr.xlist x ret d a b c
    let xs := Instr.xsend x fin ret d a b
    let xr := Instr.xrecv x a b c
    let va := s.rd64 th a
    let ctx := (s.team th.team).ctx
    (∀ i ∈ [xl, xs, xr], s.Runs th i → s.flagFull th (th.flagOf x.sb) = true →
      s.Ends i th s (.stall (.flag (th.flagOf x.sb)))) ∧
    (s.flagFull th (th.flagOf x.sb) = false →
      (∀ i ok, (i, ok) ∈ [(xl, xdOk), (xs, xdOk), (xr, rbufOk)] → s.Runs th i →
        (canonicalVa va.toNat = false → s.Ends i th s (.trap .notPresent va)) ∧
        (canonicalVa va.toNat = true → va.toNat % 64 ≠ 0 → s.Ends i th s (.trap .alignment va)) ∧
        (canonicalVa va.toNat = true → va.toNat % 64 = 0 → ∀ r e, s.engRead xTlb ctx th.privileged va.toNat 64 = (r, e) →
          (∀ f, e = .error f → s.Ends i th r (.trap f.1 (dword f.2))) ∧
          (∀ bs, e = .ok bs → ok bs = false → s.Ends i th r (.trap .reservedField va)))) ∧
      (canonicalVa va.toNat = true → va.toNat % 64 = 0 → ∀ r bs, s.engRead xTlb ctx th.privileged va.toNat 64 = (r, .ok bs) →
        (s.Runs th xl → xdOk bs = true → ∀ q n y e, r.engIssue th xl x [] bs plainSlot .engineOpComplete = (q, n) →
          q.xlistOp ctx va (xd bs) ((r.rd32 th c).toNat % 65536) ((r.rd32 th c).toNat / 65536)
            ((r.opdWords th b 2).getD 0 0).toNat ((r.opdWords th b 2).getD 1 0).toNat = (y, e) →
          (∃ (o : Op) (z : State), s.Engages xl th x o .engineOpComplete z ∧
            (∀ t, e = .ok t → o.writes = (if ret then runWrites d [word t] else []) ∧ z.xdescs = y.xdescs) ∧
            ∀ f, e = .error f → o.fault = some (f.1, dword f.2)) ∧
          ∀ t, e = .ok t → ∃ p, (q.xdesc ctx va).tail p = t ∧ t - (q.xdesc ctx va).head p ≠ (xd bs).cap ∧
            (y.xdesc ctx va).tail p = t + 1) ∧
        (s.Runs th xs → xdOk bs = true →
          let pb := (r.rd32 th b).toNat
          ((xd bs).npeer ≤ pb → pb ≠ 2 ^ 32 - 1 → s.Ends xs th r (.trap .reservedField va)) ∧
          (pb < (xd bs).npeer ∨ pb = 2 ^ 32 - 1 → r.op? r.nextId = none →
            ∃ (o : Op) (z : State), s.Engages xs th x o .engineOpComplete z ∧ o.data = [va.toNat] ∧ o.bytes = bs ∧
              ∃ e ∈ z.sends, e.op = o.id)) ∧
        (s.Runs th xr → rbufOk bs = true →
          let n := (r.rd32 th c).toNat
          ((n = 0 ∨ 255 < n) → s.Ends xr th r (.trap .reservedField va)) ∧
          (0 < n → n ≤ 255 →
            (∀ cs ad, r.barObj th .t (r.rd32 th b).toNat = .error (.fault cs ad) →
              s.Ends xr th r (.trap cs (if cs = .reservedField then va else dword ad))) ∧
            (∀ w, r.barObj th .t (r.rd32 th b).toNat = .error (.stall w) → s.Ends xr th r w.next) ∧
            ∀ t q, r.barObj th .t (r.rd32 th b).toNat = .ok (t, q) →
              let bound := field bs 44 4 = 1 ∨ ∃ k ∈ r.recvBufs, k.ctx = ctx ∧ k.addr = va
              (bound → s.Ends xr th r (.trap .reservedField va)) ∧
              (¬bound → ∃ (o : Op) (z : State), s.Engages xr th x o .engineOpComplete z ∧ o.data = objData (some (t, q)) ∧
                o.bytes = bs)))))

/-- What follows at the engines (R427, R432 to R434). The entries that the first round found full go to their second choice;
with none left the list is written back, the end markers go out and the send is over. A token for a context that is not here,
or whose exchange or size is not the buffer's, is answered as a fault; one for an open buffer with room is written to it and
admitted with its slot; a closed or full one answers full; at an unbound one it waits 2^20 cycles. An end marker counts for its
exchange. A token to a scale-out peer goes as a frame of its pair with the pair's next sequence number; while no answer comes it
is sent again with that number every 50 µs, and what is unanswered for 10 ms since it was sent, or since the pair's last answer,
is answered as a fault. That a STATE above 2 answers as a fault is the model's choice (log 66), and so is whether a peer answers
(log 12). -/
def Obligations.ExchangeEvents : Prop :=
  ∀ (s : State),
    (∀ op l, (s.send? op = none ∨ s.op? op = none) → exec (.xsendRound2 op l) s = .next s) ∧
    (∀ op l r o, s.send? op = some r → s.op? op = some o → r.round ≠ 0 → (∀ t ∈ r.toks, t.open_ = false) →
      l.length = r.toks.length →
      let again := fun (k : Nat) (t : SendTok) => r.round = 1 ∧ l.getD k .full = .full ∧ t.tok.alt ≠ 0xFFFF ∧ t.fault = false
      ((∀ k t, r.toks[k]? = some t → ¬again k t) →
        let toks := r.toks.mapIdx fun k t => if r.round = 2 ∧ t.tok.round = 1 then t else t.settle (l.getD k .full)
        let y := (s.modSend op fun r => { r with toks := toks, round := 2 }).writeBackSend o
        exec (.xsendRound2 op l) s = .next ((match o.instr with | .xsend _ true _ _ _ _ => y.sendEnds o | _ => y).sendOver op)) ∧
      ((∃ k t, r.toks[k]? = some t ∧ again k t) → ∀ sel : Nat → SendTok → Bool, (∀ k t, sel k t = true ↔ again k t) →
        let toks := r.toks.mapIdx fun k t => if sel k t then { t with resp := none, sent := none, tok := { t.tok with round := 2 } }
          else if r.round = 2 ∧ t.tok.round = 1 then t else t.settle (l.getD k .full)
        let second := (List.range toks.length).filter fun k => (r.toks[k]?.map (sel k)).getD false
        exec (.xsendRound2 op l) s = .next ((second.foldl
          (fun z k => (toks[k]?.map fun t => z.sendToken o k t.tok.alt t.tok).getD z)
          (s.modSend op fun r => { r with toks := toks, round := 2 })).sendCheck op))) ∧
    (∀ t, (s.instance? t.dctx = none → exec (.tokenArrival t) s = .next (s.answer t .fault)) ∧
      ∀ c r e, s.instance? t.dctx = some c → s.engRead xTlb c.id true t.rbuf.toNat 64 = (r, e) →
        (∀ f, e = .error f → exec (.tokenArrival t) s = .next (r.answer t .fault)) ∧
        ∀ b, e = .ok b →
          let st := field b 44 4
          let fill := field b 24 4
          let same := field b 20 4 = t.xid ∧ field b 16 4 = t.psz
          (st = 0 → c.preemptCtl.toNat / 2 ^ 29 = 2 → exec (.tokenArrival t) s = .next (r.answer t .full)) ∧
          (st = 0 → c.preemptCtl.toNat / 2 ^ 29 ≠ 2 → exec (.tokenArrival t) s = .next { r with
            nextId := r.nextId + 1, heldToks := r.heldToks ++ [⟨r.nextId, t, r.cycle⟩],
            timers := r.timers ++ [(r.cycle + 2 ^ 20, .tokenHoldTimeout r.nextId)] }) ∧
          (st ≠ 0 → (2 < st ∨ ¬same) → exec (.tokenArrival t) s = .next (r.answer t .fault)) ∧
          ((st = 1 ∨ st = 2) → same → (st = 2 ∨ fill = field b 12 4) → exec (.tokenArrival t) s = .next ((if t.round = 2 ∨ t.alt = 0xFFFF then
            (r.rbufSet c.id t.rbuf.toNat fill (field b 28 4) (field b 32 4) (field b 36 4 + 1) (field b 40 4) st).1
            else r).answer t .full)) ∧
          (st = 1 → same → fill ≠ field b 12 4 → ∀ q w, r.engWrite xTlb c.id true .write
              ((field b 0 8 + fill * (32 + t.psz)) % 2 ^ 64) (headerBytes t t.round fill ++ t.payload) = (q, w) →
            (∀ f, w = .error f → exec (.tokenArrival t) s = .next ((q.sealStop c.id f).answer t .fault)) ∧
            (w = .ok () → ∀ y, (q.rbufSet c.id t.rbuf.toNat (fill + 1) (field b 28 4) (field b 32 4) (field b 36 4)
                (if t.round = 2 then field b 40 4 + 1 else field b 40 4) st).1 = y →
              let group := 32 * (32 + t.psz)
              let mine := y.recvBufs.find? fun k => k.ctx == c.id && k.addr == t.rbuf
              ((mine = none ∨ (fill + 1) % 32 ≠ 0) → exec (.tokenArrival t) s = .next (y.answer t (.admitted fill))) ∧
              ∀ k, mine = some k → (fill + 1) % 32 = 0 → exec (.tokenArrival t) s =
                .next (({ y.credit (some (k.team, k.off)) group with
                  recvBufs := (y.credit (some (k.team, k.off)) group).recvBufs.map fun j =>
                    if j.op = k.op then { j with credited := j.credited + group } else j } : State).answer t (.admitted fill))))) ∧
    (∀ dctx xid peer, (s.instance? dctx = none → exec (.endMarkerArrival dctx xid peer) s =
        .next (s.send (.endMarkerAck peer dctx xid false))) ∧
      ∀ c, s.instance? dctx = some c →
        let marks := s.endMarks.filter fun e => !(e.1 == dctx && e.2.1 == xid)
        let q : State := { s with endMarks := marks ++ [(dctx, xid, s.endsOf dctx xid + 1)] }
        let count := fun (z : State) (k : RecvBuf) => match z.engRead xTlb k.ctx true k.addr.toNat 64 with
          | (r, .error _) => r
          | (r, .ok b) => if field b 20 4 ≠ xid then r else
            let y := (r.rbufSet k.ctx k.addr.toNat (field b 24 4) (field b 28 4) (field b 32 4 + 1) (field b 36 4) (field b 40 4)
              (field b 44 4)).1
            if field b 28 4 ≤ field b 32 4 + 1 then y.closeRecv k else y
        q.endsOf dctx xid = s.endsOf dctx xid + 1 ∧ exec (.endMarkerArrival dctx xid peer) s =
          .next ((s.recvBufs.foldl (fun z k => if (z.ctx k.ctx).dctx = dctx then count z k else z) q).send
            (.endMarkerAck peer dctx xid true))) ∧
    (∀ n, s.heldToks.find? (fun k => k.id == n) = none → exec (.tokenHoldTimeout n) s = .next s) ∧
    (∀ k, s.heldToks.find? (fun j => j.id == k.id) = some k → exec (.tokenHoldTimeout k.id) s =
      .next (if s.nowCycle < k.since + 2 ^ 20 then s else
        ({ s with heldToks := s.heldToks.filter fun j => j.id != k.id } : State).answer k.tok .fault)) ∧
    (∀ (o : Op) k e tok r p pe rbuf q pay, s.expertOf o.ctx (xd o.bytes) e = (r, .ok (p, pe, rbuf)) → pe.kind = 2 →
      r.engRead xTlb o.ctx o.priv (((xd o.bytes).payBase + tok.token * (xd o.bytes).psz) % 2 ^ 64) (xd o.bytes).psz = (q, .ok pay) →
      let z := s.sendToken o k e tok
      (∃ t, .token (.frame pe.wire (q.pair pe.wire).seq) t ∈ z.outbox ∧ t.payload = pay ∧ t.token = tok.token ∧ t.seq = tok.seq) ∧
      (z.pair pe.wire).seq = (q.pair pe.wire).seq + 1 ∧
      (Config.freeBool (q.freeCount * 2 ^ 20 + 2 ^ 19 + k) = false →
        (q.cycle + 50 * Config.cyclesPerUs, .exchangeRetransmit p) ∈ z.timers ∧
        (q.cycle + 10 * Config.cyclesPerMs, .peerUnreachable o.id p) ∈ z.timers)) ∧
    (∀ w n since last,
      s.silent ⟨.frame w n, since, last⟩ = decide (since + 10 * Config.cyclesPerMs ≤ s.cycle ∧
        (s.pair w).heard + 10 * Config.cyclesPerMs ≤ s.cycle) ∧
      s.resends ⟨.frame w n, since, last⟩ = decide (last + 50 * Config.cyclesPerUs ≤ s.cycle)) ∧
    (∀ p, let waits := fun (r : SendRec) (t : SendTok) (m : Sent) =>
        t ∈ r.toks ∧ t.sent = some m ∧ t.open_ = true ∧ t.peer = p ∧ s.resends m = true
      (∃ z : State, exec (.exchangeRetransmit p) s = .next z ∧
        (∀ r ∈ s.sends, ∀ t m, waits r t m → .token m.dest t.tok ∈ z.outbox) ∧
        (∀ r ∈ s.sends, ∀ o m, s.op? r.op = some o → (r.ends.find? fun e => e.1 == p && s.resends e.2) = some (p, m) →
          .endMarker m.dest (s.ctx o.ctx).dctx (xd o.bytes).xid ∈ z.outbox) ∧
        ∀ y ∈ s.xfers, y.peer = p → s.resends y.sent = true → .transfer y.sent.dest y.dctx y.va y.data ∈ z.outbox) ∧
      ((∀ y ∈ s.xfers, y.peer = p → s.resends y.sent = false) →
        (∀ r ∈ s.sends, (∀ e ∈ r.ends, e.1 = p → s.resends e.2 = false) ∧ ∀ t m, ¬waits r t m) →
        exec (.exchangeRetransmit p) s = .next s) ∧
      ∀ r t m, s.sends = [r] → r.toks = [t] → r.ends = [] → s.xfers = [] → waits r t m →
        let w : State := { s with
          outbox := s.outbox ++ [.token m.dest t.tok]
          sends := [{ r with toks := [{ t with sent := some { m with last := s.cycle } }] }] }
        exec (.exchangeRetransmit p) s = .next (if Config.freeBool (s.freeCount * 2 ^ 20) then
          (w.respond r.op 0 (s.freeResp 0)).hear m.dest
          else w.afterOnce (50 * Config.cyclesPerUs) (.exchangeRetransmit p))) ∧
    (∀ op p, s.send? op = none → exec (.peerUnreachable op p) s = .next s) ∧
    ∀ op p r, s.send? op = some r →
      let late := fun (t : SendTok) => t.open_ && t.peer == p && t.sent.any s.silent
      let w := ((r.toks.zipIdx.filter fun t => late t.1).map (·.2)).foldl (fun z k => z.respond op k .fault) s
      ((∀ e ∈ r.ends, e.1 = p → s.silent e.2 = false) → exec (.peerUnreachable op p) s = .next w) ∧
      ((∃ e ∈ r.ends, e.1 = p ∧ s.silent e.2 = true) → exec (.peerUnreachable op p) s = .next ((w.modSend op fun r => { r with
        ends := r.ends.filter (·.1 != p), endFault := some (min p (r.endFault.getD p)) }).sendOver op)) ∧
      w.send? op = some { r with toks := r.toks.map fun t => if late t then { t with fault := true } else t }

/-! ## Scheduling and pre-emption -/

/-- A clause start (R33, R49 to R51, R387, R459): a frozen context's thread does not go on. A native PC that is none, a fetch
that fails, and a line that CheckLine rejects, raise their cause with RES 0 at the entry PC, and no slot issues; then a held
fault of a flag that WAIT names is delivered, a WAIT on a flag that is not 0 holds the thread with the line that it fetched, and
else the clause opens; a thread that WAIT held goes on with the line that it keeps. Parity is even. -/
def Obligations.ClauseStart : Prop :=
  (∀ b : BitVec 512, parityBad b = false ↔
    ((List.range 256).countP (fun k => b.getLsbD k) + (b.getLsbD 510).toNat) % 2 = 0 ∧
    ((List.range 254).countP (fun k => b.getLsbD (256 + k)) + (b.getLsbD 511).toNat) % 2 = 0) ∧
  (∀ (b : BitVec 512) (k : Nat) (byTransfer : Bool), k < 5 →
    let seta := bitsAt (lineWord b) 12 4
    let setb := bitsAt (lineWord b) 16 4
    let marks := seta ∈ [12, 13, 14] ∨ setb ∈ [12, 13, 14] ∨ (b.getLsbD 509 = true ∧ b.getLsbD 500 = false)
    (parityBad b = true → checkLine b k byTransfer = some .lineParity) ∧
    (parityBad b = false → marks → checkLine b k byTransfer = some .reservedField) ∧
    (parityBad b = false → ¬marks → checkLine b k byTransfer =
      if byTransfer = true ∧ b.getLsbD (500 + k) = false then some .illegalTarget else none)) ∧
  ∀ (s : State) (th : Thread), s.cur = some th →
    let keeps := fun (r : State) (b : BitVec 512) => r.modTh th.id fun u => { u with clause := some (.line b) }
    let opens := fun (r : State) (c : Clause) => r.modTh th.id fun u => { u with clause := some c, entered := true }
    let begins := fun (r : State) (b : BitVec 512) =>
      (∀ f, th.namedFault (lineWait b) = some f →
        exec .clauseStart s = .next ((r.deliver th.id f r.trapStamp).finish th.id .gone)) ∧
      (th.namedFault (lineWait b) = none →
        (th.flagBits &&& lineWait b ≠ 0 → exec .clauseStart s = .next ((keeps r b).finish th.id .retry)) ∧
        (th.flagBits &&& lineWait b = 0 →
          ((b.getLsbD 509 = false ∨ th.pc.toNat % 8 ≠ 0) → exec .clauseStart s = .next (opens r (.line b))) ∧
          (b.getLsbD 509 = true → th.pc.toNat % 8 = 0 → (r.notePoint th).mayMove th (lineWait b) = false →
            exec .clauseStart s = .next (opens (r.notePoint th) (.line b)))))
    (s.stopped th = true → exec .clauseStart s = .next (s.finish th.id .retry)) ∧
    (s.stopped th = false → th.portable = false →
      (∀ b, th.clause = some (.line b) → begins s b) ∧
      ((∀ b, th.clause ≠ some (.line b)) →
        (nativePc th.pc.toNat = false → exec .clauseStart s = .next (s.startTrap th .illegalTarget th.pc)) ∧
        (nativePc th.pc.toNat = true → ∀ r e, s.fetchLine th = (r, e) →
          (∀ c a, e = .error (c, a) → exec .clauseStart s = .next (r.startTrap th c (dword a))) ∧
          ∀ b, e = .ok b →
            (∀ c, checkLine b (th.pc.toNat % 8) th.byTransfer = some c → exec .clauseStart s = .next (r.startTrap th c th.pc)) ∧
            (checkLine b (th.pc.toNat % 8) th.byTransfer = none → begins r b)))) ∧
    (s.stopped th = false → th.portable = true → ∀ r e, s.fetchWords th th.pc.toNat 2 = (r, e) →
      (∀ c a, e = .error (c, a) → exec .clauseStart s = .next (r.startTrap th c (dword a))) ∧
      ∀ b q e', e = .ok b → r.fetchWords th (th.pc.toNat + 8) (portableLen (leNat b) / 4 - 2) = (q, e') →
        (∀ c a, e' = .error (c, a) → exec .clauseStart s = .next (q.startTrap th c (dword a))) ∧
        ∀ b', e' = .ok b' → th.pushBlock = false →
          let line := Clause.portable (BitVec.ofNat 128 (leNat (b ++ b')))
          (q.pointOf th th.pc = none → exec .clauseStart s = .next (opens q line)) ∧
          (q.pointOf th th.pc ≠ none → ∀ u, q.th th.id = u → (q.notePoint u).mayMove u 0 = false →
            exec .clauseStart s = .next (opens (q.notePoint u) line)))

/-- A bundler pass (R158 to R160): the clock goes on to the next multiple of 4, and each core selects at most two bundles, each
of threads of one group at one PC that may issue and whose line is in the core's instruction cache. The other events of
scheduling (R120, R151 to R156, R158, R164, R168, R169, R353, R394, R395): the end of a SLEEP; a filled line; the first pending
cluster of a die, placed or left; the waiting groups of a core's glade, then its candidates and one task that fits, tried in their
order, and a park for the first candidate that does not fit; the places of a parked team, freed; the next entry of a group's
handler; a handler that has run for its limit, which fails with 0x34; and a team stall: after 2^20 cycles of a counting stall
counter every thread takes 0x30 where it is parked, its group's speculation rolled back first, and a parked team becomes ready. -/
def Obligations.SchedulingEvents : Prop :=
  (
    ∀ (s : State),
      (∃ t, exec .bundlerPass s = .next t ∧ t.cycle = (s.cycle / 4 + 1) * 4) ∧
      ∀ core, (s.corePass core).issues.length ≤ s.issues.length + 2 ∧
        let on := fun (u : Thread) => (s.hosted core).any fun g => g.id == u.group
        let e := (s.threads.filter on).foldl State.endStall s
        let r := (e.threads.filter on).foldl (fun z u => z.holdAtStart core u) e
        r.issues = s.issues ∧ r.icache = s.icache ∧ (∀ n, (r.thread? n).map Thread.pc = (s.thread? n).map Thread.pc) ∧
        ∀ i ∈ (s.corePass core).issues, i ∉ s.issues → i.core = core ∧ i.left = 4 ∧ i.done = [] ∧ ∃ g pc, ∀ t ∈ i.todo, ∃ u ∈ r.threads,
          u.id = t ∧ u.group = g ∧ u.pc = pc ∧ r.ready u = true ∧ (core, u.line) ∈ s.icache) ∧
  (
    ∀ (s : State) (th : Thread) (core die g t : Nat) (line : DWord),
      (∀ w, s.thread? th.id = some th → th.hold = .sleep w → exec (.sleepEnd th.id) s =
        .next (if w ≤ s.nowCycle then s.modTh th.id fun u => { u with hold := .none } else s)) ∧
      (s.thread? t = none → exec (.sleepEnd t) s = .next s) ∧
      ((core, line) ∉ s.icacheMiss → exec (.instructionCacheFill core line) s = .next s) ∧
      ((core, line) ∈ s.icacheMiss → exec (.instructionCacheFill core line) s = .next { s with
        icacheMiss := s.icacheMiss.filter (· != (core, line)),
        icache := if (core, line) ∈ s.icache then s.icache else s.icache ++ [(core, line)] }) ∧
      (s.pending die = [] → exec (.clusterAdmit die) s = .next s) ∧
      (∀ l r q b, s.pending die = .fresh l :: r → s.admitLaunch l = (q, b) →
        exec (.clusterAdmit die) s = .next (if b then q.once (.clusterAdmit die) else q)) ∧
      (∀ c r q b, s.pending die = .back c :: r → s.restoreCluster c (s.restoreStart c) = (q, b) →
        exec (.clusterAdmit die) s = .next (if b then q.once (.clusterAdmit die) else q)) ∧
      (let q := (s.waitingRods (gladeOf core)).foldl State.placeRod s
       let cands := q.candidates core
       let parks : State → State := fun r => match cands with
         | t :: _ => if (r.team t.id).state = t.state ∧ r.candFits (r.team t.id) = false then r.parkFor core t else r
         | [] => r
       let ends : State → State := fun r => if (parks r).taskHeads = [] then parks r else (parks r).once .taskDispatch
       (firstHead (q.taskHeads.filter fun h => q.taskFits h.2.2.bytes core) = none →
         exec (.teamResident core) s = .next (ends (q.tryTeams cands))) ∧
       ∀ h, firstHead (q.taskHeads.filter fun h => q.taskFits h.2.2.bytes core) = some h →
         let first := q.tryTeams (cands.filter fun t => taskPrio h.2.2.bytes ≤ t.prio)
         let task := if first.taskFits h.2.2.bytes core = true then first.dispatchHead h else first
         exec (.teamResident core) s = .next (ends (task.tryTeams (cands.filter fun t => t.prio < taskPrio h.2.2.bytes)))) ∧
      ((s.team t).state ≠ .parking → (s.team t).state ≠ .parkingReady → exec (.parkImageWritten t) s = .next s) ∧
      (∀ m, s.teams.find? (fun x => x.id == t) = some m → m.state = .parking ∨ m.state = .parkingReady →
        ∃ z : State, exec (.parkImageWritten t) s = .next z ∧
          (z.team t).state = (if m.state = .parking then .parked else .readyParked) ∧
          (∀ x ∈ z.groups, x.id ∈ s.teamGroups t → x.resident = false) ∧ z.threads = s.threads ∧ z.mem = s.mem) ∧
      exec (.handlerEntry g) s = .next (s.afterEnd g) ∧
      ((∀ u ∈ s.liveOf g, u.handler = none) → exec (.handlerWatchdog g) s = .next s) ∧
      ∀ u h, ((s.liveOf g).find? fun u => u.handler.isSome) = some u → u.handler = some h →
        ((s.ctxOf u).watchdog = none → exec (.handlerWatchdog g) s = .next s) ∧
        ∀ n, (s.ctxOf u).watchdog = some n →
          exec (.handlerWatchdog g) s = .next (if (s.ctxOf u).frozen = true ∨
              ((s.group g).saved = true ∧ (s.group g).resident = false) ∨ s.nowCycle < h.since + n then s
            else s.failHandler g .watchdog)) ∧
  (
    ∀ (s : State) (t : Nat),
      ((s.stalling t = false ∨ (s.team t).stallAt = none) → exec (.teamStall t) s = .next s) ∧
      ∀ c, (s.team t).stallAt = some c →
        (s.nowCycle < c + 2 ^ 20 → exec (.teamStall t) s = .next s) ∧
        (c + 2 ^ 20 ≤ s.nowCycle → s.stalling t = true →
          let r := ((s.liveTeam t).map Thread.group).eraseDups.foldl State.rollbackGroup s
          let z := r.modTeam t fun m => { m with stallAt := none, blockedAt := none, state := match m.state with
            | .parked => .readyParked
            | .parking => .parkingReady
            | y => y }
          let leaves := fun (q : State) (u : Thread) => match u.hold with
            | .waitObj o k _ _ _ => q.objSet o k oWCNT (q.obj o k oWCNT + 2 ^ 32 - 1)
            | .reorder => q.withdrawReorder u.id
            | _ => q
          let traps := fun (q : State) (u : Thread) => ((leaves q u).modTh u.id fun x => { x with hold := .none }).raise u.id
            (plainTrap .teamStall (dword u.stallAddr) u.pc true (r.nextId * 8))
          exec (.teamStall t) s = .next (((r.liveTeam t).map Thread.group).eraseDups.foldl
            (fun q g => if (q.group g).resident = true then q.enterHandlers g else q.once (.teamResident (q.group g).core))
            ((r.liveTeam t).foldl traps z))) ∧
        (c + 2 ^ 20 ≤ s.nowCycle → s.stalling t = true → ∀ u a, s.liveTeam t = [u] → (s.group u.group).resident = false →
          (∀ v ∈ s.threads, v.group = u.group → v.spec = none) →
          (∃ n, u.hold = .waitj n ∧ a = n.val) ∨ (∃ o q y v d, u.hold = .waitObj o q y v d ∧ a = y) →
          ∃ r : State, exec (.teamStall t) s = .next (((r.modTh u.id fun x => { x with hold := .none }).raise u.id
              (plainTrap .teamStall (dword a) u.pc true (s.nextId * 8))).once (.teamResident (s.group u.group).core)) ∧
            r.threads = s.threads ∧ (r.team t).stallAt = none ∧
            (r.team t).state = match (s.team t).state with | .parked => .readyParked | .parking => .parkingReady | y => y))

/-- Pre-emption (R400, R401, R405, R409, R411, R412): a request for a context whose STATE is not 0 fails with 0x86; else its
ladder starts: with D1 0 at trap-save, else with a drain that ends at its deadline. A deadline that has not passed, and any in
a frozen context, does nothing. At D2, or when an image finds no room, the forced reset fails the work in flight with 0x50's
cause and STATE returns to 0. A team's image follows those of its groups. A resume needs STATE 4; images that are lost end the
work with 0x52. -/
def Obligations.PreemptionLadder : Prop :=
  ∀ (s : State) (h : Hdr) (n : Nat),
    (s.Ready h (.preempt h) → let q := s.started h (.preempt h)
      (s.ctx? h.ctx = none → exec (.preempt h) s = .next (q.itemDone h 0x84 [])) ∧
      ∀ c, s.ctx? h.ctx = some c →
        (c.stage ≠ 0 → exec (.preempt h) s = .next (q.itemDone h 0x86 [])) ∧
        (c.stage = 0 → exec (.preempt h) s =
          .next ((q.modCtx c.id fun c => { c with saveItem := some (h.session, h.queue, h.seq) }).startLadder c.id))) ∧
    (∀ c, s.ctx? n = some c →
      let r := s.modCtx n fun c => { c with preemptLive := c.preemptCtl, ladderAt := s.cycle }
      (c.preemptCtl.toNat % 256 = 0 → s.startLadder n = (r.trapSave n).admitAll) ∧
      (c.preemptCtl.toNat % 256 ≠ 0 → s.startLadder n = ((r.setStage n 1).after (c.preemptCtl.toNat % 256 * Config.cyclesPerMs)
        (.drainDeadline n)).admitAll.ladderPoll n) ∧
      (let late := c.stage = 1 ∧ c.frozen = false ∧ c.ladderAt + c.drainCycles ≤ s.nowCycle
       (late → exec (.drainDeadline n) s = .next (s.trapSave n)) ∧ (¬late → exec (.drainDeadline n) s = .next s)) ∧
      (let late := c.stage = 2 ∧ c.frozen = false ∧ c.ladderAt + c.saveCycles ≤ s.nowCycle
       (late → exec (.trapSaveDeadline n) s = .next (s.forcedReset n)) ∧ (¬late → exec (.trapSaveDeadline n) s = .next s)) ∧
      (s.forcedReset n).stageOf n = 0 ∧ (∀ m ∈ (s.forcedReset n).teams, m.ctx ≠ n) ∧ ((s.forcedReset n).ctx n).images = []) ∧
    (s.teams.find? (fun m => m.id == n) = none → exec (.teamImageWrite n) s = .next s) ∧
    (∀ m, s.teams.find? (fun m => m.id == n) = some m →
      ((s.stageOf m.ctx ≠ 2 ∨ (s.ctx m.ctx).frozen = true ∨ m.state = .saved) → exec (.teamImageWrite n) s = .next s) ∧
      (s.stageOf m.ctx = 2 → (s.ctx m.ctx).frozen = false → m.state ≠ .saved →
        let r := s.saveGroups m.ctx n
        let wait := r.stageOf m.ctx ≠ 2 ∨ r.teamGroups n = [] ∨ (r.team n).state = .parking ∨ (r.team n).state = .parkingReady ∨
          (∃ g ∈ r.teamGroups n, (r.group g).resident = true) ∨ ∃ o ∈ r.ops, o.team = n
        (wait → exec (.teamImageWrite n) s = .next r) ∧
        (¬wait → ∀ q b, r.saveTeam n = (q, b) → exec (.teamImageWrite n) s = .next (if b then
          ((q.modTeam n fun t => { t with state := .saved }).once (.teamResident m.home)).admitAll.savedCheck m.ctx
          else q.forcedReset m.ctx)))) ∧
    (s.Ready h (.resume h) → let q := s.started h (.resume h)
      (s.ctx? h.ctx = none → exec (.resume h) s = .next (q.itemDone h 0x84 [])) ∧
      ∀ c z code, s.ctx? h.ctx = some c → q.resumeCtx c.id = (z, code) → exec (.resume h) s = .next (z.itemDone h code [])) ∧
    (s.stageOf n ≠ 4 → s.resumeCtx n = (s, 0x86)) ∧
    (s.stageOf n = 4 → ∀ r b, s.imagesUsable n (s.ctx n).images = (r, b) →
      (b = false → s.resumeCtx n = ((r.discardWork n .imageLost).setStage n 0, 0x52)) ∧
      (b = true → (s.resumeCtx n).2 = 0))

/-- Part faults (R422, R424, R437, R438, R441, R442): one that is known changes nothing; a new one is recorded in the machine error log, held
intake messages are lost, and recovery follows within 100 ms, which mirrors the images again; a core's fault ends every team that has lost
something with it. Power states (R446): an idle part enters the deepest state whose condition holds and whose exit latency is within the
tolerance of the contexts at work, and leaves it when work arrives. The translation builder (R447 to R449): an entry that is ready joins the
objects that asked for it, one that this module is building is written with its image first, and after 100 ms one that still builds is set back
to absent. Accesses of other modules (R424, R425): answered with the bytes at home or the old value, a write with no bytes, or, where they fail,
with a fault and no write; a transfer's bytes are written and acknowledged. What the record of a part fault or of its recovery holds and what
recovery mirrors follow log 20, and where a built image stands log 21. -/
def Obligations.ModuleEvents : Prop :=
  (
    ∀ (s : State) (n : Nat),
      (∀ i f part, (i, f, part) ∈ [(Instr.hbmStackFault n, PartFault.hbm n, 1), (.dieLinkFailure n, .dieLink n, 2),
          (.canopyLinkFailure n, .canopy n, 3)] →
        (f ∈ s.partFaults → exec i s = .next s) ∧
        (f ∉ s.partFaults → exec i s = .next { s with
          partFaults := s.partFaults ++ [f], recovering := true
          errLog := s.errLog ++ [(s.cycle, 4, partBody (causeCode .memError) part n)]
          intake := s.intake.map fun q => { q with heldMsgs := [] },
          timers := s.timers ++ [(s.cycle + 100 * Config.cyclesPerMs, .partFaultRecovery)] })) ∧
      (s.recovering = false → exec .partFaultRecovery s = .next s) ∧
      (s.recovering = true → ∀ l f, s.partFaults = l ++ [f] → exec .partFaultRecovery s =
        .next { s with
          recovering := false, mended := s.mended ++ s.mirrors
          errLog := s.errLog ++ [(s.cycle, 4, partBody 0 f.code.1 f.code.2)] }) ∧
      (((s.core n).failed = true ∨ 1152 ≤ n) → exec (.corePartFault n) s = .next s) ∧
      ((s.core n).failed = false → n < 1152 → ∃ t, exec (.corePartFault n) s = .next t ∧ (t.core n).failed = true ∧
        ∀ m ∈ s.teamsOn n, ∀ k ∈ t.teams, k.id ≠ m.id)) ∧
  (
    ∀ (s : State) (p : PowerPart),
      (∀ n, s.deepest p = n → n ≤ 4 ∧ (n ≠ 0 → s.powerCond p n = true ∧ powerLatency n ≤ s.tolerance) ∧
        ∀ k, n < k → k ≤ 4 → ¬(s.powerCond p k = true ∧ powerLatency k ≤ s.tolerance)) ∧
      (s.deepest p ≤ s.powerOf p → exec (.powerStateEnter p) s = .next s) ∧
      (s.powerOf p < s.deepest p → ∃ t, exec (.powerStateEnter p) s = .next t ∧ t.powerOf p = s.deepest p ∧ t.threads = s.threads ∧
        t.mem = s.mem ∧ ∀ q, q ≠ p → t.powerOf q = s.powerOf q) ∧
      ((s.powerOf p = 0 ∨ s.powerCond p (s.powerOf p) = true) → exec (.powerStateExit p) s = .next s) ∧
      (s.powerOf p ≠ 0 → s.powerCond p (s.powerOf p) = false → ∃ t, exec (.powerStateExit p) s = .next t ∧ t.powerOf p = 0 ∧
        t.threads = s.threads ∧ t.mem = s.mem ∧ ∀ q, q ≠ p → t.powerOf q = s.powerOf q)) ∧
  (
    ∀ (s : State) (key : List Byte) (kind : CoreKind) (image : DWord) (size : Nat),
      (s.xreqs.find? (fun r => r.key == key && r.kind == kind) = none → exec (.translationBuildComplete key kind image size) s = .next s) ∧
      (∀ r, s.xreqs.find? (fun r => r.key == key && r.kind == kind) = some r →
        let e := s.xEntry r
        (e.take 32 ≠ key → exec (.translationBuildComplete key kind image size) s = .next s) ∧
        (e.take 32 = key →
        let good := fun a n : Nat => a % 64 = 0 ∧ n ≠ 0 ∧ n % 64 = 0 ∧ paMapped a = true ∧ paMapped (a + n - 1) = true
        let join := fun (z : State) (a n : Nat) => (s.xreqs.filter fun y => y.key == key && y.kind == kind).foldl
          (fun z y => z.modCtx y.ctx fun c => { c with objs := c.objs.map fun o => o.join y a n })
          { z with xreqs := s.xreqs.filter fun y => !(y.key == key && y.kind == kind) }
        let mine := field e 34 6 = Config.serial.toNat % 2 ^ 48
        (field e 32 1 = 2 → good (field e 40 8) (field e 48 4) →
          exec (.translationBuildComplete key kind image size) s = .next (join s (field e 40 8) (field e 48 4))) ∧
        (field e 32 1 = 2 → ¬good (field e 40 8) (field e 48 4) → exec (.translationBuildComplete key kind image size) s = .next s) ∧
        (field e 32 1 = 1 → mine → good image.toNat size →
          exec (.translationBuildComplete key kind image size) s = .next (join ((s.homePut image.toNat (builtImage key size)).homePut r.entry
            (key ++ [2] ++ slice e 33 7 ++ leBytes 8 image.toNat ++ leBytes 4 size ++ List.replicate 76 0)) image.toNat size)) ∧
        (field e 32 1 = 1 → ¬(mine ∧ good image.toNat size) → exec (.translationBuildComplete key kind image size) s = .next s) ∧
        (field e 32 1 ≠ 1 → field e 32 1 ≠ 2 → exec (.translationBuildComplete key kind image size) s = .next s))) ∧
      (∀ a bs, (∀ f, s.sealOf (f * 65536) = none) → s.homePut a bs = s.homeWrite a bs) ∧
      (s.xreqs.find? (fun r => r.key == key) = none → exec (.translationBuildTimeout key) s = .next s) ∧
      ∀ r, s.xreqs.find? (fun r => r.key == key) = some r →
        (s.nowCycle < r.since + 100 * Config.cyclesPerMs → exec (.translationBuildTimeout key) s = .next s) ∧
        ((s.xEntry r).take 32 = key → field (s.xEntry r) 32 1 = 2 → exec (.translationBuildTimeout key) s = .next s) ∧
        (r.since + 100 * Config.cyclesPerMs ≤ s.nowCycle → ¬((s.xEntry r).take 32 = key ∧ field (s.xEntry r) 32 1 = 2) →
          let builds := (s.xEntry r).take 32 = key ∧ field (s.xEntry r) 32 1 = 1
          let z := if builds then s.homePut r.entry (List.replicate 128 0) else s
          exec (.translationBuildTimeout key) s = .next { z with xreqs := s.xreqs.filter fun y => y.key != key })) ∧
  (
    ∀ (s : State) (peer pa n dctx : Nat) (bs : List Byte) (op : Aop) (ty : Ty) (b c va : DWord),
      let ans := fun (l : List Byte) => s.send (.remoteAns peer (some l))
      let bad := s.send (.remoteAns peer none)
      let can := s.homeOf pa (ty.bits / 8) = true ∧ pa % max (ty.bits / 8) 1 = 0 ∧ s.sealOf pa = none
      (s.homeOf pa n = true → exec (.remoteAccessArrival peer (.read pa n)) s = .next (ans (s.homeRead pa n))) ∧
      (s.homeOf pa n = false → exec (.remoteAccessArrival peer (.read pa n)) s = .next bad) ∧
      (s.homeOf pa 16 = true → exec (.remoteAccessArrival peer (.walk pa)) s = .next (ans (s.homeRead pa 16))) ∧
      (s.homeOf pa 16 = false → exec (.remoteAccessArrival peer (.walk pa)) s = .next bad) ∧
      (s.homeOf pa bs.length = true → s.sealOf pa = none →
        exec (.remoteAccessArrival peer (.write pa bs)) s = .next ((s.homeWrite pa bs).send (.remoteAns peer (some [])))) ∧
      ((s.homeOf pa bs.length = false ∨ s.sealOf pa ≠ none) → exec (.remoteAccessArrival peer (.write pa bs)) s = .next bad) ∧
      (can → exec (.remoteAccessArrival peer (.atom pa op ty b c)) s = .next ((s.atomHome pa op ty b.toNat c.toNat).1.send
        (.remoteAns peer (some (leBytes (ty.bits / 8) (s.atomHome pa op ty b.toNat c.toNat).2))))) ∧
      (can → exec (.remoteAccessArrival peer (.batch pa op ty b)) s =
        .next ((s.atomHome pa op ty b.toNat 0).1.send (.remoteAns peer (some [])))) ∧
      (¬can → exec (.remoteAccessArrival peer (.atom pa op ty b c)) s = .next bad ∧
        exec (.remoteAccessArrival peer (.batch pa op ty b)) s = .next bad) ∧
      (s.instance? dctx = none → exec (.transferDataArrival dctx va bs peer) s = .next bad) ∧
      ∀ x r e, s.instance? dctx = some x → s.engWrite xTlb x.id true .write va.toNat bs = (r, e) →
        (e = .ok () → exec (.transferDataArrival dctx va bs peer) s = .next (r.send (.transferAck peer))) ∧
        ∀ f, e = .error f → exec (.transferDataArrival dctx va bs peer) s = .next ((r.sealStop x.id f).send (.remoteAns peer none)))

/-! ## The host, the Ranger and reset -/

/-- The intake protocol (R248, R435 to R439, R464): on an open session and queue, a message with the expected number is taken and acknowledged,
with the launch number that it draws, one more than the counter held, or refused as busy with 4,096 log entries in use; one up to 63 ahead is
held; an old one is acknowledged again; any other is answered with the expected number; a frozen session answers with FREEZE. An item is
performed when it stands ready in its queue; one of a context that does not exist fails with report code 0x84. An item that has ended is reported
once every earlier one has been, and again every millisecond until its acknowledgement frees its entry. A reserved type fails with report code
0x80. -/
def Obligations.IntakeProtocol : Prop :=
  (
    ∀ (s : State) (h : Hdr) (i : Instr) (x : Session), s.sessions.find? (fun x => x.id == h.session) = some x →
      let k := s.intakeQ h.session h.queue
      let e := k.expected
      (x.frozen = true → s.arriveMsg h i = s.sessionFreeze x h.queue h.seq) ∧
      (x.frozen = false → h.queue < 64 →
        (h.seq = e → i.isItem = true → 4096 ≤ k.used → s.arriveMsg h i = s.toHost h.session h.queue 0x81 h.seq []) ∧
        (h.seq = e → i.isItem = true → k.used < 4096 → k.heldMsgs = [] → k.log = [] →
          let n := s.launchCounter + 1
          ∃ z : State, s.arriveMsg h i = z ∧ z.Ready h i ∧ (z.intakeQ h.session h.queue).expected = e + 1 ∧
            z.outbox = (s.toHost h.session h.queue 0x80 h.seq
              (leBytes 8 s.boot ++ if i.drawsNumber then leBytes 8 (dword n).toNat else [])).outbox ∧
            z.launchCounter = (if i.drawsNumber then n else s.launchCounter) ∧ (i.drawsNumber = true → z.itemNumber h = dword n) ∧
            z.threads = s.threads ∧ z.mem = s.mem) ∧
        (e < h.seq → h.seq ≤ e + 63 → (∀ j ∈ k.heldMsgs, j.hdr.map Hdr.seq ≠ some h.seq) →
          s.arriveMsg h i = s.setIntakeQ { k with heldMsgs := k.heldMsgs ++ [i] }) ∧
        (h.seq < e → e ≤ h.seq + 4096 → s.arriveMsg h i =
          s.toHost h.session h.queue 0x80 h.seq (s.ackBody ((s.itemRec h).bind ItemRec.number))) ∧
        ((e + 63 < h.seq ∨ h.seq + 4096 < e) → s.arriveMsg h i = s.toHost h.session h.queue 0x82 h.seq (leBytes 8 e))) ∧
      (∀ (l : List ItemRec) (r : ItemRec) (code : Nat) (res : List Byte),
        s.intake.find? (fun q => q.session == h.session && q.queue == h.queue) = some k → k.log = l ++ [r] → r.seq = h.seq →
        r.state = .started → (∀ y ∈ l, y.seq ≠ h.seq ∧ (y.state = .reported ∨ y.state = .acknowledged)) →
        let done : ItemRec := { r with state := .reported, cause := code, result := res, sentAt := s.cycle }
        ∃ z : State, s.itemDone h code res = z ∧ (z.intakeQ h.session h.queue).log = l ++ [done] ∧
          z.outbox = (s.toHost h.session h.queue 0x83 h.seq
            ([if code = 0 then 1 else 2] ++ leBytes 1 code ++ leBytes 6 0 ++ res)).outbox ∧
          (s.cycle + Config.cyclesPerMs, .reportResend h.session h.queue) ∈ z.timers) ∧
      (∀ n q, (h.seq = e → x.frozen = false → h.queue < 64 → k.heldMsgs = [] → k.log = [] → q ≠ h.queue →
        ∃ z : State, exec (.reportAcknowledgement h n q) s = .next z ∧ (z.intakeQ h.session q).log =
          (s.intakeQ h.session q).log.map fun r =>
            if r.seq = n ∧ r.state = .reported then { r with state := .acknowledged } else r)) ∧
      (∀ n q, h.seq = e → x.frozen = false → h.queue < 64 → k.heldMsgs = [] →
        let kept := k.log.filter fun r => r.state != .acknowledged || h.seq < r.seq + 4096
        let r := (s.setIntakeQ { k with expected := e + 1, log := kept }).toHost h.session h.queue 0x80 h.seq (leBytes 8 s.boot)
        exec (.reportAcknowledgement h n q) s = .next ((r.ackReport h.session q n).pump h.session h.queue)) ∧
      (∀ q, let rs := (s.intakeQ h.session q).log.filter fun r => r.state == .reported && r.sentAt + Config.cyclesPerMs ≤ s.nowCycle
        (rs = [] → exec (.reportResend h.session q) s = .next s) ∧
        (rs ≠ [] → ∃ z : State, exec (.reportResend h.session q) s = .next z ∧
          (s.cycle + Config.cyclesPerMs, .reportResend h.session q) ∈ z.timers ∧
          z.outbox = (rs.foldl (fun z r => z.toHost h.session q 0x83 r.seq (reportBody r)) s).outbox ∧
          (z.intakeQ h.session q).log.map (fun r => (r.seq, r.cause, r.result)) =
            (s.intakeQ h.session q).log.map fun r => (r.seq, r.cause, r.result))) ∧
      ∀ n, s.Ready h (.reservedIntakeType h n) →
        exec (.reservedIntakeType h n) s = .next ((s.started h (.reservedIntakeType h n)).itemDone h 0x80 [])) ∧
  (
    ∀ (s : State) (h : Hdr) (i : Instr),
      (¬s.Ready h i → ∀ f : State → State,
        (¬(s.arriveMsg h i).Ready h i → s.item h i f = s.arriveMsg h i) ∧
        ((s.arriveMsg h i).Ready h i → s.item h i f = f ((s.arriveMsg h i).started h i))) ∧
      (s.Ready h i → ∀ f : State → State, s.item h i f = f (s.started h i)) ∧
      (s.Ready h i → s.ctx? h.ctx = none →
        (∃ d, i = .writeContextDescriptor h d) ∨ i = .destroyContext h ∨ (∃ a b, i = .loadCodeObject h a b) ∨
        (∃ a b, i = .seedTask h a b) ∨ (∃ a b, i = .writeMemoryVirtual h a b) ∨ (∃ a b, i = .invalidate h a b) ∨
        (∃ a b, i = .seal h a b) ∨ (∃ a b c, i = .createLog h a b c) ∨ (∃ a, i = .closeLog h a) ∨
        (∃ a, i = .bindStream h a) ∨ (∃ a, i = .unbindStream h a) ∨ (∃ a b, i = .streamCursor h a b) ∨
        (∃ a b c d e, i = .streamFrame h a b c d e) ∨ i = .resume h ∨ i = .preempt h →
        exec i s = .next ((s.started h i).itemDone h 0x84 [])) ∧
      ∀ n f g b a, i = .launch h n f g b a → s.Ready h i → s.ctx? h.ctx = none →
        exec i s = .next ((s.started h i).itemDone h 0x84 (leBytes 8 ((s.started h i).itemNumber h).toNat)))

/-- The host's accesses to memory (R244, R245, R246, R248, R262, R435, R437): a read gives the bytes at home and a write
changes them there; a failed check ends the item with its cause, and a write to a sealed frame freezes the session; an address
of the target CTX_ID 0 is physical (the reading of log 22). Invalidation drops the covered translations of the context alone and
performs what the L1s hold dirty; it waits for the reductions that used an old entry. A seal reports its number and its
measurement. -/
def Obligations.HostMemory : Prop :=
  ∀ (s : State) (h : Hdr) (a : DWord) (data : List Byte) (len : Nat),
    let wv := Instr.writeMemoryVirtual h a data
    let wp := Instr.writeMemoryPhysical h a data
    let rd := Instr.readMemory h a len
    (∀ (q : State) c, q.hostFail h (.cause c) = q.itemDone h (causeCode c) []) ∧
    (∀ (q : State) b, q.hostFail h (.sealed b) = q.freezeSession h b) ∧
    (∀ c r e, s.Ready h wv → s.ctx? h.ctx = some c →
      (s.started h wv).hostPlace c.id true (piecesOf a.toNat data.length) = (r, e) → exec wv s = .next (match e with
        | .ok ps => (r.putPieces ps data).itemDone h 0 []
        | .error f => r.hostFail h f)) ∧
    (∀ e, s.Ready h wp → (s.started h wp).physPlace true (piecesOf a.toNat data.length) = e → exec wp s = .next (match e with
      | .ok ps => ((s.started h wp).putPieces ps data).itemDone h 0 []
      | .error f => (s.started h wp).hostFail h f)) ∧
    (∀ c r e, s.Ready h rd → h.ctx ≠ 0 → s.ctx? h.ctx = some c →
      (s.started h rd).hostPlace c.id false (piecesOf a.toNat len) = (r, e) → exec rd s = .next (match e with
        | .ok ps => r.itemDone h 0 (ps.flatMap fun p => r.homeRead p.1 p.2)
        | .error f => r.hostFail h f)) ∧
    (∀ e, s.Ready h rd → h.ctx = 0 → (s.started h rd).physPlace false (piecesOf a.toNat len) = e → exec rd s = .next (match e with
      | .ok ps => (s.started h rd).itemDone h 0 (ps.flatMap fun p => (s.started h rd).homeRead p.1 p.2)
      | .error f => (s.started h rd).hostFail h f)) ∧
    (∀ c, s.Ready h (.invalidate h a len) → s.ctx? h.ctx = some c →
      let z := (s.started h (.invalidate h a len)).invalidate c.id a.toNat len
      (z.oldReds c a.toNat len = false → exec (.invalidate h a len) s = .next (z.itemDone h 0 [])) ∧
      (z.oldReds c a.toNat len = true → exec (.invalidate h a len) s = .next
        ((z.modItem h.session h.queue h.seq fun x => { x with state := .ready }).after 4 (.invalidate h a len))) ∧
      z.contexts = s.contexts ∧ z.threads = s.threads ∧ (s.L1Form → ∀ l ∈ z.l1, l.dirty = 0) ∧ ∀ t, t ∈ z.tlb ↔
        t ∈ s.tlb ∧ ¬(t.ctx = c.id ∧ t.page * 2 ^ t.size < a.toNat % 2 ^ 57 + len * 65536 ∧ a.toNat % 2 ^ 57 < (t.page + 1) * 2 ^ t.size)) ∧
    (∀ c, s.Ready h (.seal h a len) → s.ctx? h.ctx = some c → let q := s.started h (.seal h a len)
      (1024 ≤ s.seals.length → exec (.seal h a len) s = .next (q.itemDone h 0x87 [])) ∧
      (s.seals.length < 1024 →
        (q.sealRegion c.id a len = none → exec (.seal h a len) s = .next (q.itemDone h 0x85 [])) ∧
        ∀ z n m, q.sealRegion c.id a len = some (z, n, m) →
          exec (.seal h a len) s = .next (z.itemDone h 0 (leBytes 4 n ++ leBytes 4 0 ++ leBytes 64 m.toNat)))) ∧
    (∀ (q : State) (c : Nat), (a.toNat % 65536 ≠ 0 ∨ len = 0 ∨ 2 ^ 26 < len ∨ 1024 ≤ q.seals.length) → q.sealRegion c a len = none) ∧
    ∀ (q : State) (c : Nat) (z : State) n m, q.sealRegion c a len = some (z, n, m) → n = q.sealCounter ∧ z.sealCounter = q.sealCounter + 1 ∧
      ∃ r : SealRec, r ∈ z.seals ∧ r.id = n ∧ r.m = m ∧ r.ctx = c ∧ r.base = a ∧ r.pages = len

/-- Contexts, code objects, launches and task seeds (R81, R147, R148, R152, R246, R349, R352, R357, R435 to R437, R440): each
item's checks in their order with the report code of each, and its effect with the result that it reports. That CTX_ID is the
next fresh number and that load handles count from 1 is the model's choice (log 2); so is the form in which a load reports a
declared feature version above the device's (log 64). -/
def Obligations.ContextItems : Prop :=
  ∀ (s : State) (h : Hdr) (desc : List Byte),
    (s.Ready h (.createContext h desc) → let q := s.started h (.createContext h desc)
      let i := Instr.createContext h desc
      (descOk desc = false → exec i s = .next (q.itemDone h 0x80 [])) ∧
      (descOk desc = true → q.descSaveOk desc = false → exec i s = .next (q.itemDone h 0x86 [])) ∧
      (descOk desc = true → q.descSaveOk desc = true →
        (256 ≤ s.contexts.length → exec i s = .next (q.itemDone h 0x87 [])) ∧
        (s.contexts.length < 256 → exec i s = .next (({ q with
            nextId := q.nextId + 1, contexts := q.contexts ++ [descContext q.nextId desc h.session h.queue] } : State).itemDone h 0
          (leBytes 4 q.nextId ++ leBytes 4 0))))) ∧
    ∀ c, s.ctx? h.ctx = some c →
      (s.Ready h (.writeContextDescriptor h desc) → let q := s.started h (.writeContextDescriptor h desc)
        let i := Instr.writeContextDescriptor h desc
        (descOk desc = false → exec i s = .next (q.itemDone h 0x80 [])) ∧
        (descOk desc = true → (q.descSaveOk desc = false ∨ q.holdsWork c = true) → exec i s = .next (q.itemDone h 0x86 [])) ∧
        (descOk desc = true → q.descSaveOk desc = true → q.holdsWork c = false → ∃ f : Context → Context,
          exec i s = .next ((q.modCtx c.id f).itemDone h 0 []) ∧ ∀ y, let n := descContext c.id desc c.session c.queue
            ((f y).root, (f y).handles, (f y).handleCount, (f y).dctx, (f y).trapBase, (f y).saveBase, (f y).queues, (f y).lattol) =
              (n.root, n.handles, n.handleCount, n.dctx, n.trapBase, n.saveBase, n.queues, n.lattol) ∧
            (f y).slots = y.slots ∧ (f y).objs = y.objs)) ∧
      (s.Ready h (.destroyContext h) →
        exec (.destroyContext h) s = .next (((s.started h (.destroyContext h)).destroyCtx c.id).itemDone h 0 [])) ∧
      (∀ y ∈ (s.destroyCtx c.id).contexts, y.id ≠ c.id) ∧ (∀ y ∈ (s.destroyCtx c.id).teams, y.ctx ≠ c.id) ∧
      (∀ y ∈ (s.destroyCtx c.id).seals, y.ctx ≠ c.id) ∧ (∀ y ∈ (s.destroyCtx c.id).streams, y.ctx ≠ c.id) ∧
      (∀ va size, s.Ready h (.loadCodeObject h va size) → let i := Instr.loadCodeObject h va size
        ∀ r e, (s.started h i).hostPlace c.id false (piecesOf va.toNat size) = (r, e) →
          (∀ f, e = .error f → exec i s = .next (r.hostFail h f)) ∧
          ∀ ps, e = .ok ps → let b := r.readPieces ps
            (parseObject b va.toNat (c.objs.length + 1) = none → exec i s = .next (r.itemDone h 0x82 [])) ∧
            ∀ l, parseObject b va.toNat (c.objs.length + 1) = some l →
              (field b 16 8 &&& (2 ^ 64 - 1 - Config.features) ≠ 0 → exec i s = .next (r.itemDone h 0x83 [])) ∧
              (field b 16 8 &&& (2 ^ 64 - 1 - Config.features) = 0 → l.bytes = b →
                exec i s = .next ((r.makeVisible c.id ps b l).itemDone h 0 (leBytes 8 (c.objs.length + 1) ++
                  if Config.featureVersion < l.obj.version then leBytes 4 l.obj.version ++ leBytes 4 0 else [])))) ∧
      (∀ handle fidx geom spill args, let i := Instr.launch h handle fidx geom spill args
        s.Ready h i → let q := s.started h i
        let fail := fun code => q.itemDone h code (leBytes 8 (q.itemNumber h).toNat)
        (c.objs.find? (fun o => o.handle == handle) = none → exec i s = .next (fail 0x84)) ∧
        ∀ o, c.objs.find? (fun o => o.handle == handle) = some o →
          (o.funcs[fidx]? = none → exec i s = .next (fail 0x84)) ∧
          ∀ f, o.funcs[fidx]? = some f →
            (o.decl? fidx = none → exec i s = .next (fail 0x81)) ∧
            ∀ d, o.decl? fidx = some d →
              (launchOk f.kernel d geom spill.toNat = false → exec i s = .next (fail 0x81)) ∧
              (launchOk f.kernel d geom spill.toNat = true →
                let g := geomOf geom
                let die := (if g.glade < 96 then g.glade else c.startGlade) / 12
                ∃ (l : Launch) (z : State), exec i s = .next ((z.itemRuns h).once (.clusterAdmit die)) ∧ z.launches = s.launches ++ [l] ∧
                  l.ctx = c.id ∧ l.number = q.itemNumber h ∧ l.fidx = fidx ∧ l.geom = geom ∧ l.args = args ∧ l.decl = d ∧
                  l.left = g.cx * g.cy * g.cz ∧ l.next = 0 ∧ l.die = die ∧ l.done = false)) ∧
      ∀ qn r, let i := Instr.seedTask h qn r
        s.Ready h i → let q := s.started h i
        ((c.queue? qn = none ∨ c.taskOk r = false) → exec i s = .next (q.itemDone h 0x80 [])) ∧
        (c.queue? qn ≠ none → c.taskOk r = true →
          (c.queueFree qn = false → exec i s = .next q) ∧
          (c.queueFree qn = true → exec i s = .next ((q.enqueue c.id qn {
            bytes := r, owner := .item h.session h.queue h.seq (q.itemNumber h), glade := none, core := none, q := 0, seq := 0
            entryBad := false, written := false }).itemDone h 0 [])))

/-- Logs, queries and transfers (R339, R341, R427, R437), and the items on duplex streams (R361, R362, R365, R366): the checks of each in their
order with the report codes, and its result. A transfer's bytes go to the remote address in this module's instance of the domain context at once,
or are sent to another module, to a scale-out peer in the pair's next frame; one whose scale-out peer has given no answer for 10 ms fails with
0x40. BIND_STREAM binds the object that its bytes describe; the others need a stream of the context: UNBIND_STREAM ends it, the cursor rises to
the smaller of the position and G, and a frame logs its entry, with a barge after a cut, and fails with 0x88 with fewer than two entries free. -/
def Obligations.LogAndStreamItems : Prop :=
  (
    ∀ (s : State) (h : Hdr),
      (∀ c lb sb n, s.ctx? h.ctx = some c → let i := Instr.createLog h lb sb n
        s.Ready h i → let q := s.started h i
        let bad := lb.toNat % 2 ^ 20 ≠ 0 ∨ sb.toNat % 256 ≠ 0 ∨ n = 0 ∨ canonicalVa lb.toNat = false ∨ canonicalVa sb.toNat = false
        let pages := q.logPages c.id lb.toNat (16 * n) = true ∧
          q.logPages c.id (sb.toNat / 65536 * 65536) ((sb.toNat % 65536 + 256 * n + 65535) / 65536) = true
        (bad → exec i s = .next (q.itemDone h 0x80 [])) ∧
        (¬bad → ¬pages → exec i s = .next (q.itemDone h 0x86 [])) ∧
        (¬bad → pages → 256 ≤ s.logs.length → exec i s = .next (q.itemDone h 0x87 [])) ∧
        (¬bad → pages → s.logs.length < 256 → ∃ (z : State) (l : LogRec), exec i s = .next (z.itemDone h 0 (leBytes 4 l.id ++ leBytes 4 0)) ∧
          z.logs = s.logs ++ [l] ∧ l.owner = c.id ∧ l.lbase = lb ∧ l.sigbase = sb ∧ l.nseg = n ∧ l.ap = 0 ∧ l.chain = 0 ∧ l.opened = true ∧
          l.segs = 0 ∧ (∀ k ∈ s.logs, k.id ≠ l.id) ∧ l.id ≠ 0)) ∧
      (∀ c n, s.ctx? h.ctx = some c → let i := Instr.closeLog h n
        s.Ready h i → let q := s.started h i
        (s.log? n = none → exec i s = .next (q.itemDone h 0x84 [])) ∧
        ∀ l, s.log? n = some l →
          ((l.opened = false ∨ l.owner ≠ c.id) → exec i s = .next (q.itemDone h 0x84 [])) ∧
          (l.opened = true → l.owner = c.id → ∀ z e, q.closeLog l = (z, e) →
            exec i s = .next (z.itemDone h ((e.map causeCode).getD 0) []))) ∧
      (∀ k arg, let i := Instr.query h k arg
        s.Ready h i → let q := s.started h i
        (∀ code, q.queryData h k arg = .error code → exec i s = .next (q.itemDone h code [])) ∧
        ∀ d, q.queryData h k arg = .ok d → exec i s = .next (q.itemDone h 0 d)) ∧
      (∀ arg x l c, s.stream? h.ctx arg = some x → s.queryData h 3 arg = .ok (x.bytes true) ∧
        (s.log? arg.toNat = some l →
          s.queryData h 4 arg = .ok (leBytes 8 l.ap ++ leBytes 4 l.nseg ++ leBytes 4 l.segs ++ leBytes 64 l.chain.toNat)) ∧
        (s.ctx? h.ctx = some c → s.queryData h 1 0 = .ok (leBytes 4 c.stage ++ leBytes 4 c.images.length ++
          leBytes 4 (s.launches.filter fun l => l.ctx == c.id && !l.done).length ++ leBytes 4 0))) ∧
      (∀ k arg, (k = 0 ∨ 6 ≤ k) → s.queryData h k arg = .error 0x80) ∧
      ∀ va xd_ remote len peer, let i := Instr.transfer h va xd_ remote len peer
        let mine := fun y : XferRec => y.session = h.session ∧ y.queue = h.queue ∧ y.seq = h.seq
        (∀ y, s.xfers.find? (fun x => x.session == h.session && x.queue == h.queue && x.seq == h.seq) = some y →
          (s.silent y.sent = false → exec i s = .next s) ∧
          (s.silent y.sent = true →
            exec i s = .next (({ s with xfers := s.xfers.erase y } : State).itemEnd y.session y.queue y.seq 0x40 []))) ∧
        ((∀ y ∈ s.xfers, ¬mine y) → s.Ready h i → s.ctx? h.ctx = none → exec i s = .next ((s.started h i).itemDone h 0x84 [])) ∧
        ∀ c, (∀ y ∈ s.xfers, ¬mine y) → s.Ready h i → s.ctx? h.ctx = some c → let q := s.started h i
          exec i s = .next (q.startTransfer h c va xd_ remote len peer) ∧
          ((canonicalVa xd_.toNat = false ∨ xd_.toNat % 64 ≠ 0) → exec i s = .next (q.itemDone h 0x40 [])) ∧
          (canonicalVa xd_.toNat = true → xd_.toNat % 64 = 0 → ∀ r e, q.engRead xTlb c.id true xd_.toNat 64 = (r, e) →
            (∀ f, e = .error f → exec i s = .next (r.itemDone h (causeCode f.1) [])) ∧
            ∀ b, e = .ok b →
              (xdOk b = false → exec i s = .next (r.itemDone h 0x40 [])) ∧
              (xdOk b = true → ∀ r' e', r.peerOf c.id (xd b) peer = (r', e') →
                (∀ f, e' = .error f → exec i s = .next (r'.itemDone h (causeCode f.1) [])) ∧
                ∀ kind m wire, e' = .ok ⟨kind, m, wire⟩ →
                  let cut := kind = 0 ∨ (kind = 1 ∧ r'.reaches m = false)
                  (cut → exec i s = .next (r'.itemDone h 0x40 [])) ∧
                  (¬cut → ∀ z w, r'.engRead xTlb c.id true va.toNat len = (z, w) →
                    (∀ f, w = .error f → exec i s = .next (z.itemDone h (causeCode f.1) [])) ∧
                    ∀ data, w = .ok data →
                      (kind = 1 → m = z.moduleNo → ∀ y ok, z.takeTransfer c.dctx remote data = (y, ok) →
                        exec i s = .next (y.itemDone h (if ok then 0 else 0x40) [])) ∧
                      ∀ v dst, z.dest ⟨kind, m, wire⟩ = (v, dst) →
                      let out := v.send (.transfer dst c.dctx remote data)
                      let x : XferRec := ⟨h.session, h.queue, h.seq, i, peer, ⟨dst, s.cycle, s.cycle⟩, c.dctx, remote, data⟩
                      let ended := ∃ code, (code = 0 ∨ code = 0x40) ∧ exec i s = .next ((out.itemDone h code []).hear dst)
                      (kind = 1 → m ≠ z.moduleNo → ended) ∧
                      (kind = 2 → dst = .frame wire (z.pair wire).seq ∧ (v.pair wire).seq = (z.pair wire).seq + 1) ∧
                      (kind ≠ 1 → ended ∨
                        ∃ y : State, exec i s = .next y ∧ y.xfers = s.xfers ++ [x] ∧ y.outbox = out.outbox ∧
                          (s.cycle + 10 * Config.cyclesPerMs, i) ∈ y.timers ∧
                          (s.cycle + 50 * Config.cyclesPerUs, .exchangeRetransmit peer) ∈ y.timers))))) ∧
  (
    ∀ (s : State) (h : Hdr) (obj p : DWord) (off len : Word) (barge : Bool) (c : Context), s.ctx? h.ctx = some c →
      let bind := Instr.bindStream h obj
      let unbind := Instr.unbindStream h obj
      let cursor := Instr.streamCursor h obj p
      let frame := Instr.streamFrame h obj p off len barge
      (s.Ready h bind → let q := s.started h bind
        ((s.stream? c.id obj ≠ none ∨ canonicalVa obj.toNat = false ∨ obj.toNat % 256 ≠ 0) →
          exec bind s = .next (q.itemDone h 0x86 [])) ∧
        (s.stream? c.id obj = none → canonicalVa obj.toNat = true → obj.toNat % 256 = 0 →
          (4096 ≤ s.streams.length → exec bind s = .next (q.itemDone h 0x87 [])) ∧
          (s.streams.length < 4096 → ∀ r e, q.engRead duTlb c.id true obj.toNat 256 = (r, e) →
            (∀ f, e = .error f → exec bind s = .next (r.itemDone h (causeCode f.1) [])) ∧
            ∀ b, e = .ok b →
              (streamOk b = false → exec bind s = .next (r.itemDone h 0x86 [])) ∧
              (streamOk b = true →
                let y := streamOf c.id obj (.item h.session h.queue h.seq (r.itemNumber h)) b
                (y.ctx = c.id ∧ y.obj = obj ∧ y.g = field b 0 8 ∧ y.p = field b 8 8 ∧ y.k = field b 16 4) ∧
                ∀ z w, ({ r with streams := r.streams ++ [y] } : State).duDo y [] = (z, w) →
                  exec bind s = .next (z.streamEnd h w) ∧ z.stream? c.id obj = some y)))) ∧
      (∀ i ∈ [unbind, cursor, frame], s.Ready h i → s.stream? c.id obj = none →
        exec i s = .next ((s.started h i).itemDone h 0x84 [])) ∧
      ∀ y, s.stream? c.id obj = some y →
        (∀ (z : State) w, z.streamEnd h w = z.itemDone h (match w with | some f => causeCode f.1 | none => 0) []) ∧
        (s.Ready h unbind → ∀ z w, (s.started h unbind).duPut y.ctx [(obj.toNat, y.bytes false)] = (z, w) → exec unbind s =
          .next (({ z with streams := s.streams.filter fun v => !(v.ctx == y.ctx && v.obj == obj) } : State).streamEnd h w)) ∧
        (s.Ready h cursor →
          let v : Stream := { y with p := min (max y.p p.toNat) y.g, overplay := y.overplay || decide (y.g < p.toNat) }
          ∀ z w, (s.started h cursor).duDo v [] = (z, w) →
            exec cursor s = .next (z.streamEnd h w) ∧ z.stream? c.id obj = some v) ∧
        (s.Ready h frame →
          (y.room < 2 → exec frame s = .next ((s.started h frame).itemDone h 0x88 [])) ∧
          (2 ≤ y.room →
            let late := decide (p.toNat < y.floor)
            let e := y.log 1 ((if barge then 1 else 0) + (if late then 2 else 0)) p.toNat 0 len.toNat off.toNat
            let cut := e.1.cut 1
            let w : Stream := if barge then cut.x else e.1
            let v : Stream := { w with nlate := if late then (w.nlate + 1) % 2 ^ 32 else w.nlate }
            ∀ z f, (s.started h frame).duDo v (if barge then cut.tags ++ [e.2, cut.entry] else [e.2]) = (z, f) →
              exec frame s = .next ((if late = true ∧ v.hrec ≠ 0 then z.postLate v p e.1.logWr else z).streamEnd h f) ∧
                z.stream? c.id obj = some v)))

/-- Every Ranger command (R228, R245, R248, R401, R423, R443 to R445, R447, R464): the last one accepted gets its answer again,
a lower sequence gets status 1 and no effect, an unknown code status 2, and a new command has its effect and its answer. RESET
and a loss of power bring the machine to its reset state with BOOT one higher; the Ranger's own state stays. -/
def Obligations.RangerCommands : Prop :=
  ∀ (s : State) (r : RHdr),
    (∀ o code f, s.rangerLast = some o →
      (r.seq = s.rangerSeq → s.command r code f = s.send o) ∧
      (r.seq < s.rangerSeq → s.command r code f = s.send (rangerAnswer code 1 r.seq []))) ∧
    (∀ code, exec (.rangerUnknownCode r code) s = .next (s.send (rangerAnswer code 2 r.seq []))) ∧
    exec .lossOfPower s = .next s.moduleReset ∧
    (s.NewCommand r →
      exec (.ident r) s = .next (s.answered r 1 0 (leBytes 16 Config.serial.toNat ++ leBytes 57 Config.identityKey.toNat ++
        leBytes 7 0 ++ leBytes 8 Config.features ++ leBytes 4 Config.featureVersion ++
        leBytes 4 (Config.firmwareVersion s.fwActive).toNat ++ leBytes 8 s.boot)) ∧
      (∀ nonce, exec (.quote r nonce) s = .next (s.answered r 2 0 (s.quoteBody nonce ++
        leBytes 114 (Config.ed448Sign (s.quoteBody nonce)).toNat))) ∧
      (∀ off total chunk,
        (total < off + chunk.length → exec (.fwupd r off total chunk) s = .next (s.answered r 3 1 [])) ∧
        let room := s.fwBuffer ++ List.replicate (off + chunk.length - s.fwBuffer.length) 0
        let buf := room.take off ++ chunk ++ room.drop (off + chunk.length)
        (off + chunk.length < total → exec (.fwupd r off total chunk) s =
          .next (({ s with fwBuffer := buf } : State).answered r 3 0 [])) ∧
        (off + chunk.length = total → exec (.fwupd r off total chunk) s = .next (if Config.firmwareVerify (buf.take total) then
            ({ s with fwBuffer := [], fwPending := some (buf.take total) } : State).answered r 3 0 []
          else ({ s with fwBuffer := [] } : State).answered r 3 1 []))) ∧
      (∀ cap tokens, let z : State := { s with packageCap := cap, rings := s.rings.mapIdx fun i x => x.setN (tokens.getD i x.n) }
        exec (.power r cap tokens) s = .next (z.answered r 4 0 []) ∧
        ∀ k, k < s.rings.length → k < tokens.length → (z.ring k).n = tokens.getD k 0 ∧ (z.ring k).held = (s.ring k).held ∧
          (z.ring k).free.length = min (tokens.getD k 0 - (s.ring k).held.length)
            ((s.ring k).free.length + ((List.range 12).filter fun j => !(s.ring k).free.contains j).length)) ∧
      (∀ n, (s.ctx? n = none → exec (.release r 1 n) s = .next (s.answered r 5 1 [])) ∧
        (s.ctx? n ≠ none → exec (.release r 1 n) s = .next ((s.releaseCtx n).answered r 5 0 []))) ∧
      (∀ a n, a ≠ 1 →
        ((∀ y ∈ s.sessions, y.id ≠ n) → exec (.release r a n) s = .next (s.answered r 5 1 [])) ∧
        ((∃ y ∈ s.sessions, y.id = n) → exec (.release r a n) s = .next (({ s with
          sessions := s.sessions.map fun y => if y.id == n then { y with frozen := false } else y } : State).answered r 5 0 []))) ∧
      (∀ c va pages, (s.ctx? c = none → exec (.rangerSeal r c va pages) s = .next (s.answered r 6 1 [])) ∧
        ∀ x, s.ctx? c = some x →
          (s.sealRegion x.id va pages = none → exec (.rangerSeal r c va pages) s = .next (s.answered r 6 1 [])) ∧
          ∀ z n m, s.sealRegion x.id va pages = some (z, n, m) →
            exec (.rangerSeal r c va pages) s = .next (z.answered r 6 0 (leBytes 4 n ++ leBytes 4 0 ++ leBytes 64 m.toNat))) ∧
      (∀ c, (s.ctx? c = none → exec (.rangerPreempt r c) s = .next (s.answered r 7 1 [])) ∧
        ∀ x, s.ctx? c = some x →
          (x.stage ≠ 0 → exec (.rangerPreempt r c) s = .next (s.answered r 7 1 [])) ∧
          (x.stage = 0 → exec (.rangerPreempt r c) s = .next ((s.startLadder x.id).answered r 7 0 []))) ∧
      (∀ n key, exec (.session r 2 n key) s =
        .next (({ s with sessions := s.sessions.filter fun y => y.id != n } : State).answered r 8 0 [])) ∧
      (∀ op n key, op ≠ 2 →
        ((∀ y ∈ s.sessions, y.id ≠ n) → exec (.session r op n key) s = .next (({ s with
          sessions := s.sessions ++ [⟨n, key, false, 0⟩], intake := s.intake.filter fun q => q.session != n } : State).answered r 8 0 [])) ∧
        ((∃ y ∈ s.sessions, y.id = n) → exec (.session r op n key) s = .next (({ s with
          sessions := s.sessions.map fun y => if y.id == n then { y with key := key } else y } : State).answered r 8 0 []))) ∧
      (∀ n routes, exec (.domain r n routes) s = .next (({ s with moduleNo := n, routes := routes } : State).answered r 9 0 [])) ∧
      (∀ n, exec (.errlog r n) s = .next (s.answered r 10 0 (((s.errLog.drop n).take 64).flatMap errRecord))) ∧
      exec (.reset r) s = .next (s.answered r 11 0 []).moduleReset ∧
      (∀ b n, exec (.xdir r b n) s = .next (({ s with xdirBase := b, xdirCount := n } : State).answered r 12 0 []))) ∧
    (∀ o, s.rangerLast = some o → r.seq ≤ s.rangerSeq →
      exec (.reset r) s = .next (s.send (if r.seq = s.rangerSeq then o else rangerAnswer 11 1 r.seq [])))

/-- What reset leaves (R125, R170, R228, R229, R245, R410, R423, R435, R443): no context, session, work or memory, BOOT 1
higher, a stored firmware image active, and what the Ranger keeps; MIG_POLICY 0xC080, 9 tokens on each die, module number 0, the
seal and launch counters at 1. That memory
then reads 0 is the model's choice (log 1), and so are that BOOT starts at 1, the cap of 15000 W, the empty routing table, and
that sessions and the error log outlast a reset (log 2). The state of a thread, a team and a context when each begins (R18,
R24, R26, R41, R309, R310, R342, R389, R390, R400, R440): the registers, predicates, flags, trail, FSTAT, FMODE, FSEED, spill
and trap registers; the constants and merge registers. -/
def Obligations.InitialState : Prop :=
  (
    State.reset.boot = 1 ∧ State.reset.moduleNo = 0 ∧ State.reset.routes = [] ∧ State.reset.sealCounter = 1 ∧
    State.reset.packageCap = 15000 ∧ (∀ d, d < 8 → (State.reset.ring d).n = 9 ∧ (State.reset.ring d).free.length = 9) ∧
    (∀ c, (State.reset.core c).migPolicy = 0xC080 ∧ (State.reset.core c).throttle = 0 ∧ (State.reset.core c).failed = false) ∧
    (∀ a, Sparse.read (w := 8) State.reset.mem a = 0) ∧
    ∀ (s : State), let t := s.moduleReset
      t.boot = s.boot + 1 ∧ t.sessions.map Session.id = s.sessions.map Session.id ∧ t.errLog = s.errLog ∧
      t.rangerSeq = s.rangerSeq ∧ t.rangerLast = s.rangerLast ∧ t.outbox = s.outbox ∧ t.contexts = [] ∧ t.launches = [] ∧ t.teams = [] ∧
      t.groups = [] ∧ t.threads = [] ∧ t.ops = [] ∧ t.l1 = [] ∧ t.tlb = [] ∧ t.mem = [] ∧ t.seals = [] ∧ t.logs = [] ∧
      t.streams = [] ∧ t.intake = [] ∧ t.sealCounter = 1 ∧ t.moduleNo = 0 ∧ t.cores = [] ∧ t.rings = State.reset.rings ∧
      t.oldSlots = [] ∧ t.pairs = [] ∧ t.far = [] ∧ t.launchCounter = 1 ∧ t.fwPending = none ∧
      t.fwActive = s.fwPending.orElse fun _ => s.fwActive) ∧
  (
    (∀ (id team group rank tindex : Nat) (tid : DWord) (fmode : Word) (sb : DWord) (sl : Word) (pc : DWord) (p : Bool),
      let u := Thread.fresh id team group rank tindex tid fmode sb sl pc p
      (∀ k, u.get k = 0) ∧ (∀ k, k < 7 → u.preds.getLsbD k = false) ∧ (∀ f, u.flagCount f = 0) ∧ u.trail = 0 ∧ u.fstat = 0 ∧
      u.fmode = fmode ∧ u.fseed = (if loWord tid = 0x9E3779B9 then 1 else loWord tid ^^^ 0x9E3779B9) ∧ u.fseed ≠ 0 ∧ u.depth = 0 ∧
      u.spillBase = sb ∧ u.spillLimit = sl ∧ u.spillPtr = 0 ∧ u.trapCause = 0 ∧ u.trapAddr = 0 ∧ u.trapPcn = 0 ∧
      u.trapPcx = 0 ∧ u.trapEqp = 0xFFFFFFFF ∧ u.privileged = false ∧ u.pc = pc ∧ u.rank = rank) ∧
    (∀ (id ctx cl : Nat) (l : Owner) (n : DWord) (h t : Nat) (d : TeamDecl) (p : Nat) (ks : List CoreKind) (core base no : Nat)
        (args : List Word), args.length ≤ 64 →
      let m := Team.fresh id ctx cl l n h t d p ks core base no args
      m.consts.length = 64 ∧ (∀ k, m.consts.getD k 0 = args.getD k 0) ∧ (∀ r ∈ m.merge, r = .closed) ∧ m.merge.length = 8 ∧
      m.specCommit = 0 ∧ m.specRollback = 0 ∧ (∀ k, Sparse.read (w := 8) m.spad k = 0)) ∧
    ∀ (id : Nat) (desc : List Byte) (x q : Nat), let c := descContext id desc x q
      c.root = dword (field desc 0 8) ∧ c.handles = dword (field desc 8 8) ∧ c.handleCount = field desc 16 4 ∧
      c.trapBase = dword (field desc 24 8) ∧ c.saveBase = dword (field desc 32 8) ∧ c.stage = 0 ∧ c.frozen = false ∧
      c.objs = [] ∧ c.images = [] ∧ c.queues.length = 16 ∧ (∀ h, h < 64 → c.slots.getD h 0 = plainSlot))
end

