-- ==== Sys2Proof/Laws/Issue.lean ====
section
/-!
SUPPORT. What the issue of one thread instruction does, once for all instructions: the updates of one record, the end of
an instruction in a calm state, and the two lemmas that turn a meaning's body into its completion.
-/

namespace Sys2Proof.Machine

theorem updBy_cons {α : Type} (key : α → Nat) (a : α) (l : List α) (k : Nat) (f : α → α) :
    updBy key (a :: l) k f = (if key a == k then f a else a) :: updBy key l k f := rfl

theorem find_updBy_self {α : Type} (key : α → Nat) (f : α → α) (k : Nat) (hf : ∀ x, key x = k → key (f x) = k) (l : List α) :
    (updBy key l k f).find? (fun x => key x == k) = (l.find? fun x => key x == k).map f := by
  induction l with
  | nil => rfl
  | cons a l ih =>
    rw [updBy_cons]
    by_cases h : key a = k
    · rw [if_pos (by simp [h]), List.find?_cons_of_pos (by simp [hf a h]), List.find?_cons_of_pos (by simp [h])]; rfl
    · rw [if_neg (by simpa using h), List.find?_cons_of_neg (by simpa using h), List.find?_cons_of_neg (by simpa using h), ih]

theorem find_updBy_ne {α : Type} (key : α → Nat) (f : α → α) (k j : Nat) (hf : ∀ x, key x = k → key (f x) = k) (hj : j ≠ k)
    (l : List α) : (updBy key l k f).find? (fun x => key x == j) = l.find? fun x => key x == j := by
  induction l with
  | nil => rfl
  | cons a l ih =>
    rw [updBy_cons]
    by_cases h : key a = k
    · rw [if_pos (by simp [h]), List.find?_cons_of_neg (by simpa [hf a h] using hj.symm),
        List.find?_cons_of_neg (by simpa [h] using hj.symm), ih]
    · rw [if_neg (by simpa using h), List.find?_cons, List.find?_cons, ih]

theorem thread_modTh_self (s : State) (t : Nat) (f : Thread → Thread) (hf : ∀ x, x.id = t → (f x).id = t) :
    (s.modTh t f).thread? t = (s.thread? t).map f := find_updBy_self _ _ _ hf _
theorem thread_modTh_ne (s : State) (t k : Nat) (f : Thread → Thread) (hf : ∀ x, x.id = t → (f x).id = t) (h : k ≠ t) :
    (s.modTh t f).thread? k = s.thread? k := find_updBy_ne _ _ _ _ hf h _

theorem cur_thread {s : State} {th : Thread} (h : s.cur = some th) : s.thread? th.id = some th := by
  unfold State.cur at h
  split at h
  · split at h
    · have := List.find?_some h
      simp only [beq_iff_eq] at this
      rw [this]; exact h
    · cases h
  · cases h

theorem th_of {s : State} {k : Nat} {th : Thread} (h : s.thread? k = some th) : s.th k = th := by simp [State.th, h]

/-- Frame of the bundle queue. -/
theorem modIssue_rest (s : State) (f) : s.Rest (s.modIssue f) := by
  unfold State.modIssue State.Rest; split <;> rfl
theorem modIssue_threads (s : State) (f) : (s.modIssue f).threads = s.threads := by
  unfold State.modIssue; split <;> rfl
theorem Rest.trans {a b c : State} (h1 : a.Rest b) (h2 : b.Rest c) : a.Rest c := by
  unfold State.Rest at *
  rw [← h1, ← h2]
theorem modTh_rest (s : State) (t f) : s.Rest (s.modTh t f) := rfl

theorem pendOf_calm {s : State} (h : s.Calm) (g : Nat) : s.pendOf g = [] := by
  unfold State.pendOf
  rw [List.filterMap_eq_nil_iff]
  intro u hu
  have := h u (by unfold State.liveOf at hu; exact (List.mem_filter.1 hu).1)
  simp [this]

theorem ite_ind {α : Type} {P : α → Prop} (c : Prop) [Decidable c] {a b : α} (ha : P a) (hb : P b) :
    P (if c then a else b) := by
  split
  · exact ha
  · exact hb

theorem cycleEnd_calm {s : State} (h : s.Calm) (g : Nat) : s.Rest (s.cycleEnd g) ∧ (s.cycleEnd g).threads = s.threads := by
  unfold State.cycleEnd
  split
  · exact ⟨rfl, rfl⟩
  · rw [pendOf_calm h]; exact ⟨rfl, rfl⟩

theorem setIssues_cycleEnd {s : State} (h : s.Calm) (q : List Issue) (g : Nat) :
    s.Rest ((s.setIssues q).cycleEnd g) ∧ ((s.setIssues q).cycleEnd g).threads = s.threads := by
  obtain ⟨a, b⟩ := cycleEnd_calm (s := s.setIssues q) h g
  exact ⟨Rest.trans (show s.Rest (s.setIssues q) from rfl) a, b⟩

theorem slotEnd_calm {s : State} (h : s.Calm) : s.Rest s.slotEnd ∧ s.slotEnd.threads = s.threads := by
  unfold State.slotEnd
  split
  · exact ⟨rfl, rfl⟩
  · split
    · exact ⟨rfl, rfl⟩
    · exact ite_ind (P := fun t : State => s.Rest t ∧ t.threads = s.threads) _ ⟨rfl, rfl⟩
        (setIssues_cycleEnd h _ _)

theorem calm_threads {s t : State} (h : t.threads = s.threads) (hs : s.Calm) : t.Calm := by
  unfold State.Calm; rw [h]; exact hs
theorem thread_threads {s t : State} (h : t.threads = s.threads) (k : Nat) : t.thread? k = s.thread? k := by
  unfold State.thread?; rw [h]

theorem calm_modTh {s : State} (h : s.Calm) (k : Nat) (f : Thread → Thread) (hf : ∀ u, u.pend = none → (f u).pend = none) :
    (s.modTh k f).Calm := by
  intro u hu
  simp only [State.modTh, updBy, List.mem_map] at hu
  obtain ⟨v, hv, rfl⟩ := hu
  split
  · exact hf v (h v hv)
  · exact h v hv

theorem advance_id (u : Thread) : u.advance.id = u.id := rfl

theorem finish_next {s : State} {t : Nat} {u : Thread} (hu : s.thread? t = some u) (hold : u.hold = Hold.none) (hc : s.Calm) :
    (s.finish t .next).thread? t = some u.advance ∧ (∀ k, k ≠ t → (s.finish t .next).thread? k = s.thread? k) ∧
      s.Rest (s.finish t .next) := by
  have h1 : (s.advance t).thread? t = some u.advance := by
    unfold State.advance
    rw [thread_modTh_self _ _ _ (by intro x hx; exact hx), hu]; rfl
  have h2 : ∀ k, k ≠ t → (s.advance t).thread? k = s.thread? k := by
    intro k hk
    unfold State.advance
    rw [thread_modTh_ne _ _ _ _ (by intro x hx; exact hx) hk]
  have h3 : s.Rest (s.advance t) := rfl
  have h4 : (s.advance t).Calm := calm_modTh hc _ _ (by intro u h; exact h)
  have h5 : (((s.advance t).th t).hold == Hold.none) = true := by
    rw [th_of h1]; show (u.hold == Hold.none) = true; rw [hold]; rfl
  unfold State.finish
  simp only [h5, if_true]
  generalize hs2 : ((s.advance t).modIssue fun i => { i with done := i.done ++ [t] }) = s2
  have e2 : s2.threads = (s.advance t).threads := by rw [← hs2]; exact modIssue_threads _ _
  generalize hs3 : (s2.modIssue fun i => { i with todo := i.todo.tail, begun := true }) = s3
  have e3 : s3.threads = (s.advance t).threads := by rw [← hs3, modIssue_threads, e2]
  have r3 : s.Rest s3 := by
    rw [← hs3, ← hs2]
    exact Rest.trans (Rest.trans h3 (modIssue_rest _ _)) (modIssue_rest _ _)
  obtain ⟨hr, ht⟩ := slotEnd_calm (s := s3) (calm_threads e3 h4)
  refine ⟨?_, ?_, Rest.trans r3 hr⟩
  · rw [thread_threads (ht.trans e3), h1]
  · intro k hk; rw [thread_threads (ht.trans e3), h2 k hk]


theorem withOvf_none {s s' : State} {th : Thread} {i : Instr} {f : State → Thread → State × Next} {n : Next}
  (h1 : s.th th.id = th)
    (h2 : th.portable = true → ∀ dst g, ovfRegs dst (ovfOpds i g (s.slot (s.hostOf th) (s.team th.team).ctx)) = [])
    (hf : f s th = (s', n)) (g : Bool) : s.withOvf th.id i g f = (s'.dropOvf th.id, n) := by
  unfold State.withOvf
  rw [h1]
  have h3 : ∀ dst, ovfRegs dst (if th.portable = true then ovfOpds i g (s.slot (s.hostOf th) (s.team th.team).ctx) else []) = [] := by
    intro dst; split
    · exact h2 ‹_› dst g
    · rfl
  simp only [h3]
  have : s.loadOvf th.id [] = (s, none) := rfl
  simp only [this, h1, hf, List.filter_nil]
  rfl

/-- The checks before an instruction pass. -/
theorem preIssue_none {s : State} {th : Thread} {i : Instr} (h : s.Issues th i) : s.preIssue th i = none := by
  unfold State.preIssue
  rw [if_neg (by simp [h.running]), if_neg, if_neg]
  · rcases h.role with h | h <;> simp [h]
  · rcases h.privilege with h | ⟨h, h'⟩ <;> simp [*]

theorem issue_becomes {s r s' : State} {i : Instr} {th u : Thread} {x : X} {f : State → Thread → State × Next}
    (h : s.Runs th i) (hx : i.x = some x) (he : exec i s = .next (s.issue i x f)) (hf : f s th = (s', .next))
    (hu : s'.thread? th.id = some u) (hold : u.hold = Hold.none)
    (ho : ∀ k, k ≠ th.id → s'.thread? k = s.thread? k) (hc : s'.Calm) (hr : r.Rest s') :
    s.Becomes i th { u.advance with ovf := [] } r := by
  refine ⟨_, he, ?_⟩
  have hg : th.psel x.g = true := by have := h.guard; simpa [Thread.passes, hx] using this
  have hpre := preIssue_none h.toIssues
  have hsp : (th.psel x.g && th.spec.isSome && i.specStalls) = false := by
    rcases h.spec with h | h <;> simp [h]
  have e : s.issue i x f = (s'.dropOvf th.id).finish th.id .next := by
    unfold State.issue State.issueG
    rw [h.cur]
    simp only [hpre]
    rw [hsp, hg]
    have := withOvf_none (th_of (cur_thread h.cur)) h.resident hf true
    show (s.withOvf th.id i true f).1.finish th.id (s.withOvf th.id i true f).2 = _
    rw [this]
  have h1 : (s'.dropOvf th.id).thread? th.id = some { u with ovf := [] } := by
    unfold State.dropOvf
    rw [thread_modTh_self _ _ _ (by intro x hx; exact hx), hu]; rfl
  have h2 : ∀ k, k ≠ th.id → (s'.dropOvf th.id).thread? k = s.thread? k := by
    intro k hk; unfold State.dropOvf; rw [thread_modTh_ne _ _ _ _ (by intro x hx; exact hx) hk, ho k hk]
  have h3 : (s'.dropOvf th.id).Calm := calm_modTh hc _ _ (by intro u h; exact h)
  have h4 : r.Rest (s'.dropOvf th.id) := Rest.trans hr (modTh_rest _ _ _)
  obtain ⟨a, b, c⟩ := finish_next h1 hold h3
  rw [e]
  exact ⟨a, fun k hk => by rw [b k hk, h2 k hk], Rest.trans h4 c⟩

theorem put_hold (u : Thread) (n : Nat) (v : Word) : (u.put n v).hold = u.hold ∧ (u.put n v).id = u.id ∧ (u.put n v).pend = u.pend ∧ (u.put n v).team = u.team := by
  unfold Thread.put; split <;> exact ⟨rfl, rfl, rfl, rfl⟩

theorem putRun_keeps (ws : List Word) : ∀ (u : Thread) (n : Nat), (u.putRun n ws).hold = u.hold ∧ (u.putRun n ws).id = u.id ∧
    (u.putRun n ws).pend = u.pend := by
  induction ws with
  | nil => intro u n; exact ⟨rfl, rfl, rfl⟩
  | cons w ws ih =>
    intro u n
    obtain ⟨a, b, c⟩ := ih (u.put n w) (n + 1)
    obtain ⟨a', b', c', _⟩ := put_hold u n w
    exact ⟨a.trans a', b.trans b', c.trans c'⟩

/-- The thread and the state both receive a destination. -/
def State.write (s : State) (th : Thread) (d : Opd) (ws : List Word) : State :=
  (s.modTh th.id fun u => u.putDst d ws).putDst th d ws

theorem putDst_keeps (u : Thread) (d : Opd) (ws : List Word) : (u.putDst d ws).hold = u.hold ∧ (u.putDst d ws).id = u.id ∧
    (u.putDst d ws).pend = u.pend := by
  unfold Thread.putDst; split
  · exact putRun_keeps _ _ _
  · exact ⟨rfl, rfl, rfl⟩

theorem modTh_id (s : State) (t : Nat) : (s.modTh t fun u => u) = s := by
  unfold State.modTh updBy; simp

theorem wr32_write (s : State) (th u : Thread) (h : s.thread? th.id = some u) (ht : u.team = th.team) (d : Opd) (w : Word) :
    s.wr32 th.id d w = s.write th d [w] := by
  unfold State.wr32 State.write
  cases d with
  | v n => rfl
  | s n =>
    simp only [Thread.putDst, modTh_id, State.putDst, th_of h, ht]; rfl
  | k n => simp only [Thread.putDst, modTh_id, State.putDst]
  | r n => simp only [Thread.putDst, modTh_id, State.putDst]

theorem wr64_write (s : State) (th u : Thread) (h : s.thread? th.id = some u) (ht : u.team = th.team) (d : Opd) (x : DWord) :
    s.wr64 th.id d x = s.write th d [loWord x, hiWord x] := by
  unfold State.wr64 State.write
  cases d with
  | v n => rfl
  | s n =>
    simp only [Thread.putDst, modTh_id, State.putDst, th_of h, ht]; rfl
  | k n => simp only [Thread.putDst, modTh_id, State.putDst]
  | r n => simp only [Thread.putDst, modTh_id, State.putDst]

theorem wr_write (s : State) (th u : Thread) (h : s.thread? th.id = some u) (ht : u.team = th.team) (ty : Ty) (d : Opd) (x : Nat) :
    s.wr th.id ty d x = s.write th d (resultWords ty x) := by
  unfold State.wr resultWords
  split
  · exact wr64_write s th u h ht d _
  · exact wr32_write s th u h ht d _

theorem putDst_threads (s : State) (th d ws) : (s.putDst th d ws).threads = s.threads := by
  cases d <;> rfl
theorem putDst_rest (s t : State) (h : s.Rest t) (th d ws) (ht : t.teams = s.teams) : (s.putDst th d ws).Rest (t.putDst th d ws) := by
  cases d with
  | s n =>
    unfold State.Rest at *
    show ({ (t.modTeam th.team _) with threads := _, issues := _, meetDue := _ } : State) = _
    simp only [State.putDst, State.modTeam, ht]
    rw [← h]
  | _ => exact h

def Effect.pre (e : Effect) (u : Thread) : Thread := { u.sticky e.flags with fseed := e.seed.getD u.fseed }

theorem hasEffect {s : State} {i : Instr} {th : Thread} {x : X} {f : State → Thread → State × Next} {e : Effect}
    (h : s.Runs th i) (hx : i.x = some x) (he : exec i s = .next (s.issue i x f))
    (hf : f s th = ((s.modTh th.id e.pre).write th e.dst e.words, .next)) : s.HasEffect i th e := by
  have hc := h.calm
  have hcur := cur_thread h.cur
  have ht : ∀ s : State, ∀ d ws k, (s.putDst th d ws).thread? k = s.thread? k :=
    fun s d ws k => thread_threads (putDst_threads _ _ _ _) _
  refine issue_becomes (r := s.putDst th e.dst e.words) (u := (e.pre th).putDst e.dst e.words) h hx he hf ?_ ?_ ?_ ?_ ?_
  · unfold State.write
    rw [ht, thread_modTh_self _ _ _ (by intro x hx; rw [← hx]; exact (putDst_keeps _ _ _).2.1),
      thread_modTh_self _ _ _ (by intro x hx; exact hx), hcur]
    rfl
  · rw [(putDst_keeps _ _ _).1]; exact h.free
  · intro k hk
    unfold State.write
    rw [ht, thread_modTh_ne _ _ _ _ (by intro x hx; rw [← hx]; exact (putDst_keeps _ _ _).2.1) hk,
      thread_modTh_ne _ _ _ _ (by intro x hx; exact hx) hk]
  · have c1 : (s.modTh th.id e.pre).Calm := calm_modTh hc _ _ (by intro u h; exact h)
    have c2 := calm_modTh c1 th.id (fun u => u.putDst e.dst e.words) (by intro u h; rw [(putDst_keeps _ _ _).2.2]; exact h)
    exact calm_threads (putDst_threads _ _ _ _) c2
  · exact putDst_rest _ _ (Rest.trans (modTh_rest _ _ _) (modTh_rest _ _ _)) _ _ _ rfl
theorem pre_plain (fl : Nat) (d ws) : (⟨d, ws, fl, none⟩ : Effect).pre = fun u => u.sticky fl := rfl
theorem sticky_zero (u : Thread) : u.sticky 0 = u := by
  unfold Thread.sticky word; simp

theorem wr_pre (s : State) (th : Thread) (h : s.thread? th.id = some th) (g : Thread → Thread) (hg : ∀ u, (g u).id = u.id ∧ (g u).team = u.team)
   (ty d x) : (s.modTh th.id g).wr th.id ty d x = (s.modTh th.id g).write th d (resultWords ty x) :=
  wr_write _ th (g th) (by rw [thread_modTh_self _ _ _ (by intro x hx; rw [(hg x).1, hx]), h]; rfl) (hg th).2 _ _ _

theorem plain_eq (s : State) (th : Thread) (h : s.thread? th.id = some th) (ty d x) :
    s.plain th ty d x = ((s.modTh th.id (⟨d, resultWords ty x, 0, none⟩ : Effect).pre).write th d (resultWords ty x), .next) := by
  have e : (s.modTh th.id (⟨d, resultWords ty x, 0, none⟩ : Effect).pre) = s := by
    rw [pre_plain]; simp only [sticky_zero]; exact modTh_id _ _
  rw [e]; unfold State.plain; rw [wr_write s th th h rfl]

theorem intResult_eq (s : State) (th : Thread) (h : s.thread? th.id = some th) (ty sat d z) :
    s.intResult th ty sat d z = ((s.modTh th.id (⟨d, resultWords ty (intWrite ty sat z).1, (intWrite ty sat z).2, none⟩ : Effect).pre).write th d (resultWords ty (intWrite ty sat z).1), .next) := by
  unfold State.intResult
  simp only []
  rw [wr_pre s th h (fun u => u.sticky _) (fun u => ⟨rfl, rfl⟩)]; rfl

theorem wr64_pre (s : State) (th : Thread) (h : s.thread? th.id = some th) (g : Thread → Thread) (hg : ∀ u, (g u).id = u.id ∧ (g u).team = u.team)
   (d x) : (s.modTh th.id g).wr64 th.id d x = (s.modTh th.id g).write th d [loWord x, hiWord x] :=
  wr64_write _ th (g th) (by rw [thread_modTh_self _ _ _ (by intro x hx; rw [(hg x).1, hx]), h]; rfl) (hg th).2 _ _
theorem wr64_plain (s : State) (th : Thread) (h : s.thread? th.id = some th) (d x) :
   s.wr64 th.id d x = (s.modTh th.id (⟨d, [loWord x, hiWord x], 0, none⟩ : Effect).pre).write th d [loWord x, hiWord x] := by
  have e : (s.modTh th.id (⟨d, [loWord x, hiWord x], 0, none⟩ : Effect).pre) = s := by
    rw [pre_plain]; simp only [sticky_zero]; exact modTh_id _ _
  rw [e, wr64_write s th th h rfl]
theorem wr32_plain (s : State) (th : Thread) (h : s.thread? th.id = some th) (d x) :
   s.wr32 th.id d x = (s.modTh th.id (⟨d, [x], 0, none⟩ : Effect).pre).write th d [x] := by
  have e : (s.modTh th.id (⟨d, [x], 0, none⟩ : Effect).pre) = s := by
    rw [pre_plain]; simp only [sticky_zero]; exact modTh_id _ _
  rw [e, wr32_write s th th h rfl]

theorem plain_id (s : State) (th : Thread) (h : s.thread? th.id = some th) (ty : Ty) (d x fl) :
  (s.modTh th.id fun u => u.sticky fl).plain th ty d x = ((s.modTh th.id (⟨d, resultWords ty x, fl, none⟩ : Effect).pre).write th d (resultWords ty x), .next) := by
  unfold State.plain
  rw [wr_pre s th h (fun u => u.sticky _) (fun u => ⟨rfl, rfl⟩)]; rfl



/-- A meaning that sees its guard ends as its body says. -/
theorem ends_issueG {s r : State} {th : Thread} {i : Instr} {x : X} {f : Bool → State → Thread → State × Next} {n : Next}
    (h : s.Issues th i) (he : exec i s = .next (s.issueG i x f)) (hf : f (th.psel x.g) s th = (r, n)) : s.Ends i th r n := by
  unfold State.Ends
  rw [he]
  unfold State.issueG
  rw [h.cur]
  simp only [preIssue_none h]
  have hsp : (th.psel x.g && th.spec.isSome && i.specStalls) = false := by
    rcases h.spec with h | h <;> simp [h]
  rw [hsp]
  have := withOvf_none (th_of (cur_thread h.cur)) h.resident hf (th.psel x.g)
  show Host.Outcome.next ((s.withOvf th.id i _ (f (th.psel x.g))).1.finish th.id (s.withOvf th.id i _ (f (th.psel x.g))).2) = _
  rw [this]

/-- A meaning whose guard passes ends as its body says. -/
theorem ends_issue {s r : State} {th : Thread} {i : Instr} {x : X} {f : State → Thread → State × Next} {n : Next}
    (h : s.Runs th i) (hx : i.x = some x) (he : exec i s = .next (s.issue i x f)) (hf : f s th = (r, n)) : s.Ends i th r n := by
  have hg : th.psel x.g = true := by have := h.guard; simpa [Thread.passes, hx] using this
  refine ends_issueG h.toIssues he ?_
  simp only [hg, if_true, hf]

set_option maxHeartbeats 2000000 in
/-- Every thread instruction runs through the shared checks of `State.issueG`. -/
theorem exec_issueG (i : Instr) (x : X) (hx : i.x = some x) : ∃ f, ∀ s, exec i s = .next (s.issueG i x f) := by
  cases i
  all_goals first
    | (cases hx; done)
    | (cases hx; exact ⟨_, fun _ => rfl⟩)

set_option maxHeartbeats 2000000 in
/-- Every thread instruction in which a thread whose guard fails takes no part does nothing under such a guard. -/
theorem exec_issue (i : Instr) (x : X) (hx : i.x = some x) (hg : i.gathers = false) :
    ∃ f, ∀ s, exec i s = .next (s.issue i x f) := by
  cases i
  case nop =>
    cases hx
    refine ⟨fun s _ => (s, .next), fun s => ?_⟩
    unfold State.issue
    simp only [ite_self]; rfl
  all_goals first
    | (cases hx; done)
    | (cases hg; done)
    | (cases hx; exact ⟨_, fun _ => rfl⟩)

end Sys2Proof.Machine
end

