-- ==== Sys2Proof/Laws/Memory.lean ====
section
/-!
SUPPORT. Sparse storage: every write keeps the canonical form, a read after a write to the same key gives what was written
and every other key keeps its value; then the same of bytes at their home slice.
-/

namespace Sys2Proof.Machine

namespace Sparse

/-- A list in canonical form above a bound reads 0 below it. -/
theorem read_below {w : Nat} (m : Sparse w) : ∀ (lo a : Nat), wfFrom lo m = true → a < lo → read m a = 0 := by
  induction m with
  | nil => intro lo a _ _; rfl
  | cons p r ih =>
    intro lo a h ha
    obtain ⟨k, v⟩ := p
    simp only [wfFrom, Bool.and_eq_true, decide_eq_true_eq] at h
    obtain ⟨⟨h1, _⟩, _⟩ := h
    unfold read
    rw [if_neg (by omega), if_pos (by omega)]

/-- A lower bound may be lowered. -/
theorem wfFrom_mono {w : Nat} (m : Sparse w) {lo lo' : Nat} (h : wfFrom lo m = true) (hl : lo' ≤ lo) : wfFrom lo' m = true := by
  cases m with
  | nil => rfl
  | cons p r =>
    obtain ⟨k, v⟩ := p
    simp only [wfFrom, Bool.and_eq_true, decide_eq_true_eq] at h ⊢
    exact ⟨⟨by omega, h.1.2⟩, h.2⟩

/-- A write at or above the bound keeps the form above the bound. -/
theorem write_wfFrom {w : Nat} (m : Sparse w) :
    ∀ (lo a : Nat) (x : BitVec w), wfFrom lo m = true → lo ≤ a → wfFrom lo (write m a x) = true := by
  induction m with
  | nil =>
    intro lo a x _ ha
    unfold write
    split
    · rfl
    · rename_i hx
      simp only [wfFrom, Bool.and_eq_true, decide_eq_true_eq, bne_iff_ne]
      exact ⟨⟨ha, hx⟩, trivial⟩
  | cons p r ih =>
    intro lo a x h ha
    obtain ⟨k, v⟩ := p
    have h' := h
    simp only [wfFrom, Bool.and_eq_true, decide_eq_true_eq, bne_iff_ne] at h
    obtain ⟨⟨h1, h2⟩, h3⟩ := h
    unfold write
    split
    · split
      · exact h'
      · rename_i hk hx
        simp only [wfFrom, Bool.and_eq_true, decide_eq_true_eq, bne_iff_ne]
        exact ⟨⟨ha, hx⟩, ⟨by omega, h2⟩, h3⟩
    · split
      · subst_vars
        split
        · exact wfFrom_mono r h3 (by omega)
        · rename_i hx
          simp only [wfFrom, Bool.and_eq_true, decide_eq_true_eq, bne_iff_ne]
          exact ⟨⟨ha, hx⟩, h3⟩
      · simp only [wfFrom, Bool.and_eq_true, decide_eq_true_eq, bne_iff_ne]
        exact ⟨⟨h1, h2⟩, ih (k + 1) a x h3 (by omega)⟩

/-- Every write keeps the canonical form. -/
theorem write_wf {w : Nat} (m : Sparse w) (a : Nat) (x : BitVec w) (h : wf m = true) : wf (write m a x) = true :=
  write_wfFrom m 0 a x h (Nat.zero_le _)

/-- A write of several entries keeps the canonical form. -/
theorem writeN_wf {w : Nat} (l : List (BitVec w)) : ∀ (m : Sparse w) (a : Nat), wf m = true → wf (writeN m a l) = true := by
  induction l with
  | nil => intro m a h; exact h
  | cons x r ih => intro m a h; exact ih _ _ (write_wf m a x h)

/-- A key reads what was last written to it. -/
theorem read_write_same {w : Nat} (m : Sparse w) (a : Nat) (x : BitVec w) : ∀ lo, wfFrom lo m = true → read (write m a x) a = x := by
  induction m with
  | nil =>
    intro lo _
    unfold write
    split
    · simp [read, *]
    · simp [read]
  | cons p r ih =>
    intro lo h
    obtain ⟨k, v⟩ := p
    simp only [wfFrom, Bool.and_eq_true, decide_eq_true_eq, bne_iff_ne] at h
    obtain ⟨⟨_, _⟩, h3⟩ := h
    unfold write
    split
    · split
      · subst_vars; unfold read; rw [if_neg (by omega), if_pos ‹_›]
      · simp [read]
    · split
      · split
        · subst_vars; exact read_below r _ _ h3 (by omega)
        · simp [read]
      · unfold read
        rw [if_neg ‹_›, if_neg ‹_›]
        exact ih _ h3

/-- A write leaves every other key as it was. -/
theorem read_write_other {w : Nat} (m : Sparse w) (a b : Nat) (x : BitVec w) (hb : b ≠ a) :
    ∀ lo, wfFrom lo m = true → read (write m a x) b = read m b := by
  induction m with
  | nil =>
    intro lo _
    unfold write
    split
    · rfl
    · unfold read; rw [if_neg hb]; split <;> rfl
  | cons p r ih =>
    intro lo h
    obtain ⟨k, v⟩ := p
    simp only [wfFrom, Bool.and_eq_true, decide_eq_true_eq, bne_iff_ne] at h
    obtain ⟨⟨_, _⟩, h3⟩ := h
    unfold write
    split
    · split
      · rfl
      · conv => lhs; unfold read
        rw [if_neg hb]
        split
        · unfold read; rw [if_neg (by omega), if_pos (by omega)]
        · rfl
    · split
      · subst_vars
        split
        · conv => rhs; unfold read
          rw [if_neg hb]
          split
          · exact read_below r _ _ h3 (by omega)
          · rfl
        · unfold read
          rw [if_neg hb, if_neg hb]
      · unfold read
        rw [ih _ h3]

/-- A write of several entries leaves every key outside them as it was. -/
theorem read_writeN_other {w : Nat} (l : List (BitVec w)) : ∀ (m : Sparse w) (a b : Nat), wf m = true →
    (b < a ∨ a + l.length ≤ b) → read (writeN m a l) b = read m b := by
  induction l with
  | nil => intro m a b _ _; rfl
  | cons x r ih =>
    intro m a b h hb
    simp only [List.length_cons] at hb
    show read (writeN (write m a x) (a + 1) r) b = _
    rw [ih _ _ _ (write_wf m a x h) (by omega), read_write_other m a b x (by omega) 0 h]

/-- Each key of a written run reads its entry. -/
theorem read_writeN_in {w : Nat} (l : List (BitVec w)) : ∀ (m : Sparse w) (a i : Nat) (h : i < l.length), wf m = true →
    read (writeN m a l) (a + i) = l[i] := by
  induction l with
  | nil => intro m a i h; exact absurd h (Nat.not_lt_zero _)
  | cons x r ih =>
    intro m a i h hm
    show read (writeN (write m a x) (a + 1) r) (a + i) = _
    cases i with
    | zero => rw [read_writeN_other r _ _ _ (write_wf m a x hm) (by omega)]; exact read_write_same m a x 0 hm
    | succ j =>
      have hj : j < r.length := by simpa using h
      have := ih (write m a x) (a + 1) j hj (write_wf m a x hm)
      rw [show a + (j + 1) = a + 1 + j by omega, this]; rfl

end Sparse

/-- Bytes performed at their home slice keep memory in its canonical form. -/
theorem homeWrite_wf (s : State) (pa : Nat) (bs : List Byte) (h : Memory.wf s.mem = true) :
    Memory.wf (s.homeWrite pa bs).mem = true := by
  unfold State.homeWrite
  split
  · exact Sparse.writeN_wf bs _ _ h
  · exact h

/-- Memory after reset is in its canonical form. -/
theorem reset_mem_wf : Memory.wf State.reset.mem = true := rfl

end Sys2Proof.Machine
end

