-- ==== Sys2Proof/Laws/PerInstr.lean ====
section
/-!
SUPPORT. One law per instruction, by name: a step of the device, of the host or of the Ranger has no 96-bit slot, since it
carries no guard (R54, R55).
-/

namespace Sys2Proof.Laws

/-- An instruction without a guard field has no native encoding. -/
def Slots.Statement (i : Instr) : Prop := i.x = none → encodeNative i = none

theorem Slots.nop (v0 : X) : Slots.Statement (.nop v0) := fun h => nomatch h
theorem Slots.bra (v0 : X) (v1 : Target) : Slots.Statement (.bra v0 v1) := fun h => nomatch h
theorem Slots.brx (v0 : X) (v1 : Opd) : Slots.Statement (.brx v0 v1) := fun h => nomatch h
theorem Slots.call (v0 : X) (v1 : Target) (v2 : Fin 16) : Slots.Statement (.call v0 v1 v2) := fun h => nomatch h
theorem Slots.callx (v0 : X) (v1 : Opd) (v2 : Fin 16) : Slots.Statement (.callx v0 v1 v2) := fun h => nomatch h
theorem Slots.ret (v0 : X) : Slots.Statement (.ret v0) := fun h => nomatch h
theorem Slots.exit (v0 : X) : Slots.Statement (.exit v0) := fun h => nomatch h
theorem Slots.gexit (v0 : X) : Slots.Statement (.gexit v0) := fun h => nomatch h
theorem Slots.yield (v0 : X) : Slots.Statement (.yield v0) := fun h => nomatch h
theorem Slots.trap (v0 : X) (v1 : Word) : Slots.Statement (.trap v0 v1) := fun h => nomatch h
theorem Slots.tret (v0 : X) : Slots.Statement (.tret v0) := fun h => nomatch h
theorem Slots.tretry (v0 : X) : Slots.Statement (.tretry v0) := fun h => nomatch h
theorem Slots.tfence (v0 : X) : Slots.Statement (.tfence v0) := fun h => nomatch h
theorem Slots.getsr (v0 : X) (v1 : Opd) (v2 : SReg) : Slots.Statement (.getsr v0 v1 v2) := fun h => nomatch h
theorem Slots.setsr (v0 : X) (v1 : SReg) (v2 : Opd) : Slots.Statement (.setsr v0 v1 v2) := fun h => nomatch h
theorem Slots.sleep (v0 : X) (v1 : Word) : Slots.Statement (.sleep v0 v1) := fun h => nomatch h
theorem Slots.iadd (v0 : X) (v1 : Ty) (v2 : Bool) (v3 v4 v5 : Opd) : Slots.Statement (.iadd v0 v1 v2 v3 v4 v5) := fun h => nomatch h
theorem Slots.iaddImm (v0 : X) (v1 : Ty) (v2 : Bool) (v3 v4 : Opd) (v5 : Word)
    : Slots.Statement (.iaddImm v0 v1 v2 v3 v4 v5) := fun h => nomatch h
theorem Slots.isub (v0 : X) (v1 : Ty) (v2 : Bool) (v3 v4 v5 : Opd) : Slots.Statement (.isub v0 v1 v2 v3 v4 v5) := fun h => nomatch h
theorem Slots.imul (v0 : X) (v1 : Ty) (v2 : Bool) (v3 v4 v5 : Opd) : Slots.Statement (.imul v0 v1 v2 v3 v4 v5) := fun h => nomatch h
theorem Slots.imulh (v0 : X) (v1 : Ty) (v2 v3 v4 : Opd) : Slots.Statement (.imulh v0 v1 v2 v3 v4) := fun h => nomatch h
theorem Slots.imad (v0 : X) (v1 : Ty) (v2 : Bool) (v3 v4 v5 v6 : Opd)
    : Slots.Statement (.imad v0 v1 v2 v3 v4 v5 v6) := fun h => nomatch h
theorem Slots.idiv (v0 : X) (v1 : Ty) (v2 : Bool) (v3 v4 v5 : Opd) : Slots.Statement (.idiv v0 v1 v2 v3 v4 v5) := fun h => nomatch h
theorem Slots.irem (v0 : X) (v1 : Ty) (v2 v3 v4 : Opd) : Slots.Statement (.irem v0 v1 v2 v3 v4) := fun h => nomatch h
theorem Slots.imin (v0 : X) (v1 : Ty) (v2 v3 v4 : Opd) : Slots.Statement (.imin v0 v1 v2 v3 v4) := fun h => nomatch h
theorem Slots.imax (v0 : X) (v1 : Ty) (v2 v3 v4 : Opd) : Slots.Statement (.imax v0 v1 v2 v3 v4) := fun h => nomatch h
theorem Slots.iabs (v0 : X) (v1 : Ty) (v2 : Bool) (v3 v4 : Opd) : Slots.Statement (.iabs v0 v1 v2 v3 v4) := fun h => nomatch h
theorem Slots.ineg (v0 : X) (v1 : Ty) (v2 : Bool) (v3 v4 : Opd) : Slots.Statement (.ineg v0 v1 v2 v3 v4) := fun h => nomatch h
theorem Slots.idot4 (v0 : X) (v1 : Ty) (v2 : Bool) (v3 v4 v5 v6 : Opd)
    : Slots.Statement (.idot4 v0 v1 v2 v3 v4 v5 v6) := fun h => nomatch h
theorem Slots.lea (v0 : X) (v1 : Bool) (v2 : Fin 8) (v3 v4 v5 : Opd) : Slots.Statement (.lea v0 v1 v2 v3 v4 v5) := fun h => nomatch h
theorem Slots.leaImm (v0 : X) (v1 v2 : Opd) (v3 : Word) : Slots.Statement (.leaImm v0 v1 v2 v3) := fun h => nomatch h
theorem Slots.and (v0 : X) (v1 : Ty) (v2 v3 v4 : Opd) : Slots.Statement (.and v0 v1 v2 v3 v4) := fun h => nomatch h
theorem Slots.or (v0 : X) (v1 : Ty) (v2 v3 v4 : Opd) : Slots.Statement (.or v0 v1 v2 v3 v4) := fun h => nomatch h
theorem Slots.xor (v0 : X) (v1 : Ty) (v2 v3 v4 : Opd) : Slots.Statement (.xor v0 v1 v2 v3 v4) := fun h => nomatch h
theorem Slots.andImm (v0 : X) (v1 : Ty) (v2 v3 : Opd) (v4 : Word) : Slots.Statement (.andImm v0 v1 v2 v3 v4) := fun h => nomatch h
theorem Slots.orImm (v0 : X) (v1 : Ty) (v2 v3 : Opd) (v4 : Word) : Slots.Statement (.orImm v0 v1 v2 v3 v4) := fun h => nomatch h
theorem Slots.xorImm (v0 : X) (v1 : Ty) (v2 v3 : Opd) (v4 : Word) : Slots.Statement (.xorImm v0 v1 v2 v3 v4) := fun h => nomatch h
theorem Slots.not (v0 : X) (v1 : Ty) (v2 v3 : Opd) : Slots.Statement (.not v0 v1 v2 v3) := fun h => nomatch h
theorem Slots.lut3 (v0 : X) (v1 : Ty) (v2 : Byte) (v3 v4 v5 v6 : Opd)
    : Slots.Statement (.lut3 v0 v1 v2 v3 v4 v5 v6) := fun h => nomatch h
theorem Slots.shl (v0 : X) (v1 : Ty) (v2 v3 v4 : Opd) : Slots.Statement (.shl v0 v1 v2 v3 v4) := fun h => nomatch h
theorem Slots.shr (v0 : X) (v1 : Ty) (v2 v3 v4 : Opd) : Slots.Statement (.shr v0 v1 v2 v3 v4) := fun h => nomatch h
theorem Slots.sar (v0 : X) (v1 : Ty) (v2 v3 v4 : Opd) : Slots.Statement (.sar v0 v1 v2 v3 v4) := fun h => nomatch h
theorem Slots.rot (v0 : X) (v1 : Ty) (v2 v3 v4 : Opd) : Slots.Statement (.rot v0 v1 v2 v3 v4) := fun h => nomatch h
theorem Slots.bfx (v0 : X) (v1 : Ty) (v2 : Bool) (v3 v4 v5 : Opd) : Slots.Statement (.bfx v0 v1 v2 v3 v4 v5) := fun h => nomatch h
theorem Slots.bfi (v0 : X) (v1 : Ty) (v2 v3 v4 v5 : Opd) : Slots.Statement (.bfi v0 v1 v2 v3 v4 v5) := fun h => nomatch h
theorem Slots.popc (v0 : X) (v1 : Ty) (v2 v3 : Opd) : Slots.Statement (.popc v0 v1 v2 v3) := fun h => nomatch h
theorem Slots.clz (v0 : X) (v1 : Ty) (v2 v3 : Opd) : Slots.Statement (.clz v0 v1 v2 v3) := fun h => nomatch h
theorem Slots.brev (v0 : X) (v1 : Ty) (v2 v3 : Opd) : Slots.Statement (.brev v0 v1 v2 v3) := fun h => nomatch h
theorem Slots.permb (v0 : X) (v1 v2 v3 v4 : Opd) : Slots.Statement (.permb v0 v1 v2 v3 v4) := fun h => nomatch h
theorem Slots.pcmpi (v0 : X) (v1 : Cmp) (v2 : Ty) (v3 : Bop) (v4 : Fin 8) (v5 v6 : Opd) (v7 : Psel)
    : Slots.Statement (.pcmpi v0 v1 v2 v3 v4 v5 v6 v7) := fun h => nomatch h
theorem Slots.pcmpf (v0 : X) (v1 : Cmp) (v2 : Ty) (v3 : Bop) (v4 : Fin 8) (v5 v6 : Opd) (v7 : Psel)
    : Slots.Statement (.pcmpf v0 v1 v2 v3 v4 v5 v6 v7) := fun h => nomatch h
theorem Slots.plut (v0 : X) (v1 : Byte) (v2 v3 v4 v5 : Fin 8) : Slots.Statement (.plut v0 v1 v2 v3 v4 v5) := fun h => nomatch h
theorem Slots.sel (v0 : X) (v1 : Ty) (v2 v3 v4 : Opd) (v5 : Psel) : Slots.Statement (.sel v0 v1 v2 v3 v4 v5) := fun h => nomatch h
theorem Slots.mov (v0 : X) (v1 : Ty) (v2 v3 : Opd) : Slots.Statement (.mov v0 v1 v2 v3) := fun h => nomatch h
theorem Slots.movi (v0 : X) (v1 : Ty) (v2 : Opd) (v3 : Word) : Slots.Statement (.movi v0 v1 v2 v3) := fun h => nomatch h
theorem Slots.fadd (v0 : X) (v1 : Option Rm) (v2 : Bool) (v3 v4 v5 : Opd)
    : Slots.Statement (.fadd v0 v1 v2 v3 v4 v5) := fun h => nomatch h
theorem Slots.fsub (v0 : X) (v1 : Option Rm) (v2 : Bool) (v3 v4 v5 : Opd)
    : Slots.Statement (.fsub v0 v1 v2 v3 v4 v5) := fun h => nomatch h
theorem Slots.fmul (v0 : X) (v1 : Option Rm) (v2 : Bool) (v3 v4 v5 : Opd)
    : Slots.Statement (.fmul v0 v1 v2 v3 v4 v5) := fun h => nomatch h
theorem Slots.fmad (v0 : X) (v1 : Option Rm) (v2 : Bool) (v3 v4 v5 v6 : Opd)
    : Slots.Statement (.fmad v0 v1 v2 v3 v4 v5 v6) := fun h => nomatch h
theorem Slots.fmin (v0 : X) (v1 v2 v3 : Opd) : Slots.Statement (.fmin v0 v1 v2 v3) := fun h => nomatch h
theorem Slots.fmax (v0 : X) (v1 v2 v3 : Opd) : Slots.Statement (.fmax v0 v1 v2 v3) := fun h => nomatch h
theorem Slots.dadd (v0 : X) (v1 : Option Rm) (v2 : Bool) (v3 v4 v5 : Opd)
    : Slots.Statement (.dadd v0 v1 v2 v3 v4 v5) := fun h => nomatch h
theorem Slots.dmul (v0 : X) (v1 : Option Rm) (v2 : Bool) (v3 v4 v5 : Opd)
    : Slots.Statement (.dmul v0 v1 v2 v3 v4 v5) := fun h => nomatch h
theorem Slots.dmad (v0 : X) (v1 : Option Rm) (v2 : Bool) (v3 v4 v5 v6 : Opd)
    : Slots.Statement (.dmad v0 v1 v2 v3 v4 v5 v6) := fun h => nomatch h
theorem Slots.padd2 (v0 : X) (v1 : Ty) (v2 : Option Rm) (v3 : Bool) (v4 v5 v6 : Opd)
    : Slots.Statement (.padd2 v0 v1 v2 v3 v4 v5 v6) := fun h => nomatch h
theorem Slots.pmul2 (v0 : X) (v1 : Ty) (v2 : Option Rm) (v3 : Bool) (v4 v5 v6 : Opd)
    : Slots.Statement (.pmul2 v0 v1 v2 v3 v4 v5 v6) := fun h => nomatch h
theorem Slots.pfma2 (v0 : X) (v1 : Ty) (v2 : Option Rm) (v3 : Bool) (v4 v5 v6 v7 : Opd)
    : Slots.Statement (.pfma2 v0 v1 v2 v3 v4 v5 v6 v7) := fun h => nomatch h
theorem Slots.cvt (v0 : X) (v1 v2 : Ty) (v3 v4 : Fin 8) (v5 : Option Rm) (v6 : Bool) (v7 v8 : Opd)
    : Slots.Statement (.cvt v0 v1 v2 v3 v4 v5 v6 v7 v8) := fun h => nomatch h
theorem Slots.cvtq (v0 : X) (v1 v2 : Ty) (v3 : Fin 64) (v4 : Option Rm) (v5 v6 : Bool) (v7 v8 v9 : Opd)
    : Slots.Statement (.cvtq v0 v1 v2 v3 v4 v5 v6 v7 v8 v9) := fun h => nomatch h
theorem Slots.cvtd (v0 : X) (v1 v2 : Ty) (v3 : Fin 64) (v4 : Bool) (v5 v6 v7 : Opd)
    : Slots.Statement (.cvtd v0 v1 v2 v3 v4 v5 v6 v7) := fun h => nomatch h
theorem Slots.nzcnt (v0 : X) (v1 : Ty) (v2 : Fin 64) (v3 : Bool) (v4 v5 v6 : Opd)
    : Slots.Statement (.nzcnt v0 v1 v2 v3 v4 v5 v6) := fun h => nomatch h
theorem Slots.nzmap (v0 : X) (v1 : Ty) (v2 : Fin 64) (v3 : Bool) (v4 v5 v6 : Opd)
    : Slots.Statement (.nzmap v0 v1 v2 v3 v4 v5 v6) := fun h => nomatch h
theorem Slots.rcp (v0 : X) (v1 : Ty) (v2 v3 : Opd) : Slots.Statement (.rcp v0 v1 v2 v3) := fun h => nomatch h
theorem Slots.rsq (v0 : X) (v1 : Ty) (v2 v3 : Opd) : Slots.Statement (.rsq v0 v1 v2 v3) := fun h => nomatch h
theorem Slots.sqrt (v0 : X) (v1 : Ty) (v2 : Option Rm) (v3 v4 : Opd) : Slots.Statement (.sqrt v0 v1 v2 v3 v4) := fun h => nomatch h
theorem Slots.ex2 (v0 : X) (v1 v2 : Opd) : Slots.Statement (.ex2 v0 v1 v2) := fun h => nomatch h
theorem Slots.lg2 (v0 : X) (v1 v2 : Opd) : Slots.Statement (.lg2 v0 v1 v2) := fun h => nomatch h
theorem Slots.sin (v0 : X) (v1 v2 : Opd) : Slots.Statement (.sin v0 v1 v2) := fun h => nomatch h
theorem Slots.cos (v0 : X) (v1 v2 : Opd) : Slots.Statement (.cos v0 v1 v2) := fun h => nomatch h
theorem Slots.sincos (v0 : X) (v1 v2 : Opd) : Slots.Statement (.sincos v0 v1 v2) := fun h => nomatch h
theorem Slots.tanh (v0 : X) (v1 v2 : Opd) : Slots.Statement (.tanh v0 v1 v2) := fun h => nomatch h
theorem Slots.shfl (v0 : X) (v1 : ShflMode) (v2 : Fin 8) (v3 : Ty) (v4 v5 v6 v7 : Opd)
    : Slots.Statement (.shfl v0 v1 v2 v3 v4 v5 v6 v7) := fun h => nomatch h
theorem Slots.vote (v0 : X) (v1 : VoteMode) (v2 : Fin 8) (v3 : Psel) (v4 : Opd)
    : Slots.Statement (.vote v0 v1 v2 v3 v4) := fun h => nomatch h
theorem Slots.ballot (v0 : X) (v1 : Opd) (v2 : Psel) (v3 : Opd) : Slots.Statement (.ballot v0 v1 v2 v3) := fun h => nomatch h
theorem Slots.matchv (v0 : X) (v1 : Ty) (v2 v3 v4 : Opd) : Slots.Statement (.matchv v0 v1 v2 v3 v4) := fun h => nomatch h
theorem Slots.compact (v0 : X) (v1 : Opd) (v2 : Psel) (v3 : Opd) : Slots.Statement (.compact v0 v1 v2 v3) := fun h => nomatch h
theorem Slots.scan (v0 : X) (v1 : Aop) (v2 : Ty) (v3 : Bool) (v4 v5 v6 : Opd)
    : Slots.Statement (.scan v0 v1 v2 v3 v4 v5 v6) := fun h => nomatch h
theorem Slots.gred (v0 : X) (v1 : Aop) (v2 : Ty) (v3 v4 v5 : Opd) : Slots.Statement (.gred v0 v1 v2 v3 v4 v5) := fun h => nomatch h
theorem Slots.convergenceMismatchTimeout (v0 : Nat) (v1 : DWord) (v2 : Bool)
    : Slots.Statement (.convergenceMismatchTimeout v0 v1 v2) := fun _ => rfl
theorem Slots.join (v0 : X) (v1 : Bool) (v2 : Fin 16) : Slots.Statement (.join v0 v1 v2) := fun h => nomatch h
theorem Slots.waitj (v0 : X) (v1 : Fin 16) : Slots.Statement (.waitj v0 v1) := fun h => nomatch h
theorem Slots.reorder (v0 : X) (v1 : Bool) (v2 : Fin 8) (v3 v4 : Opd) (v5 : KindSel) (v6 : Byte)
    : Slots.Statement (.reorder v0 v1 v2 v3 v4 v5 v6) := fun h => nomatch h
theorem Slots.reorderGroupPlace (v0 : Nat) : Slots.Statement (.reorderGroupPlace v0) := fun _ => rfl
theorem Slots.migrate (v0 : X) (v1 : CoreKind) (v2 : Bool) : Slots.Statement (.migrate v0 v1 v2) := fun h => nomatch h
theorem Slots.groupMove (v0 : Nat) : Slots.Statement (.groupMove v0) := fun _ => rfl
theorem Slots.migrationWindowEnd (v0 : Nat) : Slots.Statement (.migrationWindowEnd v0) := fun _ => rfl
theorem Slots.mma (v0 : X) (v1 v2 : Ty) (v3 v4 v5 : Bool) (v6 v7 v8 : Opd) (v9 v10 v11 : Fin 64) (v12 : Fin 8)
    : Slots.Statement (.mma v0 v1 v2 v3 v4 v5 v6 v7 v8 v9 v10 v11 v12) := fun h => nomatch h
theorem Slots.mmas (v0 : X) (v1 v2 : Ty) (v3 v4 v5 v6 : Bool) (v7 v8 v9 v10 : Opd) (v11 v12 v13 : Fin 64) (v14 : Fin 8)
    : Slots.Statement (.mmas v0 v1 v2 v3 v4 v5 v6 v7 v8 v9 v10 v11 v12 v13 v14) := fun h => nomatch h
theorem Slots.accz (v0 : X) (v1 : Bool) (v2 : Fin 64) (v3 : Fin 8) : Slots.Statement (.accz v0 v1 v2 v3) := fun h => nomatch h
theorem Slots.signatureAbandon (v0 : Nat) (v1 : Fin 8) : Slots.Statement (.signatureAbandon v0 v1) := fun _ => rfl
theorem Slots.tileWaitTimeout (v0 : Nat) (v1 : Fin 64) : Slots.Statement (.tileWaitTimeout v0 v1) := fun _ => rfl
theorem Slots.matrixOpStart (v0 : Nat) : Slots.Statement (.matrixOpStart v0) := fun _ => rfl
theorem Slots.matrixOpComplete (v0 : Nat) : Slots.Statement (.matrixOpComplete v0) := fun _ => rfl
theorem Slots.accld (v0 : X) (v1 : Ty) (v2 : Space) (v3 : Fin 8) (v4 : Opd) (v5 : Fin 64)
    : Slots.Statement (.accld v0 v1 v2 v3 v4 v5) := fun h => nomatch h
theorem Slots.accst (v0 : X) (v1 v2 : Ty) (v3 : Space) (v4 : Fin 8) (v5 : Opd) (v6 : Fin 64)
    : Slots.Statement (.accst v0 v1 v2 v3 v4 v5 v6) := fun h => nomatch h
theorem Slots.ldf (v0 : X) (v1 : Ty) (v2 v3 : Bool) (v4 : Fin 8) (v5 v6 v7 : Opd) (v8 : BitVec 24)
    : Slots.Statement (.ldf v0 v1 v2 v3 v4 v5 v6 v7 v8) := fun h => nomatch h
theorem Slots.fslot (v0 : X) (v1 : Fin 64) (v2 : Fin 8) (v3 : Opd) (v4 : BitVec 24)
    : Slots.Statement (.fslot v0 v1 v2 v3 v4) := fun h => nomatch h
theorem Slots.powerTokenMove (v0 : Nat) : Slots.Statement (.powerTokenMove v0) := fun _ => rfl
theorem Slots.powerTokenRelease (v0 : Nat) : Slots.Statement (.powerTokenRelease v0) := fun _ => rfl
theorem Slots.ld (v0 : X) (v1 : Ty) (v2 : Fin 16) (v3 : Space) (v4 : Fin 8) (v5 v6 : Opd) (v7 : BitVec 24)
    : Slots.Statement (.ld v0 v1 v2 v3 v4 v5 v6 v7) := fun h => nomatch h
theorem Slots.st (v0 : X) (v1 : Ty) (v2 : Fin 16) (v3 : Space) (v4 : Fin 8) (v5 v6 : Opd) (v7 : BitVec 24)
    : Slots.Statement (.st v0 v1 v2 v3 v4 v5 v6 v7) := fun h => nomatch h
theorem Slots.loadComplete (v0 : Nat) : Slots.Statement (.loadComplete v0) := fun _ => rfl
theorem Slots.storePerformed (v0 : Nat) : Slots.Statement (.storePerformed v0) := fun _ => rfl
theorem Slots.lds (v0 : X) (v1 : Ty) (v2 : Fin 16) (v3 : Space) (v4 : Bool) (v5 v6 v7 : Opd) (v8 : BitVec 24)
    : Slots.Statement (.lds v0 v1 v2 v3 v4 v5 v6 v7 v8) := fun h => nomatch h
theorem Slots.pref (v0 : X) (v1 : Bool) (v2 : Fin 16) (v3 : Opd) (v4 : BitVec 24)
    : Slots.Statement (.pref v0 v1 v2 v3 v4) := fun h => nomatch h
theorem Slots.atom (v0 : X) (v1 : Aop) (v2 : Ty) (v3 v4 : Bool) (v5 : Scope) (v6 : Space) (v7 : Fin 8) (v8 v9 v10 v11 : Opd) (v12 : BitVec 24)
    : Slots.Statement (.atom v0 v1 v2 v3 v4 v5 v6 v7 v8 v9 v10 v11 v12) := fun h => nomatch h
theorem Slots.red (v0 : X) (v1 : Aop) (v2 : Ty) (v3 : Fin 8) (v4 v5 : Opd) (v6 : BitVec 24)
    : Slots.Statement (.red v0 v1 v2 v3 v4 v5 v6) := fun h => nomatch h
theorem Slots.reductionApply (v0 : Nat) : Slots.Statement (.reductionApply v0) := fun _ => rfl
theorem Slots.flushred (v0 : X) : Slots.Statement (.flushred v0) := fun h => nomatch h
theorem Slots.fence (v0 : X) (v1 v2 : Bool) (v3 : Scope) (v4 : Byte) : Slots.Statement (.fence v0 v1 v2 v3 v4) := fun h => nomatch h
theorem Slots.xfence (v0 : X) (v1 : Byte) : Slots.Statement (.xfence v0 v1) := fun h => nomatch h
theorem Slots.binit (v0 : X) (v1 : Space) (v2 v3 v4 : Bool) (v5 v6 v7 : Opd) (v8 : BitVec 24)
    : Slots.Statement (.binit v0 v1 v2 v3 v4 v5 v6 v7 v8) := fun h => nomatch h
theorem Slots.arrive (v0 : X) (v1 : Space) (v2 : Bool) (v3 v4 v5 v6 : Opd) (v7 : BitVec 24)
    : Slots.Statement (.arrive v0 v1 v2 v3 v4 v5 v6 v7) := fun h => nomatch h
theorem Slots.wait (v0 : X) (v1 : Space) (v2 v3 : Bool) (v4 v5 v6 : Opd) (v7 : BitVec 24)
    : Slots.Statement (.wait v0 v1 v2 v3 v4 v5 v6 v7) := fun h => nomatch h
theorem Slots.btest (v0 : X) (v1 : Space) (v2 : Fin 8) (v3 v4 : Opd) (v5 : BitVec 24)
    : Slots.Statement (.btest v0 v1 v2 v3 v4 v5) := fun h => nomatch h
theorem Slots.binval (v0 : X) (v1 : Space) (v2 : Opd) (v3 : BitVec 24) : Slots.Statement (.binval v0 v1 v2 v3) := fun h => nomatch h
theorem Slots.phaseComplete (v0 v1 : Nat) : Slots.Statement (.phaseComplete v0 v1) := fun _ => rfl
theorem Slots.rollback (v0 : Nat) : Slots.Statement (.rollback v0) := fun _ => rfl
theorem Slots.cpy (v0 : X) (v1 : Bool) (v2 : Space) (v3 : Bool) (v4 : Fin 8) (v5 : Fin 64) (v6 : Rm) (v7 v8 v9 : Opd) (v10 : BitVec 16)
    : Slots.Statement (.cpy v0 v1 v2 v3 v4 v5 v6 v7 v8 v9 v10) := fun h => nomatch h
theorem Slots.copyOpStart (v0 : Nat) : Slots.Statement (.copyOpStart v0) := fun _ => rfl
theorem Slots.engineOpComplete (v0 : Nat) : Slots.Statement (.engineOpComplete v0) := fun _ => rfl
theorem Slots.fetch (v0 : X) (v1 : Fin 4) (v2 v3 v4 : Opd) (v5 : BitVec 16)
    : Slots.Statement (.fetch v0 v1 v2 v3 v4 v5) := fun h => nomatch h
theorem Slots.tstep (v0 : X) (v1 : Opd) (v2 : Fin 8) (v3 v4 v5 : Opd) (v6 : BitVec 16)
    : Slots.Statement (.tstep v0 v1 v2 v3 v4 v5 v6) := fun h => nomatch h
theorem Slots.trailRd (v0 : X) (v1 : Opd) : Slots.Statement (.trailRd v0 v1) := fun h => nomatch h
theorem Slots.trailZ (v0 : X) : Slots.Statement (.trailZ v0) := fun h => nomatch h
theorem Slots.trailWr (v0 : X) (v1 : Opd) : Slots.Statement (.trailWr v0 v1) := fun h => nomatch h
theorem Slots.tlog (v0 : X) (v1 : Bool) (v2 v3 v4 v5 : Opd) (v6 : BitVec 16)
    : Slots.Statement (.tlog v0 v1 v2 v3 v4 v5 v6) := fun h => nomatch h
theorem Slots.logRecordWrite (v0 : Nat) : Slots.Statement (.logRecordWrite v0) := fun _ => rfl
theorem Slots.logSegmentClose (v0 : Nat) : Slots.Statement (.logSegmentClose v0) := fun _ => rfl
theorem Slots.mopen (v0 : X) (v1 : Fin 8) (v2 v3 : Opd) : Slots.Statement (.mopen v0 v1 v2 v3) := fun h => nomatch h
theorem Slots.mint (v0 : X) (v1 v2 v3 : Fin 8) : Slots.Statement (.mint v0 v1 v2 v3) := fun h => nomatch h
theorem Slots.muni (v0 : X) (v1 v2 v3 : Fin 8) : Slots.Statement (.muni v0 v1 v2 v3) := fun h => nomatch h
theorem Slots.msub (v0 : X) (v1 v2 v3 : Fin 8) : Slots.Statement (.msub v0 v1 v2 v3) := fun h => nomatch h
theorem Slots.mmadd (v0 : X) (v1 : Ty) (v2 v3 v4 : Fin 8) : Slots.Statement (.mmadd v0 v1 v2 v3 v4) := fun h => nomatch h
theorem Slots.mnext (v0 : X) (v1 : Fin 8) (v2 v3 : Opd) : Slots.Statement (.mnext v0 v1 v2 v3) := fun h => nomatch h
theorem Slots.mnextSt (v0 : X) (v1 : Fin 8) (v2 : Fin 8) (v3 v4 v5 : Opd)
    : Slots.Statement (.mnextSt v0 v1 v2 v3 v4 v5) := fun h => nomatch h
theorem Slots.mclose (v0 : X) (v1 : Fin 8) : Slots.Statement (.mclose v0 v1) := fun h => nomatch h
theorem Slots.tpost (v0 : X) (v1 : Fin 16) (v2 : Opd) : Slots.Statement (.tpost v0 v1 v2) := fun h => nomatch h
theorem Slots.tpostHoldTimeout (v0 : Nat) : Slots.Statement (.tpostHoldTimeout v0) := fun _ => rfl
theorem Slots.targ (v0 : X) (v1 : TargForm) (v2 : Opd) : Slots.Statement (.targ v0 v1 v2) := fun h => nomatch h
theorem Slots.taskDispatch : Slots.Statement (.taskDispatch) := fun _ => rfl
theorem Slots.taskComplete (v0 : Nat) : Slots.Statement (.taskComplete v0) := fun _ => rfl
theorem Slots.dappend (v0 : X) (v1 v2 : Bool) (v3 v4 v5 v6 : Opd) : Slots.Statement (.dappend v0 v1 v2 v3 v4 v5 v6) := fun h => nomatch h
theorem Slots.dcut (v0 : X) (v1 : Bool) (v2 v3 : Opd) : Slots.Statement (.dcut v0 v1 v2 v3) := fun h => nomatch h
theorem Slots.dckpt (v0 : X) (v1 : Bool) (v2 v3 v4 : Opd) (v5 : Fin 8) : Slots.Statement (.dckpt v0 v1 v2 v3 v4 v5) := fun h => nomatch h
theorem Slots.dtake (v0 : X) (v1 v2 : Opd) : Slots.Statement (.dtake v0 v1 v2) := fun h => nomatch h
theorem Slots.dcurs (v0 : X) (v1 v2 : Opd) : Slots.Statement (.dcurs v0 v1 v2) := fun h => nomatch h
theorem Slots.xlist (v0 : X) (v1 : Bool) (v2 v3 v4 v5 : Opd) : Slots.Statement (.xlist v0 v1 v2 v3 v4 v5) := fun h => nomatch h
theorem Slots.xsend (v0 : X) (v1 v2 : Bool) (v3 v4 v5 : Opd) : Slots.Statement (.xsend v0 v1 v2 v3 v4 v5) := fun h => nomatch h
theorem Slots.xsendRound2 (v0 : Nat) (v1 : List TokenResp) : Slots.Statement (.xsendRound2 v0 v1) := fun _ => rfl
theorem Slots.xrecv (v0 : X) (v1 v2 v3 : Opd) : Slots.Statement (.xrecv v0 v1 v2 v3) := fun h => nomatch h
theorem Slots.tokenArrival (v0 : Token) : Slots.Statement (.tokenArrival v0) := fun _ => rfl
theorem Slots.endMarkerArrival (v0 v1 v2 : Nat) : Slots.Statement (.endMarkerArrival v0 v1 v2) := fun _ => rfl
theorem Slots.tokenHoldTimeout (v0 : Nat) : Slots.Statement (.tokenHoldTimeout v0) := fun _ => rfl
theorem Slots.exchangeRetransmit (v0 : Nat) : Slots.Statement (.exchangeRetransmit v0) := fun _ => rfl
theorem Slots.peerUnreachable (v0 : Nat) (v1 : Nat) : Slots.Statement (.peerUnreachable v0 v1) := fun _ => rfl
theorem Slots.fseedWrite (v0 : X) (v1 : Opd) : Slots.Statement (.fseedWrite v0 v1) := fun h => nomatch h
theorem Slots.spillBaseWrite (v0 : X) (v1 : Opd) : Slots.Statement (.spillBaseWrite v0 v1) := fun h => nomatch h
theorem Slots.spillLimitWrite (v0 : X) (v1 : Opd) : Slots.Statement (.spillLimitWrite v0 v1) := fun h => nomatch h
theorem Slots.trapCauseWrite (v0 : X) (v1 : Opd) : Slots.Statement (.trapCauseWrite v0 v1) := fun h => nomatch h
theorem Slots.trapBaseWrite (v0 : X) (v1 : Opd) : Slots.Statement (.trapBaseWrite v0 v1) := fun h => nomatch h
theorem Slots.saveBaseWrite (v0 : X) (v1 : Opd) : Slots.Statement (.saveBaseWrite v0 v1) := fun h => nomatch h
theorem Slots.preemptCtlWrite (v0 : X) (v1 : Opd) : Slots.Statement (.preemptCtlWrite v0 v1) := fun h => nomatch h
theorem Slots.migPolicyWrite (v0 : X) (v1 : Opd) : Slots.Statement (.migPolicyWrite v0 v1) := fun h => nomatch h
theorem Slots.specCtlWrite (v0 : X) (v1 : Opd) : Slots.Statement (.specCtlWrite v0 v1) := fun h => nomatch h
theorem Slots.controlRegisterWrite (v0 : X) (v1 : SReg) (v2 : Opd)
    : Slots.Statement (.controlRegisterWrite v0 v1 v2) := fun h => nomatch h
theorem Slots.clauseStart : Slots.Statement (.clauseStart) := fun _ => rfl
theorem Slots.bundlerPass : Slots.Statement (.bundlerPass) := fun _ => rfl
theorem Slots.sleepEnd (v0 : Nat) : Slots.Statement (.sleepEnd v0) := fun _ => rfl
theorem Slots.teamStall (v0 : Nat) : Slots.Statement (.teamStall v0) := fun _ => rfl
theorem Slots.clusterAdmit (v0 : Nat) : Slots.Statement (.clusterAdmit v0) := fun _ => rfl
theorem Slots.teamResident (v0 : Nat) : Slots.Statement (.teamResident v0) := fun _ => rfl
theorem Slots.teamEnd (v0 : Nat) : Slots.Statement (.teamEnd v0) := fun _ => rfl
theorem Slots.gridEnd (v0 : Nat) : Slots.Statement (.gridEnd v0) := fun _ => rfl
theorem Slots.handlerEntry (v0 : Nat) : Slots.Statement (.handlerEntry v0) := fun _ => rfl
theorem Slots.handlerWatchdog (v0 : Nat) : Slots.Statement (.handlerWatchdog v0) := fun _ => rfl
theorem Slots.drainDeadline (v0 : Nat) : Slots.Statement (.drainDeadline v0) := fun _ => rfl
theorem Slots.teamImageWrite (v0 : Nat) : Slots.Statement (.teamImageWrite v0) := fun _ => rfl
theorem Slots.trapSaveDeadline (v0 : Nat) : Slots.Statement (.trapSaveDeadline v0) := fun _ => rfl
theorem Slots.hbmStackFault (v0 : Nat) : Slots.Statement (.hbmStackFault v0) := fun _ => rfl
theorem Slots.dieLinkFailure (v0 : Nat) : Slots.Statement (.dieLinkFailure v0) := fun _ => rfl
theorem Slots.canopyLinkFailure (v0 : Nat) : Slots.Statement (.canopyLinkFailure v0) := fun _ => rfl
theorem Slots.corePartFault (v0 : Nat) : Slots.Statement (.corePartFault v0) := fun _ => rfl
theorem Slots.partFaultRecovery : Slots.Statement (.partFaultRecovery) := fun _ => rfl
theorem Slots.powerStateEnter (v0 : PowerPart) : Slots.Statement (.powerStateEnter v0) := fun _ => rfl
theorem Slots.powerStateExit (v0 : PowerPart) : Slots.Statement (.powerStateExit v0) := fun _ => rfl
theorem Slots.createContext (v0 : Hdr) (v1 : List Byte) : Slots.Statement (.createContext v0 v1) := fun _ => rfl
theorem Slots.writeContextDescriptor (v0 : Hdr) (v1 : List Byte) : Slots.Statement (.writeContextDescriptor v0 v1) := fun _ => rfl
theorem Slots.destroyContext (v0 : Hdr) : Slots.Statement (.destroyContext v0) := fun _ => rfl
theorem Slots.loadCodeObject (v0 : Hdr) (v1 : DWord) (v2 : Nat) : Slots.Statement (.loadCodeObject v0 v1 v2) := fun _ => rfl
theorem Slots.launch (v0 : Hdr) (v1 v2 : Nat) (v3 : List Byte) (v4 : DWord) (v5 : List Word)
    : Slots.Statement (.launch v0 v1 v2 v3 v4 v5) := fun _ => rfl
theorem Slots.seedTask (v0 : Hdr) (v1 : Nat) (v2 : List Byte) : Slots.Statement (.seedTask v0 v1 v2) := fun _ => rfl
theorem Slots.writeMemoryVirtual (v0 : Hdr) (v1 : DWord) (v2 : List Byte)
    : Slots.Statement (.writeMemoryVirtual v0 v1 v2) := fun _ => rfl
theorem Slots.writeMemoryPhysical (v0 : Hdr) (v1 : DWord) (v2 : List Byte)
    : Slots.Statement (.writeMemoryPhysical v0 v1 v2) := fun _ => rfl
theorem Slots.readMemory (v0 : Hdr) (v1 : DWord) (v2 : Nat) : Slots.Statement (.readMemory v0 v1 v2) := fun _ => rfl
theorem Slots.invalidate (v0 : Hdr) (v1 : DWord) (v2 : Nat) : Slots.Statement (.invalidate v0 v1 v2) := fun _ => rfl
theorem Slots.seal (v0 : Hdr) (v1 : DWord) (v2 : Nat) : Slots.Statement (.seal v0 v1 v2) := fun _ => rfl
theorem Slots.createLog (v0 : Hdr) (v1 v2 : DWord) (v3 : Nat) : Slots.Statement (.createLog v0 v1 v2 v3) := fun _ => rfl
theorem Slots.closeLog (v0 : Hdr) (v1 : Nat) : Slots.Statement (.closeLog v0 v1) := fun _ => rfl
theorem Slots.bindStream (v0 : Hdr) (v1 : DWord) : Slots.Statement (.bindStream v0 v1) := fun _ => rfl
theorem Slots.unbindStream (v0 : Hdr) (v1 : DWord) : Slots.Statement (.unbindStream v0 v1) := fun _ => rfl
theorem Slots.streamCursor (v0 : Hdr) (v1 v2 : DWord) : Slots.Statement (.streamCursor v0 v1 v2) := fun _ => rfl
theorem Slots.streamFrame (v0 : Hdr) (v1 v2 : DWord) (v3 v4 : Word) (v5 : Bool)
    : Slots.Statement (.streamFrame v0 v1 v2 v3 v4 v5) := fun _ => rfl
theorem Slots.preempt (v0 : Hdr) : Slots.Statement (.preempt v0) := fun _ => rfl
theorem Slots.resume (v0 : Hdr) : Slots.Statement (.resume v0) := fun _ => rfl
theorem Slots.query (v0 : Hdr) (v1 : Nat) (v2 : DWord) : Slots.Statement (.query v0 v1 v2) := fun _ => rfl
theorem Slots.reportAcknowledgement (v0 : Hdr) (v1 v2 : Nat) : Slots.Statement (.reportAcknowledgement v0 v1 v2) := fun _ => rfl
theorem Slots.transfer (v0 : Hdr) (v1 v2 v3 : DWord) (v4 v5 : Nat) : Slots.Statement (.transfer v0 v1 v2 v3 v4 v5) := fun _ => rfl
theorem Slots.reservedIntakeType (v0 : Hdr) (v1 : Nat) : Slots.Statement (.reservedIntakeType v0 v1) := fun _ => rfl
theorem Slots.reportResend (v0 v1 : Nat) : Slots.Statement (.reportResend v0 v1) := fun _ => rfl
theorem Slots.ident (v0 : RHdr) : Slots.Statement (.ident v0) := fun _ => rfl
theorem Slots.quote (v0 : RHdr) (v1 : List Byte) : Slots.Statement (.quote v0 v1) := fun _ => rfl
theorem Slots.fwupd (v0 : RHdr) (v1 v2 : Nat) (v3 : List Byte) : Slots.Statement (.fwupd v0 v1 v2 v3) := fun _ => rfl
theorem Slots.power (v0 : RHdr) (v1 : Nat) (v2 : List Nat) : Slots.Statement (.power v0 v1 v2) := fun _ => rfl
theorem Slots.release (v0 : RHdr) (v1 v2 : Nat) : Slots.Statement (.release v0 v1 v2) := fun _ => rfl
theorem Slots.rangerSeal (v0 : RHdr) (v1 : Nat) (v2 : DWord) (v3 : Nat) : Slots.Statement (.rangerSeal v0 v1 v2 v3) := fun _ => rfl
theorem Slots.rangerPreempt (v0 : RHdr) (v1 : Nat) : Slots.Statement (.rangerPreempt v0 v1) := fun _ => rfl
theorem Slots.session (v0 : RHdr) (v1 v2 : Nat) (v3 : List Byte) : Slots.Statement (.session v0 v1 v2 v3) := fun _ => rfl
theorem Slots.domain (v0 : RHdr) (v1 : Nat) (v2 : List Nat) : Slots.Statement (.domain v0 v1 v2) := fun _ => rfl
theorem Slots.errlog (v0 : RHdr) (v1 : Nat) : Slots.Statement (.errlog v0 v1) := fun _ => rfl
theorem Slots.reset (v0 : RHdr) : Slots.Statement (.reset v0) := fun _ => rfl
theorem Slots.xdir (v0 : RHdr) (v1 : DWord) (v2 : Nat) : Slots.Statement (.xdir v0 v1 v2) := fun _ => rfl
theorem Slots.rangerUnknownCode (v0 : RHdr) (v1 : Nat) : Slots.Statement (.rangerUnknownCode v0 v1) := fun _ => rfl
theorem Slots.translationBuildComplete (v0 : List Byte) (v1 : CoreKind) (v2 : DWord) (v3 : Nat)
    : Slots.Statement (.translationBuildComplete v0 v1 v2 v3) := fun _ => rfl
theorem Slots.translationBuildTimeout (v0 : List Byte) : Slots.Statement (.translationBuildTimeout v0) := fun _ => rfl
theorem Slots.publishComplete (v0 : Nat) : Slots.Statement (.publishComplete v0) := fun _ => rfl
theorem Slots.parkImageWritten (v0 : Nat) : Slots.Statement (.parkImageWritten v0) := fun _ => rfl
theorem Slots.instructionCacheFill (v0 : Nat) (v1 : DWord) : Slots.Statement (.instructionCacheFill v0 v1) := fun _ => rfl
theorem Slots.remoteAccessArrival (v0 : Nat) (v1 : RemoteReq) : Slots.Statement (.remoteAccessArrival v0 v1) := fun _ => rfl
theorem Slots.transferDataArrival (v0 : Nat) (v1 : DWord) (v2 : List Byte) (v3 : Nat)
    : Slots.Statement (.transferDataArrival v0 v1 v2 v3) := fun _ => rfl
theorem Slots.lossOfPower : Slots.Statement (.lossOfPower) := fun _ => rfl

end Sys2Proof.Laws
end

