-- ==== Sys2Proof/Laws/State.lean ====
section
/-!
SUPPORT. Each field of the state after each update of one record: the field that the update names is what the update says,
and every other field is as it was.
-/

namespace Sys2Proof.Machine


/-! ## State.modTh: only `threads` changes -/

@[simp] theorem State.modTh_cycle (s : State) (t : Nat) (f : Thread → Thread) : (s.modTh t f).cycle = s.cycle := rfl
@[simp] theorem State.modTh_boot (s : State) (t : Nat) (f : Thread → Thread) : (s.modTh t f).boot = s.boot := rfl
@[simp] theorem State.modTh_moduleNo (s : State) (t : Nat) (f : Thread → Thread) : (s.modTh t f).moduleNo = s.moduleNo := rfl
@[simp] theorem State.modTh_routes (s : State) (t : Nat) (f : Thread → Thread) : (s.modTh t f).routes = s.routes := rfl
@[simp] theorem State.modTh_packageCap (s : State) (t : Nat) (f : Thread → Thread) : (s.modTh t f).packageCap = s.packageCap := rfl
@[simp] theorem State.modTh_fwBuffer (s : State) (t : Nat) (f : Thread → Thread) : (s.modTh t f).fwBuffer = s.fwBuffer := rfl
@[simp] theorem State.modTh_fwActive (s : State) (t : Nat) (f : Thread → Thread) : (s.modTh t f).fwActive = s.fwActive := rfl
@[simp] theorem State.modTh_fwPending (s : State) (t : Nat) (f : Thread → Thread) : (s.modTh t f).fwPending = s.fwPending := rfl
@[simp] theorem State.modTh_rangerSeq (s : State) (t : Nat) (f : Thread → Thread) : (s.modTh t f).rangerSeq = s.rangerSeq := rfl
@[simp] theorem State.modTh_rangerLast (s : State) (t : Nat) (f : Thread → Thread) : (s.modTh t f).rangerLast = s.rangerLast := rfl
@[simp] theorem State.modTh_xdirBase (s : State) (t : Nat) (f : Thread → Thread) : (s.modTh t f).xdirBase = s.xdirBase := rfl
@[simp] theorem State.modTh_xdirCount (s : State) (t : Nat) (f : Thread → Thread) : (s.modTh t f).xdirCount = s.xdirCount := rfl
@[simp] theorem State.modTh_xreqs (s : State) (t : Nat) (f : Thread → Thread) : (s.modTh t f).xreqs = s.xreqs := rfl
@[simp] theorem State.modTh_launchCounter (s : State) (t : Nat) (f : Thread → Thread) : (s.modTh t f).launchCounter = s.launchCounter := rfl
@[simp] theorem State.modTh_sealCounter (s : State) (t : Nat) (f : Thread → Thread) : (s.modTh t f).sealCounter = s.sealCounter := rfl
@[simp] theorem State.modTh_imageSeq (s : State) (t : Nat) (f : Thread → Thread) : (s.modTh t f).imageSeq = s.imageSeq := rfl
@[simp] theorem State.modTh_errLog (s : State) (t : Nat) (f : Thread → Thread) : (s.modTh t f).errLog = s.errLog := rfl
@[simp] theorem State.modTh_partFaults (s : State) (t : Nat) (f : Thread → Thread) : (s.modTh t f).partFaults = s.partFaults := rfl
@[simp] theorem State.modTh_recovering (s : State) (t : Nat) (f : Thread → Thread) : (s.modTh t f).recovering = s.recovering := rfl
@[simp] theorem State.modTh_mended (s : State) (t : Nat) (f : Thread → Thread) : (s.modTh t f).mended = s.mended := rfl
@[simp] theorem State.modTh_powerDown (s : State) (t : Nat) (f : Thread → Thread) : (s.modTh t f).powerDown = s.powerDown := rfl
@[simp] theorem State.modTh_mem (s : State) (t : Nat) (f : Thread → Thread) : (s.modTh t f).mem = s.mem := rfl
@[simp] theorem State.modTh_poison (s : State) (t : Nat) (f : Thread → Thread) : (s.modTh t f).poison = s.poison := rfl
@[simp] theorem State.modTh_l1 (s : State) (t : Nat) (f : Thread → Thread) : (s.modTh t f).l1 = s.l1 := rfl
@[simp] theorem State.modTh_tlb (s : State) (t : Nat) (f : Thread → Thread) : (s.modTh t f).tlb = s.tlb := rfl
@[simp] theorem State.modTh_icache (s : State) (t : Nat) (f : Thread → Thread) : (s.modTh t f).icache = s.icache := rfl
@[simp] theorem State.modTh_icacheMiss (s : State) (t : Nat) (f : Thread → Thread) : (s.modTh t f).icacheMiss = s.icacheMiss := rfl
@[simp] theorem State.modTh_oldSlots (s : State) (t : Nat) (f : Thread → Thread) : (s.modTh t f).oldSlots = s.oldSlots := rfl
@[simp] theorem State.modTh_seals (s : State) (t : Nat) (f : Thread → Thread) : (s.modTh t f).seals = s.seals := rfl
@[simp] theorem State.modTh_ranges (s : State) (t : Nat) (f : Thread → Thread) : (s.modTh t f).ranges = s.ranges := rfl
@[simp] theorem State.modTh_cores (s : State) (t : Nat) (f : Thread → Thread) : (s.modTh t f).cores = s.cores := rfl
@[simp] theorem State.modTh_rings (s : State) (t : Nat) (f : Thread → Thread) : (s.modTh t f).rings = s.rings := rfl
@[simp] theorem State.modTh_contexts (s : State) (t : Nat) (f : Thread → Thread) : (s.modTh t f).contexts = s.contexts := rfl
@[simp] theorem State.modTh_launches (s : State) (t : Nat) (f : Thread → Thread) : (s.modTh t f).launches = s.launches := rfl
@[simp] theorem State.modTh_clusters (s : State) (t : Nat) (f : Thread → Thread) : (s.modTh t f).clusters = s.clusters := rfl
@[simp] theorem State.modTh_teams (s : State) (t : Nat) (f : Thread → Thread) : (s.modTh t f).teams = s.teams := rfl
@[simp] theorem State.modTh_groups (s : State) (t : Nat) (f : Thread → Thread) : (s.modTh t f).groups = s.groups := rfl
@[simp] theorem State.modTh_beads (s : State) (t : Nat) (f : Thread → Thread) : (s.modTh t f).beads = s.beads := rfl
@[simp] theorem State.modTh_ops (s : State) (t : Nat) (f : Thread → Thread) : (s.modTh t f).ops = s.ops := rfl
@[simp] theorem State.modTh_batches (s : State) (t : Nat) (f : Thread → Thread) : (s.modTh t f).batches = s.batches := rfl
@[simp] theorem State.modTh_points (s : State) (t : Nat) (f : Thread → Thread) : (s.modTh t f).points = s.points := rfl
@[simp] theorem State.modTh_publishes (s : State) (t : Nat) (f : Thread → Thread) : (s.modTh t f).publishes = s.publishes := rfl
@[simp] theorem State.modTh_phases (s : State) (t : Nat) (f : Thread → Thread) : (s.modTh t f).phases = s.phases := rfl
@[simp] theorem State.modTh_logs (s : State) (t : Nat) (f : Thread → Thread) : (s.modTh t f).logs = s.logs := rfl
@[simp] theorem State.modTh_logQueue (s : State) (t : Nat) (f : Thread → Thread) : (s.modTh t f).logQueue = s.logQueue := rfl
@[simp] theorem State.modTh_streams (s : State) (t : Nat) (f : Thread → Thread) : (s.modTh t f).streams = s.streams := rfl
@[simp] theorem State.modTh_xdescs (s : State) (t : Nat) (f : Thread → Thread) : (s.modTh t f).xdescs = s.xdescs := rfl
@[simp] theorem State.modTh_recvBufs (s : State) (t : Nat) (f : Thread → Thread) : (s.modTh t f).recvBufs = s.recvBufs := rfl
@[simp] theorem State.modTh_sends (s : State) (t : Nat) (f : Thread → Thread) : (s.modTh t f).sends = s.sends := rfl
@[simp] theorem State.modTh_xfers (s : State) (t : Nat) (f : Thread → Thread) : (s.modTh t f).xfers = s.xfers := rfl
@[simp] theorem State.modTh_pairs (s : State) (t : Nat) (f : Thread → Thread) : (s.modTh t f).pairs = s.pairs := rfl
@[simp] theorem State.modTh_far (s : State) (t : Nat) (f : Thread → Thread) : (s.modTh t f).far = s.far := rfl
@[simp] theorem State.modTh_heldToks (s : State) (t : Nat) (f : Thread → Thread) : (s.modTh t f).heldToks = s.heldToks := rfl
@[simp] theorem State.modTh_endMarks (s : State) (t : Nat) (f : Thread → Thread) : (s.modTh t f).endMarks = s.endMarks := rfl
@[simp] theorem State.modTh_sessions (s : State) (t : Nat) (f : Thread → Thread) : (s.modTh t f).sessions = s.sessions := rfl
@[simp] theorem State.modTh_intake (s : State) (t : Nat) (f : Thread → Thread) : (s.modTh t f).intake = s.intake := rfl
@[simp] theorem State.modTh_inbox (s : State) (t : Nat) (f : Thread → Thread) : (s.modTh t f).inbox = s.inbox := rfl
@[simp] theorem State.modTh_rangerInbox (s : State) (t : Nat) (f : Thread → Thread) : (s.modTh t f).rangerInbox = s.rangerInbox := rfl
@[simp] theorem State.modTh_outbox (s : State) (t : Nat) (f : Thread → Thread) : (s.modTh t f).outbox = s.outbox := rfl
@[simp] theorem State.modTh_issues (s : State) (t : Nat) (f : Thread → Thread) : (s.modTh t f).issues = s.issues := rfl
@[simp] theorem State.modTh_meetDue (s : State) (t : Nat) (f : Thread → Thread) : (s.modTh t f).meetDue = s.meetDue := rfl
@[simp] theorem State.modTh_agenda (s : State) (t : Nat) (f : Thread → Thread) : (s.modTh t f).agenda = s.agenda := rfl
@[simp] theorem State.modTh_timers (s : State) (t : Nat) (f : Thread → Thread) : (s.modTh t f).timers = s.timers := rfl
@[simp] theorem State.modTh_turns (s : State) (t : Nat) (f : Thread → Thread) : (s.modTh t f).turns = s.turns := rfl
@[simp] theorem State.modTh_nextId (s : State) (t : Nat) (f : Thread → Thread) : (s.modTh t f).nextId = s.nextId := rfl
@[simp] theorem State.modTh_freeCount (s : State) (t : Nat) (f : Thread → Thread) : (s.modTh t f).freeCount = s.freeCount := rfl

/-! ## State.setTh: only `threads` changes -/

@[simp] theorem State.setTh_cycle (s : State) (u : Thread) : (s.setTh u).cycle = s.cycle := rfl
@[simp] theorem State.setTh_boot (s : State) (u : Thread) : (s.setTh u).boot = s.boot := rfl
@[simp] theorem State.setTh_moduleNo (s : State) (u : Thread) : (s.setTh u).moduleNo = s.moduleNo := rfl
@[simp] theorem State.setTh_routes (s : State) (u : Thread) : (s.setTh u).routes = s.routes := rfl
@[simp] theorem State.setTh_packageCap (s : State) (u : Thread) : (s.setTh u).packageCap = s.packageCap := rfl
@[simp] theorem State.setTh_fwBuffer (s : State) (u : Thread) : (s.setTh u).fwBuffer = s.fwBuffer := rfl
@[simp] theorem State.setTh_fwActive (s : State) (u : Thread) : (s.setTh u).fwActive = s.fwActive := rfl
@[simp] theorem State.setTh_fwPending (s : State) (u : Thread) : (s.setTh u).fwPending = s.fwPending := rfl
@[simp] theorem State.setTh_rangerSeq (s : State) (u : Thread) : (s.setTh u).rangerSeq = s.rangerSeq := rfl
@[simp] theorem State.setTh_rangerLast (s : State) (u : Thread) : (s.setTh u).rangerLast = s.rangerLast := rfl
@[simp] theorem State.setTh_xdirBase (s : State) (u : Thread) : (s.setTh u).xdirBase = s.xdirBase := rfl
@[simp] theorem State.setTh_xdirCount (s : State) (u : Thread) : (s.setTh u).xdirCount = s.xdirCount := rfl
@[simp] theorem State.setTh_xreqs (s : State) (u : Thread) : (s.setTh u).xreqs = s.xreqs := rfl
@[simp] theorem State.setTh_launchCounter (s : State) (u : Thread) : (s.setTh u).launchCounter = s.launchCounter := rfl
@[simp] theorem State.setTh_sealCounter (s : State) (u : Thread) : (s.setTh u).sealCounter = s.sealCounter := rfl
@[simp] theorem State.setTh_imageSeq (s : State) (u : Thread) : (s.setTh u).imageSeq = s.imageSeq := rfl
@[simp] theorem State.setTh_errLog (s : State) (u : Thread) : (s.setTh u).errLog = s.errLog := rfl
@[simp] theorem State.setTh_partFaults (s : State) (u : Thread) : (s.setTh u).partFaults = s.partFaults := rfl
@[simp] theorem State.setTh_recovering (s : State) (u : Thread) : (s.setTh u).recovering = s.recovering := rfl
@[simp] theorem State.setTh_mended (s : State) (u : Thread) : (s.setTh u).mended = s.mended := rfl
@[simp] theorem State.setTh_powerDown (s : State) (u : Thread) : (s.setTh u).powerDown = s.powerDown := rfl
@[simp] theorem State.setTh_mem (s : State) (u : Thread) : (s.setTh u).mem = s.mem := rfl
@[simp] theorem State.setTh_poison (s : State) (u : Thread) : (s.setTh u).poison = s.poison := rfl
@[simp] theorem State.setTh_l1 (s : State) (u : Thread) : (s.setTh u).l1 = s.l1 := rfl
@[simp] theorem State.setTh_tlb (s : State) (u : Thread) : (s.setTh u).tlb = s.tlb := rfl
@[simp] theorem State.setTh_icache (s : State) (u : Thread) : (s.setTh u).icache = s.icache := rfl
@[simp] theorem State.setTh_icacheMiss (s : State) (u : Thread) : (s.setTh u).icacheMiss = s.icacheMiss := rfl
@[simp] theorem State.setTh_oldSlots (s : State) (u : Thread) : (s.setTh u).oldSlots = s.oldSlots := rfl
@[simp] theorem State.setTh_seals (s : State) (u : Thread) : (s.setTh u).seals = s.seals := rfl
@[simp] theorem State.setTh_ranges (s : State) (u : Thread) : (s.setTh u).ranges = s.ranges := rfl
@[simp] theorem State.setTh_cores (s : State) (u : Thread) : (s.setTh u).cores = s.cores := rfl
@[simp] theorem State.setTh_rings (s : State) (u : Thread) : (s.setTh u).rings = s.rings := rfl
@[simp] theorem State.setTh_contexts (s : State) (u : Thread) : (s.setTh u).contexts = s.contexts := rfl
@[simp] theorem State.setTh_launches (s : State) (u : Thread) : (s.setTh u).launches = s.launches := rfl
@[simp] theorem State.setTh_clusters (s : State) (u : Thread) : (s.setTh u).clusters = s.clusters := rfl
@[simp] theorem State.setTh_teams (s : State) (u : Thread) : (s.setTh u).teams = s.teams := rfl
@[simp] theorem State.setTh_groups (s : State) (u : Thread) : (s.setTh u).groups = s.groups := rfl
@[simp] theorem State.setTh_beads (s : State) (u : Thread) : (s.setTh u).beads = s.beads := rfl
@[simp] theorem State.setTh_ops (s : State) (u : Thread) : (s.setTh u).ops = s.ops := rfl
@[simp] theorem State.setTh_batches (s : State) (u : Thread) : (s.setTh u).batches = s.batches := rfl
@[simp] theorem State.setTh_points (s : State) (u : Thread) : (s.setTh u).points = s.points := rfl
@[simp] theorem State.setTh_publishes (s : State) (u : Thread) : (s.setTh u).publishes = s.publishes := rfl
@[simp] theorem State.setTh_phases (s : State) (u : Thread) : (s.setTh u).phases = s.phases := rfl
@[simp] theorem State.setTh_logs (s : State) (u : Thread) : (s.setTh u).logs = s.logs := rfl
@[simp] theorem State.setTh_logQueue (s : State) (u : Thread) : (s.setTh u).logQueue = s.logQueue := rfl
@[simp] theorem State.setTh_streams (s : State) (u : Thread) : (s.setTh u).streams = s.streams := rfl
@[simp] theorem State.setTh_xdescs (s : State) (u : Thread) : (s.setTh u).xdescs = s.xdescs := rfl
@[simp] theorem State.setTh_recvBufs (s : State) (u : Thread) : (s.setTh u).recvBufs = s.recvBufs := rfl
@[simp] theorem State.setTh_sends (s : State) (u : Thread) : (s.setTh u).sends = s.sends := rfl
@[simp] theorem State.setTh_xfers (s : State) (u : Thread) : (s.setTh u).xfers = s.xfers := rfl
@[simp] theorem State.setTh_pairs (s : State) (u : Thread) : (s.setTh u).pairs = s.pairs := rfl
@[simp] theorem State.setTh_far (s : State) (u : Thread) : (s.setTh u).far = s.far := rfl
@[simp] theorem State.setTh_heldToks (s : State) (u : Thread) : (s.setTh u).heldToks = s.heldToks := rfl
@[simp] theorem State.setTh_endMarks (s : State) (u : Thread) : (s.setTh u).endMarks = s.endMarks := rfl
@[simp] theorem State.setTh_sessions (s : State) (u : Thread) : (s.setTh u).sessions = s.sessions := rfl
@[simp] theorem State.setTh_intake (s : State) (u : Thread) : (s.setTh u).intake = s.intake := rfl
@[simp] theorem State.setTh_inbox (s : State) (u : Thread) : (s.setTh u).inbox = s.inbox := rfl
@[simp] theorem State.setTh_rangerInbox (s : State) (u : Thread) : (s.setTh u).rangerInbox = s.rangerInbox := rfl
@[simp] theorem State.setTh_outbox (s : State) (u : Thread) : (s.setTh u).outbox = s.outbox := rfl
@[simp] theorem State.setTh_issues (s : State) (u : Thread) : (s.setTh u).issues = s.issues := rfl
@[simp] theorem State.setTh_meetDue (s : State) (u : Thread) : (s.setTh u).meetDue = s.meetDue := rfl
@[simp] theorem State.setTh_agenda (s : State) (u : Thread) : (s.setTh u).agenda = s.agenda := rfl
@[simp] theorem State.setTh_timers (s : State) (u : Thread) : (s.setTh u).timers = s.timers := rfl
@[simp] theorem State.setTh_turns (s : State) (u : Thread) : (s.setTh u).turns = s.turns := rfl
@[simp] theorem State.setTh_nextId (s : State) (u : Thread) : (s.setTh u).nextId = s.nextId := rfl
@[simp] theorem State.setTh_freeCount (s : State) (u : Thread) : (s.setTh u).freeCount = s.freeCount := rfl

/-! ## State.advance: only `threads` changes -/

@[simp] theorem State.advance_cycle (s : State) (t : Nat) : (s.advance t).cycle = s.cycle := rfl
@[simp] theorem State.advance_boot (s : State) (t : Nat) : (s.advance t).boot = s.boot := rfl
@[simp] theorem State.advance_moduleNo (s : State) (t : Nat) : (s.advance t).moduleNo = s.moduleNo := rfl
@[simp] theorem State.advance_routes (s : State) (t : Nat) : (s.advance t).routes = s.routes := rfl
@[simp] theorem State.advance_packageCap (s : State) (t : Nat) : (s.advance t).packageCap = s.packageCap := rfl
@[simp] theorem State.advance_fwBuffer (s : State) (t : Nat) : (s.advance t).fwBuffer = s.fwBuffer := rfl
@[simp] theorem State.advance_fwActive (s : State) (t : Nat) : (s.advance t).fwActive = s.fwActive := rfl
@[simp] theorem State.advance_fwPending (s : State) (t : Nat) : (s.advance t).fwPending = s.fwPending := rfl
@[simp] theorem State.advance_rangerSeq (s : State) (t : Nat) : (s.advance t).rangerSeq = s.rangerSeq := rfl
@[simp] theorem State.advance_rangerLast (s : State) (t : Nat) : (s.advance t).rangerLast = s.rangerLast := rfl
@[simp] theorem State.advance_xdirBase (s : State) (t : Nat) : (s.advance t).xdirBase = s.xdirBase := rfl
@[simp] theorem State.advance_xdirCount (s : State) (t : Nat) : (s.advance t).xdirCount = s.xdirCount := rfl
@[simp] theorem State.advance_xreqs (s : State) (t : Nat) : (s.advance t).xreqs = s.xreqs := rfl
@[simp] theorem State.advance_launchCounter (s : State) (t : Nat) : (s.advance t).launchCounter = s.launchCounter := rfl
@[simp] theorem State.advance_sealCounter (s : State) (t : Nat) : (s.advance t).sealCounter = s.sealCounter := rfl
@[simp] theorem State.advance_imageSeq (s : State) (t : Nat) : (s.advance t).imageSeq = s.imageSeq := rfl
@[simp] theorem State.advance_errLog (s : State) (t : Nat) : (s.advance t).errLog = s.errLog := rfl
@[simp] theorem State.advance_partFaults (s : State) (t : Nat) : (s.advance t).partFaults = s.partFaults := rfl
@[simp] theorem State.advance_recovering (s : State) (t : Nat) : (s.advance t).recovering = s.recovering := rfl
@[simp] theorem State.advance_mended (s : State) (t : Nat) : (s.advance t).mended = s.mended := rfl
@[simp] theorem State.advance_powerDown (s : State) (t : Nat) : (s.advance t).powerDown = s.powerDown := rfl
@[simp] theorem State.advance_mem (s : State) (t : Nat) : (s.advance t).mem = s.mem := rfl
@[simp] theorem State.advance_poison (s : State) (t : Nat) : (s.advance t).poison = s.poison := rfl
@[simp] theorem State.advance_l1 (s : State) (t : Nat) : (s.advance t).l1 = s.l1 := rfl
@[simp] theorem State.advance_tlb (s : State) (t : Nat) : (s.advance t).tlb = s.tlb := rfl
@[simp] theorem State.advance_icache (s : State) (t : Nat) : (s.advance t).icache = s.icache := rfl
@[simp] theorem State.advance_icacheMiss (s : State) (t : Nat) : (s.advance t).icacheMiss = s.icacheMiss := rfl
@[simp] theorem State.advance_oldSlots (s : State) (t : Nat) : (s.advance t).oldSlots = s.oldSlots := rfl
@[simp] theorem State.advance_seals (s : State) (t : Nat) : (s.advance t).seals = s.seals := rfl
@[simp] theorem State.advance_ranges (s : State) (t : Nat) : (s.advance t).ranges = s.ranges := rfl
@[simp] theorem State.advance_cores (s : State) (t : Nat) : (s.advance t).cores = s.cores := rfl
@[simp] theorem State.advance_rings (s : State) (t : Nat) : (s.advance t).rings = s.rings := rfl
@[simp] theorem State.advance_contexts (s : State) (t : Nat) : (s.advance t).contexts = s.contexts := rfl
@[simp] theorem State.advance_launches (s : State) (t : Nat) : (s.advance t).launches = s.launches := rfl
@[simp] theorem State.advance_clusters (s : State) (t : Nat) : (s.advance t).clusters = s.clusters := rfl
@[simp] theorem State.advance_teams (s : State) (t : Nat) : (s.advance t).teams = s.teams := rfl
@[simp] theorem State.advance_groups (s : State) (t : Nat) : (s.advance t).groups = s.groups := rfl
@[simp] theorem State.advance_beads (s : State) (t : Nat) : (s.advance t).beads = s.beads := rfl
@[simp] theorem State.advance_ops (s : State) (t : Nat) : (s.advance t).ops = s.ops := rfl
@[simp] theorem State.advance_batches (s : State) (t : Nat) : (s.advance t).batches = s.batches := rfl
@[simp] theorem State.advance_points (s : State) (t : Nat) : (s.advance t).points = s.points := rfl
@[simp] theorem State.advance_publishes (s : State) (t : Nat) : (s.advance t).publishes = s.publishes := rfl
@[simp] theorem State.advance_phases (s : State) (t : Nat) : (s.advance t).phases = s.phases := rfl
@[simp] theorem State.advance_logs (s : State) (t : Nat) : (s.advance t).logs = s.logs := rfl
@[simp] theorem State.advance_logQueue (s : State) (t : Nat) : (s.advance t).logQueue = s.logQueue := rfl
@[simp] theorem State.advance_streams (s : State) (t : Nat) : (s.advance t).streams = s.streams := rfl
@[simp] theorem State.advance_xdescs (s : State) (t : Nat) : (s.advance t).xdescs = s.xdescs := rfl
@[simp] theorem State.advance_recvBufs (s : State) (t : Nat) : (s.advance t).recvBufs = s.recvBufs := rfl
@[simp] theorem State.advance_sends (s : State) (t : Nat) : (s.advance t).sends = s.sends := rfl
@[simp] theorem State.advance_xfers (s : State) (t : Nat) : (s.advance t).xfers = s.xfers := rfl
@[simp] theorem State.advance_pairs (s : State) (t : Nat) : (s.advance t).pairs = s.pairs := rfl
@[simp] theorem State.advance_far (s : State) (t : Nat) : (s.advance t).far = s.far := rfl
@[simp] theorem State.advance_heldToks (s : State) (t : Nat) : (s.advance t).heldToks = s.heldToks := rfl
@[simp] theorem State.advance_endMarks (s : State) (t : Nat) : (s.advance t).endMarks = s.endMarks := rfl
@[simp] theorem State.advance_sessions (s : State) (t : Nat) : (s.advance t).sessions = s.sessions := rfl
@[simp] theorem State.advance_intake (s : State) (t : Nat) : (s.advance t).intake = s.intake := rfl
@[simp] theorem State.advance_inbox (s : State) (t : Nat) : (s.advance t).inbox = s.inbox := rfl
@[simp] theorem State.advance_rangerInbox (s : State) (t : Nat) : (s.advance t).rangerInbox = s.rangerInbox := rfl
@[simp] theorem State.advance_outbox (s : State) (t : Nat) : (s.advance t).outbox = s.outbox := rfl
@[simp] theorem State.advance_issues (s : State) (t : Nat) : (s.advance t).issues = s.issues := rfl
@[simp] theorem State.advance_meetDue (s : State) (t : Nat) : (s.advance t).meetDue = s.meetDue := rfl
@[simp] theorem State.advance_agenda (s : State) (t : Nat) : (s.advance t).agenda = s.agenda := rfl
@[simp] theorem State.advance_timers (s : State) (t : Nat) : (s.advance t).timers = s.timers := rfl
@[simp] theorem State.advance_turns (s : State) (t : Nat) : (s.advance t).turns = s.turns := rfl
@[simp] theorem State.advance_nextId (s : State) (t : Nat) : (s.advance t).nextId = s.nextId := rfl
@[simp] theorem State.advance_freeCount (s : State) (t : Nat) : (s.advance t).freeCount = s.freeCount := rfl

/-! ## State.dropOvf: only `threads` changes -/

@[simp] theorem State.dropOvf_cycle (s : State) (t : Nat) : (s.dropOvf t).cycle = s.cycle := rfl
@[simp] theorem State.dropOvf_boot (s : State) (t : Nat) : (s.dropOvf t).boot = s.boot := rfl
@[simp] theorem State.dropOvf_moduleNo (s : State) (t : Nat) : (s.dropOvf t).moduleNo = s.moduleNo := rfl
@[simp] theorem State.dropOvf_routes (s : State) (t : Nat) : (s.dropOvf t).routes = s.routes := rfl
@[simp] theorem State.dropOvf_packageCap (s : State) (t : Nat) : (s.dropOvf t).packageCap = s.packageCap := rfl
@[simp] theorem State.dropOvf_fwBuffer (s : State) (t : Nat) : (s.dropOvf t).fwBuffer = s.fwBuffer := rfl
@[simp] theorem State.dropOvf_fwActive (s : State) (t : Nat) : (s.dropOvf t).fwActive = s.fwActive := rfl
@[simp] theorem State.dropOvf_fwPending (s : State) (t : Nat) : (s.dropOvf t).fwPending = s.fwPending := rfl
@[simp] theorem State.dropOvf_rangerSeq (s : State) (t : Nat) : (s.dropOvf t).rangerSeq = s.rangerSeq := rfl
@[simp] theorem State.dropOvf_rangerLast (s : State) (t : Nat) : (s.dropOvf t).rangerLast = s.rangerLast := rfl
@[simp] theorem State.dropOvf_xdirBase (s : State) (t : Nat) : (s.dropOvf t).xdirBase = s.xdirBase := rfl
@[simp] theorem State.dropOvf_xdirCount (s : State) (t : Nat) : (s.dropOvf t).xdirCount = s.xdirCount := rfl
@[simp] theorem State.dropOvf_xreqs (s : State) (t : Nat) : (s.dropOvf t).xreqs = s.xreqs := rfl
@[simp] theorem State.dropOvf_launchCounter (s : State) (t : Nat) : (s.dropOvf t).launchCounter = s.launchCounter := rfl
@[simp] theorem State.dropOvf_sealCounter (s : State) (t : Nat) : (s.dropOvf t).sealCounter = s.sealCounter := rfl
@[simp] theorem State.dropOvf_imageSeq (s : State) (t : Nat) : (s.dropOvf t).imageSeq = s.imageSeq := rfl
@[simp] theorem State.dropOvf_errLog (s : State) (t : Nat) : (s.dropOvf t).errLog = s.errLog := rfl
@[simp] theorem State.dropOvf_partFaults (s : State) (t : Nat) : (s.dropOvf t).partFaults = s.partFaults := rfl
@[simp] theorem State.dropOvf_recovering (s : State) (t : Nat) : (s.dropOvf t).recovering = s.recovering := rfl
@[simp] theorem State.dropOvf_mended (s : State) (t : Nat) : (s.dropOvf t).mended = s.mended := rfl
@[simp] theorem State.dropOvf_powerDown (s : State) (t : Nat) : (s.dropOvf t).powerDown = s.powerDown := rfl
@[simp] theorem State.dropOvf_mem (s : State) (t : Nat) : (s.dropOvf t).mem = s.mem := rfl
@[simp] theorem State.dropOvf_poison (s : State) (t : Nat) : (s.dropOvf t).poison = s.poison := rfl
@[simp] theorem State.dropOvf_l1 (s : State) (t : Nat) : (s.dropOvf t).l1 = s.l1 := rfl
@[simp] theorem State.dropOvf_tlb (s : State) (t : Nat) : (s.dropOvf t).tlb = s.tlb := rfl
@[simp] theorem State.dropOvf_icache (s : State) (t : Nat) : (s.dropOvf t).icache = s.icache := rfl
@[simp] theorem State.dropOvf_icacheMiss (s : State) (t : Nat) : (s.dropOvf t).icacheMiss = s.icacheMiss := rfl
@[simp] theorem State.dropOvf_oldSlots (s : State) (t : Nat) : (s.dropOvf t).oldSlots = s.oldSlots := rfl
@[simp] theorem State.dropOvf_seals (s : State) (t : Nat) : (s.dropOvf t).seals = s.seals := rfl
@[simp] theorem State.dropOvf_ranges (s : State) (t : Nat) : (s.dropOvf t).ranges = s.ranges := rfl
@[simp] theorem State.dropOvf_cores (s : State) (t : Nat) : (s.dropOvf t).cores = s.cores := rfl
@[simp] theorem State.dropOvf_rings (s : State) (t : Nat) : (s.dropOvf t).rings = s.rings := rfl
@[simp] theorem State.dropOvf_contexts (s : State) (t : Nat) : (s.dropOvf t).contexts = s.contexts := rfl
@[simp] theorem State.dropOvf_launches (s : State) (t : Nat) : (s.dropOvf t).launches = s.launches := rfl
@[simp] theorem State.dropOvf_clusters (s : State) (t : Nat) : (s.dropOvf t).clusters = s.clusters := rfl
@[simp] theorem State.dropOvf_teams (s : State) (t : Nat) : (s.dropOvf t).teams = s.teams := rfl
@[simp] theorem State.dropOvf_groups (s : State) (t : Nat) : (s.dropOvf t).groups = s.groups := rfl
@[simp] theorem State.dropOvf_beads (s : State) (t : Nat) : (s.dropOvf t).beads = s.beads := rfl
@[simp] theorem State.dropOvf_ops (s : State) (t : Nat) : (s.dropOvf t).ops = s.ops := rfl
@[simp] theorem State.dropOvf_batches (s : State) (t : Nat) : (s.dropOvf t).batches = s.batches := rfl
@[simp] theorem State.dropOvf_points (s : State) (t : Nat) : (s.dropOvf t).points = s.points := rfl
@[simp] theorem State.dropOvf_publishes (s : State) (t : Nat) : (s.dropOvf t).publishes = s.publishes := rfl
@[simp] theorem State.dropOvf_phases (s : State) (t : Nat) : (s.dropOvf t).phases = s.phases := rfl
@[simp] theorem State.dropOvf_logs (s : State) (t : Nat) : (s.dropOvf t).logs = s.logs := rfl
@[simp] theorem State.dropOvf_logQueue (s : State) (t : Nat) : (s.dropOvf t).logQueue = s.logQueue := rfl
@[simp] theorem State.dropOvf_streams (s : State) (t : Nat) : (s.dropOvf t).streams = s.streams := rfl
@[simp] theorem State.dropOvf_xdescs (s : State) (t : Nat) : (s.dropOvf t).xdescs = s.xdescs := rfl
@[simp] theorem State.dropOvf_recvBufs (s : State) (t : Nat) : (s.dropOvf t).recvBufs = s.recvBufs := rfl
@[simp] theorem State.dropOvf_sends (s : State) (t : Nat) : (s.dropOvf t).sends = s.sends := rfl
@[simp] theorem State.dropOvf_xfers (s : State) (t : Nat) : (s.dropOvf t).xfers = s.xfers := rfl
@[simp] theorem State.dropOvf_pairs (s : State) (t : Nat) : (s.dropOvf t).pairs = s.pairs := rfl
@[simp] theorem State.dropOvf_far (s : State) (t : Nat) : (s.dropOvf t).far = s.far := rfl
@[simp] theorem State.dropOvf_heldToks (s : State) (t : Nat) : (s.dropOvf t).heldToks = s.heldToks := rfl
@[simp] theorem State.dropOvf_endMarks (s : State) (t : Nat) : (s.dropOvf t).endMarks = s.endMarks := rfl
@[simp] theorem State.dropOvf_sessions (s : State) (t : Nat) : (s.dropOvf t).sessions = s.sessions := rfl
@[simp] theorem State.dropOvf_intake (s : State) (t : Nat) : (s.dropOvf t).intake = s.intake := rfl
@[simp] theorem State.dropOvf_inbox (s : State) (t : Nat) : (s.dropOvf t).inbox = s.inbox := rfl
@[simp] theorem State.dropOvf_rangerInbox (s : State) (t : Nat) : (s.dropOvf t).rangerInbox = s.rangerInbox := rfl
@[simp] theorem State.dropOvf_outbox (s : State) (t : Nat) : (s.dropOvf t).outbox = s.outbox := rfl
@[simp] theorem State.dropOvf_issues (s : State) (t : Nat) : (s.dropOvf t).issues = s.issues := rfl
@[simp] theorem State.dropOvf_meetDue (s : State) (t : Nat) : (s.dropOvf t).meetDue = s.meetDue := rfl
@[simp] theorem State.dropOvf_agenda (s : State) (t : Nat) : (s.dropOvf t).agenda = s.agenda := rfl
@[simp] theorem State.dropOvf_timers (s : State) (t : Nat) : (s.dropOvf t).timers = s.timers := rfl
@[simp] theorem State.dropOvf_turns (s : State) (t : Nat) : (s.dropOvf t).turns = s.turns := rfl
@[simp] theorem State.dropOvf_nextId (s : State) (t : Nat) : (s.dropOvf t).nextId = s.nextId := rfl
@[simp] theorem State.dropOvf_freeCount (s : State) (t : Nat) : (s.dropOvf t).freeCount = s.freeCount := rfl

/-! ## State.modGroup: only `groups` changes -/

@[simp] theorem State.modGroup_cycle (s : State) (g : Nat) (f : Group → Group) : (s.modGroup g f).cycle = s.cycle := rfl
@[simp] theorem State.modGroup_boot (s : State) (g : Nat) (f : Group → Group) : (s.modGroup g f).boot = s.boot := rfl
@[simp] theorem State.modGroup_moduleNo (s : State) (g : Nat) (f : Group → Group) : (s.modGroup g f).moduleNo = s.moduleNo := rfl
@[simp] theorem State.modGroup_routes (s : State) (g : Nat) (f : Group → Group) : (s.modGroup g f).routes = s.routes := rfl
@[simp] theorem State.modGroup_packageCap (s : State) (g : Nat) (f : Group → Group) : (s.modGroup g f).packageCap = s.packageCap := rfl
@[simp] theorem State.modGroup_fwBuffer (s : State) (g : Nat) (f : Group → Group) : (s.modGroup g f).fwBuffer = s.fwBuffer := rfl
@[simp] theorem State.modGroup_fwActive (s : State) (g : Nat) (f : Group → Group) : (s.modGroup g f).fwActive = s.fwActive := rfl
@[simp] theorem State.modGroup_fwPending (s : State) (g : Nat) (f : Group → Group) : (s.modGroup g f).fwPending = s.fwPending := rfl
@[simp] theorem State.modGroup_rangerSeq (s : State) (g : Nat) (f : Group → Group) : (s.modGroup g f).rangerSeq = s.rangerSeq := rfl
@[simp] theorem State.modGroup_rangerLast (s : State) (g : Nat) (f : Group → Group) : (s.modGroup g f).rangerLast = s.rangerLast := rfl
@[simp] theorem State.modGroup_xdirBase (s : State) (g : Nat) (f : Group → Group) : (s.modGroup g f).xdirBase = s.xdirBase := rfl
@[simp] theorem State.modGroup_xdirCount (s : State) (g : Nat) (f : Group → Group) : (s.modGroup g f).xdirCount = s.xdirCount := rfl
@[simp] theorem State.modGroup_xreqs (s : State) (g : Nat) (f : Group → Group) : (s.modGroup g f).xreqs = s.xreqs := rfl
@[simp] theorem State.modGroup_launchCounter (s : State) (g : Nat) (f : Group → Group) : (s.modGroup g f).launchCounter = s.launchCounter := rfl
@[simp] theorem State.modGroup_sealCounter (s : State) (g : Nat) (f : Group → Group) : (s.modGroup g f).sealCounter = s.sealCounter := rfl
@[simp] theorem State.modGroup_imageSeq (s : State) (g : Nat) (f : Group → Group) : (s.modGroup g f).imageSeq = s.imageSeq := rfl
@[simp] theorem State.modGroup_errLog (s : State) (g : Nat) (f : Group → Group) : (s.modGroup g f).errLog = s.errLog := rfl
@[simp] theorem State.modGroup_partFaults (s : State) (g : Nat) (f : Group → Group) : (s.modGroup g f).partFaults = s.partFaults := rfl
@[simp] theorem State.modGroup_recovering (s : State) (g : Nat) (f : Group → Group) : (s.modGroup g f).recovering = s.recovering := rfl
@[simp] theorem State.modGroup_mended (s : State) (g : Nat) (f : Group → Group) : (s.modGroup g f).mended = s.mended := rfl
@[simp] theorem State.modGroup_powerDown (s : State) (g : Nat) (f : Group → Group) : (s.modGroup g f).powerDown = s.powerDown := rfl
@[simp] theorem State.modGroup_mem (s : State) (g : Nat) (f : Group → Group) : (s.modGroup g f).mem = s.mem := rfl
@[simp] theorem State.modGroup_poison (s : State) (g : Nat) (f : Group → Group) : (s.modGroup g f).poison = s.poison := rfl
@[simp] theorem State.modGroup_l1 (s : State) (g : Nat) (f : Group → Group) : (s.modGroup g f).l1 = s.l1 := rfl
@[simp] theorem State.modGroup_tlb (s : State) (g : Nat) (f : Group → Group) : (s.modGroup g f).tlb = s.tlb := rfl
@[simp] theorem State.modGroup_icache (s : State) (g : Nat) (f : Group → Group) : (s.modGroup g f).icache = s.icache := rfl
@[simp] theorem State.modGroup_icacheMiss (s : State) (g : Nat) (f : Group → Group) : (s.modGroup g f).icacheMiss = s.icacheMiss := rfl
@[simp] theorem State.modGroup_oldSlots (s : State) (g : Nat) (f : Group → Group) : (s.modGroup g f).oldSlots = s.oldSlots := rfl
@[simp] theorem State.modGroup_seals (s : State) (g : Nat) (f : Group → Group) : (s.modGroup g f).seals = s.seals := rfl
@[simp] theorem State.modGroup_ranges (s : State) (g : Nat) (f : Group → Group) : (s.modGroup g f).ranges = s.ranges := rfl
@[simp] theorem State.modGroup_cores (s : State) (g : Nat) (f : Group → Group) : (s.modGroup g f).cores = s.cores := rfl
@[simp] theorem State.modGroup_rings (s : State) (g : Nat) (f : Group → Group) : (s.modGroup g f).rings = s.rings := rfl
@[simp] theorem State.modGroup_contexts (s : State) (g : Nat) (f : Group → Group) : (s.modGroup g f).contexts = s.contexts := rfl
@[simp] theorem State.modGroup_launches (s : State) (g : Nat) (f : Group → Group) : (s.modGroup g f).launches = s.launches := rfl
@[simp] theorem State.modGroup_clusters (s : State) (g : Nat) (f : Group → Group) : (s.modGroup g f).clusters = s.clusters := rfl
@[simp] theorem State.modGroup_teams (s : State) (g : Nat) (f : Group → Group) : (s.modGroup g f).teams = s.teams := rfl
@[simp] theorem State.modGroup_threads (s : State) (g : Nat) (f : Group → Group) : (s.modGroup g f).threads = s.threads := rfl
@[simp] theorem State.modGroup_beads (s : State) (g : Nat) (f : Group → Group) : (s.modGroup g f).beads = s.beads := rfl
@[simp] theorem State.modGroup_ops (s : State) (g : Nat) (f : Group → Group) : (s.modGroup g f).ops = s.ops := rfl
@[simp] theorem State.modGroup_batches (s : State) (g : Nat) (f : Group → Group) : (s.modGroup g f).batches = s.batches := rfl
@[simp] theorem State.modGroup_points (s : State) (g : Nat) (f : Group → Group) : (s.modGroup g f).points = s.points := rfl
@[simp] theorem State.modGroup_publishes (s : State) (g : Nat) (f : Group → Group) : (s.modGroup g f).publishes = s.publishes := rfl
@[simp] theorem State.modGroup_phases (s : State) (g : Nat) (f : Group → Group) : (s.modGroup g f).phases = s.phases := rfl
@[simp] theorem State.modGroup_logs (s : State) (g : Nat) (f : Group → Group) : (s.modGroup g f).logs = s.logs := rfl
@[simp] theorem State.modGroup_logQueue (s : State) (g : Nat) (f : Group → Group) : (s.modGroup g f).logQueue = s.logQueue := rfl
@[simp] theorem State.modGroup_streams (s : State) (g : Nat) (f : Group → Group) : (s.modGroup g f).streams = s.streams := rfl
@[simp] theorem State.modGroup_xdescs (s : State) (g : Nat) (f : Group → Group) : (s.modGroup g f).xdescs = s.xdescs := rfl
@[simp] theorem State.modGroup_recvBufs (s : State) (g : Nat) (f : Group → Group) : (s.modGroup g f).recvBufs = s.recvBufs := rfl
@[simp] theorem State.modGroup_sends (s : State) (g : Nat) (f : Group → Group) : (s.modGroup g f).sends = s.sends := rfl
@[simp] theorem State.modGroup_xfers (s : State) (g : Nat) (f : Group → Group) : (s.modGroup g f).xfers = s.xfers := rfl
@[simp] theorem State.modGroup_pairs (s : State) (g : Nat) (f : Group → Group) : (s.modGroup g f).pairs = s.pairs := rfl
@[simp] theorem State.modGroup_far (s : State) (g : Nat) (f : Group → Group) : (s.modGroup g f).far = s.far := rfl
@[simp] theorem State.modGroup_heldToks (s : State) (g : Nat) (f : Group → Group) : (s.modGroup g f).heldToks = s.heldToks := rfl
@[simp] theorem State.modGroup_endMarks (s : State) (g : Nat) (f : Group → Group) : (s.modGroup g f).endMarks = s.endMarks := rfl
@[simp] theorem State.modGroup_sessions (s : State) (g : Nat) (f : Group → Group) : (s.modGroup g f).sessions = s.sessions := rfl
@[simp] theorem State.modGroup_intake (s : State) (g : Nat) (f : Group → Group) : (s.modGroup g f).intake = s.intake := rfl
@[simp] theorem State.modGroup_inbox (s : State) (g : Nat) (f : Group → Group) : (s.modGroup g f).inbox = s.inbox := rfl
@[simp] theorem State.modGroup_rangerInbox (s : State) (g : Nat) (f : Group → Group) : (s.modGroup g f).rangerInbox = s.rangerInbox := rfl
@[simp] theorem State.modGroup_outbox (s : State) (g : Nat) (f : Group → Group) : (s.modGroup g f).outbox = s.outbox := rfl
@[simp] theorem State.modGroup_issues (s : State) (g : Nat) (f : Group → Group) : (s.modGroup g f).issues = s.issues := rfl
@[simp] theorem State.modGroup_meetDue (s : State) (g : Nat) (f : Group → Group) : (s.modGroup g f).meetDue = s.meetDue := rfl
@[simp] theorem State.modGroup_agenda (s : State) (g : Nat) (f : Group → Group) : (s.modGroup g f).agenda = s.agenda := rfl
@[simp] theorem State.modGroup_timers (s : State) (g : Nat) (f : Group → Group) : (s.modGroup g f).timers = s.timers := rfl
@[simp] theorem State.modGroup_turns (s : State) (g : Nat) (f : Group → Group) : (s.modGroup g f).turns = s.turns := rfl
@[simp] theorem State.modGroup_nextId (s : State) (g : Nat) (f : Group → Group) : (s.modGroup g f).nextId = s.nextId := rfl
@[simp] theorem State.modGroup_freeCount (s : State) (g : Nat) (f : Group → Group) : (s.modGroup g f).freeCount = s.freeCount := rfl

/-! ## State.modTeam: only `teams` changes -/

@[simp] theorem State.modTeam_cycle (s : State) (t : Nat) (f : Team → Team) : (s.modTeam t f).cycle = s.cycle := rfl
@[simp] theorem State.modTeam_boot (s : State) (t : Nat) (f : Team → Team) : (s.modTeam t f).boot = s.boot := rfl
@[simp] theorem State.modTeam_moduleNo (s : State) (t : Nat) (f : Team → Team) : (s.modTeam t f).moduleNo = s.moduleNo := rfl
@[simp] theorem State.modTeam_routes (s : State) (t : Nat) (f : Team → Team) : (s.modTeam t f).routes = s.routes := rfl
@[simp] theorem State.modTeam_packageCap (s : State) (t : Nat) (f : Team → Team) : (s.modTeam t f).packageCap = s.packageCap := rfl
@[simp] theorem State.modTeam_fwBuffer (s : State) (t : Nat) (f : Team → Team) : (s.modTeam t f).fwBuffer = s.fwBuffer := rfl
@[simp] theorem State.modTeam_fwActive (s : State) (t : Nat) (f : Team → Team) : (s.modTeam t f).fwActive = s.fwActive := rfl
@[simp] theorem State.modTeam_fwPending (s : State) (t : Nat) (f : Team → Team) : (s.modTeam t f).fwPending = s.fwPending := rfl
@[simp] theorem State.modTeam_rangerSeq (s : State) (t : Nat) (f : Team → Team) : (s.modTeam t f).rangerSeq = s.rangerSeq := rfl
@[simp] theorem State.modTeam_rangerLast (s : State) (t : Nat) (f : Team → Team) : (s.modTeam t f).rangerLast = s.rangerLast := rfl
@[simp] theorem State.modTeam_xdirBase (s : State) (t : Nat) (f : Team → Team) : (s.modTeam t f).xdirBase = s.xdirBase := rfl
@[simp] theorem State.modTeam_xdirCount (s : State) (t : Nat) (f : Team → Team) : (s.modTeam t f).xdirCount = s.xdirCount := rfl
@[simp] theorem State.modTeam_xreqs (s : State) (t : Nat) (f : Team → Team) : (s.modTeam t f).xreqs = s.xreqs := rfl
@[simp] theorem State.modTeam_launchCounter (s : State) (t : Nat) (f : Team → Team) : (s.modTeam t f).launchCounter = s.launchCounter := rfl
@[simp] theorem State.modTeam_sealCounter (s : State) (t : Nat) (f : Team → Team) : (s.modTeam t f).sealCounter = s.sealCounter := rfl
@[simp] theorem State.modTeam_imageSeq (s : State) (t : Nat) (f : Team → Team) : (s.modTeam t f).imageSeq = s.imageSeq := rfl
@[simp] theorem State.modTeam_errLog (s : State) (t : Nat) (f : Team → Team) : (s.modTeam t f).errLog = s.errLog := rfl
@[simp] theorem State.modTeam_partFaults (s : State) (t : Nat) (f : Team → Team) : (s.modTeam t f).partFaults = s.partFaults := rfl
@[simp] theorem State.modTeam_recovering (s : State) (t : Nat) (f : Team → Team) : (s.modTeam t f).recovering = s.recovering := rfl
@[simp] theorem State.modTeam_mended (s : State) (t : Nat) (f : Team → Team) : (s.modTeam t f).mended = s.mended := rfl
@[simp] theorem State.modTeam_powerDown (s : State) (t : Nat) (f : Team → Team) : (s.modTeam t f).powerDown = s.powerDown := rfl
@[simp] theorem State.modTeam_mem (s : State) (t : Nat) (f : Team → Team) : (s.modTeam t f).mem = s.mem := rfl
@[simp] theorem State.modTeam_poison (s : State) (t : Nat) (f : Team → Team) : (s.modTeam t f).poison = s.poison := rfl
@[simp] theorem State.modTeam_l1 (s : State) (t : Nat) (f : Team → Team) : (s.modTeam t f).l1 = s.l1 := rfl
@[simp] theorem State.modTeam_tlb (s : State) (t : Nat) (f : Team → Team) : (s.modTeam t f).tlb = s.tlb := rfl
@[simp] theorem State.modTeam_icache (s : State) (t : Nat) (f : Team → Team) : (s.modTeam t f).icache = s.icache := rfl
@[simp] theorem State.modTeam_icacheMiss (s : State) (t : Nat) (f : Team → Team) : (s.modTeam t f).icacheMiss = s.icacheMiss := rfl
@[simp] theorem State.modTeam_oldSlots (s : State) (t : Nat) (f : Team → Team) : (s.modTeam t f).oldSlots = s.oldSlots := rfl
@[simp] theorem State.modTeam_seals (s : State) (t : Nat) (f : Team → Team) : (s.modTeam t f).seals = s.seals := rfl
@[simp] theorem State.modTeam_ranges (s : State) (t : Nat) (f : Team → Team) : (s.modTeam t f).ranges = s.ranges := rfl
@[simp] theorem State.modTeam_cores (s : State) (t : Nat) (f : Team → Team) : (s.modTeam t f).cores = s.cores := rfl
@[simp] theorem State.modTeam_rings (s : State) (t : Nat) (f : Team → Team) : (s.modTeam t f).rings = s.rings := rfl
@[simp] theorem State.modTeam_contexts (s : State) (t : Nat) (f : Team → Team) : (s.modTeam t f).contexts = s.contexts := rfl
@[simp] theorem State.modTeam_launches (s : State) (t : Nat) (f : Team → Team) : (s.modTeam t f).launches = s.launches := rfl
@[simp] theorem State.modTeam_clusters (s : State) (t : Nat) (f : Team → Team) : (s.modTeam t f).clusters = s.clusters := rfl
@[simp] theorem State.modTeam_groups (s : State) (t : Nat) (f : Team → Team) : (s.modTeam t f).groups = s.groups := rfl
@[simp] theorem State.modTeam_threads (s : State) (t : Nat) (f : Team → Team) : (s.modTeam t f).threads = s.threads := rfl
@[simp] theorem State.modTeam_beads (s : State) (t : Nat) (f : Team → Team) : (s.modTeam t f).beads = s.beads := rfl
@[simp] theorem State.modTeam_ops (s : State) (t : Nat) (f : Team → Team) : (s.modTeam t f).ops = s.ops := rfl
@[simp] theorem State.modTeam_batches (s : State) (t : Nat) (f : Team → Team) : (s.modTeam t f).batches = s.batches := rfl
@[simp] theorem State.modTeam_points (s : State) (t : Nat) (f : Team → Team) : (s.modTeam t f).points = s.points := rfl
@[simp] theorem State.modTeam_publishes (s : State) (t : Nat) (f : Team → Team) : (s.modTeam t f).publishes = s.publishes := rfl
@[simp] theorem State.modTeam_phases (s : State) (t : Nat) (f : Team → Team) : (s.modTeam t f).phases = s.phases := rfl
@[simp] theorem State.modTeam_logs (s : State) (t : Nat) (f : Team → Team) : (s.modTeam t f).logs = s.logs := rfl
@[simp] theorem State.modTeam_logQueue (s : State) (t : Nat) (f : Team → Team) : (s.modTeam t f).logQueue = s.logQueue := rfl
@[simp] theorem State.modTeam_streams (s : State) (t : Nat) (f : Team → Team) : (s.modTeam t f).streams = s.streams := rfl
@[simp] theorem State.modTeam_xdescs (s : State) (t : Nat) (f : Team → Team) : (s.modTeam t f).xdescs = s.xdescs := rfl
@[simp] theorem State.modTeam_recvBufs (s : State) (t : Nat) (f : Team → Team) : (s.modTeam t f).recvBufs = s.recvBufs := rfl
@[simp] theorem State.modTeam_sends (s : State) (t : Nat) (f : Team → Team) : (s.modTeam t f).sends = s.sends := rfl
@[simp] theorem State.modTeam_xfers (s : State) (t : Nat) (f : Team → Team) : (s.modTeam t f).xfers = s.xfers := rfl
@[simp] theorem State.modTeam_pairs (s : State) (t : Nat) (f : Team → Team) : (s.modTeam t f).pairs = s.pairs := rfl
@[simp] theorem State.modTeam_far (s : State) (t : Nat) (f : Team → Team) : (s.modTeam t f).far = s.far := rfl
@[simp] theorem State.modTeam_heldToks (s : State) (t : Nat) (f : Team → Team) : (s.modTeam t f).heldToks = s.heldToks := rfl
@[simp] theorem State.modTeam_endMarks (s : State) (t : Nat) (f : Team → Team) : (s.modTeam t f).endMarks = s.endMarks := rfl
@[simp] theorem State.modTeam_sessions (s : State) (t : Nat) (f : Team → Team) : (s.modTeam t f).sessions = s.sessions := rfl
@[simp] theorem State.modTeam_intake (s : State) (t : Nat) (f : Team → Team) : (s.modTeam t f).intake = s.intake := rfl
@[simp] theorem State.modTeam_inbox (s : State) (t : Nat) (f : Team → Team) : (s.modTeam t f).inbox = s.inbox := rfl
@[simp] theorem State.modTeam_rangerInbox (s : State) (t : Nat) (f : Team → Team) : (s.modTeam t f).rangerInbox = s.rangerInbox := rfl
@[simp] theorem State.modTeam_outbox (s : State) (t : Nat) (f : Team → Team) : (s.modTeam t f).outbox = s.outbox := rfl
@[simp] theorem State.modTeam_issues (s : State) (t : Nat) (f : Team → Team) : (s.modTeam t f).issues = s.issues := rfl
@[simp] theorem State.modTeam_meetDue (s : State) (t : Nat) (f : Team → Team) : (s.modTeam t f).meetDue = s.meetDue := rfl
@[simp] theorem State.modTeam_agenda (s : State) (t : Nat) (f : Team → Team) : (s.modTeam t f).agenda = s.agenda := rfl
@[simp] theorem State.modTeam_timers (s : State) (t : Nat) (f : Team → Team) : (s.modTeam t f).timers = s.timers := rfl
@[simp] theorem State.modTeam_turns (s : State) (t : Nat) (f : Team → Team) : (s.modTeam t f).turns = s.turns := rfl
@[simp] theorem State.modTeam_nextId (s : State) (t : Nat) (f : Team → Team) : (s.modTeam t f).nextId = s.nextId := rfl
@[simp] theorem State.modTeam_freeCount (s : State) (t : Nat) (f : Team → Team) : (s.modTeam t f).freeCount = s.freeCount := rfl

/-! ## State.modCluster: only `clusters` changes -/

@[simp] theorem State.modCluster_cycle (s : State) (c : Nat) (f : Cluster → Cluster) : (s.modCluster c f).cycle = s.cycle := rfl
@[simp] theorem State.modCluster_boot (s : State) (c : Nat) (f : Cluster → Cluster) : (s.modCluster c f).boot = s.boot := rfl
@[simp] theorem State.modCluster_moduleNo (s : State) (c : Nat) (f : Cluster → Cluster) : (s.modCluster c f).moduleNo = s.moduleNo := rfl
@[simp] theorem State.modCluster_routes (s : State) (c : Nat) (f : Cluster → Cluster) : (s.modCluster c f).routes = s.routes := rfl
@[simp] theorem State.modCluster_packageCap (s : State) (c : Nat) (f : Cluster → Cluster) : (s.modCluster c f).packageCap = s.packageCap := rfl
@[simp] theorem State.modCluster_fwBuffer (s : State) (c : Nat) (f : Cluster → Cluster) : (s.modCluster c f).fwBuffer = s.fwBuffer := rfl
@[simp] theorem State.modCluster_fwActive (s : State) (c : Nat) (f : Cluster → Cluster) : (s.modCluster c f).fwActive = s.fwActive := rfl
@[simp] theorem State.modCluster_fwPending (s : State) (c : Nat) (f : Cluster → Cluster) : (s.modCluster c f).fwPending = s.fwPending := rfl
@[simp] theorem State.modCluster_rangerSeq (s : State) (c : Nat) (f : Cluster → Cluster) : (s.modCluster c f).rangerSeq = s.rangerSeq := rfl
@[simp] theorem State.modCluster_rangerLast (s : State) (c : Nat) (f : Cluster → Cluster) : (s.modCluster c f).rangerLast = s.rangerLast := rfl
@[simp] theorem State.modCluster_xdirBase (s : State) (c : Nat) (f : Cluster → Cluster) : (s.modCluster c f).xdirBase = s.xdirBase := rfl
@[simp] theorem State.modCluster_xdirCount (s : State) (c : Nat) (f : Cluster → Cluster) : (s.modCluster c f).xdirCount = s.xdirCount := rfl
@[simp] theorem State.modCluster_xreqs (s : State) (c : Nat) (f : Cluster → Cluster) : (s.modCluster c f).xreqs = s.xreqs := rfl
@[simp] theorem State.modCluster_launchCounter (s : State) (c : Nat) (f : Cluster → Cluster) : (s.modCluster c f).launchCounter = s.launchCounter := rfl
@[simp] theorem State.modCluster_sealCounter (s : State) (c : Nat) (f : Cluster → Cluster) : (s.modCluster c f).sealCounter = s.sealCounter := rfl
@[simp] theorem State.modCluster_imageSeq (s : State) (c : Nat) (f : Cluster → Cluster) : (s.modCluster c f).imageSeq = s.imageSeq := rfl
@[simp] theorem State.modCluster_errLog (s : State) (c : Nat) (f : Cluster → Cluster) : (s.modCluster c f).errLog = s.errLog := rfl
@[simp] theorem State.modCluster_partFaults (s : State) (c : Nat) (f : Cluster → Cluster) : (s.modCluster c f).partFaults = s.partFaults := rfl
@[simp] theorem State.modCluster_recovering (s : State) (c : Nat) (f : Cluster → Cluster) : (s.modCluster c f).recovering = s.recovering := rfl
@[simp] theorem State.modCluster_mended (s : State) (c : Nat) (f : Cluster → Cluster) : (s.modCluster c f).mended = s.mended := rfl
@[simp] theorem State.modCluster_powerDown (s : State) (c : Nat) (f : Cluster → Cluster) : (s.modCluster c f).powerDown = s.powerDown := rfl
@[simp] theorem State.modCluster_mem (s : State) (c : Nat) (f : Cluster → Cluster) : (s.modCluster c f).mem = s.mem := rfl
@[simp] theorem State.modCluster_poison (s : State) (c : Nat) (f : Cluster → Cluster) : (s.modCluster c f).poison = s.poison := rfl
@[simp] theorem State.modCluster_l1 (s : State) (c : Nat) (f : Cluster → Cluster) : (s.modCluster c f).l1 = s.l1 := rfl
@[simp] theorem State.modCluster_tlb (s : State) (c : Nat) (f : Cluster → Cluster) : (s.modCluster c f).tlb = s.tlb := rfl
@[simp] theorem State.modCluster_icache (s : State) (c : Nat) (f : Cluster → Cluster) : (s.modCluster c f).icache = s.icache := rfl
@[simp] theorem State.modCluster_icacheMiss (s : State) (c : Nat) (f : Cluster → Cluster) : (s.modCluster c f).icacheMiss = s.icacheMiss := rfl
@[simp] theorem State.modCluster_oldSlots (s : State) (c : Nat) (f : Cluster → Cluster) : (s.modCluster c f).oldSlots = s.oldSlots := rfl
@[simp] theorem State.modCluster_seals (s : State) (c : Nat) (f : Cluster → Cluster) : (s.modCluster c f).seals = s.seals := rfl
@[simp] theorem State.modCluster_ranges (s : State) (c : Nat) (f : Cluster → Cluster) : (s.modCluster c f).ranges = s.ranges := rfl
@[simp] theorem State.modCluster_cores (s : State) (c : Nat) (f : Cluster → Cluster) : (s.modCluster c f).cores = s.cores := rfl
@[simp] theorem State.modCluster_rings (s : State) (c : Nat) (f : Cluster → Cluster) : (s.modCluster c f).rings = s.rings := rfl
@[simp] theorem State.modCluster_contexts (s : State) (c : Nat) (f : Cluster → Cluster) : (s.modCluster c f).contexts = s.contexts := rfl
@[simp] theorem State.modCluster_launches (s : State) (c : Nat) (f : Cluster → Cluster) : (s.modCluster c f).launches = s.launches := rfl
@[simp] theorem State.modCluster_teams (s : State) (c : Nat) (f : Cluster → Cluster) : (s.modCluster c f).teams = s.teams := rfl
@[simp] theorem State.modCluster_groups (s : State) (c : Nat) (f : Cluster → Cluster) : (s.modCluster c f).groups = s.groups := rfl
@[simp] theorem State.modCluster_threads (s : State) (c : Nat) (f : Cluster → Cluster) : (s.modCluster c f).threads = s.threads := rfl
@[simp] theorem State.modCluster_beads (s : State) (c : Nat) (f : Cluster → Cluster) : (s.modCluster c f).beads = s.beads := rfl
@[simp] theorem State.modCluster_ops (s : State) (c : Nat) (f : Cluster → Cluster) : (s.modCluster c f).ops = s.ops := rfl
@[simp] theorem State.modCluster_batches (s : State) (c : Nat) (f : Cluster → Cluster) : (s.modCluster c f).batches = s.batches := rfl
@[simp] theorem State.modCluster_points (s : State) (c : Nat) (f : Cluster → Cluster) : (s.modCluster c f).points = s.points := rfl
@[simp] theorem State.modCluster_publishes (s : State) (c : Nat) (f : Cluster → Cluster) : (s.modCluster c f).publishes = s.publishes := rfl
@[simp] theorem State.modCluster_phases (s : State) (c : Nat) (f : Cluster → Cluster) : (s.modCluster c f).phases = s.phases := rfl
@[simp] theorem State.modCluster_logs (s : State) (c : Nat) (f : Cluster → Cluster) : (s.modCluster c f).logs = s.logs := rfl
@[simp] theorem State.modCluster_logQueue (s : State) (c : Nat) (f : Cluster → Cluster) : (s.modCluster c f).logQueue = s.logQueue := rfl
@[simp] theorem State.modCluster_streams (s : State) (c : Nat) (f : Cluster → Cluster) : (s.modCluster c f).streams = s.streams := rfl
@[simp] theorem State.modCluster_xdescs (s : State) (c : Nat) (f : Cluster → Cluster) : (s.modCluster c f).xdescs = s.xdescs := rfl
@[simp] theorem State.modCluster_recvBufs (s : State) (c : Nat) (f : Cluster → Cluster) : (s.modCluster c f).recvBufs = s.recvBufs := rfl
@[simp] theorem State.modCluster_sends (s : State) (c : Nat) (f : Cluster → Cluster) : (s.modCluster c f).sends = s.sends := rfl
@[simp] theorem State.modCluster_xfers (s : State) (c : Nat) (f : Cluster → Cluster) : (s.modCluster c f).xfers = s.xfers := rfl
@[simp] theorem State.modCluster_pairs (s : State) (c : Nat) (f : Cluster → Cluster) : (s.modCluster c f).pairs = s.pairs := rfl
@[simp] theorem State.modCluster_far (s : State) (c : Nat) (f : Cluster → Cluster) : (s.modCluster c f).far = s.far := rfl
@[simp] theorem State.modCluster_heldToks (s : State) (c : Nat) (f : Cluster → Cluster) : (s.modCluster c f).heldToks = s.heldToks := rfl
@[simp] theorem State.modCluster_endMarks (s : State) (c : Nat) (f : Cluster → Cluster) : (s.modCluster c f).endMarks = s.endMarks := rfl
@[simp] theorem State.modCluster_sessions (s : State) (c : Nat) (f : Cluster → Cluster) : (s.modCluster c f).sessions = s.sessions := rfl
@[simp] theorem State.modCluster_intake (s : State) (c : Nat) (f : Cluster → Cluster) : (s.modCluster c f).intake = s.intake := rfl
@[simp] theorem State.modCluster_inbox (s : State) (c : Nat) (f : Cluster → Cluster) : (s.modCluster c f).inbox = s.inbox := rfl
@[simp] theorem State.modCluster_rangerInbox (s : State) (c : Nat) (f : Cluster → Cluster) : (s.modCluster c f).rangerInbox = s.rangerInbox := rfl
@[simp] theorem State.modCluster_outbox (s : State) (c : Nat) (f : Cluster → Cluster) : (s.modCluster c f).outbox = s.outbox := rfl
@[simp] theorem State.modCluster_issues (s : State) (c : Nat) (f : Cluster → Cluster) : (s.modCluster c f).issues = s.issues := rfl
@[simp] theorem State.modCluster_meetDue (s : State) (c : Nat) (f : Cluster → Cluster) : (s.modCluster c f).meetDue = s.meetDue := rfl
@[simp] theorem State.modCluster_agenda (s : State) (c : Nat) (f : Cluster → Cluster) : (s.modCluster c f).agenda = s.agenda := rfl
@[simp] theorem State.modCluster_timers (s : State) (c : Nat) (f : Cluster → Cluster) : (s.modCluster c f).timers = s.timers := rfl
@[simp] theorem State.modCluster_turns (s : State) (c : Nat) (f : Cluster → Cluster) : (s.modCluster c f).turns = s.turns := rfl
@[simp] theorem State.modCluster_nextId (s : State) (c : Nat) (f : Cluster → Cluster) : (s.modCluster c f).nextId = s.nextId := rfl
@[simp] theorem State.modCluster_freeCount (s : State) (c : Nat) (f : Cluster → Cluster) : (s.modCluster c f).freeCount = s.freeCount := rfl

/-! ## State.modLaunch: only `launches` changes -/

@[simp] theorem State.modLaunch_cycle (s : State) (l : Nat) (f : Launch → Launch) : (s.modLaunch l f).cycle = s.cycle := rfl
@[simp] theorem State.modLaunch_boot (s : State) (l : Nat) (f : Launch → Launch) : (s.modLaunch l f).boot = s.boot := rfl
@[simp] theorem State.modLaunch_moduleNo (s : State) (l : Nat) (f : Launch → Launch) : (s.modLaunch l f).moduleNo = s.moduleNo := rfl
@[simp] theorem State.modLaunch_routes (s : State) (l : Nat) (f : Launch → Launch) : (s.modLaunch l f).routes = s.routes := rfl
@[simp] theorem State.modLaunch_packageCap (s : State) (l : Nat) (f : Launch → Launch) : (s.modLaunch l f).packageCap = s.packageCap := rfl
@[simp] theorem State.modLaunch_fwBuffer (s : State) (l : Nat) (f : Launch → Launch) : (s.modLaunch l f).fwBuffer = s.fwBuffer := rfl
@[simp] theorem State.modLaunch_fwActive (s : State) (l : Nat) (f : Launch → Launch) : (s.modLaunch l f).fwActive = s.fwActive := rfl
@[simp] theorem State.modLaunch_fwPending (s : State) (l : Nat) (f : Launch → Launch) : (s.modLaunch l f).fwPending = s.fwPending := rfl
@[simp] theorem State.modLaunch_rangerSeq (s : State) (l : Nat) (f : Launch → Launch) : (s.modLaunch l f).rangerSeq = s.rangerSeq := rfl
@[simp] theorem State.modLaunch_rangerLast (s : State) (l : Nat) (f : Launch → Launch) : (s.modLaunch l f).rangerLast = s.rangerLast := rfl
@[simp] theorem State.modLaunch_xdirBase (s : State) (l : Nat) (f : Launch → Launch) : (s.modLaunch l f).xdirBase = s.xdirBase := rfl
@[simp] theorem State.modLaunch_xdirCount (s : State) (l : Nat) (f : Launch → Launch) : (s.modLaunch l f).xdirCount = s.xdirCount := rfl
@[simp] theorem State.modLaunch_xreqs (s : State) (l : Nat) (f : Launch → Launch) : (s.modLaunch l f).xreqs = s.xreqs := rfl
@[simp] theorem State.modLaunch_launchCounter (s : State) (l : Nat) (f : Launch → Launch) : (s.modLaunch l f).launchCounter = s.launchCounter := rfl
@[simp] theorem State.modLaunch_sealCounter (s : State) (l : Nat) (f : Launch → Launch) : (s.modLaunch l f).sealCounter = s.sealCounter := rfl
@[simp] theorem State.modLaunch_imageSeq (s : State) (l : Nat) (f : Launch → Launch) : (s.modLaunch l f).imageSeq = s.imageSeq := rfl
@[simp] theorem State.modLaunch_errLog (s : State) (l : Nat) (f : Launch → Launch) : (s.modLaunch l f).errLog = s.errLog := rfl
@[simp] theorem State.modLaunch_partFaults (s : State) (l : Nat) (f : Launch → Launch) : (s.modLaunch l f).partFaults = s.partFaults := rfl
@[simp] theorem State.modLaunch_recovering (s : State) (l : Nat) (f : Launch → Launch) : (s.modLaunch l f).recovering = s.recovering := rfl
@[simp] theorem State.modLaunch_mended (s : State) (l : Nat) (f : Launch → Launch) : (s.modLaunch l f).mended = s.mended := rfl
@[simp] theorem State.modLaunch_powerDown (s : State) (l : Nat) (f : Launch → Launch) : (s.modLaunch l f).powerDown = s.powerDown := rfl
@[simp] theorem State.modLaunch_mem (s : State) (l : Nat) (f : Launch → Launch) : (s.modLaunch l f).mem = s.mem := rfl
@[simp] theorem State.modLaunch_poison (s : State) (l : Nat) (f : Launch → Launch) : (s.modLaunch l f).poison = s.poison := rfl
@[simp] theorem State.modLaunch_l1 (s : State) (l : Nat) (f : Launch → Launch) : (s.modLaunch l f).l1 = s.l1 := rfl
@[simp] theorem State.modLaunch_tlb (s : State) (l : Nat) (f : Launch → Launch) : (s.modLaunch l f).tlb = s.tlb := rfl
@[simp] theorem State.modLaunch_icache (s : State) (l : Nat) (f : Launch → Launch) : (s.modLaunch l f).icache = s.icache := rfl
@[simp] theorem State.modLaunch_icacheMiss (s : State) (l : Nat) (f : Launch → Launch) : (s.modLaunch l f).icacheMiss = s.icacheMiss := rfl
@[simp] theorem State.modLaunch_oldSlots (s : State) (l : Nat) (f : Launch → Launch) : (s.modLaunch l f).oldSlots = s.oldSlots := rfl
@[simp] theorem State.modLaunch_seals (s : State) (l : Nat) (f : Launch → Launch) : (s.modLaunch l f).seals = s.seals := rfl
@[simp] theorem State.modLaunch_ranges (s : State) (l : Nat) (f : Launch → Launch) : (s.modLaunch l f).ranges = s.ranges := rfl
@[simp] theorem State.modLaunch_cores (s : State) (l : Nat) (f : Launch → Launch) : (s.modLaunch l f).cores = s.cores := rfl
@[simp] theorem State.modLaunch_rings (s : State) (l : Nat) (f : Launch → Launch) : (s.modLaunch l f).rings = s.rings := rfl
@[simp] theorem State.modLaunch_contexts (s : State) (l : Nat) (f : Launch → Launch) : (s.modLaunch l f).contexts = s.contexts := rfl
@[simp] theorem State.modLaunch_clusters (s : State) (l : Nat) (f : Launch → Launch) : (s.modLaunch l f).clusters = s.clusters := rfl
@[simp] theorem State.modLaunch_teams (s : State) (l : Nat) (f : Launch → Launch) : (s.modLaunch l f).teams = s.teams := rfl
@[simp] theorem State.modLaunch_groups (s : State) (l : Nat) (f : Launch → Launch) : (s.modLaunch l f).groups = s.groups := rfl
@[simp] theorem State.modLaunch_threads (s : State) (l : Nat) (f : Launch → Launch) : (s.modLaunch l f).threads = s.threads := rfl
@[simp] theorem State.modLaunch_beads (s : State) (l : Nat) (f : Launch → Launch) : (s.modLaunch l f).beads = s.beads := rfl
@[simp] theorem State.modLaunch_ops (s : State) (l : Nat) (f : Launch → Launch) : (s.modLaunch l f).ops = s.ops := rfl
@[simp] theorem State.modLaunch_batches (s : State) (l : Nat) (f : Launch → Launch) : (s.modLaunch l f).batches = s.batches := rfl
@[simp] theorem State.modLaunch_points (s : State) (l : Nat) (f : Launch → Launch) : (s.modLaunch l f).points = s.points := rfl
@[simp] theorem State.modLaunch_publishes (s : State) (l : Nat) (f : Launch → Launch) : (s.modLaunch l f).publishes = s.publishes := rfl
@[simp] theorem State.modLaunch_phases (s : State) (l : Nat) (f : Launch → Launch) : (s.modLaunch l f).phases = s.phases := rfl
@[simp] theorem State.modLaunch_logs (s : State) (l : Nat) (f : Launch → Launch) : (s.modLaunch l f).logs = s.logs := rfl
@[simp] theorem State.modLaunch_logQueue (s : State) (l : Nat) (f : Launch → Launch) : (s.modLaunch l f).logQueue = s.logQueue := rfl
@[simp] theorem State.modLaunch_streams (s : State) (l : Nat) (f : Launch → Launch) : (s.modLaunch l f).streams = s.streams := rfl
@[simp] theorem State.modLaunch_xdescs (s : State) (l : Nat) (f : Launch → Launch) : (s.modLaunch l f).xdescs = s.xdescs := rfl
@[simp] theorem State.modLaunch_recvBufs (s : State) (l : Nat) (f : Launch → Launch) : (s.modLaunch l f).recvBufs = s.recvBufs := rfl
@[simp] theorem State.modLaunch_sends (s : State) (l : Nat) (f : Launch → Launch) : (s.modLaunch l f).sends = s.sends := rfl
@[simp] theorem State.modLaunch_xfers (s : State) (l : Nat) (f : Launch → Launch) : (s.modLaunch l f).xfers = s.xfers := rfl
@[simp] theorem State.modLaunch_pairs (s : State) (l : Nat) (f : Launch → Launch) : (s.modLaunch l f).pairs = s.pairs := rfl
@[simp] theorem State.modLaunch_far (s : State) (l : Nat) (f : Launch → Launch) : (s.modLaunch l f).far = s.far := rfl
@[simp] theorem State.modLaunch_heldToks (s : State) (l : Nat) (f : Launch → Launch) : (s.modLaunch l f).heldToks = s.heldToks := rfl
@[simp] theorem State.modLaunch_endMarks (s : State) (l : Nat) (f : Launch → Launch) : (s.modLaunch l f).endMarks = s.endMarks := rfl
@[simp] theorem State.modLaunch_sessions (s : State) (l : Nat) (f : Launch → Launch) : (s.modLaunch l f).sessions = s.sessions := rfl
@[simp] theorem State.modLaunch_intake (s : State) (l : Nat) (f : Launch → Launch) : (s.modLaunch l f).intake = s.intake := rfl
@[simp] theorem State.modLaunch_inbox (s : State) (l : Nat) (f : Launch → Launch) : (s.modLaunch l f).inbox = s.inbox := rfl
@[simp] theorem State.modLaunch_rangerInbox (s : State) (l : Nat) (f : Launch → Launch) : (s.modLaunch l f).rangerInbox = s.rangerInbox := rfl
@[simp] theorem State.modLaunch_outbox (s : State) (l : Nat) (f : Launch → Launch) : (s.modLaunch l f).outbox = s.outbox := rfl
@[simp] theorem State.modLaunch_issues (s : State) (l : Nat) (f : Launch → Launch) : (s.modLaunch l f).issues = s.issues := rfl
@[simp] theorem State.modLaunch_meetDue (s : State) (l : Nat) (f : Launch → Launch) : (s.modLaunch l f).meetDue = s.meetDue := rfl
@[simp] theorem State.modLaunch_agenda (s : State) (l : Nat) (f : Launch → Launch) : (s.modLaunch l f).agenda = s.agenda := rfl
@[simp] theorem State.modLaunch_timers (s : State) (l : Nat) (f : Launch → Launch) : (s.modLaunch l f).timers = s.timers := rfl
@[simp] theorem State.modLaunch_turns (s : State) (l : Nat) (f : Launch → Launch) : (s.modLaunch l f).turns = s.turns := rfl
@[simp] theorem State.modLaunch_nextId (s : State) (l : Nat) (f : Launch → Launch) : (s.modLaunch l f).nextId = s.nextId := rfl
@[simp] theorem State.modLaunch_freeCount (s : State) (l : Nat) (f : Launch → Launch) : (s.modLaunch l f).freeCount = s.freeCount := rfl

/-! ## State.modCtx: only `contexts` changes -/

@[simp] theorem State.modCtx_cycle (s : State) (c : Nat) (f : Context → Context) : (s.modCtx c f).cycle = s.cycle := rfl
@[simp] theorem State.modCtx_boot (s : State) (c : Nat) (f : Context → Context) : (s.modCtx c f).boot = s.boot := rfl
@[simp] theorem State.modCtx_moduleNo (s : State) (c : Nat) (f : Context → Context) : (s.modCtx c f).moduleNo = s.moduleNo := rfl
@[simp] theorem State.modCtx_routes (s : State) (c : Nat) (f : Context → Context) : (s.modCtx c f).routes = s.routes := rfl
@[simp] theorem State.modCtx_packageCap (s : State) (c : Nat) (f : Context → Context) : (s.modCtx c f).packageCap = s.packageCap := rfl
@[simp] theorem State.modCtx_fwBuffer (s : State) (c : Nat) (f : Context → Context) : (s.modCtx c f).fwBuffer = s.fwBuffer := rfl
@[simp] theorem State.modCtx_fwActive (s : State) (c : Nat) (f : Context → Context) : (s.modCtx c f).fwActive = s.fwActive := rfl
@[simp] theorem State.modCtx_fwPending (s : State) (c : Nat) (f : Context → Context) : (s.modCtx c f).fwPending = s.fwPending := rfl
@[simp] theorem State.modCtx_rangerSeq (s : State) (c : Nat) (f : Context → Context) : (s.modCtx c f).rangerSeq = s.rangerSeq := rfl
@[simp] theorem State.modCtx_rangerLast (s : State) (c : Nat) (f : Context → Context) : (s.modCtx c f).rangerLast = s.rangerLast := rfl
@[simp] theorem State.modCtx_xdirBase (s : State) (c : Nat) (f : Context → Context) : (s.modCtx c f).xdirBase = s.xdirBase := rfl
@[simp] theorem State.modCtx_xdirCount (s : State) (c : Nat) (f : Context → Context) : (s.modCtx c f).xdirCount = s.xdirCount := rfl
@[simp] theorem State.modCtx_xreqs (s : State) (c : Nat) (f : Context → Context) : (s.modCtx c f).xreqs = s.xreqs := rfl
@[simp] theorem State.modCtx_launchCounter (s : State) (c : Nat) (f : Context → Context) : (s.modCtx c f).launchCounter = s.launchCounter := rfl
@[simp] theorem State.modCtx_sealCounter (s : State) (c : Nat) (f : Context → Context) : (s.modCtx c f).sealCounter = s.sealCounter := rfl
@[simp] theorem State.modCtx_imageSeq (s : State) (c : Nat) (f : Context → Context) : (s.modCtx c f).imageSeq = s.imageSeq := rfl
@[simp] theorem State.modCtx_errLog (s : State) (c : Nat) (f : Context → Context) : (s.modCtx c f).errLog = s.errLog := rfl
@[simp] theorem State.modCtx_partFaults (s : State) (c : Nat) (f : Context → Context) : (s.modCtx c f).partFaults = s.partFaults := rfl
@[simp] theorem State.modCtx_recovering (s : State) (c : Nat) (f : Context → Context) : (s.modCtx c f).recovering = s.recovering := rfl
@[simp] theorem State.modCtx_mended (s : State) (c : Nat) (f : Context → Context) : (s.modCtx c f).mended = s.mended := rfl
@[simp] theorem State.modCtx_powerDown (s : State) (c : Nat) (f : Context → Context) : (s.modCtx c f).powerDown = s.powerDown := rfl
@[simp] theorem State.modCtx_mem (s : State) (c : Nat) (f : Context → Context) : (s.modCtx c f).mem = s.mem := rfl
@[simp] theorem State.modCtx_poison (s : State) (c : Nat) (f : Context → Context) : (s.modCtx c f).poison = s.poison := rfl
@[simp] theorem State.modCtx_l1 (s : State) (c : Nat) (f : Context → Context) : (s.modCtx c f).l1 = s.l1 := rfl
@[simp] theorem State.modCtx_tlb (s : State) (c : Nat) (f : Context → Context) : (s.modCtx c f).tlb = s.tlb := rfl
@[simp] theorem State.modCtx_icache (s : State) (c : Nat) (f : Context → Context) : (s.modCtx c f).icache = s.icache := rfl
@[simp] theorem State.modCtx_icacheMiss (s : State) (c : Nat) (f : Context → Context) : (s.modCtx c f).icacheMiss = s.icacheMiss := rfl
@[simp] theorem State.modCtx_oldSlots (s : State) (c : Nat) (f : Context → Context) : (s.modCtx c f).oldSlots = s.oldSlots := rfl
@[simp] theorem State.modCtx_seals (s : State) (c : Nat) (f : Context → Context) : (s.modCtx c f).seals = s.seals := rfl
@[simp] theorem State.modCtx_ranges (s : State) (c : Nat) (f : Context → Context) : (s.modCtx c f).ranges = s.ranges := rfl
@[simp] theorem State.modCtx_cores (s : State) (c : Nat) (f : Context → Context) : (s.modCtx c f).cores = s.cores := rfl
@[simp] theorem State.modCtx_rings (s : State) (c : Nat) (f : Context → Context) : (s.modCtx c f).rings = s.rings := rfl
@[simp] theorem State.modCtx_launches (s : State) (c : Nat) (f : Context → Context) : (s.modCtx c f).launches = s.launches := rfl
@[simp] theorem State.modCtx_clusters (s : State) (c : Nat) (f : Context → Context) : (s.modCtx c f).clusters = s.clusters := rfl
@[simp] theorem State.modCtx_teams (s : State) (c : Nat) (f : Context → Context) : (s.modCtx c f).teams = s.teams := rfl
@[simp] theorem State.modCtx_groups (s : State) (c : Nat) (f : Context → Context) : (s.modCtx c f).groups = s.groups := rfl
@[simp] theorem State.modCtx_threads (s : State) (c : Nat) (f : Context → Context) : (s.modCtx c f).threads = s.threads := rfl
@[simp] theorem State.modCtx_beads (s : State) (c : Nat) (f : Context → Context) : (s.modCtx c f).beads = s.beads := rfl
@[simp] theorem State.modCtx_ops (s : State) (c : Nat) (f : Context → Context) : (s.modCtx c f).ops = s.ops := rfl
@[simp] theorem State.modCtx_batches (s : State) (c : Nat) (f : Context → Context) : (s.modCtx c f).batches = s.batches := rfl
@[simp] theorem State.modCtx_points (s : State) (c : Nat) (f : Context → Context) : (s.modCtx c f).points = s.points := rfl
@[simp] theorem State.modCtx_publishes (s : State) (c : Nat) (f : Context → Context) : (s.modCtx c f).publishes = s.publishes := rfl
@[simp] theorem State.modCtx_phases (s : State) (c : Nat) (f : Context → Context) : (s.modCtx c f).phases = s.phases := rfl
@[simp] theorem State.modCtx_logs (s : State) (c : Nat) (f : Context → Context) : (s.modCtx c f).logs = s.logs := rfl
@[simp] theorem State.modCtx_logQueue (s : State) (c : Nat) (f : Context → Context) : (s.modCtx c f).logQueue = s.logQueue := rfl
@[simp] theorem State.modCtx_streams (s : State) (c : Nat) (f : Context → Context) : (s.modCtx c f).streams = s.streams := rfl
@[simp] theorem State.modCtx_xdescs (s : State) (c : Nat) (f : Context → Context) : (s.modCtx c f).xdescs = s.xdescs := rfl
@[simp] theorem State.modCtx_recvBufs (s : State) (c : Nat) (f : Context → Context) : (s.modCtx c f).recvBufs = s.recvBufs := rfl
@[simp] theorem State.modCtx_sends (s : State) (c : Nat) (f : Context → Context) : (s.modCtx c f).sends = s.sends := rfl
@[simp] theorem State.modCtx_xfers (s : State) (c : Nat) (f : Context → Context) : (s.modCtx c f).xfers = s.xfers := rfl
@[simp] theorem State.modCtx_pairs (s : State) (c : Nat) (f : Context → Context) : (s.modCtx c f).pairs = s.pairs := rfl
@[simp] theorem State.modCtx_far (s : State) (c : Nat) (f : Context → Context) : (s.modCtx c f).far = s.far := rfl
@[simp] theorem State.modCtx_heldToks (s : State) (c : Nat) (f : Context → Context) : (s.modCtx c f).heldToks = s.heldToks := rfl
@[simp] theorem State.modCtx_endMarks (s : State) (c : Nat) (f : Context → Context) : (s.modCtx c f).endMarks = s.endMarks := rfl
@[simp] theorem State.modCtx_sessions (s : State) (c : Nat) (f : Context → Context) : (s.modCtx c f).sessions = s.sessions := rfl
@[simp] theorem State.modCtx_intake (s : State) (c : Nat) (f : Context → Context) : (s.modCtx c f).intake = s.intake := rfl
@[simp] theorem State.modCtx_inbox (s : State) (c : Nat) (f : Context → Context) : (s.modCtx c f).inbox = s.inbox := rfl
@[simp] theorem State.modCtx_rangerInbox (s : State) (c : Nat) (f : Context → Context) : (s.modCtx c f).rangerInbox = s.rangerInbox := rfl
@[simp] theorem State.modCtx_outbox (s : State) (c : Nat) (f : Context → Context) : (s.modCtx c f).outbox = s.outbox := rfl
@[simp] theorem State.modCtx_issues (s : State) (c : Nat) (f : Context → Context) : (s.modCtx c f).issues = s.issues := rfl
@[simp] theorem State.modCtx_meetDue (s : State) (c : Nat) (f : Context → Context) : (s.modCtx c f).meetDue = s.meetDue := rfl
@[simp] theorem State.modCtx_agenda (s : State) (c : Nat) (f : Context → Context) : (s.modCtx c f).agenda = s.agenda := rfl
@[simp] theorem State.modCtx_timers (s : State) (c : Nat) (f : Context → Context) : (s.modCtx c f).timers = s.timers := rfl
@[simp] theorem State.modCtx_turns (s : State) (c : Nat) (f : Context → Context) : (s.modCtx c f).turns = s.turns := rfl
@[simp] theorem State.modCtx_nextId (s : State) (c : Nat) (f : Context → Context) : (s.modCtx c f).nextId = s.nextId := rfl
@[simp] theorem State.modCtx_freeCount (s : State) (c : Nat) (f : Context → Context) : (s.modCtx c f).freeCount = s.freeCount := rfl

/-! ## State.modCore: only `cores` changes -/

@[simp] theorem State.modCore_cycle (s : State) (c : Nat) (f : Core → Core) : (s.modCore c f).cycle = s.cycle := rfl
@[simp] theorem State.modCore_boot (s : State) (c : Nat) (f : Core → Core) : (s.modCore c f).boot = s.boot := rfl
@[simp] theorem State.modCore_moduleNo (s : State) (c : Nat) (f : Core → Core) : (s.modCore c f).moduleNo = s.moduleNo := rfl
@[simp] theorem State.modCore_routes (s : State) (c : Nat) (f : Core → Core) : (s.modCore c f).routes = s.routes := rfl
@[simp] theorem State.modCore_packageCap (s : State) (c : Nat) (f : Core → Core) : (s.modCore c f).packageCap = s.packageCap := rfl
@[simp] theorem State.modCore_fwBuffer (s : State) (c : Nat) (f : Core → Core) : (s.modCore c f).fwBuffer = s.fwBuffer := rfl
@[simp] theorem State.modCore_fwActive (s : State) (c : Nat) (f : Core → Core) : (s.modCore c f).fwActive = s.fwActive := rfl
@[simp] theorem State.modCore_fwPending (s : State) (c : Nat) (f : Core → Core) : (s.modCore c f).fwPending = s.fwPending := rfl
@[simp] theorem State.modCore_rangerSeq (s : State) (c : Nat) (f : Core → Core) : (s.modCore c f).rangerSeq = s.rangerSeq := rfl
@[simp] theorem State.modCore_rangerLast (s : State) (c : Nat) (f : Core → Core) : (s.modCore c f).rangerLast = s.rangerLast := rfl
@[simp] theorem State.modCore_xdirBase (s : State) (c : Nat) (f : Core → Core) : (s.modCore c f).xdirBase = s.xdirBase := rfl
@[simp] theorem State.modCore_xdirCount (s : State) (c : Nat) (f : Core → Core) : (s.modCore c f).xdirCount = s.xdirCount := rfl
@[simp] theorem State.modCore_xreqs (s : State) (c : Nat) (f : Core → Core) : (s.modCore c f).xreqs = s.xreqs := rfl
@[simp] theorem State.modCore_launchCounter (s : State) (c : Nat) (f : Core → Core) : (s.modCore c f).launchCounter = s.launchCounter := rfl
@[simp] theorem State.modCore_sealCounter (s : State) (c : Nat) (f : Core → Core) : (s.modCore c f).sealCounter = s.sealCounter := rfl
@[simp] theorem State.modCore_imageSeq (s : State) (c : Nat) (f : Core → Core) : (s.modCore c f).imageSeq = s.imageSeq := rfl
@[simp] theorem State.modCore_errLog (s : State) (c : Nat) (f : Core → Core) : (s.modCore c f).errLog = s.errLog := rfl
@[simp] theorem State.modCore_partFaults (s : State) (c : Nat) (f : Core → Core) : (s.modCore c f).partFaults = s.partFaults := rfl
@[simp] theorem State.modCore_recovering (s : State) (c : Nat) (f : Core → Core) : (s.modCore c f).recovering = s.recovering := rfl
@[simp] theorem State.modCore_mended (s : State) (c : Nat) (f : Core → Core) : (s.modCore c f).mended = s.mended := rfl
@[simp] theorem State.modCore_powerDown (s : State) (c : Nat) (f : Core → Core) : (s.modCore c f).powerDown = s.powerDown := rfl
@[simp] theorem State.modCore_mem (s : State) (c : Nat) (f : Core → Core) : (s.modCore c f).mem = s.mem := rfl
@[simp] theorem State.modCore_poison (s : State) (c : Nat) (f : Core → Core) : (s.modCore c f).poison = s.poison := rfl
@[simp] theorem State.modCore_l1 (s : State) (c : Nat) (f : Core → Core) : (s.modCore c f).l1 = s.l1 := rfl
@[simp] theorem State.modCore_tlb (s : State) (c : Nat) (f : Core → Core) : (s.modCore c f).tlb = s.tlb := rfl
@[simp] theorem State.modCore_icache (s : State) (c : Nat) (f : Core → Core) : (s.modCore c f).icache = s.icache := rfl
@[simp] theorem State.modCore_icacheMiss (s : State) (c : Nat) (f : Core → Core) : (s.modCore c f).icacheMiss = s.icacheMiss := rfl
@[simp] theorem State.modCore_oldSlots (s : State) (c : Nat) (f : Core → Core) : (s.modCore c f).oldSlots = s.oldSlots := rfl
@[simp] theorem State.modCore_seals (s : State) (c : Nat) (f : Core → Core) : (s.modCore c f).seals = s.seals := rfl
@[simp] theorem State.modCore_ranges (s : State) (c : Nat) (f : Core → Core) : (s.modCore c f).ranges = s.ranges := rfl
@[simp] theorem State.modCore_rings (s : State) (c : Nat) (f : Core → Core) : (s.modCore c f).rings = s.rings := rfl
@[simp] theorem State.modCore_contexts (s : State) (c : Nat) (f : Core → Core) : (s.modCore c f).contexts = s.contexts := rfl
@[simp] theorem State.modCore_launches (s : State) (c : Nat) (f : Core → Core) : (s.modCore c f).launches = s.launches := rfl
@[simp] theorem State.modCore_clusters (s : State) (c : Nat) (f : Core → Core) : (s.modCore c f).clusters = s.clusters := rfl
@[simp] theorem State.modCore_teams (s : State) (c : Nat) (f : Core → Core) : (s.modCore c f).teams = s.teams := rfl
@[simp] theorem State.modCore_groups (s : State) (c : Nat) (f : Core → Core) : (s.modCore c f).groups = s.groups := rfl
@[simp] theorem State.modCore_threads (s : State) (c : Nat) (f : Core → Core) : (s.modCore c f).threads = s.threads := rfl
@[simp] theorem State.modCore_beads (s : State) (c : Nat) (f : Core → Core) : (s.modCore c f).beads = s.beads := rfl
@[simp] theorem State.modCore_ops (s : State) (c : Nat) (f : Core → Core) : (s.modCore c f).ops = s.ops := rfl
@[simp] theorem State.modCore_batches (s : State) (c : Nat) (f : Core → Core) : (s.modCore c f).batches = s.batches := rfl
@[simp] theorem State.modCore_points (s : State) (c : Nat) (f : Core → Core) : (s.modCore c f).points = s.points := rfl
@[simp] theorem State.modCore_publishes (s : State) (c : Nat) (f : Core → Core) : (s.modCore c f).publishes = s.publishes := rfl
@[simp] theorem State.modCore_phases (s : State) (c : Nat) (f : Core → Core) : (s.modCore c f).phases = s.phases := rfl
@[simp] theorem State.modCore_logs (s : State) (c : Nat) (f : Core → Core) : (s.modCore c f).logs = s.logs := rfl
@[simp] theorem State.modCore_logQueue (s : State) (c : Nat) (f : Core → Core) : (s.modCore c f).logQueue = s.logQueue := rfl
@[simp] theorem State.modCore_streams (s : State) (c : Nat) (f : Core → Core) : (s.modCore c f).streams = s.streams := rfl
@[simp] theorem State.modCore_xdescs (s : State) (c : Nat) (f : Core → Core) : (s.modCore c f).xdescs = s.xdescs := rfl
@[simp] theorem State.modCore_recvBufs (s : State) (c : Nat) (f : Core → Core) : (s.modCore c f).recvBufs = s.recvBufs := rfl
@[simp] theorem State.modCore_sends (s : State) (c : Nat) (f : Core → Core) : (s.modCore c f).sends = s.sends := rfl
@[simp] theorem State.modCore_xfers (s : State) (c : Nat) (f : Core → Core) : (s.modCore c f).xfers = s.xfers := rfl
@[simp] theorem State.modCore_pairs (s : State) (c : Nat) (f : Core → Core) : (s.modCore c f).pairs = s.pairs := rfl
@[simp] theorem State.modCore_far (s : State) (c : Nat) (f : Core → Core) : (s.modCore c f).far = s.far := rfl
@[simp] theorem State.modCore_heldToks (s : State) (c : Nat) (f : Core → Core) : (s.modCore c f).heldToks = s.heldToks := rfl
@[simp] theorem State.modCore_endMarks (s : State) (c : Nat) (f : Core → Core) : (s.modCore c f).endMarks = s.endMarks := rfl
@[simp] theorem State.modCore_sessions (s : State) (c : Nat) (f : Core → Core) : (s.modCore c f).sessions = s.sessions := rfl
@[simp] theorem State.modCore_intake (s : State) (c : Nat) (f : Core → Core) : (s.modCore c f).intake = s.intake := rfl
@[simp] theorem State.modCore_inbox (s : State) (c : Nat) (f : Core → Core) : (s.modCore c f).inbox = s.inbox := rfl
@[simp] theorem State.modCore_rangerInbox (s : State) (c : Nat) (f : Core → Core) : (s.modCore c f).rangerInbox = s.rangerInbox := rfl
@[simp] theorem State.modCore_outbox (s : State) (c : Nat) (f : Core → Core) : (s.modCore c f).outbox = s.outbox := rfl
@[simp] theorem State.modCore_issues (s : State) (c : Nat) (f : Core → Core) : (s.modCore c f).issues = s.issues := rfl
@[simp] theorem State.modCore_meetDue (s : State) (c : Nat) (f : Core → Core) : (s.modCore c f).meetDue = s.meetDue := rfl
@[simp] theorem State.modCore_agenda (s : State) (c : Nat) (f : Core → Core) : (s.modCore c f).agenda = s.agenda := rfl
@[simp] theorem State.modCore_timers (s : State) (c : Nat) (f : Core → Core) : (s.modCore c f).timers = s.timers := rfl
@[simp] theorem State.modCore_turns (s : State) (c : Nat) (f : Core → Core) : (s.modCore c f).turns = s.turns := rfl
@[simp] theorem State.modCore_nextId (s : State) (c : Nat) (f : Core → Core) : (s.modCore c f).nextId = s.nextId := rfl
@[simp] theorem State.modCore_freeCount (s : State) (c : Nat) (f : Core → Core) : (s.modCore c f).freeCount = s.freeCount := rfl

/-! ## State.modOp: only `ops` changes -/

@[simp] theorem State.modOp_cycle (s : State) (o : Nat) (f : Op → Op) : (s.modOp o f).cycle = s.cycle := rfl
@[simp] theorem State.modOp_boot (s : State) (o : Nat) (f : Op → Op) : (s.modOp o f).boot = s.boot := rfl
@[simp] theorem State.modOp_moduleNo (s : State) (o : Nat) (f : Op → Op) : (s.modOp o f).moduleNo = s.moduleNo := rfl
@[simp] theorem State.modOp_routes (s : State) (o : Nat) (f : Op → Op) : (s.modOp o f).routes = s.routes := rfl
@[simp] theorem State.modOp_packageCap (s : State) (o : Nat) (f : Op → Op) : (s.modOp o f).packageCap = s.packageCap := rfl
@[simp] theorem State.modOp_fwBuffer (s : State) (o : Nat) (f : Op → Op) : (s.modOp o f).fwBuffer = s.fwBuffer := rfl
@[simp] theorem State.modOp_fwActive (s : State) (o : Nat) (f : Op → Op) : (s.modOp o f).fwActive = s.fwActive := rfl
@[simp] theorem State.modOp_fwPending (s : State) (o : Nat) (f : Op → Op) : (s.modOp o f).fwPending = s.fwPending := rfl
@[simp] theorem State.modOp_rangerSeq (s : State) (o : Nat) (f : Op → Op) : (s.modOp o f).rangerSeq = s.rangerSeq := rfl
@[simp] theorem State.modOp_rangerLast (s : State) (o : Nat) (f : Op → Op) : (s.modOp o f).rangerLast = s.rangerLast := rfl
@[simp] theorem State.modOp_xdirBase (s : State) (o : Nat) (f : Op → Op) : (s.modOp o f).xdirBase = s.xdirBase := rfl
@[simp] theorem State.modOp_xdirCount (s : State) (o : Nat) (f : Op → Op) : (s.modOp o f).xdirCount = s.xdirCount := rfl
@[simp] theorem State.modOp_xreqs (s : State) (o : Nat) (f : Op → Op) : (s.modOp o f).xreqs = s.xreqs := rfl
@[simp] theorem State.modOp_launchCounter (s : State) (o : Nat) (f : Op → Op) : (s.modOp o f).launchCounter = s.launchCounter := rfl
@[simp] theorem State.modOp_sealCounter (s : State) (o : Nat) (f : Op → Op) : (s.modOp o f).sealCounter = s.sealCounter := rfl
@[simp] theorem State.modOp_imageSeq (s : State) (o : Nat) (f : Op → Op) : (s.modOp o f).imageSeq = s.imageSeq := rfl
@[simp] theorem State.modOp_errLog (s : State) (o : Nat) (f : Op → Op) : (s.modOp o f).errLog = s.errLog := rfl
@[simp] theorem State.modOp_partFaults (s : State) (o : Nat) (f : Op → Op) : (s.modOp o f).partFaults = s.partFaults := rfl
@[simp] theorem State.modOp_recovering (s : State) (o : Nat) (f : Op → Op) : (s.modOp o f).recovering = s.recovering := rfl
@[simp] theorem State.modOp_mended (s : State) (o : Nat) (f : Op → Op) : (s.modOp o f).mended = s.mended := rfl
@[simp] theorem State.modOp_powerDown (s : State) (o : Nat) (f : Op → Op) : (s.modOp o f).powerDown = s.powerDown := rfl
@[simp] theorem State.modOp_mem (s : State) (o : Nat) (f : Op → Op) : (s.modOp o f).mem = s.mem := rfl
@[simp] theorem State.modOp_poison (s : State) (o : Nat) (f : Op → Op) : (s.modOp o f).poison = s.poison := rfl
@[simp] theorem State.modOp_l1 (s : State) (o : Nat) (f : Op → Op) : (s.modOp o f).l1 = s.l1 := rfl
@[simp] theorem State.modOp_tlb (s : State) (o : Nat) (f : Op → Op) : (s.modOp o f).tlb = s.tlb := rfl
@[simp] theorem State.modOp_icache (s : State) (o : Nat) (f : Op → Op) : (s.modOp o f).icache = s.icache := rfl
@[simp] theorem State.modOp_icacheMiss (s : State) (o : Nat) (f : Op → Op) : (s.modOp o f).icacheMiss = s.icacheMiss := rfl
@[simp] theorem State.modOp_oldSlots (s : State) (o : Nat) (f : Op → Op) : (s.modOp o f).oldSlots = s.oldSlots := rfl
@[simp] theorem State.modOp_seals (s : State) (o : Nat) (f : Op → Op) : (s.modOp o f).seals = s.seals := rfl
@[simp] theorem State.modOp_ranges (s : State) (o : Nat) (f : Op → Op) : (s.modOp o f).ranges = s.ranges := rfl
@[simp] theorem State.modOp_cores (s : State) (o : Nat) (f : Op → Op) : (s.modOp o f).cores = s.cores := rfl
@[simp] theorem State.modOp_rings (s : State) (o : Nat) (f : Op → Op) : (s.modOp o f).rings = s.rings := rfl
@[simp] theorem State.modOp_contexts (s : State) (o : Nat) (f : Op → Op) : (s.modOp o f).contexts = s.contexts := rfl
@[simp] theorem State.modOp_launches (s : State) (o : Nat) (f : Op → Op) : (s.modOp o f).launches = s.launches := rfl
@[simp] theorem State.modOp_clusters (s : State) (o : Nat) (f : Op → Op) : (s.modOp o f).clusters = s.clusters := rfl
@[simp] theorem State.modOp_teams (s : State) (o : Nat) (f : Op → Op) : (s.modOp o f).teams = s.teams := rfl
@[simp] theorem State.modOp_groups (s : State) (o : Nat) (f : Op → Op) : (s.modOp o f).groups = s.groups := rfl
@[simp] theorem State.modOp_threads (s : State) (o : Nat) (f : Op → Op) : (s.modOp o f).threads = s.threads := rfl
@[simp] theorem State.modOp_beads (s : State) (o : Nat) (f : Op → Op) : (s.modOp o f).beads = s.beads := rfl
@[simp] theorem State.modOp_batches (s : State) (o : Nat) (f : Op → Op) : (s.modOp o f).batches = s.batches := rfl
@[simp] theorem State.modOp_points (s : State) (o : Nat) (f : Op → Op) : (s.modOp o f).points = s.points := rfl
@[simp] theorem State.modOp_publishes (s : State) (o : Nat) (f : Op → Op) : (s.modOp o f).publishes = s.publishes := rfl
@[simp] theorem State.modOp_phases (s : State) (o : Nat) (f : Op → Op) : (s.modOp o f).phases = s.phases := rfl
@[simp] theorem State.modOp_logs (s : State) (o : Nat) (f : Op → Op) : (s.modOp o f).logs = s.logs := rfl
@[simp] theorem State.modOp_logQueue (s : State) (o : Nat) (f : Op → Op) : (s.modOp o f).logQueue = s.logQueue := rfl
@[simp] theorem State.modOp_streams (s : State) (o : Nat) (f : Op → Op) : (s.modOp o f).streams = s.streams := rfl
@[simp] theorem State.modOp_xdescs (s : State) (o : Nat) (f : Op → Op) : (s.modOp o f).xdescs = s.xdescs := rfl
@[simp] theorem State.modOp_recvBufs (s : State) (o : Nat) (f : Op → Op) : (s.modOp o f).recvBufs = s.recvBufs := rfl
@[simp] theorem State.modOp_sends (s : State) (o : Nat) (f : Op → Op) : (s.modOp o f).sends = s.sends := rfl
@[simp] theorem State.modOp_xfers (s : State) (o : Nat) (f : Op → Op) : (s.modOp o f).xfers = s.xfers := rfl
@[simp] theorem State.modOp_pairs (s : State) (o : Nat) (f : Op → Op) : (s.modOp o f).pairs = s.pairs := rfl
@[simp] theorem State.modOp_far (s : State) (o : Nat) (f : Op → Op) : (s.modOp o f).far = s.far := rfl
@[simp] theorem State.modOp_heldToks (s : State) (o : Nat) (f : Op → Op) : (s.modOp o f).heldToks = s.heldToks := rfl
@[simp] theorem State.modOp_endMarks (s : State) (o : Nat) (f : Op → Op) : (s.modOp o f).endMarks = s.endMarks := rfl
@[simp] theorem State.modOp_sessions (s : State) (o : Nat) (f : Op → Op) : (s.modOp o f).sessions = s.sessions := rfl
@[simp] theorem State.modOp_intake (s : State) (o : Nat) (f : Op → Op) : (s.modOp o f).intake = s.intake := rfl
@[simp] theorem State.modOp_inbox (s : State) (o : Nat) (f : Op → Op) : (s.modOp o f).inbox = s.inbox := rfl
@[simp] theorem State.modOp_rangerInbox (s : State) (o : Nat) (f : Op → Op) : (s.modOp o f).rangerInbox = s.rangerInbox := rfl
@[simp] theorem State.modOp_outbox (s : State) (o : Nat) (f : Op → Op) : (s.modOp o f).outbox = s.outbox := rfl
@[simp] theorem State.modOp_issues (s : State) (o : Nat) (f : Op → Op) : (s.modOp o f).issues = s.issues := rfl
@[simp] theorem State.modOp_meetDue (s : State) (o : Nat) (f : Op → Op) : (s.modOp o f).meetDue = s.meetDue := rfl
@[simp] theorem State.modOp_agenda (s : State) (o : Nat) (f : Op → Op) : (s.modOp o f).agenda = s.agenda := rfl
@[simp] theorem State.modOp_timers (s : State) (o : Nat) (f : Op → Op) : (s.modOp o f).timers = s.timers := rfl
@[simp] theorem State.modOp_turns (s : State) (o : Nat) (f : Op → Op) : (s.modOp o f).turns = s.turns := rfl
@[simp] theorem State.modOp_nextId (s : State) (o : Nat) (f : Op → Op) : (s.modOp o f).nextId = s.nextId := rfl
@[simp] theorem State.modOp_freeCount (s : State) (o : Nat) (f : Op → Op) : (s.modOp o f).freeCount = s.freeCount := rfl

/-! ## State.later: only `agenda` changes -/

@[simp] theorem State.later_cycle (s : State) (i : Instr) : (s.later i).cycle = s.cycle := rfl
@[simp] theorem State.later_boot (s : State) (i : Instr) : (s.later i).boot = s.boot := rfl
@[simp] theorem State.later_moduleNo (s : State) (i : Instr) : (s.later i).moduleNo = s.moduleNo := rfl
@[simp] theorem State.later_routes (s : State) (i : Instr) : (s.later i).routes = s.routes := rfl
@[simp] theorem State.later_packageCap (s : State) (i : Instr) : (s.later i).packageCap = s.packageCap := rfl
@[simp] theorem State.later_fwBuffer (s : State) (i : Instr) : (s.later i).fwBuffer = s.fwBuffer := rfl
@[simp] theorem State.later_fwActive (s : State) (i : Instr) : (s.later i).fwActive = s.fwActive := rfl
@[simp] theorem State.later_fwPending (s : State) (i : Instr) : (s.later i).fwPending = s.fwPending := rfl
@[simp] theorem State.later_rangerSeq (s : State) (i : Instr) : (s.later i).rangerSeq = s.rangerSeq := rfl
@[simp] theorem State.later_rangerLast (s : State) (i : Instr) : (s.later i).rangerLast = s.rangerLast := rfl
@[simp] theorem State.later_xdirBase (s : State) (i : Instr) : (s.later i).xdirBase = s.xdirBase := rfl
@[simp] theorem State.later_xdirCount (s : State) (i : Instr) : (s.later i).xdirCount = s.xdirCount := rfl
@[simp] theorem State.later_xreqs (s : State) (i : Instr) : (s.later i).xreqs = s.xreqs := rfl
@[simp] theorem State.later_launchCounter (s : State) (i : Instr) : (s.later i).launchCounter = s.launchCounter := rfl
@[simp] theorem State.later_sealCounter (s : State) (i : Instr) : (s.later i).sealCounter = s.sealCounter := rfl
@[simp] theorem State.later_imageSeq (s : State) (i : Instr) : (s.later i).imageSeq = s.imageSeq := rfl
@[simp] theorem State.later_errLog (s : State) (i : Instr) : (s.later i).errLog = s.errLog := rfl
@[simp] theorem State.later_partFaults (s : State) (i : Instr) : (s.later i).partFaults = s.partFaults := rfl
@[simp] theorem State.later_recovering (s : State) (i : Instr) : (s.later i).recovering = s.recovering := rfl
@[simp] theorem State.later_mended (s : State) (i : Instr) : (s.later i).mended = s.mended := rfl
@[simp] theorem State.later_powerDown (s : State) (i : Instr) : (s.later i).powerDown = s.powerDown := rfl
@[simp] theorem State.later_mem (s : State) (i : Instr) : (s.later i).mem = s.mem := rfl
@[simp] theorem State.later_poison (s : State) (i : Instr) : (s.later i).poison = s.poison := rfl
@[simp] theorem State.later_l1 (s : State) (i : Instr) : (s.later i).l1 = s.l1 := rfl
@[simp] theorem State.later_tlb (s : State) (i : Instr) : (s.later i).tlb = s.tlb := rfl
@[simp] theorem State.later_icache (s : State) (i : Instr) : (s.later i).icache = s.icache := rfl
@[simp] theorem State.later_icacheMiss (s : State) (i : Instr) : (s.later i).icacheMiss = s.icacheMiss := rfl
@[simp] theorem State.later_oldSlots (s : State) (i : Instr) : (s.later i).oldSlots = s.oldSlots := rfl
@[simp] theorem State.later_seals (s : State) (i : Instr) : (s.later i).seals = s.seals := rfl
@[simp] theorem State.later_ranges (s : State) (i : Instr) : (s.later i).ranges = s.ranges := rfl
@[simp] theorem State.later_cores (s : State) (i : Instr) : (s.later i).cores = s.cores := rfl
@[simp] theorem State.later_rings (s : State) (i : Instr) : (s.later i).rings = s.rings := rfl
@[simp] theorem State.later_contexts (s : State) (i : Instr) : (s.later i).contexts = s.contexts := rfl
@[simp] theorem State.later_launches (s : State) (i : Instr) : (s.later i).launches = s.launches := rfl
@[simp] theorem State.later_clusters (s : State) (i : Instr) : (s.later i).clusters = s.clusters := rfl
@[simp] theorem State.later_teams (s : State) (i : Instr) : (s.later i).teams = s.teams := rfl
@[simp] theorem State.later_groups (s : State) (i : Instr) : (s.later i).groups = s.groups := rfl
@[simp] theorem State.later_threads (s : State) (i : Instr) : (s.later i).threads = s.threads := rfl
@[simp] theorem State.later_beads (s : State) (i : Instr) : (s.later i).beads = s.beads := rfl
@[simp] theorem State.later_ops (s : State) (i : Instr) : (s.later i).ops = s.ops := rfl
@[simp] theorem State.later_batches (s : State) (i : Instr) : (s.later i).batches = s.batches := rfl
@[simp] theorem State.later_points (s : State) (i : Instr) : (s.later i).points = s.points := rfl
@[simp] theorem State.later_publishes (s : State) (i : Instr) : (s.later i).publishes = s.publishes := rfl
@[simp] theorem State.later_phases (s : State) (i : Instr) : (s.later i).phases = s.phases := rfl
@[simp] theorem State.later_logs (s : State) (i : Instr) : (s.later i).logs = s.logs := rfl
@[simp] theorem State.later_logQueue (s : State) (i : Instr) : (s.later i).logQueue = s.logQueue := rfl
@[simp] theorem State.later_streams (s : State) (i : Instr) : (s.later i).streams = s.streams := rfl
@[simp] theorem State.later_xdescs (s : State) (i : Instr) : (s.later i).xdescs = s.xdescs := rfl
@[simp] theorem State.later_recvBufs (s : State) (i : Instr) : (s.later i).recvBufs = s.recvBufs := rfl
@[simp] theorem State.later_sends (s : State) (i : Instr) : (s.later i).sends = s.sends := rfl
@[simp] theorem State.later_xfers (s : State) (i : Instr) : (s.later i).xfers = s.xfers := rfl
@[simp] theorem State.later_pairs (s : State) (i : Instr) : (s.later i).pairs = s.pairs := rfl
@[simp] theorem State.later_far (s : State) (i : Instr) : (s.later i).far = s.far := rfl
@[simp] theorem State.later_heldToks (s : State) (i : Instr) : (s.later i).heldToks = s.heldToks := rfl
@[simp] theorem State.later_endMarks (s : State) (i : Instr) : (s.later i).endMarks = s.endMarks := rfl
@[simp] theorem State.later_sessions (s : State) (i : Instr) : (s.later i).sessions = s.sessions := rfl
@[simp] theorem State.later_intake (s : State) (i : Instr) : (s.later i).intake = s.intake := rfl
@[simp] theorem State.later_inbox (s : State) (i : Instr) : (s.later i).inbox = s.inbox := rfl
@[simp] theorem State.later_rangerInbox (s : State) (i : Instr) : (s.later i).rangerInbox = s.rangerInbox := rfl
@[simp] theorem State.later_outbox (s : State) (i : Instr) : (s.later i).outbox = s.outbox := rfl
@[simp] theorem State.later_issues (s : State) (i : Instr) : (s.later i).issues = s.issues := rfl
@[simp] theorem State.later_meetDue (s : State) (i : Instr) : (s.later i).meetDue = s.meetDue := rfl
@[simp] theorem State.later_timers (s : State) (i : Instr) : (s.later i).timers = s.timers := rfl
@[simp] theorem State.later_turns (s : State) (i : Instr) : (s.later i).turns = s.turns := rfl
@[simp] theorem State.later_nextId (s : State) (i : Instr) : (s.later i).nextId = s.nextId := rfl
@[simp] theorem State.later_freeCount (s : State) (i : Instr) : (s.later i).freeCount = s.freeCount := rfl

/-! ## State.after: only `timers` changes -/

@[simp] theorem State.after_cycle (s : State) (n : Nat) (i : Instr) : (s.after n i).cycle = s.cycle := rfl
@[simp] theorem State.after_boot (s : State) (n : Nat) (i : Instr) : (s.after n i).boot = s.boot := rfl
@[simp] theorem State.after_moduleNo (s : State) (n : Nat) (i : Instr) : (s.after n i).moduleNo = s.moduleNo := rfl
@[simp] theorem State.after_routes (s : State) (n : Nat) (i : Instr) : (s.after n i).routes = s.routes := rfl
@[simp] theorem State.after_packageCap (s : State) (n : Nat) (i : Instr) : (s.after n i).packageCap = s.packageCap := rfl
@[simp] theorem State.after_fwBuffer (s : State) (n : Nat) (i : Instr) : (s.after n i).fwBuffer = s.fwBuffer := rfl
@[simp] theorem State.after_fwActive (s : State) (n : Nat) (i : Instr) : (s.after n i).fwActive = s.fwActive := rfl
@[simp] theorem State.after_fwPending (s : State) (n : Nat) (i : Instr) : (s.after n i).fwPending = s.fwPending := rfl
@[simp] theorem State.after_rangerSeq (s : State) (n : Nat) (i : Instr) : (s.after n i).rangerSeq = s.rangerSeq := rfl
@[simp] theorem State.after_rangerLast (s : State) (n : Nat) (i : Instr) : (s.after n i).rangerLast = s.rangerLast := rfl
@[simp] theorem State.after_xdirBase (s : State) (n : Nat) (i : Instr) : (s.after n i).xdirBase = s.xdirBase := rfl
@[simp] theorem State.after_xdirCount (s : State) (n : Nat) (i : Instr) : (s.after n i).xdirCount = s.xdirCount := rfl
@[simp] theorem State.after_xreqs (s : State) (n : Nat) (i : Instr) : (s.after n i).xreqs = s.xreqs := rfl
@[simp] theorem State.after_launchCounter (s : State) (n : Nat) (i : Instr) : (s.after n i).launchCounter = s.launchCounter := rfl
@[simp] theorem State.after_sealCounter (s : State) (n : Nat) (i : Instr) : (s.after n i).sealCounter = s.sealCounter := rfl
@[simp] theorem State.after_imageSeq (s : State) (n : Nat) (i : Instr) : (s.after n i).imageSeq = s.imageSeq := rfl
@[simp] theorem State.after_errLog (s : State) (n : Nat) (i : Instr) : (s.after n i).errLog = s.errLog := rfl
@[simp] theorem State.after_partFaults (s : State) (n : Nat) (i : Instr) : (s.after n i).partFaults = s.partFaults := rfl
@[simp] theorem State.after_recovering (s : State) (n : Nat) (i : Instr) : (s.after n i).recovering = s.recovering := rfl
@[simp] theorem State.after_mended (s : State) (n : Nat) (i : Instr) : (s.after n i).mended = s.mended := rfl
@[simp] theorem State.after_powerDown (s : State) (n : Nat) (i : Instr) : (s.after n i).powerDown = s.powerDown := rfl
@[simp] theorem State.after_mem (s : State) (n : Nat) (i : Instr) : (s.after n i).mem = s.mem := rfl
@[simp] theorem State.after_poison (s : State) (n : Nat) (i : Instr) : (s.after n i).poison = s.poison := rfl
@[simp] theorem State.after_l1 (s : State) (n : Nat) (i : Instr) : (s.after n i).l1 = s.l1 := rfl
@[simp] theorem State.after_tlb (s : State) (n : Nat) (i : Instr) : (s.after n i).tlb = s.tlb := rfl
@[simp] theorem State.after_icache (s : State) (n : Nat) (i : Instr) : (s.after n i).icache = s.icache := rfl
@[simp] theorem State.after_icacheMiss (s : State) (n : Nat) (i : Instr) : (s.after n i).icacheMiss = s.icacheMiss := rfl
@[simp] theorem State.after_oldSlots (s : State) (n : Nat) (i : Instr) : (s.after n i).oldSlots = s.oldSlots := rfl
@[simp] theorem State.after_seals (s : State) (n : Nat) (i : Instr) : (s.after n i).seals = s.seals := rfl
@[simp] theorem State.after_ranges (s : State) (n : Nat) (i : Instr) : (s.after n i).ranges = s.ranges := rfl
@[simp] theorem State.after_cores (s : State) (n : Nat) (i : Instr) : (s.after n i).cores = s.cores := rfl
@[simp] theorem State.after_rings (s : State) (n : Nat) (i : Instr) : (s.after n i).rings = s.rings := rfl
@[simp] theorem State.after_contexts (s : State) (n : Nat) (i : Instr) : (s.after n i).contexts = s.contexts := rfl
@[simp] theorem State.after_launches (s : State) (n : Nat) (i : Instr) : (s.after n i).launches = s.launches := rfl
@[simp] theorem State.after_clusters (s : State) (n : Nat) (i : Instr) : (s.after n i).clusters = s.clusters := rfl
@[simp] theorem State.after_teams (s : State) (n : Nat) (i : Instr) : (s.after n i).teams = s.teams := rfl
@[simp] theorem State.after_groups (s : State) (n : Nat) (i : Instr) : (s.after n i).groups = s.groups := rfl
@[simp] theorem State.after_threads (s : State) (n : Nat) (i : Instr) : (s.after n i).threads = s.threads := rfl
@[simp] theorem State.after_beads (s : State) (n : Nat) (i : Instr) : (s.after n i).beads = s.beads := rfl
@[simp] theorem State.after_ops (s : State) (n : Nat) (i : Instr) : (s.after n i).ops = s.ops := rfl
@[simp] theorem State.after_batches (s : State) (n : Nat) (i : Instr) : (s.after n i).batches = s.batches := rfl
@[simp] theorem State.after_points (s : State) (n : Nat) (i : Instr) : (s.after n i).points = s.points := rfl
@[simp] theorem State.after_publishes (s : State) (n : Nat) (i : Instr) : (s.after n i).publishes = s.publishes := rfl
@[simp] theorem State.after_phases (s : State) (n : Nat) (i : Instr) : (s.after n i).phases = s.phases := rfl
@[simp] theorem State.after_logs (s : State) (n : Nat) (i : Instr) : (s.after n i).logs = s.logs := rfl
@[simp] theorem State.after_logQueue (s : State) (n : Nat) (i : Instr) : (s.after n i).logQueue = s.logQueue := rfl
@[simp] theorem State.after_streams (s : State) (n : Nat) (i : Instr) : (s.after n i).streams = s.streams := rfl
@[simp] theorem State.after_xdescs (s : State) (n : Nat) (i : Instr) : (s.after n i).xdescs = s.xdescs := rfl
@[simp] theorem State.after_recvBufs (s : State) (n : Nat) (i : Instr) : (s.after n i).recvBufs = s.recvBufs := rfl
@[simp] theorem State.after_sends (s : State) (n : Nat) (i : Instr) : (s.after n i).sends = s.sends := rfl
@[simp] theorem State.after_xfers (s : State) (n : Nat) (i : Instr) : (s.after n i).xfers = s.xfers := rfl
@[simp] theorem State.after_pairs (s : State) (n : Nat) (i : Instr) : (s.after n i).pairs = s.pairs := rfl
@[simp] theorem State.after_far (s : State) (n : Nat) (i : Instr) : (s.after n i).far = s.far := rfl
@[simp] theorem State.after_heldToks (s : State) (n : Nat) (i : Instr) : (s.after n i).heldToks = s.heldToks := rfl
@[simp] theorem State.after_endMarks (s : State) (n : Nat) (i : Instr) : (s.after n i).endMarks = s.endMarks := rfl
@[simp] theorem State.after_sessions (s : State) (n : Nat) (i : Instr) : (s.after n i).sessions = s.sessions := rfl
@[simp] theorem State.after_intake (s : State) (n : Nat) (i : Instr) : (s.after n i).intake = s.intake := rfl
@[simp] theorem State.after_inbox (s : State) (n : Nat) (i : Instr) : (s.after n i).inbox = s.inbox := rfl
@[simp] theorem State.after_rangerInbox (s : State) (n : Nat) (i : Instr) : (s.after n i).rangerInbox = s.rangerInbox := rfl
@[simp] theorem State.after_outbox (s : State) (n : Nat) (i : Instr) : (s.after n i).outbox = s.outbox := rfl
@[simp] theorem State.after_issues (s : State) (n : Nat) (i : Instr) : (s.after n i).issues = s.issues := rfl
@[simp] theorem State.after_meetDue (s : State) (n : Nat) (i : Instr) : (s.after n i).meetDue = s.meetDue := rfl
@[simp] theorem State.after_agenda (s : State) (n : Nat) (i : Instr) : (s.after n i).agenda = s.agenda := rfl
@[simp] theorem State.after_turns (s : State) (n : Nat) (i : Instr) : (s.after n i).turns = s.turns := rfl
@[simp] theorem State.after_nextId (s : State) (n : Nat) (i : Instr) : (s.after n i).nextId = s.nextId := rfl
@[simp] theorem State.after_freeCount (s : State) (n : Nat) (i : Instr) : (s.after n i).freeCount = s.freeCount := rfl

/-! ## State.due: only `timers` changes -/

@[simp] theorem State.due_cycle (s : State) (n : Nat) (i : Instr) : (s.due n i).cycle = s.cycle := rfl
@[simp] theorem State.due_boot (s : State) (n : Nat) (i : Instr) : (s.due n i).boot = s.boot := rfl
@[simp] theorem State.due_moduleNo (s : State) (n : Nat) (i : Instr) : (s.due n i).moduleNo = s.moduleNo := rfl
@[simp] theorem State.due_routes (s : State) (n : Nat) (i : Instr) : (s.due n i).routes = s.routes := rfl
@[simp] theorem State.due_packageCap (s : State) (n : Nat) (i : Instr) : (s.due n i).packageCap = s.packageCap := rfl
@[simp] theorem State.due_fwBuffer (s : State) (n : Nat) (i : Instr) : (s.due n i).fwBuffer = s.fwBuffer := rfl
@[simp] theorem State.due_fwActive (s : State) (n : Nat) (i : Instr) : (s.due n i).fwActive = s.fwActive := rfl
@[simp] theorem State.due_fwPending (s : State) (n : Nat) (i : Instr) : (s.due n i).fwPending = s.fwPending := rfl
@[simp] theorem State.due_rangerSeq (s : State) (n : Nat) (i : Instr) : (s.due n i).rangerSeq = s.rangerSeq := rfl
@[simp] theorem State.due_rangerLast (s : State) (n : Nat) (i : Instr) : (s.due n i).rangerLast = s.rangerLast := rfl
@[simp] theorem State.due_xdirBase (s : State) (n : Nat) (i : Instr) : (s.due n i).xdirBase = s.xdirBase := rfl
@[simp] theorem State.due_xdirCount (s : State) (n : Nat) (i : Instr) : (s.due n i).xdirCount = s.xdirCount := rfl
@[simp] theorem State.due_xreqs (s : State) (n : Nat) (i : Instr) : (s.due n i).xreqs = s.xreqs := rfl
@[simp] theorem State.due_launchCounter (s : State) (n : Nat) (i : Instr) : (s.due n i).launchCounter = s.launchCounter := rfl
@[simp] theorem State.due_sealCounter (s : State) (n : Nat) (i : Instr) : (s.due n i).sealCounter = s.sealCounter := rfl
@[simp] theorem State.due_imageSeq (s : State) (n : Nat) (i : Instr) : (s.due n i).imageSeq = s.imageSeq := rfl
@[simp] theorem State.due_errLog (s : State) (n : Nat) (i : Instr) : (s.due n i).errLog = s.errLog := rfl
@[simp] theorem State.due_partFaults (s : State) (n : Nat) (i : Instr) : (s.due n i).partFaults = s.partFaults := rfl
@[simp] theorem State.due_recovering (s : State) (n : Nat) (i : Instr) : (s.due n i).recovering = s.recovering := rfl
@[simp] theorem State.due_mended (s : State) (n : Nat) (i : Instr) : (s.due n i).mended = s.mended := rfl
@[simp] theorem State.due_powerDown (s : State) (n : Nat) (i : Instr) : (s.due n i).powerDown = s.powerDown := rfl
@[simp] theorem State.due_mem (s : State) (n : Nat) (i : Instr) : (s.due n i).mem = s.mem := rfl
@[simp] theorem State.due_poison (s : State) (n : Nat) (i : Instr) : (s.due n i).poison = s.poison := rfl
@[simp] theorem State.due_l1 (s : State) (n : Nat) (i : Instr) : (s.due n i).l1 = s.l1 := rfl
@[simp] theorem State.due_tlb (s : State) (n : Nat) (i : Instr) : (s.due n i).tlb = s.tlb := rfl
@[simp] theorem State.due_icache (s : State) (n : Nat) (i : Instr) : (s.due n i).icache = s.icache := rfl
@[simp] theorem State.due_icacheMiss (s : State) (n : Nat) (i : Instr) : (s.due n i).icacheMiss = s.icacheMiss := rfl
@[simp] theorem State.due_oldSlots (s : State) (n : Nat) (i : Instr) : (s.due n i).oldSlots = s.oldSlots := rfl
@[simp] theorem State.due_seals (s : State) (n : Nat) (i : Instr) : (s.due n i).seals = s.seals := rfl
@[simp] theorem State.due_ranges (s : State) (n : Nat) (i : Instr) : (s.due n i).ranges = s.ranges := rfl
@[simp] theorem State.due_cores (s : State) (n : Nat) (i : Instr) : (s.due n i).cores = s.cores := rfl
@[simp] theorem State.due_rings (s : State) (n : Nat) (i : Instr) : (s.due n i).rings = s.rings := rfl
@[simp] theorem State.due_contexts (s : State) (n : Nat) (i : Instr) : (s.due n i).contexts = s.contexts := rfl
@[simp] theorem State.due_launches (s : State) (n : Nat) (i : Instr) : (s.due n i).launches = s.launches := rfl
@[simp] theorem State.due_clusters (s : State) (n : Nat) (i : Instr) : (s.due n i).clusters = s.clusters := rfl
@[simp] theorem State.due_teams (s : State) (n : Nat) (i : Instr) : (s.due n i).teams = s.teams := rfl
@[simp] theorem State.due_groups (s : State) (n : Nat) (i : Instr) : (s.due n i).groups = s.groups := rfl
@[simp] theorem State.due_threads (s : State) (n : Nat) (i : Instr) : (s.due n i).threads = s.threads := rfl
@[simp] theorem State.due_beads (s : State) (n : Nat) (i : Instr) : (s.due n i).beads = s.beads := rfl
@[simp] theorem State.due_ops (s : State) (n : Nat) (i : Instr) : (s.due n i).ops = s.ops := rfl
@[simp] theorem State.due_batches (s : State) (n : Nat) (i : Instr) : (s.due n i).batches = s.batches := rfl
@[simp] theorem State.due_points (s : State) (n : Nat) (i : Instr) : (s.due n i).points = s.points := rfl
@[simp] theorem State.due_publishes (s : State) (n : Nat) (i : Instr) : (s.due n i).publishes = s.publishes := rfl
@[simp] theorem State.due_phases (s : State) (n : Nat) (i : Instr) : (s.due n i).phases = s.phases := rfl
@[simp] theorem State.due_logs (s : State) (n : Nat) (i : Instr) : (s.due n i).logs = s.logs := rfl
@[simp] theorem State.due_logQueue (s : State) (n : Nat) (i : Instr) : (s.due n i).logQueue = s.logQueue := rfl
@[simp] theorem State.due_streams (s : State) (n : Nat) (i : Instr) : (s.due n i).streams = s.streams := rfl
@[simp] theorem State.due_xdescs (s : State) (n : Nat) (i : Instr) : (s.due n i).xdescs = s.xdescs := rfl
@[simp] theorem State.due_recvBufs (s : State) (n : Nat) (i : Instr) : (s.due n i).recvBufs = s.recvBufs := rfl
@[simp] theorem State.due_sends (s : State) (n : Nat) (i : Instr) : (s.due n i).sends = s.sends := rfl
@[simp] theorem State.due_xfers (s : State) (n : Nat) (i : Instr) : (s.due n i).xfers = s.xfers := rfl
@[simp] theorem State.due_pairs (s : State) (n : Nat) (i : Instr) : (s.due n i).pairs = s.pairs := rfl
@[simp] theorem State.due_far (s : State) (n : Nat) (i : Instr) : (s.due n i).far = s.far := rfl
@[simp] theorem State.due_heldToks (s : State) (n : Nat) (i : Instr) : (s.due n i).heldToks = s.heldToks := rfl
@[simp] theorem State.due_endMarks (s : State) (n : Nat) (i : Instr) : (s.due n i).endMarks = s.endMarks := rfl
@[simp] theorem State.due_sessions (s : State) (n : Nat) (i : Instr) : (s.due n i).sessions = s.sessions := rfl
@[simp] theorem State.due_intake (s : State) (n : Nat) (i : Instr) : (s.due n i).intake = s.intake := rfl
@[simp] theorem State.due_inbox (s : State) (n : Nat) (i : Instr) : (s.due n i).inbox = s.inbox := rfl
@[simp] theorem State.due_rangerInbox (s : State) (n : Nat) (i : Instr) : (s.due n i).rangerInbox = s.rangerInbox := rfl
@[simp] theorem State.due_outbox (s : State) (n : Nat) (i : Instr) : (s.due n i).outbox = s.outbox := rfl
@[simp] theorem State.due_issues (s : State) (n : Nat) (i : Instr) : (s.due n i).issues = s.issues := rfl
@[simp] theorem State.due_meetDue (s : State) (n : Nat) (i : Instr) : (s.due n i).meetDue = s.meetDue := rfl
@[simp] theorem State.due_agenda (s : State) (n : Nat) (i : Instr) : (s.due n i).agenda = s.agenda := rfl
@[simp] theorem State.due_turns (s : State) (n : Nat) (i : Instr) : (s.due n i).turns = s.turns := rfl
@[simp] theorem State.due_nextId (s : State) (n : Nat) (i : Instr) : (s.due n i).nextId = s.nextId := rfl
@[simp] theorem State.due_freeCount (s : State) (n : Nat) (i : Instr) : (s.due n i).freeCount = s.freeCount := rfl

/-! ## State.unTimer: only `timers` changes -/

@[simp] theorem State.unTimer_cycle (s : State) (p : Instr → Bool) : (s.unTimer p).cycle = s.cycle := rfl
@[simp] theorem State.unTimer_boot (s : State) (p : Instr → Bool) : (s.unTimer p).boot = s.boot := rfl
@[simp] theorem State.unTimer_moduleNo (s : State) (p : Instr → Bool) : (s.unTimer p).moduleNo = s.moduleNo := rfl
@[simp] theorem State.unTimer_routes (s : State) (p : Instr → Bool) : (s.unTimer p).routes = s.routes := rfl
@[simp] theorem State.unTimer_packageCap (s : State) (p : Instr → Bool) : (s.unTimer p).packageCap = s.packageCap := rfl
@[simp] theorem State.unTimer_fwBuffer (s : State) (p : Instr → Bool) : (s.unTimer p).fwBuffer = s.fwBuffer := rfl
@[simp] theorem State.unTimer_fwActive (s : State) (p : Instr → Bool) : (s.unTimer p).fwActive = s.fwActive := rfl
@[simp] theorem State.unTimer_fwPending (s : State) (p : Instr → Bool) : (s.unTimer p).fwPending = s.fwPending := rfl
@[simp] theorem State.unTimer_rangerSeq (s : State) (p : Instr → Bool) : (s.unTimer p).rangerSeq = s.rangerSeq := rfl
@[simp] theorem State.unTimer_rangerLast (s : State) (p : Instr → Bool) : (s.unTimer p).rangerLast = s.rangerLast := rfl
@[simp] theorem State.unTimer_xdirBase (s : State) (p : Instr → Bool) : (s.unTimer p).xdirBase = s.xdirBase := rfl
@[simp] theorem State.unTimer_xdirCount (s : State) (p : Instr → Bool) : (s.unTimer p).xdirCount = s.xdirCount := rfl
@[simp] theorem State.unTimer_xreqs (s : State) (p : Instr → Bool) : (s.unTimer p).xreqs = s.xreqs := rfl
@[simp] theorem State.unTimer_launchCounter (s : State) (p : Instr → Bool) : (s.unTimer p).launchCounter = s.launchCounter := rfl
@[simp] theorem State.unTimer_sealCounter (s : State) (p : Instr → Bool) : (s.unTimer p).sealCounter = s.sealCounter := rfl
@[simp] theorem State.unTimer_imageSeq (s : State) (p : Instr → Bool) : (s.unTimer p).imageSeq = s.imageSeq := rfl
@[simp] theorem State.unTimer_errLog (s : State) (p : Instr → Bool) : (s.unTimer p).errLog = s.errLog := rfl
@[simp] theorem State.unTimer_partFaults (s : State) (p : Instr → Bool) : (s.unTimer p).partFaults = s.partFaults := rfl
@[simp] theorem State.unTimer_recovering (s : State) (p : Instr → Bool) : (s.unTimer p).recovering = s.recovering := rfl
@[simp] theorem State.unTimer_mended (s : State) (p : Instr → Bool) : (s.unTimer p).mended = s.mended := rfl
@[simp] theorem State.unTimer_powerDown (s : State) (p : Instr → Bool) : (s.unTimer p).powerDown = s.powerDown := rfl
@[simp] theorem State.unTimer_mem (s : State) (p : Instr → Bool) : (s.unTimer p).mem = s.mem := rfl
@[simp] theorem State.unTimer_poison (s : State) (p : Instr → Bool) : (s.unTimer p).poison = s.poison := rfl
@[simp] theorem State.unTimer_l1 (s : State) (p : Instr → Bool) : (s.unTimer p).l1 = s.l1 := rfl
@[simp] theorem State.unTimer_tlb (s : State) (p : Instr → Bool) : (s.unTimer p).tlb = s.tlb := rfl
@[simp] theorem State.unTimer_icache (s : State) (p : Instr → Bool) : (s.unTimer p).icache = s.icache := rfl
@[simp] theorem State.unTimer_icacheMiss (s : State) (p : Instr → Bool) : (s.unTimer p).icacheMiss = s.icacheMiss := rfl
@[simp] theorem State.unTimer_oldSlots (s : State) (p : Instr → Bool) : (s.unTimer p).oldSlots = s.oldSlots := rfl
@[simp] theorem State.unTimer_seals (s : State) (p : Instr → Bool) : (s.unTimer p).seals = s.seals := rfl
@[simp] theorem State.unTimer_ranges (s : State) (p : Instr → Bool) : (s.unTimer p).ranges = s.ranges := rfl
@[simp] theorem State.unTimer_cores (s : State) (p : Instr → Bool) : (s.unTimer p).cores = s.cores := rfl
@[simp] theorem State.unTimer_rings (s : State) (p : Instr → Bool) : (s.unTimer p).rings = s.rings := rfl
@[simp] theorem State.unTimer_contexts (s : State) (p : Instr → Bool) : (s.unTimer p).contexts = s.contexts := rfl
@[simp] theorem State.unTimer_launches (s : State) (p : Instr → Bool) : (s.unTimer p).launches = s.launches := rfl
@[simp] theorem State.unTimer_clusters (s : State) (p : Instr → Bool) : (s.unTimer p).clusters = s.clusters := rfl
@[simp] theorem State.unTimer_teams (s : State) (p : Instr → Bool) : (s.unTimer p).teams = s.teams := rfl
@[simp] theorem State.unTimer_groups (s : State) (p : Instr → Bool) : (s.unTimer p).groups = s.groups := rfl
@[simp] theorem State.unTimer_threads (s : State) (p : Instr → Bool) : (s.unTimer p).threads = s.threads := rfl
@[simp] theorem State.unTimer_beads (s : State) (p : Instr → Bool) : (s.unTimer p).beads = s.beads := rfl
@[simp] theorem State.unTimer_ops (s : State) (p : Instr → Bool) : (s.unTimer p).ops = s.ops := rfl
@[simp] theorem State.unTimer_batches (s : State) (p : Instr → Bool) : (s.unTimer p).batches = s.batches := rfl
@[simp] theorem State.unTimer_points (s : State) (p : Instr → Bool) : (s.unTimer p).points = s.points := rfl
@[simp] theorem State.unTimer_publishes (s : State) (p : Instr → Bool) : (s.unTimer p).publishes = s.publishes := rfl
@[simp] theorem State.unTimer_phases (s : State) (p : Instr → Bool) : (s.unTimer p).phases = s.phases := rfl
@[simp] theorem State.unTimer_logs (s : State) (p : Instr → Bool) : (s.unTimer p).logs = s.logs := rfl
@[simp] theorem State.unTimer_logQueue (s : State) (p : Instr → Bool) : (s.unTimer p).logQueue = s.logQueue := rfl
@[simp] theorem State.unTimer_streams (s : State) (p : Instr → Bool) : (s.unTimer p).streams = s.streams := rfl
@[simp] theorem State.unTimer_xdescs (s : State) (p : Instr → Bool) : (s.unTimer p).xdescs = s.xdescs := rfl
@[simp] theorem State.unTimer_recvBufs (s : State) (p : Instr → Bool) : (s.unTimer p).recvBufs = s.recvBufs := rfl
@[simp] theorem State.unTimer_sends (s : State) (p : Instr → Bool) : (s.unTimer p).sends = s.sends := rfl
@[simp] theorem State.unTimer_xfers (s : State) (p : Instr → Bool) : (s.unTimer p).xfers = s.xfers := rfl
@[simp] theorem State.unTimer_pairs (s : State) (p : Instr → Bool) : (s.unTimer p).pairs = s.pairs := rfl
@[simp] theorem State.unTimer_far (s : State) (p : Instr → Bool) : (s.unTimer p).far = s.far := rfl
@[simp] theorem State.unTimer_heldToks (s : State) (p : Instr → Bool) : (s.unTimer p).heldToks = s.heldToks := rfl
@[simp] theorem State.unTimer_endMarks (s : State) (p : Instr → Bool) : (s.unTimer p).endMarks = s.endMarks := rfl
@[simp] theorem State.unTimer_sessions (s : State) (p : Instr → Bool) : (s.unTimer p).sessions = s.sessions := rfl
@[simp] theorem State.unTimer_intake (s : State) (p : Instr → Bool) : (s.unTimer p).intake = s.intake := rfl
@[simp] theorem State.unTimer_inbox (s : State) (p : Instr → Bool) : (s.unTimer p).inbox = s.inbox := rfl
@[simp] theorem State.unTimer_rangerInbox (s : State) (p : Instr → Bool) : (s.unTimer p).rangerInbox = s.rangerInbox := rfl
@[simp] theorem State.unTimer_outbox (s : State) (p : Instr → Bool) : (s.unTimer p).outbox = s.outbox := rfl
@[simp] theorem State.unTimer_issues (s : State) (p : Instr → Bool) : (s.unTimer p).issues = s.issues := rfl
@[simp] theorem State.unTimer_meetDue (s : State) (p : Instr → Bool) : (s.unTimer p).meetDue = s.meetDue := rfl
@[simp] theorem State.unTimer_agenda (s : State) (p : Instr → Bool) : (s.unTimer p).agenda = s.agenda := rfl
@[simp] theorem State.unTimer_turns (s : State) (p : Instr → Bool) : (s.unTimer p).turns = s.turns := rfl
@[simp] theorem State.unTimer_nextId (s : State) (p : Instr → Bool) : (s.unTimer p).nextId = s.nextId := rfl
@[simp] theorem State.unTimer_freeCount (s : State) (p : Instr → Bool) : (s.unTimer p).freeCount = s.freeCount := rfl

/-! ## State.send: only `outbox` changes -/

@[simp] theorem State.send_cycle (s : State) (o : Out) : (s.send o).cycle = s.cycle := rfl
@[simp] theorem State.send_boot (s : State) (o : Out) : (s.send o).boot = s.boot := rfl
@[simp] theorem State.send_moduleNo (s : State) (o : Out) : (s.send o).moduleNo = s.moduleNo := rfl
@[simp] theorem State.send_routes (s : State) (o : Out) : (s.send o).routes = s.routes := rfl
@[simp] theorem State.send_packageCap (s : State) (o : Out) : (s.send o).packageCap = s.packageCap := rfl
@[simp] theorem State.send_fwBuffer (s : State) (o : Out) : (s.send o).fwBuffer = s.fwBuffer := rfl
@[simp] theorem State.send_fwActive (s : State) (o : Out) : (s.send o).fwActive = s.fwActive := rfl
@[simp] theorem State.send_fwPending (s : State) (o : Out) : (s.send o).fwPending = s.fwPending := rfl
@[simp] theorem State.send_rangerSeq (s : State) (o : Out) : (s.send o).rangerSeq = s.rangerSeq := rfl
@[simp] theorem State.send_rangerLast (s : State) (o : Out) : (s.send o).rangerLast = s.rangerLast := rfl
@[simp] theorem State.send_xdirBase (s : State) (o : Out) : (s.send o).xdirBase = s.xdirBase := rfl
@[simp] theorem State.send_xdirCount (s : State) (o : Out) : (s.send o).xdirCount = s.xdirCount := rfl
@[simp] theorem State.send_xreqs (s : State) (o : Out) : (s.send o).xreqs = s.xreqs := rfl
@[simp] theorem State.send_launchCounter (s : State) (o : Out) : (s.send o).launchCounter = s.launchCounter := rfl
@[simp] theorem State.send_sealCounter (s : State) (o : Out) : (s.send o).sealCounter = s.sealCounter := rfl
@[simp] theorem State.send_imageSeq (s : State) (o : Out) : (s.send o).imageSeq = s.imageSeq := rfl
@[simp] theorem State.send_errLog (s : State) (o : Out) : (s.send o).errLog = s.errLog := rfl
@[simp] theorem State.send_partFaults (s : State) (o : Out) : (s.send o).partFaults = s.partFaults := rfl
@[simp] theorem State.send_recovering (s : State) (o : Out) : (s.send o).recovering = s.recovering := rfl
@[simp] theorem State.send_mended (s : State) (o : Out) : (s.send o).mended = s.mended := rfl
@[simp] theorem State.send_powerDown (s : State) (o : Out) : (s.send o).powerDown = s.powerDown := rfl
@[simp] theorem State.send_mem (s : State) (o : Out) : (s.send o).mem = s.mem := rfl
@[simp] theorem State.send_poison (s : State) (o : Out) : (s.send o).poison = s.poison := rfl
@[simp] theorem State.send_l1 (s : State) (o : Out) : (s.send o).l1 = s.l1 := rfl
@[simp] theorem State.send_tlb (s : State) (o : Out) : (s.send o).tlb = s.tlb := rfl
@[simp] theorem State.send_icache (s : State) (o : Out) : (s.send o).icache = s.icache := rfl
@[simp] theorem State.send_icacheMiss (s : State) (o : Out) : (s.send o).icacheMiss = s.icacheMiss := rfl
@[simp] theorem State.send_oldSlots (s : State) (o : Out) : (s.send o).oldSlots = s.oldSlots := rfl
@[simp] theorem State.send_seals (s : State) (o : Out) : (s.send o).seals = s.seals := rfl
@[simp] theorem State.send_ranges (s : State) (o : Out) : (s.send o).ranges = s.ranges := rfl
@[simp] theorem State.send_cores (s : State) (o : Out) : (s.send o).cores = s.cores := rfl
@[simp] theorem State.send_rings (s : State) (o : Out) : (s.send o).rings = s.rings := rfl
@[simp] theorem State.send_contexts (s : State) (o : Out) : (s.send o).contexts = s.contexts := rfl
@[simp] theorem State.send_launches (s : State) (o : Out) : (s.send o).launches = s.launches := rfl
@[simp] theorem State.send_clusters (s : State) (o : Out) : (s.send o).clusters = s.clusters := rfl
@[simp] theorem State.send_teams (s : State) (o : Out) : (s.send o).teams = s.teams := rfl
@[simp] theorem State.send_groups (s : State) (o : Out) : (s.send o).groups = s.groups := rfl
@[simp] theorem State.send_threads (s : State) (o : Out) : (s.send o).threads = s.threads := rfl
@[simp] theorem State.send_beads (s : State) (o : Out) : (s.send o).beads = s.beads := rfl
@[simp] theorem State.send_ops (s : State) (o : Out) : (s.send o).ops = s.ops := rfl
@[simp] theorem State.send_batches (s : State) (o : Out) : (s.send o).batches = s.batches := rfl
@[simp] theorem State.send_points (s : State) (o : Out) : (s.send o).points = s.points := rfl
@[simp] theorem State.send_publishes (s : State) (o : Out) : (s.send o).publishes = s.publishes := rfl
@[simp] theorem State.send_phases (s : State) (o : Out) : (s.send o).phases = s.phases := rfl
@[simp] theorem State.send_logs (s : State) (o : Out) : (s.send o).logs = s.logs := rfl
@[simp] theorem State.send_logQueue (s : State) (o : Out) : (s.send o).logQueue = s.logQueue := rfl
@[simp] theorem State.send_streams (s : State) (o : Out) : (s.send o).streams = s.streams := rfl
@[simp] theorem State.send_xdescs (s : State) (o : Out) : (s.send o).xdescs = s.xdescs := rfl
@[simp] theorem State.send_recvBufs (s : State) (o : Out) : (s.send o).recvBufs = s.recvBufs := rfl
@[simp] theorem State.send_sends (s : State) (o : Out) : (s.send o).sends = s.sends := rfl
@[simp] theorem State.send_xfers (s : State) (o : Out) : (s.send o).xfers = s.xfers := rfl
@[simp] theorem State.send_pairs (s : State) (o : Out) : (s.send o).pairs = s.pairs := rfl
@[simp] theorem State.send_far (s : State) (o : Out) : (s.send o).far = s.far := rfl
@[simp] theorem State.send_heldToks (s : State) (o : Out) : (s.send o).heldToks = s.heldToks := rfl
@[simp] theorem State.send_endMarks (s : State) (o : Out) : (s.send o).endMarks = s.endMarks := rfl
@[simp] theorem State.send_sessions (s : State) (o : Out) : (s.send o).sessions = s.sessions := rfl
@[simp] theorem State.send_intake (s : State) (o : Out) : (s.send o).intake = s.intake := rfl
@[simp] theorem State.send_inbox (s : State) (o : Out) : (s.send o).inbox = s.inbox := rfl
@[simp] theorem State.send_rangerInbox (s : State) (o : Out) : (s.send o).rangerInbox = s.rangerInbox := rfl
@[simp] theorem State.send_issues (s : State) (o : Out) : (s.send o).issues = s.issues := rfl
@[simp] theorem State.send_meetDue (s : State) (o : Out) : (s.send o).meetDue = s.meetDue := rfl
@[simp] theorem State.send_agenda (s : State) (o : Out) : (s.send o).agenda = s.agenda := rfl
@[simp] theorem State.send_timers (s : State) (o : Out) : (s.send o).timers = s.timers := rfl
@[simp] theorem State.send_turns (s : State) (o : Out) : (s.send o).turns = s.turns := rfl
@[simp] theorem State.send_nextId (s : State) (o : Out) : (s.send o).nextId = s.nextId := rfl
@[simp] theorem State.send_freeCount (s : State) (o : Out) : (s.send o).freeCount = s.freeCount := rfl

/-! ## State.setIssues: only `issues` changes -/

@[simp] theorem State.setIssues_cycle (s : State) (q : List Issue) : (s.setIssues q).cycle = s.cycle := rfl
@[simp] theorem State.setIssues_boot (s : State) (q : List Issue) : (s.setIssues q).boot = s.boot := rfl
@[simp] theorem State.setIssues_moduleNo (s : State) (q : List Issue) : (s.setIssues q).moduleNo = s.moduleNo := rfl
@[simp] theorem State.setIssues_routes (s : State) (q : List Issue) : (s.setIssues q).routes = s.routes := rfl
@[simp] theorem State.setIssues_packageCap (s : State) (q : List Issue) : (s.setIssues q).packageCap = s.packageCap := rfl
@[simp] theorem State.setIssues_fwBuffer (s : State) (q : List Issue) : (s.setIssues q).fwBuffer = s.fwBuffer := rfl
@[simp] theorem State.setIssues_fwActive (s : State) (q : List Issue) : (s.setIssues q).fwActive = s.fwActive := rfl
@[simp] theorem State.setIssues_fwPending (s : State) (q : List Issue) : (s.setIssues q).fwPending = s.fwPending := rfl
@[simp] theorem State.setIssues_rangerSeq (s : State) (q : List Issue) : (s.setIssues q).rangerSeq = s.rangerSeq := rfl
@[simp] theorem State.setIssues_rangerLast (s : State) (q : List Issue) : (s.setIssues q).rangerLast = s.rangerLast := rfl
@[simp] theorem State.setIssues_xdirBase (s : State) (q : List Issue) : (s.setIssues q).xdirBase = s.xdirBase := rfl
@[simp] theorem State.setIssues_xdirCount (s : State) (q : List Issue) : (s.setIssues q).xdirCount = s.xdirCount := rfl
@[simp] theorem State.setIssues_xreqs (s : State) (q : List Issue) : (s.setIssues q).xreqs = s.xreqs := rfl
@[simp] theorem State.setIssues_launchCounter (s : State) (q : List Issue) : (s.setIssues q).launchCounter = s.launchCounter := rfl
@[simp] theorem State.setIssues_sealCounter (s : State) (q : List Issue) : (s.setIssues q).sealCounter = s.sealCounter := rfl
@[simp] theorem State.setIssues_imageSeq (s : State) (q : List Issue) : (s.setIssues q).imageSeq = s.imageSeq := rfl
@[simp] theorem State.setIssues_errLog (s : State) (q : List Issue) : (s.setIssues q).errLog = s.errLog := rfl
@[simp] theorem State.setIssues_partFaults (s : State) (q : List Issue) : (s.setIssues q).partFaults = s.partFaults := rfl
@[simp] theorem State.setIssues_recovering (s : State) (q : List Issue) : (s.setIssues q).recovering = s.recovering := rfl
@[simp] theorem State.setIssues_mended (s : State) (q : List Issue) : (s.setIssues q).mended = s.mended := rfl
@[simp] theorem State.setIssues_powerDown (s : State) (q : List Issue) : (s.setIssues q).powerDown = s.powerDown := rfl
@[simp] theorem State.setIssues_mem (s : State) (q : List Issue) : (s.setIssues q).mem = s.mem := rfl
@[simp] theorem State.setIssues_poison (s : State) (q : List Issue) : (s.setIssues q).poison = s.poison := rfl
@[simp] theorem State.setIssues_l1 (s : State) (q : List Issue) : (s.setIssues q).l1 = s.l1 := rfl
@[simp] theorem State.setIssues_tlb (s : State) (q : List Issue) : (s.setIssues q).tlb = s.tlb := rfl
@[simp] theorem State.setIssues_icache (s : State) (q : List Issue) : (s.setIssues q).icache = s.icache := rfl
@[simp] theorem State.setIssues_icacheMiss (s : State) (q : List Issue) : (s.setIssues q).icacheMiss = s.icacheMiss := rfl
@[simp] theorem State.setIssues_oldSlots (s : State) (q : List Issue) : (s.setIssues q).oldSlots = s.oldSlots := rfl
@[simp] theorem State.setIssues_seals (s : State) (q : List Issue) : (s.setIssues q).seals = s.seals := rfl
@[simp] theorem State.setIssues_ranges (s : State) (q : List Issue) : (s.setIssues q).ranges = s.ranges := rfl
@[simp] theorem State.setIssues_cores (s : State) (q : List Issue) : (s.setIssues q).cores = s.cores := rfl
@[simp] theorem State.setIssues_rings (s : State) (q : List Issue) : (s.setIssues q).rings = s.rings := rfl
@[simp] theorem State.setIssues_contexts (s : State) (q : List Issue) : (s.setIssues q).contexts = s.contexts := rfl
@[simp] theorem State.setIssues_launches (s : State) (q : List Issue) : (s.setIssues q).launches = s.launches := rfl
@[simp] theorem State.setIssues_clusters (s : State) (q : List Issue) : (s.setIssues q).clusters = s.clusters := rfl
@[simp] theorem State.setIssues_teams (s : State) (q : List Issue) : (s.setIssues q).teams = s.teams := rfl
@[simp] theorem State.setIssues_groups (s : State) (q : List Issue) : (s.setIssues q).groups = s.groups := rfl
@[simp] theorem State.setIssues_threads (s : State) (q : List Issue) : (s.setIssues q).threads = s.threads := rfl
@[simp] theorem State.setIssues_beads (s : State) (q : List Issue) : (s.setIssues q).beads = s.beads := rfl
@[simp] theorem State.setIssues_ops (s : State) (q : List Issue) : (s.setIssues q).ops = s.ops := rfl
@[simp] theorem State.setIssues_batches (s : State) (q : List Issue) : (s.setIssues q).batches = s.batches := rfl
@[simp] theorem State.setIssues_points (s : State) (q : List Issue) : (s.setIssues q).points = s.points := rfl
@[simp] theorem State.setIssues_publishes (s : State) (q : List Issue) : (s.setIssues q).publishes = s.publishes := rfl
@[simp] theorem State.setIssues_phases (s : State) (q : List Issue) : (s.setIssues q).phases = s.phases := rfl
@[simp] theorem State.setIssues_logs (s : State) (q : List Issue) : (s.setIssues q).logs = s.logs := rfl
@[simp] theorem State.setIssues_logQueue (s : State) (q : List Issue) : (s.setIssues q).logQueue = s.logQueue := rfl
@[simp] theorem State.setIssues_streams (s : State) (q : List Issue) : (s.setIssues q).streams = s.streams := rfl
@[simp] theorem State.setIssues_xdescs (s : State) (q : List Issue) : (s.setIssues q).xdescs = s.xdescs := rfl
@[simp] theorem State.setIssues_recvBufs (s : State) (q : List Issue) : (s.setIssues q).recvBufs = s.recvBufs := rfl
@[simp] theorem State.setIssues_sends (s : State) (q : List Issue) : (s.setIssues q).sends = s.sends := rfl
@[simp] theorem State.setIssues_xfers (s : State) (q : List Issue) : (s.setIssues q).xfers = s.xfers := rfl
@[simp] theorem State.setIssues_pairs (s : State) (q : List Issue) : (s.setIssues q).pairs = s.pairs := rfl
@[simp] theorem State.setIssues_far (s : State) (q : List Issue) : (s.setIssues q).far = s.far := rfl
@[simp] theorem State.setIssues_heldToks (s : State) (q : List Issue) : (s.setIssues q).heldToks = s.heldToks := rfl
@[simp] theorem State.setIssues_endMarks (s : State) (q : List Issue) : (s.setIssues q).endMarks = s.endMarks := rfl
@[simp] theorem State.setIssues_sessions (s : State) (q : List Issue) : (s.setIssues q).sessions = s.sessions := rfl
@[simp] theorem State.setIssues_intake (s : State) (q : List Issue) : (s.setIssues q).intake = s.intake := rfl
@[simp] theorem State.setIssues_inbox (s : State) (q : List Issue) : (s.setIssues q).inbox = s.inbox := rfl
@[simp] theorem State.setIssues_rangerInbox (s : State) (q : List Issue) : (s.setIssues q).rangerInbox = s.rangerInbox := rfl
@[simp] theorem State.setIssues_outbox (s : State) (q : List Issue) : (s.setIssues q).outbox = s.outbox := rfl
@[simp] theorem State.setIssues_meetDue (s : State) (q : List Issue) : (s.setIssues q).meetDue = s.meetDue := rfl
@[simp] theorem State.setIssues_agenda (s : State) (q : List Issue) : (s.setIssues q).agenda = s.agenda := rfl
@[simp] theorem State.setIssues_timers (s : State) (q : List Issue) : (s.setIssues q).timers = s.timers := rfl
@[simp] theorem State.setIssues_turns (s : State) (q : List Issue) : (s.setIssues q).turns = s.turns := rfl
@[simp] theorem State.setIssues_nextId (s : State) (q : List Issue) : (s.setIssues q).nextId = s.nextId := rfl
@[simp] theorem State.setIssues_freeCount (s : State) (q : List Issue) : (s.setIssues q).freeCount = s.freeCount := rfl

/-! ## State.fresh: only `nextId` changes -/

@[simp] theorem State.fresh_cycle (s : State) : s.fresh.2.cycle = s.cycle := rfl
@[simp] theorem State.fresh_boot (s : State) : s.fresh.2.boot = s.boot := rfl
@[simp] theorem State.fresh_moduleNo (s : State) : s.fresh.2.moduleNo = s.moduleNo := rfl
@[simp] theorem State.fresh_routes (s : State) : s.fresh.2.routes = s.routes := rfl
@[simp] theorem State.fresh_packageCap (s : State) : s.fresh.2.packageCap = s.packageCap := rfl
@[simp] theorem State.fresh_fwBuffer (s : State) : s.fresh.2.fwBuffer = s.fwBuffer := rfl
@[simp] theorem State.fresh_fwActive (s : State) : s.fresh.2.fwActive = s.fwActive := rfl
@[simp] theorem State.fresh_fwPending (s : State) : s.fresh.2.fwPending = s.fwPending := rfl
@[simp] theorem State.fresh_rangerSeq (s : State) : s.fresh.2.rangerSeq = s.rangerSeq := rfl
@[simp] theorem State.fresh_rangerLast (s : State) : s.fresh.2.rangerLast = s.rangerLast := rfl
@[simp] theorem State.fresh_xdirBase (s : State) : s.fresh.2.xdirBase = s.xdirBase := rfl
@[simp] theorem State.fresh_xdirCount (s : State) : s.fresh.2.xdirCount = s.xdirCount := rfl
@[simp] theorem State.fresh_xreqs (s : State) : s.fresh.2.xreqs = s.xreqs := rfl
@[simp] theorem State.fresh_launchCounter (s : State) : s.fresh.2.launchCounter = s.launchCounter := rfl
@[simp] theorem State.fresh_sealCounter (s : State) : s.fresh.2.sealCounter = s.sealCounter := rfl
@[simp] theorem State.fresh_imageSeq (s : State) : s.fresh.2.imageSeq = s.imageSeq := rfl
@[simp] theorem State.fresh_errLog (s : State) : s.fresh.2.errLog = s.errLog := rfl
@[simp] theorem State.fresh_partFaults (s : State) : s.fresh.2.partFaults = s.partFaults := rfl
@[simp] theorem State.fresh_recovering (s : State) : s.fresh.2.recovering = s.recovering := rfl
@[simp] theorem State.fresh_mended (s : State) : s.fresh.2.mended = s.mended := rfl
@[simp] theorem State.fresh_powerDown (s : State) : s.fresh.2.powerDown = s.powerDown := rfl
@[simp] theorem State.fresh_mem (s : State) : s.fresh.2.mem = s.mem := rfl
@[simp] theorem State.fresh_poison (s : State) : s.fresh.2.poison = s.poison := rfl
@[simp] theorem State.fresh_l1 (s : State) : s.fresh.2.l1 = s.l1 := rfl
@[simp] theorem State.fresh_tlb (s : State) : s.fresh.2.tlb = s.tlb := rfl
@[simp] theorem State.fresh_icache (s : State) : s.fresh.2.icache = s.icache := rfl
@[simp] theorem State.fresh_icacheMiss (s : State) : s.fresh.2.icacheMiss = s.icacheMiss := rfl
@[simp] theorem State.fresh_oldSlots (s : State) : s.fresh.2.oldSlots = s.oldSlots := rfl
@[simp] theorem State.fresh_seals (s : State) : s.fresh.2.seals = s.seals := rfl
@[simp] theorem State.fresh_ranges (s : State) : s.fresh.2.ranges = s.ranges := rfl
@[simp] theorem State.fresh_cores (s : State) : s.fresh.2.cores = s.cores := rfl
@[simp] theorem State.fresh_rings (s : State) : s.fresh.2.rings = s.rings := rfl
@[simp] theorem State.fresh_contexts (s : State) : s.fresh.2.contexts = s.contexts := rfl
@[simp] theorem State.fresh_launches (s : State) : s.fresh.2.launches = s.launches := rfl
@[simp] theorem State.fresh_clusters (s : State) : s.fresh.2.clusters = s.clusters := rfl
@[simp] theorem State.fresh_teams (s : State) : s.fresh.2.teams = s.teams := rfl
@[simp] theorem State.fresh_groups (s : State) : s.fresh.2.groups = s.groups := rfl
@[simp] theorem State.fresh_threads (s : State) : s.fresh.2.threads = s.threads := rfl
@[simp] theorem State.fresh_beads (s : State) : s.fresh.2.beads = s.beads := rfl
@[simp] theorem State.fresh_ops (s : State) : s.fresh.2.ops = s.ops := rfl
@[simp] theorem State.fresh_batches (s : State) : s.fresh.2.batches = s.batches := rfl
@[simp] theorem State.fresh_points (s : State) : s.fresh.2.points = s.points := rfl
@[simp] theorem State.fresh_publishes (s : State) : s.fresh.2.publishes = s.publishes := rfl
@[simp] theorem State.fresh_phases (s : State) : s.fresh.2.phases = s.phases := rfl
@[simp] theorem State.fresh_logs (s : State) : s.fresh.2.logs = s.logs := rfl
@[simp] theorem State.fresh_logQueue (s : State) : s.fresh.2.logQueue = s.logQueue := rfl
@[simp] theorem State.fresh_streams (s : State) : s.fresh.2.streams = s.streams := rfl
@[simp] theorem State.fresh_xdescs (s : State) : s.fresh.2.xdescs = s.xdescs := rfl
@[simp] theorem State.fresh_recvBufs (s : State) : s.fresh.2.recvBufs = s.recvBufs := rfl
@[simp] theorem State.fresh_sends (s : State) : s.fresh.2.sends = s.sends := rfl
@[simp] theorem State.fresh_xfers (s : State) : s.fresh.2.xfers = s.xfers := rfl
@[simp] theorem State.fresh_pairs (s : State) : s.fresh.2.pairs = s.pairs := rfl
@[simp] theorem State.fresh_far (s : State) : s.fresh.2.far = s.far := rfl
@[simp] theorem State.fresh_heldToks (s : State) : s.fresh.2.heldToks = s.heldToks := rfl
@[simp] theorem State.fresh_endMarks (s : State) : s.fresh.2.endMarks = s.endMarks := rfl
@[simp] theorem State.fresh_sessions (s : State) : s.fresh.2.sessions = s.sessions := rfl
@[simp] theorem State.fresh_intake (s : State) : s.fresh.2.intake = s.intake := rfl
@[simp] theorem State.fresh_inbox (s : State) : s.fresh.2.inbox = s.inbox := rfl
@[simp] theorem State.fresh_rangerInbox (s : State) : s.fresh.2.rangerInbox = s.rangerInbox := rfl
@[simp] theorem State.fresh_outbox (s : State) : s.fresh.2.outbox = s.outbox := rfl
@[simp] theorem State.fresh_issues (s : State) : s.fresh.2.issues = s.issues := rfl
@[simp] theorem State.fresh_meetDue (s : State) : s.fresh.2.meetDue = s.meetDue := rfl
@[simp] theorem State.fresh_agenda (s : State) : s.fresh.2.agenda = s.agenda := rfl
@[simp] theorem State.fresh_timers (s : State) : s.fresh.2.timers = s.timers := rfl
@[simp] theorem State.fresh_turns (s : State) : s.fresh.2.turns = s.turns := rfl
@[simp] theorem State.fresh_nextId (s : State) : s.fresh.2.nextId = s.nextId + 1 := rfl
@[simp] theorem State.fresh_freeCount (s : State) : s.fresh.2.freeCount = s.freeCount := rfl
@[simp] theorem State.fresh_fst (s : State) : s.fresh.1 = s.nextId := rfl

/-! ## State.tick: only `freeCount` changes -/

@[simp] theorem State.tick_cycle (s : State) : s.tick.cycle = s.cycle := rfl
@[simp] theorem State.tick_boot (s : State) : s.tick.boot = s.boot := rfl
@[simp] theorem State.tick_moduleNo (s : State) : s.tick.moduleNo = s.moduleNo := rfl
@[simp] theorem State.tick_routes (s : State) : s.tick.routes = s.routes := rfl
@[simp] theorem State.tick_packageCap (s : State) : s.tick.packageCap = s.packageCap := rfl
@[simp] theorem State.tick_fwBuffer (s : State) : s.tick.fwBuffer = s.fwBuffer := rfl
@[simp] theorem State.tick_fwActive (s : State) : s.tick.fwActive = s.fwActive := rfl
@[simp] theorem State.tick_fwPending (s : State) : s.tick.fwPending = s.fwPending := rfl
@[simp] theorem State.tick_rangerSeq (s : State) : s.tick.rangerSeq = s.rangerSeq := rfl
@[simp] theorem State.tick_rangerLast (s : State) : s.tick.rangerLast = s.rangerLast := rfl
@[simp] theorem State.tick_xdirBase (s : State) : s.tick.xdirBase = s.xdirBase := rfl
@[simp] theorem State.tick_xdirCount (s : State) : s.tick.xdirCount = s.xdirCount := rfl
@[simp] theorem State.tick_xreqs (s : State) : s.tick.xreqs = s.xreqs := rfl
@[simp] theorem State.tick_launchCounter (s : State) : s.tick.launchCounter = s.launchCounter := rfl
@[simp] theorem State.tick_sealCounter (s : State) : s.tick.sealCounter = s.sealCounter := rfl
@[simp] theorem State.tick_imageSeq (s : State) : s.tick.imageSeq = s.imageSeq := rfl
@[simp] theorem State.tick_errLog (s : State) : s.tick.errLog = s.errLog := rfl
@[simp] theorem State.tick_partFaults (s : State) : s.tick.partFaults = s.partFaults := rfl
@[simp] theorem State.tick_recovering (s : State) : s.tick.recovering = s.recovering := rfl
@[simp] theorem State.tick_mended (s : State) : s.tick.mended = s.mended := rfl
@[simp] theorem State.tick_powerDown (s : State) : s.tick.powerDown = s.powerDown := rfl
@[simp] theorem State.tick_mem (s : State) : s.tick.mem = s.mem := rfl
@[simp] theorem State.tick_poison (s : State) : s.tick.poison = s.poison := rfl
@[simp] theorem State.tick_l1 (s : State) : s.tick.l1 = s.l1 := rfl
@[simp] theorem State.tick_tlb (s : State) : s.tick.tlb = s.tlb := rfl
@[simp] theorem State.tick_icache (s : State) : s.tick.icache = s.icache := rfl
@[simp] theorem State.tick_icacheMiss (s : State) : s.tick.icacheMiss = s.icacheMiss := rfl
@[simp] theorem State.tick_oldSlots (s : State) : s.tick.oldSlots = s.oldSlots := rfl
@[simp] theorem State.tick_seals (s : State) : s.tick.seals = s.seals := rfl
@[simp] theorem State.tick_ranges (s : State) : s.tick.ranges = s.ranges := rfl
@[simp] theorem State.tick_cores (s : State) : s.tick.cores = s.cores := rfl
@[simp] theorem State.tick_rings (s : State) : s.tick.rings = s.rings := rfl
@[simp] theorem State.tick_contexts (s : State) : s.tick.contexts = s.contexts := rfl
@[simp] theorem State.tick_launches (s : State) : s.tick.launches = s.launches := rfl
@[simp] theorem State.tick_clusters (s : State) : s.tick.clusters = s.clusters := rfl
@[simp] theorem State.tick_teams (s : State) : s.tick.teams = s.teams := rfl
@[simp] theorem State.tick_groups (s : State) : s.tick.groups = s.groups := rfl
@[simp] theorem State.tick_threads (s : State) : s.tick.threads = s.threads := rfl
@[simp] theorem State.tick_beads (s : State) : s.tick.beads = s.beads := rfl
@[simp] theorem State.tick_ops (s : State) : s.tick.ops = s.ops := rfl
@[simp] theorem State.tick_batches (s : State) : s.tick.batches = s.batches := rfl
@[simp] theorem State.tick_points (s : State) : s.tick.points = s.points := rfl
@[simp] theorem State.tick_publishes (s : State) : s.tick.publishes = s.publishes := rfl
@[simp] theorem State.tick_phases (s : State) : s.tick.phases = s.phases := rfl
@[simp] theorem State.tick_logs (s : State) : s.tick.logs = s.logs := rfl
@[simp] theorem State.tick_logQueue (s : State) : s.tick.logQueue = s.logQueue := rfl
@[simp] theorem State.tick_streams (s : State) : s.tick.streams = s.streams := rfl
@[simp] theorem State.tick_xdescs (s : State) : s.tick.xdescs = s.xdescs := rfl
@[simp] theorem State.tick_recvBufs (s : State) : s.tick.recvBufs = s.recvBufs := rfl
@[simp] theorem State.tick_sends (s : State) : s.tick.sends = s.sends := rfl
@[simp] theorem State.tick_xfers (s : State) : s.tick.xfers = s.xfers := rfl
@[simp] theorem State.tick_pairs (s : State) : s.tick.pairs = s.pairs := rfl
@[simp] theorem State.tick_far (s : State) : s.tick.far = s.far := rfl
@[simp] theorem State.tick_heldToks (s : State) : s.tick.heldToks = s.heldToks := rfl
@[simp] theorem State.tick_endMarks (s : State) : s.tick.endMarks = s.endMarks := rfl
@[simp] theorem State.tick_sessions (s : State) : s.tick.sessions = s.sessions := rfl
@[simp] theorem State.tick_intake (s : State) : s.tick.intake = s.intake := rfl
@[simp] theorem State.tick_inbox (s : State) : s.tick.inbox = s.inbox := rfl
@[simp] theorem State.tick_rangerInbox (s : State) : s.tick.rangerInbox = s.rangerInbox := rfl
@[simp] theorem State.tick_outbox (s : State) : s.tick.outbox = s.outbox := rfl
@[simp] theorem State.tick_issues (s : State) : s.tick.issues = s.issues := rfl
@[simp] theorem State.tick_meetDue (s : State) : s.tick.meetDue = s.meetDue := rfl
@[simp] theorem State.tick_agenda (s : State) : s.tick.agenda = s.agenda := rfl
@[simp] theorem State.tick_timers (s : State) : s.tick.timers = s.timers := rfl
@[simp] theorem State.tick_turns (s : State) : s.tick.turns = s.turns := rfl
@[simp] theorem State.tick_nextId (s : State) : s.tick.nextId = s.nextId := rfl
@[simp] theorem State.tick_freeCount (s : State) : s.tick.freeCount = s.freeCount + 1 := rfl

/-! ## What the named field holds -/

@[simp] theorem State.send_outbox (s : State) (o : Out) : (s.send o).outbox = s.outbox ++ [o] := rfl
@[simp] theorem State.later_agenda (s : State) (i : Instr) : (s.later i).agenda = s.agenda ++ [i] := rfl
@[simp] theorem State.after_timers (s : State) (n : Nat) (i : Instr) : (s.after n i).timers = s.timers ++ [(s.cycle + n, i)] := rfl
@[simp] theorem State.due_timers (s : State) (n : Nat) (i : Instr) : (s.due n i).timers = s.timers ++ [(n, i)] := rfl
@[simp] theorem State.setIssues_issues (s : State) (q : List Issue) : (s.setIssues q).issues = q := rfl
theorem State.modTh_threads (s : State) (t : Nat) (f : Thread → Thread) :
    (s.modTh t f).threads = updBy Thread.id s.threads t f := rfl
theorem State.modGroup_groups (s : State) (g : Nat) (f : Group → Group) :
    (s.modGroup g f).groups = updBy Group.id s.groups g f := rfl
theorem State.modTeam_teams (s : State) (t : Nat) (f : Team → Team) :
    (s.modTeam t f).teams = updBy Team.id s.teams t f := rfl
theorem State.modCtx_contexts (s : State) (c : Nat) (f : Context → Context) :
    (s.modCtx c f).contexts = updBy Context.id s.contexts c f := rfl

end Sys2Proof.Machine
end

