-- ==== Sys2Proof/Tests/Slice0.lean ====
section
/-!
SUPPORT. The model's own tests: ill-formed terms, words written out from the spec's encodings, worked values of the spec, and
states that meet the hypotheses of the statements, clause by clause.
-/

namespace Sys2Proof.Machine.Tests

set_option Elab.async false

/-! ## Terms and words -/

/-- Guard 0x7, no flag mark. -/
def t : X := ⟨⟨false, 7⟩, .none⟩
/-- The same with the mark of flag A. -/
def fa : X := ⟨⟨false, 7⟩, .fa⟩
/-- Guard p0 negated twice over: p0 itself, which reads false in a new thread. -/
def off : X := ⟨⟨false, 0⟩, .none⟩

/-- One ill-formed term for each check of the scalar families: a type outside the class, a constant as destination, an odd
64-bit register, a fast register as 64-bit source, a register beyond the frame, the guard of TRET, NSL 0 and 15, a register
without a writer, a slot 0, an element index, a run that leaves the file. -/
theorem test_ill_formed_scalar : ([.iadd t .f32 false (.v 20) (.v 21) (.v 22), .iadd t .s32 false (.k 1) (.v 21) (.v 22),
    .iadd t .s64 false (.v 21) (.v 22) (.v 24), .iadd t .s64 false (.v 20) (.r 1) (.v 24), .iadd t .s32 false (.v 128) (.v 0) (.v 0),
    .tret off, .call t (.line 0 0) 0, .call t (.line 0 0) 15, .setsr t .tid (.v 20), .getsr t (.v 21) .tid,
    .iabs t .n32 false (.v 20) (.v 21), .andImm t .b16 (.v 20) (.v 21) 0, .not t .s32 (.v 20) (.v 21), .idot4 t .s64 false (.v 20) (.v 21) (.v 22) (.v 23),
    .padd2 t .f32 none false (.v 20) (.v 21) (.v 22), .cvt t .cb4 .f32 0 0 none false (.v 20) (.v 21),
    .cvt t .f16 .f32 2 0 none false (.v 20) (.v 21), .cvtq t .e2m1 .f32 0 none false false (.v 40) (.v 56) (.v 16),
    .cvtq t .e4m3 .f32 1 none true false (.v 40) (.v 56) (.v 16), .cvtd t .f32 .e2m1 5 false (.v 124) (.v 20) (.v 21),
    .nzcnt t .cb4 0 false (.v 20) (.v 21) (.v 22), .rcp t .f16 (.v 20) (.v 21), .sincos t (.v 21) (.v 22)] : List Instr).all
      (fun i => !i.wfIn 112) = true := by decide

/-- The same for lanes, the matrix engine, memory and engines: the SHFL segment, lane types, matrix pairs, alignment and length of
runs, N, space .g for a window, unused operands that are not 0, SCOPE without ORD, empty masks, atomic types, an odd pair of TARG. -/
theorem test_ill_formed_memory : ([.shfl t .idx 6 .b32 (.v 20) (.v 21) (.v 22) (.v 23), .scan t .xor .f32 false (.v 20) (.v 21) (.v 22),
    .mma t .bf16 .f16 false false false (.v 0) (.v 32) (.v 40) 5 0 0 2, .mma t .bf16 .bf16 false false false (.v 1) (.v 32) (.v 40) 5 0 0 2,
    .mma t .bf16 .bf16 true false false (.v 0) (.v 32) (.v 40) 5 0 0 2, .mma t .bf16 .bf16 false false false (.v 0) (.v 121) (.v 40) 5 0 0 2,
    .mmas t .e2m1 .e2m1 false false false false (.v 0) (.v 32) (.v 40) (.v 80) 5 0 0 2, .accld t .f16 .g 0 (.v 20) 1,
    .fslot t 0 0 (.v 20) 0, .ld t .b32 2 .g 0 (.v 20) (.v 18) 0, .ld t .b128 7 .g 0 (.v 20) (.v 18) 0, .ld t .b64 0 .g 0 (.v 21) (.v 18) 0,
    .ld t .b32 7 .g 0 (.v 12) (.v 18) 0, .ld t .b32 0 .g 0 (.v 20) (.v 19) 0, .lds t .b32 0 .g false (.v 20) (.v 18) (.v 0) 0,
    .lds t .b32 0 .t false (.v 20) (.v 18) (.v 1) 0, .atom t .inc .s32 false false .thr .g 0 (.v 20) (.v 18) (.v 22) (.v 0) 0,
    .atom t .add .s32 false false .team .g 0 (.v 20) (.v 18) (.v 22) (.v 0) 0, .atom t .add .s32 false false .thr .g 0 (.v 20) (.v 18) (.v 22) (.v 1) 0,
    .red t .exch .b32 0 (.v 18) (.v 20) 0, .fence t false false .team 0, .fence t true false .team 1, .xfence t 0,
    .binit t .t true true false (.v 18) (.v 20) (.v 21) 0, .arrive t .t false (.v 1) (.v 18) (.v 20) (.v 21) 0,
    .fetch t 0 (.v 128) (.v 20) (.v 21) 0, .mnext fa 0 (.v 20) (.v 23), .targ t (.pair 5) (.v 20), .tpost t 0 (.v 113),
    .dckpt t true (.v 18) (.v 20) (.v 0) 0, .xrecv t (.v 19) (.v 24) (.k 1)] : List Instr).all (fun i => !i.wfIn 112) = true := by decide

/-- And for the items of the host and the Ranger: lengths of their fields. -/
theorem test_ill_formed_messages : ([.createContext ⟨0, 0, 0, 0⟩ [], .launch ⟨0, 0, 0, 0⟩ 0 0 [] 0 [], .seedTask ⟨0, 0, 0, 0⟩ 0 [],
    .writeMemoryVirtual ⟨0, 0, 0, 0⟩ 0 [], .readMemory ⟨0, 0, 0, 0⟩ 0 0, .readMemory ⟨0, 0, 0, 0⟩ 0 8193, .quote ⟨0⟩ [],
    .power ⟨0⟩ 0 [], .session ⟨0⟩ 1 0 [], .domain ⟨0⟩ 0 []] : List Instr).all (fun i => !i.wfIn 112) = true := by decide

/-- A boundary of each that is well formed. -/
theorem test_well_formed : ([.iadd t .s64 false (.v 126) (.s 62) (.k 15), .call t (.line 0 4) 14, .tret t, .ld t .b32 15 .g 0 (.v 112) (.v 18) 0,
    .ld t .b32 15 .g 0 (.v 0) (.v 18) 0, .mma t .e4m3 .e5m2 false false true (.v 126) (.v 120) (.v 40) 63 0 0 7, .tpost t 15 (.v 112),
    .readMemory ⟨0, 0, 0, 0⟩ 0 8192] : List Instr).all (fun i => i.wfIn 112) = true := by decide

/-- A native word from its fields (R54): OP, G, SB, TYPE, SUB, D, A, B, C and bits 95:56. -/
def slot (op g sb ty sub d a b c rest : Nat) : Nat :=
  op + g * 2 ^ 8 + sb * 2 ^ 12 + ty * 2 ^ 14 + sub * 2 ^ 19 + d * 2 ^ 24 + a * 2 ^ 32 + b * 2 ^ 40 + c * 2 ^ 48 + rest * 2 ^ 56

/-- The decoder on a line with SETA 0 and SETB 1, in slot 0 of a line with EQP 1. -/
def dec (w : Nat) : Option Instr := (decodeNative w 0 1 true).toOption

/-- Control and integer words: B, S, R and I formats (R54 to R60, R117, R123, R126, R128). -/
theorem test_decode_control : [dec (slot 0x01 0xF 0 0 0 0 0 0 0 (4 + 0x3FFFFFF * 2 ^ 3)), dec (slot 0x04 7 0 0 0 0 0x12 0 0 14),
    dec (slot 0x09 0 0 0 0 0 0 0 0 (0xFFFFFFFF * 2 ^ 8)), dec (slot 0x0D 7 0 0 0 0x14 0 0 0 (0x100 * 2 ^ 16)),
    dec (slot 0x13 8 0 8 0 0x14 0x16 0x80 0 0), dec (slot 0x1D 7 0 3 0 0x14 0xC2 0 0 (0x20 + 0x80000000 * 2 ^ 8)),
    dec (slot 0x1B 7 0 8 0 0x14 0x16 0x18 0 0xB000)] =
    [some (.bra ⟨⟨true, 7⟩, .none⟩ (.line (-1) 4)), some (.callx t (.v 18) 14), some (.trap off 0xFFFFFFFF), some (.getsr t (.v 20) .fstat),
     some (.imulh ⟨⟨true, 0⟩, .none⟩ .n64 (.v 20) (.v 22) (.s 0)), some (.iaddImm t .s32 true (.v 20) (.k 2) 0x80000000),
     some (.lea t true 3 (.v 20) (.v 22) (.v 24))] := by decide +kernel

/-- Logic, predicates, floating point, conversion and special functions (R112, R113, R129 to R139). -/
theorem test_decode_arithmetic : [dec (slot 0x24 7 0 9 0 0x14 0x15 0x16 0x17 0xE800), dec (slot 0x29 7 0 12 0 0x14 0x16 0x18 0 0x40),
    dec (slot 0x2F 7 0 12 2 0x14 0x16 0 0 (0xFFFF0000 * 2 ^ 8)), dec (slot 0x30 7 0 7 2 3 0x14 0x15 0x0C 0x800),
    dec (slot 0x33 7 0 12 0 0x14 0x16 0x18 0x09 0), dec (slot 0x43 7 0 15 0 0x14 0x15 0x16 0xCF 0x2A0),
    dec (slot 0x47 7 0 14 0 0x14 0x16 0xC8 0 0), dec (slot 0x53 7 0 16 0 0x14 0x15 0 0 (0x2000 + 0xC00 + 0x12)),
    dec (slot 0x62 7 0 14 0 0x14 0x16 0 0 0x180), dec (slot 0x68 7 0 15 0 0x14 0xDD 0 0 0)] =
    [some (.lut3 t .b8 0xE8 (.v 20) (.v 21) (.v 22) (.v 23)), some (.bfx t .b64 true (.v 20) (.v 22) (.v 24)),
     some (.xorImm t .b64 (.v 20) (.v 22) 0xFFFF0000), some (.pcmpi t .lt .n32 .and 3 (.v 20) (.v 21) ⟨true, 4⟩),
     some (.sel t .b64 (.v 20) (.v 22) (.v 24) ⟨true, 1⟩), some (.fmad t (some .rd) true (.v 20) (.v 21) (.v 22) (.k 15)),
     some (.dmul t none false (.v 20) (.v 22) (.k 8)), some (.cvt t .f16 .e4m3 1 3 none false (.v 20) (.v 21)),
     some (.sqrt t .f64 (some .rz) (.v 20) (.v 22)), some (.tanh t (.v 20) (.r 13))] := by decide +kernel

/-- Lanes, groups, the matrix engine, memory, fences and barriers (R57, R181, R195, R214, R283, R289, R293, R298). -/
theorem test_decode_memory : [dec (slot 0x76 7 0 3 2 0x14 0x15 0 0xC2 0), dec (slot 0x80 7 0 0 0 0 0 0 0 0x1F), dec (slot 0x83 7 0 0 1 0 0 0 0 1),
    dec (slot 0x92 7 2 0 0 0 0 0 0 (0x3F * 2 ^ 16 + 7 * 2 ^ 34)), dec (slot 0xA1 7 1 13 0 0 0x12 0x20 0 (0x1C0C + 0x800000 * 2 ^ 16)),
    dec (slot 0xB0 7 0 11 7 0x14 0x12 0x15 0x16 (0x80C0 + 4 * 2 ^ 16)), dec (slot 0xB3 7 0 0 0 0 0 0 0 0x8158),
    dec (slot 0xC2 7 0 0 0 0x14 0x12 0x15 0 (0x103 + 64 * 2 ^ 16))] =
    [some (.gred t .max .s32 (.v 20) (.v 21) (.k 2)), some (.join t true 15), some (.migrate t .larch true),
     some (.accz ⟨⟨false, 7⟩, .fb⟩ false 63 7), some (.st fa .b128 3 .g 7 (.v 32) (.v 18) 0x800000),
     some (.atom t .cas .b32 true true .mod .g 0 (.v 20) (.v 18) (.v 21) (.v 22) 4), some (.fence t true true .clu 0x81),
     some (.wait t .t true true (.v 20) (.v 18) (.v 21) 64)] := by decide +kernel

/-- Engines, trail, merge, duplex and the rest of the tables: a reserved opcode, a mark on an opcode without one, an operand byte
0xE0, a SLOT of 5, a MOD bit that is not the instruction's, a constant of a 64-bit register read as a fast register (R60, R65). -/
theorem test_decode_engines : [dec (slot 0xD1 7 0 0 0 0x18 0x14 0x15 0 (3 + 0x1234 * 2 ^ 16)), dec (slot 0xD4 7 0 0 0 0 0x7C 0 0 2),
    dec (slot 0xD5 7 0 0 0 0 0x14 0x16 0 7), dec (slot 0xE3 7 0 0 0 0x18 0x14 0 0 1)] =
    [some (.fetch t 3 (.v 24) (.v 20) (.v 21) 0x1234), some (.trailWr t (.v 124)), some (.mopen t 7 (.v 20) (.v 22)),
     some (.dcut t true (.v 24) (.v 20))] ∧
    [slot 0xFF 7 0 0 0 0 0 0 0 0, slot 0x1F 7 0 0 0 0 0 0 0 0, slot 0x10 7 1 3 0 0x14 0x15 0x16 0 0, slot 0x10 7 0 3 0 0x14 0xE0 0x16 0 0,
     slot 0x01 7 0 0 0 0 0 0 0 5, slot 0x10 7 0 3 0 0x14 0x15 0x16 0 1, slot 0x10 7 0 4 0 0x14 0xD0 0x16 0 0].all
       (fun w => (dec w).isNone) = true := by decide +kernel

/-! ## A small machine -/

/-- The value of a result. -/
def okOf {ε α : Type} (e : Except ε α) : Option α := match e with
  | .ok a => some a
  | .error _ => none
/-- The error of a result. -/
def errOf {ε α : Type} (e : Except ε α) : Option ε := match e with
  | .ok _ => none
  | .error e => some e

/-- After reset, one thread (thread, group, team, launch and context 1, core 1) stands at PC 0 in an open clause of NOPs; it is
the next to issue. -/
def base : State := { State.reset.placeWord 0 with turns := [] }
/-- Its thread changed. -/
def onTh (f : Thread → Thread) : State := base.modTh 1 f
/-- Its thread runs privileged. -/
def priv : State := onTh fun u => { u with handler := some ⟨0, .userTrap, 0⟩ }

/-- A code object with a Bramble image at 0x40000 and a portable one at 0x50000, whose function has a point 1 at either entry. -/
def object : CodeObj :=
  { handle := 1, edition1 := false, version := 0, decls := [TeamDecl.plain 32 128], joined := [], points := [(0, 1)]
    images := [⟨1, 0x50000, 64, [(0x50000, 0x50040)], [0x50000, 0x50008], [], false⟩,
               ⟨2, 0x40000, 128, [(0x40000, 0x40080)], [], [⟨64, 1, 0, [(16, false, 17)]⟩], false⟩]
    funcs := [⟨0x50000, 0x40000, 0, 0, true⟩] }

/-- Leaf of a page that maps VA page 1 to frame 2, with the permissions of the low bits (R240). -/
def leafOf (bits : Nat) : Quad := BitVec.ofNat 128 (bits + 2 * 2 ^ 32)

/-- The machine with that object loaded, page 1 (0x10000 to 0x1FFFF) mapped at 0x20000 for the core and every engine, and bytes at
addresses of the page. -/
def mapped (s : State) (bits : Nat) (bs : List (Nat × Byte)) : State :=
  { s.modCtx 1 fun c => { c with objs := [object], trapBase := 0x11000 } with
    mem := bs.map fun p => (p.1 + 0x10000, p.2)
    tlb := [1, hostTlb, duTlb, xTlb, engTlb 1, logTlb 0].map fun k => ⟨k, 1, 1, 16, leafOf bits⟩ }
/-- The page may be read and written by the user; the vectors of causes 0x02 and 0x60 name the handler at 0x40000. -/
def room : State := mapped base 0x2F [(0x11012, 4), (0x11302, 4)]

/-- Thread 1 stands first in the bundle that issues, as a test. -/
def curB (s : State) : Bool := ((s.issues.head?).bind fun i => i.todo.head?) == some 1 && (s.thread? 1).isSome

theorem thread_of {s : State} (h : (s.thread? 1).isSome = true) : s.thread? 1 = some (s.th 1) := by
  unfold State.th; cases hs : s.thread? 1 <;> simp_all

theorem cur_of {s : State} (h : curB s = true) : s.cur = some (s.th 1) := by
  simp only [curB, Bool.and_eq_true, beq_iff_eq] at h
  rw [← thread_of h.2]
  unfold State.cur
  cases hi : s.issues with
  | nil => simp [hi] at h
  | cons i r => cases ht : i.todo with
    | nil => simp [hi, ht] at h
    | cons k l => simp [hi, ht] at h; simp [ht, h.1]

/-- What the statements ask of a thread that is about to issue `i`, as a test. -/
def issuesB (s : State) (i : Instr) : Bool :=
  let th := s.th 1
  curB s && decide (th.hold = .none) && !s.stopped th &&
    (th.privileged || (!i.needsPrivilege && !i.writesConst)) && (th.privileged || s.roleAdmits th i.cls) &&
    (th.spec.isNone || !i.specStalls) && (!th.portable || [true, false].all fun d => [true, false].all fun g =>
      (ovfRegs d (ovfOpds i g (s.slot (s.hostOf th) (s.team th.team).ctx))).isEmpty) && s.threads.all fun u => u.pend.isNone

theorem issues_of {s : State} {i : Instr} (h : issuesB s i = true) : s.Issues (s.th 1) i := by
  simp only [issuesB, Bool.and_eq_true, Bool.or_eq_true, Bool.not_eq_true', decide_eq_true_eq, List.all_eq_true,
    Option.isNone_iff_eq_none, List.isEmpty_iff] at h
  obtain ⟨⟨⟨⟨⟨⟨⟨h1, h2⟩, h3⟩, h4⟩, h5⟩, h6⟩, h7⟩, h8⟩ := h
  exact ⟨cur_of h1, h2, h3, h4, h5, h6, fun h d g => (h7.resolve_left (by simp [h])) d (by cases d <;> simp) g (by cases g <;> simp), h8⟩

theorem runs_of {s : State} {i : Instr} (h : (issuesB s i && (s.th 1).passes i) = true) : s.Runs (s.th 1) i :=
  ⟨issues_of (Bool.and_eq_true_iff.1 h).1, (Bool.and_eq_true_iff.1 h).2⟩

/-- Every instruction of a list runs. -/
theorem all_run {s : State} {l : List Instr} (h : (l.all fun i => issuesB s i && (s.th 1).passes i) = true) :
    ∀ i ∈ l, s.Runs (s.th 1) i := fun i hi => runs_of (List.all_eq_true.1 h i hi)

/-- Every instruction of a list issues. -/
theorem all_issue {s : State} {l : List Instr} (h : (l.all fun i => issuesB s i) = true) :
    ∀ i ∈ l, s.Issues (s.th 1) i := fun i hi => issues_of (List.all_eq_true.1 h i hi)

/-! ## Fetch, decode and issue -/

theorem decode_ok {th : Thread} {i : Instr} (h : (th.decode.bind okOf) = some i) : th.decode = some (.ok i) := by
  cases hd : th.decode with
  | none => simp [hd] at h
  | some e => cases e with
    | error r => simp [hd, okOf] at h
    | ok j => simp [hd, okOf] at h; rw [h]

theorem decode_error {th : Thread} {r : Reject} (h : (th.decode.bind errOf) = some r) : th.decode = some (.error r) := by
  cases hd : th.decode with
  | none => simp [hd] at h
  | some e => cases e with
    | error r => simp [hd, errOf] at h; rw [h]
    | ok j => simp [hd, errOf] at h

/-- The bundle goes on with a slot that it has begun; and so in a context that has frozen since. -/
def begunOf (s : State) : State := { s with issues := s.issues.map fun i => { i with begun := true } }
def begun : State := begunOf (base.modCtx 1 fun c => { c with frozen := true })
/-- The order of the cycle says that the bundle issues. -/
def ordered1 : State := State.reset.placeWord 0

/-- The thread stands ready in an open clause. -/
def readyB (s : State) : Bool := curB s && decide ((s.th 1).status = .live) && decide ((s.th 1).hold = .none) && !s.stopped (s.th 1) && (s.th 1).entered

theorem due_of {s : State} (h : (s.meetDue.isEmpty && !s.slotBegun && s.turns.isEmpty && s.dueTimer.isNone) = true) : s.Due s.inOrder := by
  simp only [Bool.and_eq_true, Bool.not_eq_true', List.isEmpty_iff, Option.isNone_iff_eq_none] at h
  exact ⟨h.1.1.1, .inr (.inl ⟨h.1.1.2, h.1.2, h.2, rfl⟩)⟩

/-- All three ways in which a bundle comes to issue. -/
theorem witness_StepRunsDecoded : (base.Due base.inOrder ∧ begun.Due begun ∧ ordered1.Due (ordered1.setTurns []).inOrder) ∧
    ([base.inOrder, begun, (ordered1.setTurns []).inOrder].all fun q => readyB q && (q.ctxOf (q.th 1)).frozen == q.slotBegun) = true ∧
    ∀ q ∈ [base.inOrder, begun, (ordered1.setTurns []).inOrder], q.cur = some (q.th 1) ∧ (q.th 1).decode = some (.ok (.nop off)) := by
  refine ⟨⟨due_of (by decide), ⟨by decide, .inl ⟨by decide, rfl⟩⟩, ⟨by decide, .inr (.inr ⟨by decide, [], by decide, rfl⟩)⟩⟩, by decide +kernel, fun q hq => ?_⟩
  have hb : ([base.inOrder, begun, (ordered1.setTurns []).inOrder].all fun q => curB q && ((q.th 1).decode.bind okOf == some (.nop off))) = true := by
    decide +kernel
  have := List.all_eq_true.1 hb q hq
  simp only [Bool.and_eq_true, beq_iff_eq] at this
  exact ⟨cur_of this.1, decode_ok this.2⟩

/-- OP 0xFF in the open clause. -/
def rejected : State := { State.reset.placeWord 0xFF with turns := [] }

theorem witness_RejectedSlotTraps :
    (rejected.Due rejected.inOrder ∧ (begunOf rejected).Due (begunOf rejected)) ∧ rejected.inOrder.cur = some (rejected.inOrder.th 1) ∧
    (begunOf rejected).cur = some ((begunOf rejected).th 1) ∧ (readyB rejected.inOrder && readyB (begunOf rejected)) = true ∧
    (rejected.inOrder.th 1).decode = some (.error .illegalOpcode) ∧ ((begunOf rejected).th 1).decode = some (.error .illegalOpcode) ∧
    opRow (bitsAt 0xFF 0 8) = none ∧ (∃ row, opRow (bitsAt 0x30D0 0 8) = some row ∧ bitsAt 0x30D0 12 2 = 3) ∧
    (∃ row, opRow (bitsAt 0x1010 0 8) = some row ∧ bitsAt 0x1010 12 2 ≠ 0 ∧ row.flag = false) ∧
    (∃ row, opRow (bitsAt 0x10D0 0 8) = some row ∧ bitsAt 0x10D0 12 2 = 1) ∧
    (∃ row, opRow (bitsAt 0x20D0 0 8) = some row ∧ bitsAt 0x20D0 12 2 = 2) :=
  ⟨⟨due_of (by decide), ⟨by decide, .inl ⟨by decide, rfl⟩⟩⟩, cur_of (by decide), cur_of (by decide), by decide +kernel, decode_error (by decide +kernel),
    decode_error (by decide +kernel), by decide +kernel, ⟨_, rfl, by decide⟩, ⟨_, rfl, by decide, rfl⟩, ⟨_, rfl, by decide⟩, ⟨_, rfl, by decide⟩⟩

/-- One instruction of each format, at boundaries of its operands. -/
def formats : List Instr := [.bra off (.line (-1) 4), .iadd t .s64 true (.v 126) (.s 62) (.k 15), .iaddImm t .n32 false (.v 0) (.r 14) 0xFFFFFFFF,
  .ld fa .b32 15 .g 7 (.v 112) (.v 18) 0x7FFFFF, .getsr t (.v 20) .tid, .cpy fa false .t true 7 63 .rn (.v 26) (.v 24) (.v 25) 0xFFFF,
  .mma t .e4m3 .e5m2 false false true (.v 126) (.v 120) (.v 40) 63 63 63 7]

theorem witness_DecodeOfEncode : (formats.all fun i => i.wfIn 112 && match encodeNative i with
    | none => false
    | some w => (match opRow (bitsAt w 0 8) with | some row => row.flag || bitsAt w 12 2 == 0 | none => true) &&
      decide (w < 2 ^ 96) && decide (dec w = some i)) = true := by decide +kernel

theorem witness_EncodeOfDecode : ∃ i, slot 0x76 7 0 3 2 0x14 0x15 0 0xC2 0 < 2 ^ 96 ∧
    dec (slot 0x76 7 0 3 2 0x14 0x15 0 0xC2 0) = some i := ⟨.gred t .max .s32 (.v 20) (.v 21) (.k 2), by decide +kernel⟩

/-- The same thread in portable code. -/
def inPortable : State := onTh fun u => { u with portable := true }

theorem witness_FailedGuardIsNoOperation : (∀ i ∈ [Instr.mov off .b32 (.v 20) (.v 21), .trap off 1, .cpy off false .t false 0 0 .rn (.v 26) (.v 24) (.v 0) 1],
    base.Issues (base.th 1) i) ∧ (base.th 1).psel off.g = false ∧ (Instr.trap off 1).x = some off ∧ (Instr.trap off 1).gathers = false ∧
    ((base.th 1).portable = false ∧ (base.th 1).pc.toNat % 64 ≤ 4) ∧ (∀ i ∈ [Instr.reorder off false 7 (.v 20) (.v 17) .b 1], base.Issues (base.th 1) i) ∧
    (∀ i ∈ [Instr.reorder off false 7 (.v 20) (.v 17) .b 1], inPortable.Issues (inPortable.th 1) i) ∧ (inPortable.th 1).portable = true :=
  ⟨all_issue (by decide +kernel), by decide +kernel, rfl, rfl, by decide +kernel, all_issue (by decide +kernel), all_issue (by decide +kernel),
    by decide +kernel⟩

/-- A context that is frozen. -/
def frozen : State := base.modCtx 1 fun c => { c with frozen := true }
/-- A group of the load role. -/
def loader : State := base.modGroup 1 fun g => { g with role := .load }

/-- A group without a role in a team that has roles. -/
def roleless : State := base.modTeam 1 fun m => { m with hasRoles := true }

theorem witness_ChecksBeforeGuard : base.cur = some (base.th 1) ∧ loader.cur = some (base.th 1) ∧ frozen.cur = some (base.th 1) ∧ begun.cur = some (base.th 1) ∧
    roleless.cur = some (base.th 1) ∧ (Instr.tret t).x = some t ∧ ((frozen.ctxOf (base.th 1)).frozen = true ∧ (frozen.issues.map Issue.begun) = [false]) ∧
    ((begun.ctxOf (base.th 1)).frozen = true ∧ begun.issues.map Issue.begun = [true]) ∧
    (base.ctxOf (base.th 1)).frozen = false ∧ (base.th 1).privileged = false ∧ (Instr.tret t).needsPrivilege = true ∧
    ((loader.ctxOf (base.th 1)).frozen = false ∧ (Instr.accz t false 0 0).needsPrivilege = false ∧
      (Instr.accz t false 0 0).writesConst = false ∧ (loader.group (base.th 1).group).role.admits (Instr.accz t false 0 0).cls = false) ∧
    ((roleless.team (base.th 1).team).hasRoles = true ∧ (roleless.ctxOf (base.th 1)).frozen = false ∧
      (roleless.group (base.th 1).group).role.admits (Instr.reorder t true 0 (.v 20) (.v 21) .b 1).cls = true ∧
      (Instr.reorder t true 0 (.v 20) (.v 21) .b 1).cls = .barred) :=
  ⟨cur_of (by decide), cur_of (s := loader) (by decide), cur_of (s := frozen) (by decide), cur_of (s := begun) (by decide), cur_of (s := roleless) (by decide),
    by decide +kernel⟩

/-! ## The end of an instruction, and exceptions -/

theorem base_calm : base.Calm := (issues_of (i := .nop t) (by decide +kernel)).calm

theorem witness_EndOfInstruction : (base.cur = some (base.th 1) ∧ (base.th 1).hold = Hold.none ∧ base.Calm) ∧
    ((base.th 1).portable = false ∧ (base.th 1).pc = BitVec.ofNat 64 (0 + 0)) ∧
    (let u := { base.th 1 with pc := 0xFFFFFFFFFFFFFF84 }
     u.portable = false ∧ 0xFFFFFFFFFFFFFF80 % 64 = 0 ∧ 0xFFFFFFFFFFFFFF80 + 64 < 2 ^ 64 ∧ u.pc = BitVec.ofNat 64 (0xFFFFFFFFFFFFFF80 + 4)) :=
  ⟨⟨cur_of (by decide), by decide, base_calm⟩, by decide +kernel, by decide +kernel⟩

/-- Two threads of a bundle have still to issue. -/
def bundle : State := { base with
  threads := base.threads ++ [{ base.th 1 with id := 2, rank := 1 }]
  issues := base.issues.map fun i => { i with todo := [1, 2], all := [1, 2] } }

theorem witness_RaisedTrap : bundle.cur = some (bundle.th 1) ∧ ((bundle.th 1).spec = none ∧ (bundle.th 1).handler = none ∧
    (∃ i ∈ bundle.issues, i.todo.tail ≠ [])) ∧ ((plainTrap .userTrap 5 0 true 0).dcnt < 32) ∧
    ({ plainTrap .userTrap 5 0 true 0 with dcnt := 31, dreg := 255 } : PendTrap).dcnt < 32 :=
  ⟨cur_of (by decide), by decide +kernel⟩

/-- A refused sealed write: of a context that runs, and of one that froze in the same cycle at a higher byte. -/
theorem witness_RaisedTrap_freeze :
    let p := plainTrap .sealedWrite 8 0 true 0
    let q := base.modCtx 1 fun c => { c with frozen := true, frozenSince := base.cycle, frozenAt := 9 }
    ((base.thread? 1).map Thread.id = some 1 ∧ (base.th 1).spec = none ∧ p.cause = .sealedWrite ∧ p.defer = false) ∧
    ((base.ctx? (base.team (base.th 1).team).ctx).map Context.frozen = some false) ∧
    ((q.ctx? (q.team (q.th 1).team).ctx).map fun x => (x.id, x.frozen, x.frozenSince == q.cycle, decide (p.addr < x.frozenAt))) =
      some (1, true, true, true) := by
  decide +kernel

/-- TAKING AN EXCEPTION: with the vector and room for the slide, with no vector table, with no room. -/
theorem witness_TakeTrap : (base.readVector 1 .userTrap).2 = none ∧ (base.ctxOf (base.th 1)).trapBase = 0 ∧
    ((room.modTeam 1 fun m => { m with regsB := 256 }).readVector 1 .userTrap).2 = some (0x40000, false) ∧
    ((room.modTeam 1 fun m => { m with regsB := 256 }).slideWindow 1 112 0 0).2 = none ∧
    (room.readVector 1 .reservedField).2 = some (0x40000, false) ∧ (room.slideWindow 1 112 0 0).2 ≠ none ∧
    (((room.modTeam 1 fun m => { m with regsB := 256 }).takeTrap 1 (plainTrap .userTrap 5 8 true 0)).1.thread? 1).map (fun u =>
      (u.pc, u.privileged, u.trapCause, u.trapAddr, u.trapPcn)) = some (0x40000, true, 0x60 + 0x2000 + 0x78000, 5, 8) ∧
    (let s := room.modTh 1 fun u => { u with depth := 2 ^ 24 - 1 }
     (s.readVector 1 .userTrap).2 = some (0x40000, false) ∧ ((s.readVector 1 .userTrap).1.th 1).depth = 2 ^ 24 - 1) ∧
    ((base.ctx 1).trapBase.toNat < 2 ^ 57 ∧ ((2 ^ 57 - 8 : DWord).toNat < 2 ^ 57 ∧ ¬(2 ^ 57 - 8 : DWord).toNat < 2 ^ 56)) := by
  refine ⟨?_, ?_, ?_, ?_, ?_, ?_, ?_, ?_, ?_⟩ <;> decide +kernel

/-- A thread in a handler for cause 0x60 with one window of 112 to give back, as `takeTrap` leaves it. -/
def handler : State := room.modTh 1 fun u => { u with
  handler := some ⟨0, .userTrap, 0⟩, depth := 1, wbase := 112, hidden := [⟨0, 112, 0, List.replicate 112 0⟩], trapCause := 0x7A060
  trapPcn := 0x40000 }
/-- And one with a replay record of a load. -/
def replaying : State := handler.modTh 1 fun u => { u with
  trapCause := u.trapCause ||| 0x4000#32
  replay := some ⟨0, 0, .notPresent, 0, .ld fa .b32 0 .g 0 (.v 20) (.v 18) 0, 0, [0, 0], some 0, 0, 20, 1, true, false⟩ }

theorem witness_HandlerReturns : (∀ i ∈ [Instr.tret t, .tretry t], priv.Runs (priv.th 1) i) ∧ (priv.th 1).handler.map HandlerRec.depth = some 0 ∧
    (priv.th 1).depth = 0 ∧ (∀ i ∈ [Instr.tret t, .tretry t], handler.Runs (handler.th 1) i) ∧ (handler.th 1).trapCause.getLsbD 13 = true ∧
    (handler.th 1).trapCause.getLsbD 14 = false ∧ (handler.th 1).handler.map HandlerRec.depth = some 0 ∧ (handler.th 1).depth = 0 + 1 ∧
    okOf (handler.checkTarget (handler.th 1) false 0x40001) = some false ∧ errOf (handler.checkTarget (handler.th 1) false 0x60000) ≠ none ∧
    (handler.leaveTrap 1 0x40001 false).2 = none ∧ (base.leaveTrap 1 0x40001 false).2 ≠ none ∧
    (∀ i ∈ [Instr.tretry t], replaying.Runs (replaying.th 1) i) ∧ (replaying.th 1).trapCause.getLsbD 14 = true ∧
    (handler.imageAt 1 0x40000).map (fun p => p.2.kind) = some 2 ∧
    okOf (handler.unslideWindow 1 fun _ => true).2 = some 0 := by
  refine ⟨all_run ?_, ?_, ?_, all_run ?_, ?_, ?_, ?_, ?_, ?_, ?_, ?_, ?_, all_run ?_, ?_, ?_, ?_⟩ <;> decide +kernel

/-! ## The register window -/

/-- A team with a budget of 256 registers. -/
def larger : State := base.modTeam 1 fun m => { m with regsB := 256 }

theorem witness_WindowSlides : larger.thread? 1 = some (larger.th 1) ∧ (residentRegs (larger.th 1).hidden + 112 + 128 ≤ (larger.team (larger.th 1).team).regsB ∧
    (larger.th 1).late = []) ∧ (larger.slideWindow 1 112 5 112).2 = none ∧ (larger.slideWindow 1 8 5 0).2 = none :=
  ⟨thread_of (by decide), by decide +kernel⟩

/-- Every call spills, since the budget is 128; a spill stack of 8 KiB with 64 bytes on it; the record of a call that slides 112. -/
def spilling : State := room.modTh 1 fun u => { u with spillBase := 0x10000, spillLimit := 8192, spillPtr := 64 }
def part112 (s : State) : Hidden := { ret := 5, n := 112, base := (s.th 1).wbase, regs := (s.th 1).getRun 16 112 }
def pushed (s : State) : State := s.modTh 1 fun u => { u with hidden := part112 s :: u.hidden }
/-- Its call done; another byte 8 than the tail's; a tail byte of 120. -/
def spilled : State := (spilling.slideWindow 1 112 5 112).1
def badHead : State := { spilled with mem := [(0x20238, 112)], l1 := [] }
def badTail : State := { spilled with mem := [(0x20238, 120)], l1 := [] }
def tailOf (s : State) : List Byte := (okOf (s.spillRead 1 (0x10000 + (s.th 1).spillPtr.toNat - 8) 1).2).getD []

theorem witness_WindowSlides_spill : (part112 spilling :: (spilling.th 1).hidden = [] ++ [part112 spilling] ∧
      (spilling.team (spilling.th 1).team).regsB - 128 < residentRegs ([] ++ [part112 spilling]) ∧ residentRegs [] ≤ (spilling.team (spilling.th 1).team).regsB - 128 ∧
      (spilling.th 1).spillPtr.toNat + (entryBytes (part112 spilling)).length ≤ (spilling.th 1).spillLimit.toNat) ∧
    (let r := (pushed spilling).spillLines 1 (canonVa 0x10000 + 64) ((entryBytes (part112 spilling)).length / 64) (entryBytes (part112 spilling))
     r.2 = none ∧ r.1.thread? 1 = (pushed spilling).thread? 1) ∧
    okOf (spilling.storeG (spilling.th 1) false 0x10000 0 (List.replicate 64 1)).2 = some () ∧ (spilled.th 1).spillPtr = 576 := by
  refine ⟨?_, ?_, ?_, ?_⟩ <;> decide +kernel

theorem witness_WindowSlides_reload : ((spilled.th 1).hidden = [] ∧ (spilled.th 1).depth ≠ 0 ∧ ((spilled.th 1).frames.headD (0, 0)).1 ≤ 112 ∧ (spilled.th 1).late = []) ∧
    (tailOf spilled = leBytes 8 112 ∧ (spilled.spillRead 1 (0x10000 + 576 - 8) 1).1.thread? 1 = spilled.thread? 1) ∧
    (let r := spilled.spillRead 1 (0x10000 + 64) 64
     okOf r.2 = some (entryBytes (part112 spilling)) ∧ (r.1.thread? 1 = spilled.thread? 1)) ∧
    field (tailOf badTail) 0 1 = 120 ∧ (field (tailOf badHead) 0 1 = 112 ∧
      (okOf (badHead.spillRead 1 (0x10000 + 64) 64).2).map (fun e => field e 8 1) = some 0) := by
  refine ⟨?_, ?_, ?_, ?_, ?_⟩ <;> decide +kernel

/-- The first line of the entry lies in no page. -/
theorem witness_SpillFaultIsExact_line : let s := base.modTh 1 fun u => { u with spillBase := 0x10000, spillLimit := 8192 }
    let r := (pushed s).spillLines 1 (canonVa 0x10000 + 0) ((entryBytes (part112 s)).length / 64) (entryBytes (part112 s))
    r.2 = some (.spill, 0x10000) ∧ r.1.thread? 1 = (pushed s).thread? 1 ∧
    errOf ((pushed s).storeG ((pushed s).th 1) false 0x10000 0 (List.replicate 64 1)).2 = some (.fault .notPresent 0x10000) := by decide +kernel

/-- Portable code with a frame of 1,024 registers, whose overflow block of 4,096 bytes stands on the spill stack. -/
def deepFrame : State := room.modTh 1 fun u => { u with
  portable := true, frames := [(1024, 0)], spillBase := 0x10000, spillLimit := 8192, spillPtr := 4096, clause := some (.portable 0) }

/-- The machine after the load of w128 there, with the entry held. -/
def loadedEntry : State := (deepFrame.loadG (deepFrame.th 1) false ((deepFrame.th 1).ovfAddr 128) 4).1.modTh 1 fun u => { u with ovf := [(128, 0)] }

theorem witness_SpillFaultIsExact : base.thread? 1 = some (base.th 1) ∧ ((base.th 1).hidden = [] ∧ (base.th 1).depth = 0 ∧
      (base.team (base.th 1).team).regsB < 128 + 8 ∧ (base.th 1).spillLimit.toNat < (base.th 1).spillPtr.toNat + entrySize 112) ∧
    deepFrame.cur = some (deepFrame.th 1) ∧ ((deepFrame.th 1).portable = true ∧ (deepFrame.ctxOf (deepFrame.th 1)).frozen = false ∧
     (deepFrame.group (deepFrame.th 1).group).role.admits .common = true ∧ (deepFrame.th 1).ovf = []) ∧
    (deepFrame.th 1).passes (.mov t .b32 (.v 1023) (.v 128)) = true ∧
    okOf (deepFrame.loadG (deepFrame.th 1) false ((deepFrame.th 1).ovfAddr 128) 4).2 = some [0, 0, 0, 0] ∧
    okOf (loadedEntry.storeG (loadedEntry.th 1) false ((loadedEntry.th 1).ovfAddr 1023) 0 [0, 0, 0, 0]).2 = some () := by
  refine ⟨thread_of (by decide), ?_, cur_of (by decide), ?_, ?_, ?_, ?_⟩ <;> decide +kernel

/-! ## Results in registers -/

/-- Integer instructions: wrap and saturation, 64-bit pairs, constants, a source that is the destination. -/
def integers : List Instr := [.iadd t .s64 true (.v 126) (.v 126) (.k 15), .iaddImm t .n8 false (.v 20) (.k 14) 0xFFFFFFFF,
  .isub t .s8 true (.v 20) (.v 21) (.s 63), .imul t .n32 false (.v 0) (.v 1) (.v 2), .imulh t .s32 (.v 20) (.v 21) (.v 22),
  .imad t .n16 true (.v 20) (.v 21) (.v 22) (.v 23), .idiv t .s32 true (.v 20) (.k 14) (.k 2), .irem t .n64 (.v 20) (.v 22) (.k 0),
  .imin t .s32 (.v 20) (.v 21) (.v 22), .imax t .n64 (.v 20) (.v 22) (.v 24), .iabs t .s32 true (.v 20) (.k 14), .ineg t .s64 false (.v 20) (.v 22),
  .idot4 t .s32 false (.v 20) (.v 21) (.v 22) (.v 23), .lea t true 7 (.v 20) (.v 22) (.v 24), .leaImm t (.v 20) (.v 22) 0x80000000]
/-- Logic, moves and bit fields. -/
def logics : List Instr := [.and t .b64 (.v 20) (.v 22) (.s 62), .or t .b8 (.v 20) (.v 21) (.k 2), .xor t .b16 (.v 20) (.v 20) (.v 20),
  .andImm t .b32 (.v 20) (.v 21) 0xFFFFFFFF, .orImm t .b64 (.v 20) (.v 22) 0x80000000, .xorImm t .b32 (.v 20) (.v 21) 0, .not t .b64 (.v 20) (.v 22),
  .lut3 t .b32 0xE8 (.v 20) (.v 21) (.v 22) (.v 23), .shl t .b8 (.v 20) (.v 21) (.k 7), .shr t .b64 (.v 20) (.v 22) (.k 12),
  .sar t .b32 (.v 20) (.k 14) (.k 11), .rot t .b16 (.v 20) (.v 21) (.k 9), .bfx t .b32 true (.v 20) (.v 21) (.v 22),
  .bfi t .b64 (.v 20) (.v 22) (.v 24) (.v 26), .popc t .b64 (.v 20) (.v 22), .clz t .b32 (.v 20) (.k 0), .brev t .b64 (.v 20) (.v 22),
  .permb t (.v 20) (.v 21) (.v 22) (.v 23), .sel t .b64 (.v 20) (.v 22) (.v 24) ⟨true, 7⟩, .mov t .b32 (.v 20) (.r 13), .movi t .b64 (.v 20) 0x80000000]
/-- Floating-point arithmetic. -/
def floats : List Instr := [.fadd t none false (.v 20) (.v 21) (.k 15), .fsub t (some .ru) true (.v 20) (.v 21) (.v 22), .fmul t none false (.v 20) (.v 21) (.v 22),
  .fmad t (some .rz) false (.v 20) (.v 21) (.v 22) (.v 23), .fmin t (.v 20) (.v 21) (.k 14), .fmax t (.v 20) (.v 21) (.v 22),
  .dadd t none false (.v 20) (.v 22) (.v 24), .dmul t (some .rd) true (.v 20) (.v 22) (.k 8), .dmad t none false (.v 20) (.v 22) (.v 24) (.v 26),
  .padd2 t .f16 none true (.v 20) (.v 21) (.k 1), .pmul2 t .bf16 none false (.v 20) (.v 21) (.v 22), .pfma2 t .f16 none false (.v 20) (.v 21) (.v 22) (.v 23)]
/-- Conversions, and the special functions. -/
def converts : List Instr := [.cvt t .f16 .e4m3 1 3 none false (.v 20) (.v 21), .cvt t .n64 .f64 0 0 (some .ru) true (.v 20) (.v 22),
  .cvtd t .f32 .i4 1 true (.v 120) (.v 20) (.v 0), .nzcnt t .f64 0 true (.v 20) (.v 22) (.v 24), .nzmap t .cb4 63 false (.v 20) (.v 21) (.v 22)]
def specials : List Instr := [.rcp t .f32 (.v 20) (.k 0), .rsq t .f64 (.v 20) (.v 22), .sqrt t .f32 none (.v 20) (.v 21), .ex2 t (.v 20) (.k 2),
  .lg2 t (.v 20) (.k 0), .sin t (.v 20) (.v 21), .cos t (.v 20) (.v 21), .sincos t (.v 20) (.v 22), .tanh t (.v 20) (.k 14)]

theorem witness_RegisterResults : (∀ i ∈ integers ++ logics ++ floats ++ converts ++ specials, base.Runs (base.th 1) i) ∧
    (integers.all fun i => (integerEffect base (base.th 1) i).isSome) = true ∧ (logics.all fun i => (logicEffect base (base.th 1) i).isSome) = true ∧
    (floats.all fun i => (floatEffect base (base.th 1) i).isSome) = true ∧ (converts.all fun i => (convertEffect base (base.th 1) i).isSome) = true ∧
    (specials.all fun i => (specialEffect base (base.th 1) i).isSome) = true := by
  refine ⟨all_run ?_, ?_, ?_, ?_, ?_, ?_⟩ <;> decide +kernel

/-- The worked values of the spec's text: 01's overflowing FMUL, 04's GRED tree (R104), MMA sum (R106) and integer sums (R107). -/
theorem test_arithmetic_examples : let e : Arith := Arith.of 0 1 none
    let v : Nat → FVal := (ffmt .bf16).decode
    fop e .mul .f32 false false 0x7F7FFFFF 0x40000000 0 = (0x7F800000, e.raise 0x14) ∧
    treeReduce e .add .f32 ([some (0x4B800000, 0), some (0x3F800000, 0), some (0x3F800000, 0), some (0xCB800000, 0)] ++
      List.replicate 28 none) = some (0x3F800000, 0x10) ∧
    mmaSum ((ffmt .f32).decode 0x3F800000) [(((v 0xBF80).mul (v 0x3F80)).1, false), (((v 0x3380).mul (v 0x33C0)).1, false)] = 0x27800000 ∧
    intMmaWrite (0x7FFFFF00 + 512) false = 0x80000100 ∧ intMmaWrite (tyInt .s32 0x80000100 - 512) false = 0x7FFFFF00 ∧
    intMmaWrite (0x7FFFFF00 + 512) true = 0x7FFFFFFF ∧ intMmaWrite (0x7FFFFFFF - 512) true = 0x7FFFFDFF := by decide +kernel

/-- Corners of R94 and R100: the minimum by -1, a division by zero, a sum past the maximum, 1/0 and its flag. -/
theorem test_corners : intQuot .s32 true (tyInt .s32 0x80000000) (-1) = (0x7FFFFFFF, 32) ∧ intQuot .s32 false (tyInt .s32 0x80000000) (-1) = (0x80000000, 4) ∧
    intQuot .n32 false 5 0 = (0xFFFFFFFF, 2) ∧ intRem .s8 (-7) 2 = (255, 0) ∧ intWrite .s8 true 128 = (127, 32) ∧ intWrite .n8 false (-1) = (255, 0) ∧
    rcpRsq .rcp .f32 false 0x80000000 = (0xFF800000, 2) ∧ clzBits 64 1 = 63 ∧ sarBits 8 0x80 200 = 0xFF ∧ rotBits 16 0x8001 17 = 3 := by decide +kernel

theorem witness_IntegerArithmetic : Ty.s32.int = true ∧ (-2147483648 ≤ (-2147483648 : Int) ∧ (2147483647 : Int) < 2147483648) ∧
    (0x80000000 < 2 ^ Ty.s32.bits ∧ 0xFFFFFFFF < 2 ^ Ty.s32.bits ∧ Ty.s32.signed = true ∧ tyInt .s32 0x80000000 = -(2 ^ (Ty.s32.bits - 1)) ∧
      tyInt .s32 0xFFFFFFFF = -1) ∧ tyInt .n64 0 = 0 ∧ tyInt .s8 0x80 ≠ 0 := by decide +kernel

theorem witness_LogicBits : 64 ∈ [8, 16, 32, 64] ∧ 2 ^ 64 - 1 < 2 ^ 64 ∧ 63 < 64 ∧ (2 ^ 64 - 1 ≠ 0) ∧ fieldLen 64 (63 + 256) = 1 ∧ fieldLen 8 (7 + 255 * 256) = 1 ∧
    fieldLen 8 8 = 0 := by decide

theorem witness_PredicateResults : (∀ i ∈ [Instr.pcmpi t .lt .s64 .xor 6 (.v 20) (.k 2) ⟨true, 3⟩, .pcmpf t .nan .f16 .none 7 (.v 20) (.k 15) ⟨false, 0⟩,
      .plut t 0x96 0 1 2 7], base.Runs (base.th 1) i) ∧
    ([Instr.pcmpi t .lt .s64 .xor 6 (.v 20) (.k 2) ⟨true, 3⟩, .pcmpf t .nan .f16 .none 7 (.v 20) (.k 15) ⟨false, 0⟩, .plut t 0x96 0 1 2 7].map fun i =>
      (predEffect base (base.th 1) i).map fun p => p.1) = [some 6, some 7, some 0] := by
  refine ⟨all_run ?_, ?_⟩ <;> decide +kernel

theorem witness_FloatCases : let a : Arith := Arith.of 0 1 none
    (a.input .f32 0x7F800001).isSnan = true ∧ (a.input .f64 0xFFF8000000000000).isNan = true ∧
    ((ffmt .f32).decode (flushIn true .f32 0x7FFFFFFF)).isNan = true ∧ (ffmt .e4m3).decode 0x7E = .fin false 14 5 ∧
    (a.input .f32 0x80000001 = .fin true 1 (-149) ∧ a.input .f32 0 = .fin false 0 (-149) ∧ a.fz .f32 = false) ∧
    ((ffmt .f32).decode (flushIn true .f32 0x80000001) = .fin true 0 (-149) ∧ (ffmt .f32).decode (flushIn true .f32 0xFF800000) = .inf true ∧
      (ffmt .f32).decode (flushIn true .f32 0xC2FE0000) = .fin true 16646144 (-17) ∧ (ffmt .f64).decode (flushIn false .f64 0x7FF0000000000001) = .nan true) := by
  decide +kernel

/-- 17 on the grid of e4m3, and 500, which lies beyond its largest value; -17 under RD; a tie under stochastic rounding. -/
theorem witness_FloatCases_rounding : RoundsTo (.rm .rn) 17 2 16 ∧ RoundsTo (.rm .rz) 17 2 16 ∧ RoundsTo (.rm .rd) (-17) 2 (-18) ∧ RoundsTo (.rm .ru) (-17) 2 (-16) ∧
    RoundsTo (.rm .rn) 500 32 512 ∧ RoundsTo (.stoch 1) 17 2 18 ∧ (2 : ℚ) ^ (4 : ℤ) ≤ |17| ∧ |(17 : ℚ)| < 2 ^ (4 + 1 : ℤ) := by
  refine ⟨⟨by norm_num, ⟨8, by norm_num⟩, by norm_num [abs_of_neg], fun _ => ⟨4, by norm_num⟩⟩, ⟨by norm_num, ⟨8, by norm_num⟩, by norm_num, by norm_num⟩,
    ⟨by norm_num, ⟨-9, by norm_num⟩, by norm_num, by norm_num⟩, ⟨by norm_num, ⟨-8, by norm_num⟩, by norm_num, by norm_num⟩,
    ⟨by norm_num, ⟨16, by norm_num⟩, by norm_num, fun _ => ⟨8, by norm_num⟩⟩, ⟨by norm_num, ⟨9, by norm_num⟩, by norm_num, 8, by norm_num, by norm_num, ?_⟩, by norm_num, by norm_num⟩
  norm_num

/-- -127 is an integer that EX2 takes; the terms of a sum of a bf16 product and f32 1.0. -/
theorem witness_FloatCases_values : (FVal.fin true 16646144 (-17)).value = -127 ∧ (FVal.fin false 8388608 (-23)).value = 1 ∧
    RoundsTo (.rm .rn) (FVal.fin true 3 (-1)).value 1 (-2 : ℤ) := by
  refine ⟨by norm_num [FVal.value], by norm_num [FVal.value], by norm_num [FVal.value], ⟨-2, by norm_num⟩, by norm_num [FVal.value], fun _ => ⟨-1, by norm_num⟩⟩

/-- The context of `base` with block-scaled slots 1. -/
def scaled : State := base.modCtx 1 fun c => { c with slots := c.slots.set 1 (plainSlot ||| 0x100) }

theorem witness_QuantiseResult : (∀ i ∈ [Instr.cvtq t .e2m1 .f32 1 none true false (.v 112) (.v 20) (.v 0), .cvtq t .i8 .bf16 1 (some .rz) false true (.v 125) (.v 20) (.v 30)],
      scaled.Runs (scaled.th 1) i) ∧ (scaled.slot 1 1 1).blockLen = 16 ∧ (scaled.th 1).runOk 16 (.v 0) = true ∧ (scaled.th 1).runOk (16 * 4 / 32) (.v 112) = true ∧
    (scaled.th 1).runOk (16 * 8 / 32) (.v 125) = false := by
  refine ⟨all_run ?_, ?_, ?_, ?_, ?_⟩ <;> decide +kernel

/-- Every SETSR row. -/
def setters : List Instr := [.setsr t .fmode (.v 20), .controlRegisterWrite t .trapAddr (.v 20), .fseedWrite t (.k 0), .spillBaseWrite t (.v 20),
  .spillLimitWrite t (.v 20), .trapCauseWrite t (.v 20), .trapBaseWrite t (.v 20), .saveBaseWrite t (.v 20), .preemptCtlWrite t (.v 20),
  .migPolicyWrite t (.v 20), .specCtlWrite t (.v 20)]

theorem witness_SpecialRegisters : (∀ i ∈ [Instr.getsr t (.v 20) .tid, .getsr t (.s 1) .fstat, .getsr t (.v 20) .trapCause] ++ setters,
      priv.Runs (priv.th 1) i) ∧ (∀ i ∈ [Instr.getsr t (.v 20) .trapCause, .trailRd t (.v 124), .trailZ t] ++ setters, base.Runs (base.th 1) i) ∧
    (∀ i ∈ [Instr.trailWr t (.v 124)], priv.Runs (priv.th 1) i) ∧
    (srReadPriv .trapCause = true ∧ srReadPriv .fstat = false ∧ (base.th 1).privileged = false ∧ (priv.th 1).privileged = true ∧ (priv.th 1).depth < 2 ^ 24) ∧
    (srWritePriv .trapBase = true ∧ srWritePriv .fmode = false) ∧ ((0x10000 : DWord).toNat &&& srReserved .fmode ≠ 0) ∧
    ((0x3F : DWord).toNat &&& srReserved .fstat = 0) ∧ (base.th 1).spillPtr = 0 ∧ (deepFrame.th 1).spillPtr ≠ 0 ∧
    (base.saveOk 0x100000A = true ∧ (base.ctxOf (base.th 1)).preemptCtl.toNat < 2 ^ 29 ∧ (base.ctxOf (base.th 1)).images = []) ∧
    (base.ops.any fun o => o.tstepOf 1) = false := by
  refine ⟨all_run ?_, all_run ?_, all_run ?_, ?_, ?_, ?_, ?_, ?_, ?_, ?_, ?_⟩ <;> decide +kernel

/-- An operation of thread 1 in flight. -/
def opOf (id : Nat) (i : Instr) (data : List Nat) (bytes : List Byte) : Op :=
  { progress := 0, id := id, thread := 1, team := 1, ctx := 1, core := 1, instr := i, pc := 0, src := [], flag := some 0, held := false, wbase := 0, depth := 0
    writes := [], slot := plainSlot, fault := none, started := false, since := 0, data := data, priv := false, bytes := bytes, word := 0 }
/-- A TSTEP of the thread is outstanding. -/
def stepping : State := { base with ops := [opOf 9 (.tstep fa (.v 40) 2 (.v 38) (.v 20) (.v 21) 2) [] []] }

theorem witness_SpecialRegisters_waits : (∀ i ∈ [Instr.trailRd t (.v 12), .trailZ t], stepping.Runs (stepping.th 1) i) ∧
    (∀ i ∈ [Instr.trailWr t (.v 12)], (stepping.modTh 1 fun u => { u with handler := some ⟨0, .userTrap, 0⟩ }).Runs
      ((stepping.modTh 1 fun u => { u with handler := some ⟨0, .userTrap, 0⟩ }).th 1) i) ∧ (stepping.ops.any fun o => o.tstepOf 1) = true := by
  refine ⟨all_run ?_, all_run ?_, ?_⟩ <;> decide +kernel

/-! ## Control flow -/

/-- The thread stands in slot 4 of the first line of the object's Bramble image. -/
def inCode : State := room.modTh 1 fun u => { u with pc := 0x40004 }
/-- The same at the greatest call depth. -/
def deepest : State := inCode.modTh 1 fun u => { u with depth := 2 ^ 24 - 1 }

theorem witness_Transfers : (∀ i ∈ [Instr.bra t (.line 1 0), .brx t (.v 20), .call t (.line 1 4) 14, .callx t (.v 20) 1, .ret t],
      inCode.Runs (inCode.th 1) i) ∧ (∀ i ∈ [Instr.call t (.line 1 4) 14], deepest.Runs (deepest.th 1) i) ∧
    ((inCode.imageAt 1 0x60000).map fun p => p.2.kind) = none ∧ ((inCode.imageAt 1 0x4007F).map fun p => p.2.kind) = some 2 ∧
    ((inCode.imageAt 1 0x50008).map fun p => p.2.kind) = some 1 ∧
    okOf (inCode.checkTarget (inCode.th 1) true ((inCode.th 1).targetPc (.line 1 4))) = some false ∧
    errOf (inCode.checkTarget (inCode.th 1) true ((inCode.th 1).targetPc (.line 2 0))) = some (.trap .illegalTarget 0x40080) ∧
    errOf (inCode.checkTarget (inCode.th 1) true 0x50000) = some (.trap .illegalTarget 0x50000) ∧
    okOf (inCode.checkTarget (inCode.th 1) false 0x50008) = some true ∧ (deepest.th 1).depth = 2 ^ 24 - 1 ∧ (inCode.th 1).depth ≠ 2 ^ 24 - 1 ∧
    (handler.unslideWindow 1 fun pc => (handler.target 1 pc).isSome).1.thread? 1 ≠ none ∧
    okOf ((handler.modTh 1 fun u => { u with hidden := [⟨0x40044, 112, 0, List.replicate 112 0⟩] }).unslideWindow 1 fun pc =>
      (handler.target 1 pc).isSome).2 = some 0x40044 := by
  refine ⟨all_run ?_, all_run ?_, ?_, ?_, ?_, ?_, ?_, ?_, ?_, ?_, ?_, ?_, ?_⟩ <;> decide +kernel

/-- A held fault of a load of flag 0. -/
def faultRec : FaultRec := ⟨0, 0, .notPresent, 0, .ld fa .b32 0 .g 0 (.v 20) (.v 18) 0, 0, [0, 0], some 0, 0, 20, 1, true, false⟩
/-- Overflow is pending and enabled. -/
def pending : State := onTh fun u => { u with fstat := 4, fmode := 0x400 }
/-- A completion flag is up; a fault is held. -/
def flagged : State := onTh fun u => u.flagUp 0
def faulted : State := onTh fun u => { u with faults := [faultRec] }
/-- The thread runs the handler of a pre-emption. -/
def preempted : State := onTh fun u => { u with handler := some ⟨0, .preemption, 0⟩ }
/-- j3 holds rank 0. -/
def joined : State := base.modGroup 1 fun g => { g with j := g.j.set 3 1 }

theorem witness_ThreadControl : (∀ i ∈ [Instr.nop off], base.Issues (base.th 1) i) ∧
    (∀ i ∈ [Instr.yield t, .sleep t 0, .sleep t 0xFFFFFFFF, .trap t 0xFFFFFFFF, .tfence t, .exit t, .gexit t, .join t true 15, .waitj t 3],
      base.Runs (base.th 1) i) ∧ (∀ i ∈ [Instr.tfence t, .exit t, .gexit t], pending.Runs (pending.th 1) i) ∧
    (∀ i ∈ [Instr.exit t, .gexit t], flagged.Runs (flagged.th 1) i) ∧ (∀ i ∈ [Instr.exit t, .gexit t], faulted.Runs (faulted.th 1) i) ∧
    (∀ i ∈ [Instr.gexit t], preempted.Runs (preempted.th 1) i) ∧ (∀ i ∈ [Instr.waitj t 3], joined.Runs (joined.th 1) i) ∧
    (∀ i ∈ [Instr.tfence t], priv.Runs (priv.th 1) i) ∧
    ((pending.th 1).pendArith ≠ 0 ∧ (base.th 1).pendArith = 0 ∧ (flagged.th 1).flagBits ≠ 0 ∧ (base.th 1).flagBits = 0 ∧ (faulted.th 1).flagBits = 0) ∧
    (base.th 1).handler.isNone = true ∧ (preempted.th 1).handler.map HandlerRec.cause = some .preemption ∧
    ((base.countExit (base.th 1)).thread? 1).isSome = true ∧ hasBit ((base.group 1).j.getD 3 0) 0 = false ∧ hasBit ((joined.group 1).j.getD 3 0) 0 = true ∧
    ((bundle.issues.map Issue.done).flatten.any fun u => (bundle.th u).psel t.g) = false := by
  refine ⟨all_issue ?_, all_run ?_, all_run ?_, all_run ?_, all_run ?_, all_run ?_, all_run ?_, all_run ?_, ?_, ?_, ?_, ?_, ?_, ?_, ?_⟩ <;> decide +kernel

/-- An object that counts exits lies in a recorded range; a held fault of a copy in the handler of 0x50; the thread is parked at WAITJ j3. -/
def exitBusy : State := { (base.modTeam 1 fun m => { m with spadK := 1 }).objInit 1 64 false true false 0 0 with ranges := [⟨9, 1, 64, 68⟩] }
def faultedIn : State := preempted.modTh 1 fun u => { u with faults := [{ faultRec with instr := .cpy fa false .t false 0 0 .rn (.v 26) (.v 24) (.v 0) 1 }] }
def parkedJ : State := joined.modTh 1 fun u => { u with hold := .waitj 3 }

theorem witness_ThreadControl_more : (∀ i ∈ [Instr.exit t, .gexit t], exitBusy.Runs (exitBusy.th 1) i) ∧ (∀ i ∈ [Instr.gexit t], faultedIn.Runs (faultedIn.th 1) i) ∧
    (exitBusy.exitStall (exitBusy.th 1) = some (.range 1 64 (exitBusy.objLen 1 64)) ∧ base.exitStall (base.th 1) = none ∧ (exitBusy.th 1).faults = []) ∧
    ((faultedIn.th 1).engineFault.isSome = true ∧ (preempted.th 1).engineFault = none) ∧
    (((parkedJ.liveOf 1).filter fun u => u.hold == Hold.waitj 3).map Thread.rank = [0] ∧ (parkedJ.group 1).j.getD 3 0 = 1 ∧
      ∀ k, k < 32 → ((parkedJ.group 1).j.getD 3 0).getLsbD k = true → k = 0) ∧ parkedJ.threads.Pairwise (fun u v => u.id ≠ v.id) := by
  refine ⟨all_run ?_, all_run ?_, ?_, ?_, ?_, ?_⟩ <;> decide +kernel

/-! ## Groups -/

/-- Two threads have arrived at a lane instruction of mask 3: `m` for both. -/
def arrivals (i : Instr) (m : Word) (guard : Bool) : List Arrival := [⟨[], 0, m, 1, 0, true, false, 0, i⟩, ⟨[], 0, m, 2, 1, guard, false, 0, i⟩]
def met (i : Instr) (m : Word) (guard : Bool) : State := bundle.modGroup 1 fun g => { g with arrivals := arrivals i m guard }
/-- VOTE over the ranks of v20, and a lane instruction of every other kind. -/
def vote : Instr := .vote t .uni 6 ⟨true, 0⟩ (.k 4)
def lanes : List Instr := [.shfl off .up 5 .b64 (.v 20) (.v 22) (.v 24) (.k 2), vote, .ballot t (.v 20) ⟨false, 7⟩ (.k 2), .matchv t .b64 (.v 20) (.v 22) (.k 2),
  .compact off (.v 20) ⟨false, 1⟩ (.k 2), .scan t .max .f32 true (.v 20) (.v 21) (.k 2), .gred t .add .n32 (.v 20) (.v 21) (.k 2)]

theorem witness_LaneInstructions : (∀ i ∈ lanes, base.Issues (base.th 1) i) ∧ (lanes.all fun i => i.lane && i.x.isSome) = true ∧
    (met vote 3 true).arrivalsAt 1 0 false = arrivals vote 3 true ∧ (met vote 3 true).missing 1 (arrivals vote 3 true) = 0 ∧
    (met vote 7 true).missing 1 (arrivals vote 7 true) = 0 ∧ maskBad ((arrivals vote 3 true).filter Arrival.guard) = false ∧
    maskBad ((arrivals vote 2 false).filter Arrival.guard) = true ∧ (base.missing 1 [⟨[], 0, 1, 2, 1, true, false, 0, vote⟩] ≠ 0) ∧
    ovfRegs false (vote.opds fun _ => slotOf plainSlot) = [] ∧ (bundle.threads.all fun u => u.ovf.isEmpty) = true ∧
    ((met vote 3 true).ctxOf ((met vote 3 true).th 1)).halted = false ∧ (met vote 3 true).cycle < 0 + 2 ^ 20 := by
  refine ⟨all_issue ?_, ?_, ?_, ?_, ?_, ?_, ?_, ?_, ?_, ?_, ?_, ?_⟩ <;> decide +kernel

/-- Two threads of ranks 0 and 31. -/
def two : List Thread := [base.th 1, { base.th 1 with id := 2, rank := 31 }]

theorem witness_LaneResults : base.th 1 ∈ two ∧ (two.all fun u => decide (u.rank < 32)) = true ∧ (two.map Thread.rank).Nodup ∧
    (base.rd32 (base.th 1) (.k 10)).toNat = 31 ∧ (0 : Nat) / 32 * 32 + 31 % 32 = 31 ∧ two.countP (fun u => u.psel ⟨true, 0⟩) = 2 ∧
    (two.all fun u => u.rank != 5) = true :=
  ⟨List.mem_cons_self, by decide +kernel, by decide +kernel, by decide +kernel, by decide, by decide +kernel, by decide +kernel⟩

/-- The thread stands before the object's point 1, in a launch that has REO; and in a call. -/
def ordered : State := { room.modTh 1 fun u => { u with pc := 0x40004 } with
  tlb := room.tlb ++ [⟨1, 1, 4, 16, BitVec.ofNat 128 (0x3F + 4 * 2 ^ 32)⟩], mem := room.mem ++ [(0x4007F, 0x20)]
  launches := room.launches.map fun l => { l with geom := List.replicate 11 0 ++ [8, 0, 0, 0, 0] } }
def calling : State := ordered.modTh 1 fun u => { u with depth := 1 }

theorem witness_ReorderArrives : (∀ i ∈ [Instr.reorder t false 0 (.v 20) (.v 17) .b 0xFF, .reorder t true 0 (.k 0) (.v 17) .keep 1], ordered.Runs (ordered.th 1) i) ∧
    (∀ i ∈ [Instr.reorder t false 0 (.v 20) (.v 17) .b 0xFF], calling.Runs (calling.th 1) i) ∧
    (∀ i ∈ [Instr.reorder t false 0 (.v 20) (.v 17) .b 0xFF], flagged.Runs (flagged.th 1) i) ∧ (flagged.th 1).flagBits ≠ 0 ∧ (calling.th 1).depth ≠ 0 ∧
    (ordered.th 1).flagBits = 0 ∧ (ordered.th 1).depth = 0 ∧ ((ordered.group 1).g.toList.all fun c => !hasBit c.signed 0) = true ∧
    ((ordered.team 1).merge.all fun m => m == .closed) = true ∧ ordered.reoSet (ordered.th 1) = true ∧
    (ordered.reorderPoint (ordered.th 1) (.v 17) 1).isSome = true ∧
    ({ ordered with mem := room.mem } : State).reorderPoint (ordered.th 1) (.v 17) 1 = none ∧ ordered.reorderPoint (ordered.th 1) (.v 18) 1 = none := by
  refine ⟨all_run ?_, all_run ?_, all_run ?_, ?_, ?_, ?_, ?_, ?_, ?_, ?_, ?_, ?_, ?_⟩ <;> decide +kernel

/-- A participant of point `n` with key 3, alone in its team; and one whose rectangle has no core of the kind it names. -/
def reorderRec (n : Nat) : ReorderRec := ⟨true, 3, 16, [7], .keep, 0, ⟨n, 0, 1⟩, false, [1], 0⟩
def reordering (n : Nat) : State := room.modTh 1 fun u => { u with hold := .reorder, reorder := some (reorderRec n) }
def noSuchKind : State := ((reordering 1).modTh 1 fun u => { u with reorder := some { reorderRec 1 with core := false, kind := .l } }).modCluster 1 fun c => { c with rect := [1] }
/-- Its new group waits for core 1. -/
def beadWaiting : State := { (reordering 1).modGroup 1 fun g => { g with beadCores := [1], resident := false } with
  beads := [⟨none, 1, 3, 1, 16, [7], false⟩] }

theorem witness_ReorderArrives_more : ((((reordering 1).th 1).reorder = some (reorderRec 1)) ∧ ((reordering 1).parts (reorderRec 1)).map Thread.id = [1] ∧
      ((reordering 1).team ((reordering 1).th 1).team).state = .resident ∧ ((room.parts { reorderRec 1 with parts := [1] }).map Thread.hold) = [.none]) ∧
    (([(reordering 1).th 1, (reordering 2).th 1].filterMap fun u => u.reorder.map fun r => r.point.num) = [1, 2]) ∧
    ((reordering 1).rodCores [1] = [1] ∧ noSuchKind.rodCores [1] = []) ∧
    (let z := beadWaiting
     (z.groups.find? fun x => x.id == 1).map (fun g => (g.id, g.beadCores, g.beadNo)) = some (1, [1], 0) ∧ z.fits 1 (z.group 1).slices (z.groupB 1) = true ∧
     z.threads.Pairwise (fun u v => u.id ≠ v.id) ∧ (z.threads.all fun u => u.reorder.map ReorderRec.point == some ⟨1, 0, 1⟩ && u.group == 1 && u.status == .live) = true ∧
     ((z.ctxOf (z.th 1)).objs.find? fun o => o.handle == 1).bind (fun o => o.resumeAt (kindOf 1) ⟨1, 0, 1⟩) = some (0x40040, false, [(16, false, 17)])) := by
  refine ⟨?_, ?_, ?_, ?_⟩ <;> decide +kernel

/-- The group is to move to a Larch core; it is held for that; with every Larch core of its glade out of service. -/
def moving : State := base.modGroup 1 fun g => { g with target := some ⟨.larch, true⟩, moveHold := true }
def full : State := { moving with cores := [0, 3, 8, 11].map fun c => { Core.fresh c with failed := true } }
/-- The group waits for a place on core 1. -/
def waiting : State := base.modGroup 1 fun g => { g with beadCores := [1], resident := false }

theorem witness_GroupMoves : (∀ i ∈ [Instr.migrate off .larch true, .migrate t .bramble false], base.Issues (base.th 1) i) ∧
    ((arrivals vote 3 true).filter Arrival.guard = arrivals vote 3 true ∧ (arrivals vote 3 false).filter Arrival.guard ≠ arrivals vote 3 false ∧
      (arrivals vote 3 false).filter Arrival.guard ≠ []) ∧ okOf (moving.moveDest 1) = some 0 ∧ errOf (full.moveDest 1) = some .room ∧
    errOf (base.moveDest 1) = some .cond ∧ ((base.group 1).moveHold = false ∧ (moving.group 1).moveHold = true) ∧
    ((base.group 1).beadCores = [] ∧ (waiting.group 1).beadCores ≠ []) ∧
    ({ waiting with cores := [{ Core.fresh 1 with failed := true }] } : State).fits 1 1 128 = false := by
  refine ⟨all_issue ?_, ?_, ?_, ?_, ?_, ?_, ?_, ?_⟩ <;> decide +kernel

/-! ## The matrix engine -/

/-- A multiplication, and its signature: open at another PC; signed by rank 0. -/
def mul : Instr := .mma t .e4m3 .e5m2 false false false (.v 0) (.v 120) (.v 40) 63 0 0 7
def convAt (pc : DWord) (signed present : Word) (i : Instr) (caps : List Capture) : ConvReg := ⟨[], pc, signed, present, 0, some i, caps⟩
def opened (c : ConvReg) : State := base.setConv 1 7 c
/-- A signer's capture. -/
def capture : Capture := ⟨0, 0, 1, List.replicate 8 0, List.replicate 8 0, [], [], none⟩
/-- Selectors of MMAS: rising in every chunk, and not. -/
def rising : State := onTh fun u => u.putRun 112 [0xA9876543, 0xA9876543, 0xA9876543, 0xA9876543]
def spmm : Instr := .mmas t .bf16 .bf16 false false false false (.v 0) (.v 120) (.v 40) (.v 112) 0 0 0 7

theorem witness_SignedInstructions : (∀ i ∈ [mul, .accz off true 0 7, .accz fa false 63 7, spmm], base.Issues (base.th 1) i) ∧
    (∀ i ∈ [mul, .accz off true 0 7], (opened (convAt 64 2 2 mul [])).Issues ((opened (convAt 64 2 2 mul [])).th 1) i) ∧
    (∀ i ∈ [mul], (opened (convAt 0 1 1 mul [capture])).Issues ((opened (convAt 0 1 1 mul [capture])).th 1) i) ∧
    (base.conv 1 7).signed = 0 ∧ ((opened (convAt 64 2 2 mul [])).conv 1 7).signed ≠ 0 ∧ ((opened (convAt 64 2 2 mul [])).conv 1 7).pc ≠ 0 ∧
    ((opened (convAt 0 1 1 mul [capture])).conv 1 7).signed &&& 1#32 <<< 0 ≠ 0 ∧ metaBad .bf16 false (base.rdRun (base.th 1) .b32 (.v 112) 4) ≠ none ∧
    metaBad .bf16 false (rising.rdRun (rising.th 1) .b32 (.v 112) 4) = none ∧ base.flagFull ((onTh fun u => { u with flags := u.flags.set 0 63 }).th 1) (some 0) = true ∧
    base.flagFull (base.th 1) (some 0) = false ∧ base.flagFull (base.th 1) none = false := by
  refine ⟨all_issue ?_, all_issue ?_, all_issue ?_, ?_, ?_, ?_, ?_, ?_, ?_, ?_, ?_, ?_⟩ <;> decide +kernel

/-- Every tile of the core is in use: by this group; by another one. -/
def own64 : State := base.modGroup 1 fun g => { g with tiles := (upto 64).map fun k => (k + 64, []) }
def other64 : State := { base with groups := base.groups ++ [{ Group.fresh 2 1 1 5 .none 1 with tiles := (upto 64).map fun k => (k, []) }] }
/-- The thread waits for tile 3 there. -/
def tileHeld : State := (other64.modTh 1 fun u => { u with hold := .tile 3 0 })

theorem witness_SignatureIssues : ((base.conv 1 7).present = 0 ∧ (opened (convAt 0 1 1 mul [capture])).conv 1 7 = convAt 0 1 1 mul [capture]) ∧
    ((mul.mat.map fun f => f.bad (slotOf plainSlot) (slotOf plainSlot)) = some none ∧
      ((Instr.mma t .cb4 .cb4 false false false (.v 0) (.v 120) (.v 40) 0 5 6 7).mat.map fun f => f.bad (slotOf plainSlot) (slotOf plainSlot)) = some (some 5)) ∧
    (base.tileUse 1 63 = .ready ∧ own64.tileUse 1 0 = .fail ∧ other64.tileUse 1 0 = .wait) ∧
    ((base.liveOf 1).map Thread.id = [1] ∧ (base.ctxOf (base.th 1)).halted = false) ∧ ((base.liveOf 2).map Thread.id = []) ∧
    ((tileHeld.core (tileHeld.group 1).core).matQueue = [] ∧ ((tileHeld.liveOf 1).filter fun v => match v.hold with | .tile k _ => k == 3 | _ => false).map Thread.id = [1]
      ∧ 0 + 2 ^ 20 ≤ ({ tileHeld with cycle := 2 ^ 20 } : State).cycle) := by decide +kernel

/-- An operation of the engine. -/
def matOp (i : Instr) (wait : List Nat) : MatOp := ⟨[], false, 5, none, 0, 0, 1, i, 1, [capture], plainSlot, plainSlot, wait⟩
def queued (o : MatOp) : State := base.modCore 1 fun c => { c with matQueue := [o], matRun := [o] }
/-- ACCZ with a release, without. -/
def zero (rel : Bool) : Instr := .accz t rel 0 7
/-- A queue in which an earlier operation on the number still waits for a tile; in which a later one follows. -/
def behind : State := base.modCore 1 fun c => { c with matQueue := [{ matOp (zero false) [] with id := 4, tileWait := some 0 }, matOp (zero true) []] }
def before : State := base.modCore 1 fun c => { c with matQueue := [matOp (zero true) [], { matOp (zero false) [] with id := 6 }] }

theorem witness_SignatureReleases : ((opened (convAt 0 1 1 (zero true) [capture])).conv 1 7).present ≠ 0 ∧
    ((base.enterMat 1 (convAt 0 1 1 (zero true) [capture]) (zero true) 0 0 none).core 1).matQueue.length = 1 ∧
    (matOp (zero true) []).instr.tileNo = 0 ∧ (behind.matQueued.map fun y => (y.on 1 0, y.id, y.tileWait)) = [(true, 4, some 0), (true, 5, none)] ∧
    ((queued (matOp (zero true) [])).matQueued.map fun y => (y.id, y.tileWait)) = [(5, none)] ∧ (before.matQueued.map fun y => (y.on 1 0, y.id)) = [(true, 5), (true, 6)] ∧
    ({ matOp (zero true) [] with lost := true } : MatOp).lost = true ∧ (opened (convAt 0 1 1 mul [capture])).nowCycle ≤ 0 + 2 ^ 20 ∧
    0 + 2 ^ 20 < ({ base with cycle := 2 ^ 20 + 1 } : State).nowCycle := by decide +kernel

/-- An earlier operation on the tile stands in the engine of core 2, where its group was. -/
def elsewhere : State := (queued (matOp mul [])).modCore 2 fun c => { c with matQueue := [{ matOp mul [] with id := 3 }] }
/-- A multiplication with BURST; an engine after 64 and after 48 of them, of which the last ends as the next may start. -/
def burst : Instr := .mma t .e4m3 .e5m2 false true false (.v 0) (.v 120) (.v 40) 63 0 0 7
def afterRun (n : Nat) : State := base.modCore 1 fun c => { c with matFree := 40, runEnd := 40, runLen := n }

/-- BURST = 1: the 65th multiplication of a run without a token, the 49th, and a token held. -/
theorem witness_MatrixEngine_burst : burst.burst = true ∧ (let c := (afterRun 64).core 1; 0 < c.runLen ∧ max c.matFree (matOp burst []).since = c.runEnd ∧ c.runLen + 1 = 65) ∧
    ((afterRun 48).core 1).runLen + 1 = 49 ∧ ((afterRun 64).ring 0).held = [] ∧ dieOf 1 < (afterRun 64).rings.length ∧
    (((afterRun 64).startMul 1 (matOp burst [])).core 1).matFree = 40 + 16 ∧ (((afterRun 48).startMul 1 (matOp burst [])).ring 0).requests = [gladeOf 1 % 12] ∧
    gladeOf 1 % 12 = 0 ∧ ((base.modRing 0 fun r => { r with held := [(0, 0)] }).ring 0).held = [(0, 0)] := by decide +kernel

/-- The ring of die 0: station 1 asks, a token stands at station 0. -/
def asked : State := base.modRing 0 fun r => { r with requests := [1] }
/-- Station 0 holds one since cycle 0, asked for by station 5 or not, bound to release it or not, at cycle `c`. -/
def held (asks : List Nat) (leaving : List (Nat × Nat)) (c : Nat) : State :=
  { base.modRing 0 fun r => { r with moved := c, held := [(0, 0)], free := r.free.tail, requests := asks, leaving := leaving } with cycle := c }
/-- The ring of a die as `held` leaves it, up to date. -/
def heldRing (s : State) : Ring := (s.ringNow 0).ring 0

theorem witness_MatrixEngine : (startable (base.matWaiting 1) [] = none) ∧ (((queued (matOp mul [])).matWaiting 1).map MatOp.id) = [5] ∧
    (startable ((elsewhere).matWaiting 1) [] = none ∧ (elsewhere.matQueued.map MatOp.id) = [5, 3]) ∧ ((queued (matOp mul [])).core 1).matQueue = [matOp mul []] ∧
    (startable [matOp mul []] [] = some (matOp mul []) ∧ startable [matOp (zero false) []] [] = some (matOp (zero false) []) ∧
      startable [matOp mul [9], { matOp mul [] with id := 6 }] [] = none ∧ startable [{ matOp mul [] with tileWait := some 0 }, { matOp (zero false) [] with id := 6 }] [] ≠ none) ∧
    mul.mat ≠ none ∧ (zero false).mat = none ∧ mul.burst = false ∧ (((queued (matOp (zero true) [])).core 1).matQueue.filter fun o => Machine.Instr.releases o.instr) ≠ [] ∧
    ((queued (matOp mul [])).nowCycle < (({ Core.fresh 1 with matFree := 100 } : Core)).matFree ∧ ¬(queued (matOp mul [])).nowCycle < (base.core 1).matFree) ∧
    ((((queued (matOp mul [])).core 1).matRun.find? fun o => decide (o.done ≤ base.cycle)) = some (matOp mul []) ∧ (matOp mul []).lost = false ∧
      (({ matOp mul [] with done := base.cycle + 1 } : MatOp).done > base.cycle)) ∧
    ((∀ p ∈ (base.ring 0).free, p < 12) ∧ (base.ring 0).moved + 2 * 12 ≤ 25 ∧ 25 < (base.ring 0).moved + 2 * 12 + 2) ∧
    (0 < asked.rings.length ∧ 1 ∈ (asked.ring 0).requests ∧ (asked.ring 0).requests.Nodup ∧ (0 + 1) % 12 = 1 ∧ 0 ∈ (asked.ring 0).free ∧ 10 ∉ (base.ring 0).free) ∧
    assoc (base.ring 0).held 11 = none := by decide +kernel

/-- The cases of a token's release: 256 cycles after the last long run; before that, unasked; asked for less than 65,536 cycles, for as many
with every engine idle, and at the end that was then set. -/
theorem witness_TokenRelease : (assoc (heldRing (held [] [] 256)).held 0 = some 0 ∧ (assoc (heldRing (held [] [] 256)).idleSince 0).getD 0 + 256 ≤ (held [] [] 256).nowCycle) ∧
    ((held [] [] 255).nowCycle < 256 ∧ assoc (heldRing (held [] [] 255)).leaving 0 = none ∧ (heldRing (held [] [] 255)).requests = []) ∧
    (let s := (held [5] [] 65535).modRing 0 fun r => { r with idleSince := [(0, 65500)] }
     assoc (heldRing s).held 0 = some 0 ∧ s.nowCycle < 65500 + 256 ∧ (heldRing s).requests = [5] ∧ s.nowCycle < 0 + 65536) ∧
    (let s := (held [5] [] 65536).modRing 0 fun r => { r with idleSince := [(0, 65500)] }
     assoc (heldRing s).held 0 = some 0 ∧ (heldRing s).requests = [5] ∧ assoc (heldRing s).leaving 0 = none ∧ 0 + 65536 ≤ s.nowCycle ∧
       ∀ c ∈ gladeCores 0, (s.core c).runEnd ≤ s.nowCycle) ∧
    assoc (heldRing (held [5] [(0, 65600)] 65600)).leaving 0 = some 65600 ∧ 65600 ≤ (held [5] [(0, 65600)] 65600).nowCycle := by
  refine ⟨?_, ?_, ?_, ?_, ?_, ?_⟩ <;> decide +kernel

theorem witness_MatrixProduct : ([capture, { capture with rank := 31, thread := 2 }].map Capture.rank).Nodup ∧
    ([capture, { capture with rank := 31, thread := 2 }].all fun c => decide (c.rank < 32)) = true ∧ Sparse.wf ([(1023, 1)] : Sparse 32) = true ∧
    (mul.mat.map MatForm.sparse) = some none ∧ (slotOf plainSlot).scaled = false := by decide +kernel

/-- A window of 1 KiB; its address in v18. -/
def windowed : State := (room.modTeam 1 fun m => { m with spadK := 1 })
/-- v18 and v19 hold an address of the mapped page. -/
def pointed (lo : Word) (s : State) : State := s.modTh 1 fun u => u.putRun 18 [lo, 0]
def moves : List Instr := [.accld t .f32 .g 7 (.v 18) 63, .accld fa .s32 .t 0 (.k 0) 0, .accst t .f32 .bf16 .g 7 (.v 18) 63, .accst fa .s32 .none .t 0 (.k 0) 0]

theorem witness_TileMoves : (∀ i ∈ moves, (pointed 0x10080 windowed).Runs ((pointed 0x10080 windowed).th 1) i) ∧
    (∀ i ∈ moves, own64.Runs (own64.th 1) i) ∧ (∀ i ∈ moves, other64.Runs (other64.th 1) i) ∧
    okOf ((pointed 0x10080 windowed).loadG ((pointed 0x10080 windowed).th 1) false 0x10080 128).2 = some (List.replicate 128 0) ∧
    okOf (windowed.loadW (windowed.th 1) .t 0 128).2 = some (List.replicate 128 0) ∧ errOf (windowed.loadW (windowed.th 1) .t 1024 128).2 = some (.fault .notPresent 1024) ∧
    (base.tileBusy (base.th 1) 63 = false ∧ (opened (convAt 0 1 1 mul [capture])).tileBusy ((opened (convAt 0 1 1 mul [capture])).th 1) 63 = true) ∧
    okOf (windowed.storeG (windowed.th 1) false 0x1FF80 7 (List.replicate 128 1)).2 = some () ∧
    errOf (windowed.storeW (windowed.th 1) .t 1 (List.replicate 128 1)).2 = some (.fault .alignment 1) := by
  refine ⟨all_run ?_, all_run ?_, all_run ?_, ?_, ?_, ?_, ?_, ?_, ?_⟩ <;> decide +kernel

/-- A flagged ACCLD in flight with its row, and with a fault. -/
def rowLoading (e : Option (Cause × DWord)) : State := { windowed with ops := [{ opOf 9 (.accld fa .s32 .t 0 (.k 0) 0) (0 :: List.replicate 32 5) [] with fault := e }] }

theorem witness_TileMoves_completion : ((rowLoading none).op? 9).map (fun o => (o.instr, o.fault, o.data)) =
      some (.accld fa .s32 .t 0 (.k 0) 0, none, 0 :: List.replicate 32 5) ∧
    ((rowLoading (some (.notPresent, 0))).op? 9).map Op.fault = some (some (.notPresent, 0)) := by decide +kernel

/-! ## Memory -/

/-- `room` with other permissions: none but valid; sealed; append only; supervisor. -/
def page (bits : Nat) : State := mapped base bits []
def sealed : State := { page 0x2F with seals := [⟨1, 1, 0x10000, 1, [2], 0, 1⟩] }
/-- The frame lies on module 5, which no link reaches. -/
def away : State := { page 0x2F with moduleNo := 5 }

theorem witness_AccessChecks : (canonicalVa (2 ^ 56) = false ∧ canonicalVa (2 ^ 56 - 8) = true ∧ (2 ^ 56 - 8) % 64 ≠ 0 ∧ canonicalVa 0x10008 = true ∧ 0x10008 % 8 = 0) ∧
    errOf (base.translate 1 1 0x10008).2 = some .notPresent ∧ (okOf (room.translate 1 1 0x10008).2).map Leaf.pa = some 0x20008 ∧
    (Acc.write.writes = true ∧ sealed.sealOf 0x20008 ≠ none ∧ Acc.read.writes = false ∧ room.sealOf 0x20008 = none) ∧
    errOf (sealed.checkVa 1 1 false .append 0x10008 8).2 = some (.sealedWrite, 0x10008) ∧
    errOf ((page 0x0F).checkVa 1 1 false .read 0x10008 8).2 = some (.permission, 0x10008) ∧ okOf ((page 0x0F).checkVa 1 1 true .read 0x10008 8).2 ≠ none ∧
    errOf ((page 0x27).checkVa 1 1 true .atomic 0x10008 8).2 = some (.permission, 0x10008) ∧
    errOf ((page 0x12F).checkVa 1 1 true .write 0x10008 8).2 = some (.appendOnly, 0x10008) ∧ okOf ((page 0x12F).checkVa 1 1 true .append 0x10008 8).2 ≠ none ∧
    (errOf (away.checkVa 1 1 true .write 0x10008 8).2 = some (.memError, 0x10008) ∧ okOf (away.checkVa 1 1 true .read 0x10008 8).2 ≠ none ∧ away.dataError 0x20008 8 = some 0x20008) ∧ errOf (room.checkVa 1 1 false .fetch 0x10008 8).2 = some (.permission, 0x10008) := by
  refine ⟨?_, ?_, ?_, ?_, ?_, ?_, ?_, ?_, ?_, ?_, ?_, ?_⟩ <;> decide +kernel

/-- One line of core 1's L1 with a dirty byte of colour 3 at each end. -/
def dirtied : State := { room with l1 := [⟨false, false, 1, 0x20000, List.replicate 64 7, 0x80000000000000FF, 0x8000000000000001, List.replicate 8 3, List.replicate 8 (1, some 0x10000)⟩] }

theorem dirtied_form : dirtied.L1Form := ⟨by decide +kernel, by simp [dirtied]⟩

theorem witness_CoreMemory : (Memory.wf room.mem = true ∧ Memory.wf dirtied.mem = true) ∧ dirtied.L1Form ∧
    ((List.replicate 64 (1 : Byte)) ≠ [] ∧ 2 ^ 52 - 64 + (List.replicate 64 (1 : Byte)).length ≤ 2 ^ 52) ∧
    (room.seals = [] ∧ room.strong (room.team (room.th 1).team).ctx = false ∧ (room.th 1).spec.isNone = true ∧
      (room.cluster (room.team (room.th 1).team).cluster).fuse = false ∧ room.hostOf (room.th 1) < 2048) ∧
    ((dirtied.l1Held 1).length + 64 / 64 + 2 ≤ 4096 ∧ 1 % 12 ∉ [0, 3, 8, 11] ∧ dirtied.hostOf (dirtied.th 1) = 1) ∧
    (dirtied.l1.all fun l => l.core == 1 && dirtied.localPa l.pa && l.dirty.getLsbD 63 && (0xFF : Byte).getLsbD (l.colours.getD (63 / 8) 0).val) = true := by
  refine ⟨?_, dirtied_form, ?_, ?_, ?_, ?_⟩ <;> decide +kernel

/-- Loads of every kind at the edges of the page. -/
def loads : List Instr := [.ld t .b32 0 .g 0 (.v 20) (.v 18) 0, .ld fa .b64 7 .g 7 (.v 112) (.v 18) 0, .ld t .s8 3 .t 0 (.v 20) (.k 0) 0,
  .ldf t .i8 false false 0 (.v 20) (.v 18) (.k 0) 0, .ldf fa .bf16 false false 0 (.v 20) (.v 18) (.k 0) 0, .fslot t 63 0 (.v 18) 0, .fslot fa 1 0 (.v 18) 0]
/-- The thread's flag 0 is full. -/
def fullFlag (s : State) : State := s.modTh 1 fun u => { u with flags := u.flags.set 0 63 }
def atTop : State := pointed 0x1FFC0 windowed
/-- A load in flight, with its fault or its registers. -/
def loading : State := { base with ops := [opOf 9 (.ld fa .b32 0 .g 0 (.v 20) (.v 18) 0) [] [], opOf 10 (.fslot fa 1 0 (.v 18) 0) [] []] }

/-- A second thread of the context on core 2. -/
def apart : State := { base with
  threads := base.threads ++ [{ base.th 1 with id := 2, group := 2 }], groups := base.groups ++ [{ base.group 1 with id := 2, core := 2 }] }

theorem witness_Loads : (∀ i ∈ loads, atTop.Runs (atTop.th 1) i) ∧ (∀ i ∈ [Instr.ld fa .b32 0 .g 0 (.v 20) (.v 18) 0, .ldf fa .bf16 false false 0 (.v 20) (.v 18) (.k 0) 0, .fslot fa 1 0 (.v 18) 0],
      (fullFlag atTop).Runs ((fullFlag atTop).th 1) i) ∧ (fullFlag atTop).flagFull ((fullFlag atTop).th 1) (((fullFlag atTop).th 1).flagOf .fa) = true ∧
    atTop.flagFull (atTop.th 1) ((atTop.th 1).flagOf .fa) = false ∧ okOf (atTop.loadElems (atTop.th 1) false .b64 8 (atTop.addrG (atTop.th 1) (.v 18) 0)).2 = some (List.replicate 16 0) ∧
    errOf (base.loadElems (base.th 1) false .b64 8 0).2 = some (.fault .notPresent 0) ∧ okOf (atTop.loadW (atTop.th 1) .t 1020 4).2 = some [0, 0, 0, 0] ∧
    okOf (atTop.ldfOp (atTop.th 1) .i8 false false 0x1FFC0 0).2 ≠ none ∧ errOf (base.ldfOp (base.th 1) .i8 false false 0 0).2 = some (.fault .notPresent 0) ∧
    okOf (atTop.loadG (atTop.th 1) false 0x1FFC0 64).2 = some (List.replicate 64 0) ∧ slotInvalid 0 = false ∧ slotInvalid 1 = true ∧
    (63 < 64 ∧ base.contexts.any (fun c => c.id == 1) = true ∧ (base.ctx 1).slots.length = 64 ∧ apart.hostOf (apart.th 2) = 2 ∧ (apart.th 2).status = .live) ∧
    ((loading.op? 9).map Op.instr = some (.ld fa .b32 0 .g 0 (.v 20) (.v 18) 0) ∧ (loading.op? 10).map Op.instr = some (.fslot fa 1 0 (.v 18) 0)) := by
  refine ⟨all_run ?_, all_run ?_, ?_, ?_, ?_, ?_, ?_, ?_, ?_, ?_, ?_, ?_, ?_, ?_⟩ <;> decide +kernel

/-- A load of flag 0 is in flight, with its register, and with a fault. -/
def landing (e : Option (Cause × DWord)) : Op := { opOf 9 (.ld fa .b32 0 .g 0 (.v 20) (.v 18) 0) [] [] with
  wbase := (base.th 1).wbase, writes := if e.isSome then [] else [(20, 7), (127, 8)], fault := e }

theorem witness_Loads_completion : (flagged.th 1).status = .live ∧ (flagged.th 1).hold ≠ .flags ∧ (flagged.th 1).spec = none ∧ flagged.pendOf (flagged.th 1).group = [] ∧
    (landing none).flag = some 0 ∧ (landing none).held = false ∧ 0 < (flagged.th 1).flagCount 0 ∧ (landing none).wbase = (flagged.th 1).wbase ∧
    ((landing none).writes.all fun w => decide (w.1 < 128)) = true ∧ ((landing none).writes.map Prod.fst).Nodup ∧
    (landing (some (.notPresent, 4))).fault = some (.notPresent, 4) ∧ (apart.team (apart.th 2).team).ctx = 1 ∧ apart.hostOf (apart.th 1) = 1 := by decide +kernel

/-- Slot 1 holds e4m3 codes, and the page names it. -/
def coded : State := (page (0x2F + 2 ^ 16)).modCtx 1 fun c => { c with slots := c.slots.set 1 0x12 }
/-- A store in flight. -/
def storing : State := { room with ops := [opOf 9 (.st fa .b32 0 .g 0 (.v 20) (.v 18) 0) [0x10000, 4] []] }

theorem witness_Stores : (∀ i ∈ [Instr.st t .b128 3 .g 7 (.v 112) (.v 18) 0, .st fa .n8 0 .t 0 (.v 20) (.k 0) 0], atTop.Runs (atTop.th 1) i) ∧
    (∀ i ∈ [Instr.st fa .n8 0 .t 0 (.v 20) (.k 0) 0], (fullFlag atTop).Runs ((fullFlag atTop).th 1) i) ∧
    okOf (atTop.storeSp (atTop.th 1) .g (.v 18) 0 7 true (List.replicate 64 1)).2 = some () ∧
    errOf (atTop.storeSp (atTop.th 1) .t (.k 0) 1024 0 true [1]).2 = some (.fault .notPresent 1024) ∧
    errOf ((({ windowed with ranges := [⟨9, 1, 0, 8⟩] } : State)).storeSp (windowed.th 1) .t (.k 0) 7 0 true [1]).2 = some (.stall (.range 1 7 1)) ∧
    (coded.checkCore (coded.th 1) false .write 0x10000 4).2.toOption.map (fun l => coded.formatted 1 1 l) = some true ∧
    (room.checkCore (room.th 1) false .write 0x10000 4).2.toOption.map (fun l => room.formatted 1 1 l) = some false ∧
    ((storing.op? 9).map Op.data = some [0x10000, 4] ∧ (storing.th 1).spec.isNone = true ∧ (okOf (storing.translate 1 1 0x10000).2).isSome = true) ∧
    (okOf (windowed.windowAligned (windowed.th 1) .t 1023 1) = some (1, 1023) ∧ windowed.rangeBusy 1 1023 1 = false ∧ (windowed.team 1).objs = [] ∧
      Sparse.wf (w := 8) (windowed.team 1).spad = true ∧ (windowed.teams.map Team.id).Nodup) := by
  refine ⟨all_run ?_, all_run ?_, ?_, ?_, ?_, ?_, ?_, ?_, ?_⟩ <;> decide +kernel

/-- A store of a thread that speculates since before it: it stays in the speculative buffer; one from before stays in flight. -/
theorem witness_Stores_speculative : let o := opOf 9 (.st fa .b32 0 .g 0 (.v 20) (.v 18) 0) [0x10000, 4] []
    let at_ := fun n => room.modTh 1 fun u => { u with spec := some { (default : SpecRec) with ord := n } }
    (at_ 9).specStoreOp o = true ∧ (at_ 10).specStoreOp o = false ∧ room.specStoreOp o = false := by decide +kernel

def atomics : List Instr := [.atom t .add .f64 true true .dom .g 7 (.v 20) (.v 18) (.v 22) (.v 0) 0, .atom fa .cas .b32 false false .thr .g 0 (.v 20) (.v 18) (.v 21) (.v 22) 4,
  .atom t .dec .n64 false false .thr .t 0 (.v 20) (.k 0) (.v 22) (.v 0) 0]

theorem witness_Atomics : (∀ i ∈ atomics, atTop.Runs (atTop.th 1) i) ∧ (∀ i ∈ [Instr.atom fa .cas .b32 false false .thr .g 0 (.v 20) (.v 18) (.v 21) (.v 22) 4],
      (fullFlag atTop).Runs ((fullFlag atTop).th 1) i) ∧
    ((okOf (atTop.checkCore (atTop.th 1) false .atomic 0x1FFC0 8).2).map (fun l => l.pa) = some 0x2FFC0) ∧
    errOf (base.checkCore (base.th 1) false .atomic 0 8).2 = some (.fault .notPresent 0) ∧
    (okOf (coded.checkCore (coded.th 1) false .atomic 0x10000 8).2).map (fun l => coded.formatted 1 1 l) = some true ∧
    (okOf (atTop.checkCore (atTop.th 1) false .atomic 0x1FFC0 8).2).map (fun l => (atTop.formatted 1 1 l, okOf (atTop.atomGlobal (atTop.th 1) .add .n64 0 0x1FFC0 l 5 0).2)) = some (false, some 0) ∧
    okOf (atTop.windowAligned (atTop.th 1) .t 1016 8) = some (1, 1016) ∧ atTop.rangeBusy 1 1016 8 = false ∧
    ({ atTop with ranges := [⟨9, 1, 1016, 1020⟩] } : State).rangeBusy 1 1016 8 = true := by
  refine ⟨all_run ?_, all_run ?_, ?_, ?_, ?_, ?_, ?_, ?_, ?_⟩ <;> decide +kernel

/-- A write to another module is on its way until cycle 9. -/
def farther : State := { atTop with far := [9] }

theorem witness_Atomics_far : (farther.publish 1 .dom (1#8 <<< 7)).farBusy = true ∧ (atTop.publish 1 .dom (1#8 <<< 7)).farBusy = false := by decide +kernel

theorem witness_AtomicValues : (Ty.n64 ∈ [Ty.s32, .n32, .s64, .n64, .b32, .b64] ∧ 2 ^ 64 - 1 < 2 ^ Ty.n64.bits) ∧ (base.localPa (2 ^ 46 - 8) = true ∧ (2 ^ 46 - 8) % 2 ^ 46 + Ty.n64.bits / 8 ≤ 2 ^ 46 ∧
    Memory.wf base.mem = true) ∧ atomNew .dec .n32 0 9 0 = some 9 ∧ atomNew .inc .n32 9 9 0 = some 0 ∧ atomNew .cas .b32 1 2 3 = none ∧
    (base.localPa 0 = true ∧ 0 % 2 ^ 46 < (2 ^ 46 - 8) % 2 ^ 46) := by decide +kernel

/-- A contribution in the thread's buffer; a flush point with one batch of it. -/
def entry0 : RedEntry := ⟨(leafOf 0x2F).toNat, 0x20000, 0x10000, .add, .n32, 0, 5⟩
def buffered (s : State) : State := s.modTh 1 fun u => { u with redBuf := [entry0] }
def flushing : State := { room with points := [⟨[], 9, 1, true, none, none, none, 0, 0⟩], batches := [⟨1, 0, 0, 9, 1, 1, entry0⟩] }

theorem witness_Reductions : (∀ i ∈ [Instr.pref t true 15 (.v 18) 0, .red t .add .n32 7 (.v 18) (.v 20) 0, .flushred t], (pointed 0x10000 room).Runs ((pointed 0x10000 room).th 1) i) ∧
    (∀ i ∈ [Instr.flushred t, .flushred fa], (buffered room).Runs ((buffered room).th 1) i) ∧ (∀ i ∈ [Instr.flushred fa], (fullFlag (buffered room)).Runs ((fullFlag (buffered room)).th 1) i) ∧
    errOf (base.checkCore (base.th 1) false .atomic 0 4).2 = some (.fault .notPresent 0) ∧
    (okOf (room.checkCore (room.th 1) false .atomic 0x10000 4).2).map (fun l => room.formatted 1 1 l) = some false ∧
    ((base.th 1).redBuf = [] ∧ ((buffered room).th 1).redBuf ≠ []) ∧ flushing.points.find? (fun p => p.id == 8) = none ∧
    ((flushing.points.find? (fun p => p.id == 9)).map PointRec.thread = some 1 ∧ (flushing.closePoints [9]).2 = []) := by
  refine ⟨all_run ?_, all_run ?_, all_run ?_, ?_, ?_, ?_, ?_, ?_⟩ <;> decide +kernel

/-- A publish of the thread in progress, for which it is held; a copy and a held fault of the load class. -/
def publishing : State := { onTh fun u => { u with hold := .publish 9 } with publishes := [⟨9, 1, 1, 0xFF, .dom, true, none⟩] }
def copying : State := { base with ops := [opOf 9 (.cpy fa false .t false 0 0 .rn (.v 26) (.v 24) (.v 0) 1) [] []] }
def heldFault : State := onTh fun u => { u with faults := [{ faultRec with instr := .cpy fa false .t false 0 0 .rn (.v 26) (.v 24) (.v 0) 1 }] }

theorem witness_Fences : (∀ i ∈ [Instr.fence t true true .dom 0xFF, .fence t true true .thr 0, .fence t true false .team 0, .fence t false true .thr 1, .xfence t 0xFF, .xfence t 1],
      base.Runs (base.th 1) i) ∧ (∀ i ∈ [Instr.xfence t 0xFF], copying.Runs (copying.th 1) i) ∧ (∀ i ∈ [Instr.xfence t 0xFF], heldFault.Runs (heldFault.th 1) i) ∧
    publishing.publishes.find? (fun p => p.id == 8) = none ∧ ((publishing.publishes.find? (fun p => p.id == 9)).map PubRec.thread = some 1 ∧ (publishing.th 1).hold = .publish 9 ∧
      (publishing.th 1).status = .live) ∧ (copying.ops.any fun o => o.thread == 1 && maskNames 0xFF o.instr) = true ∧
    ((heldFault.th 1).faults.find? fun f => maskNames 0xFF f.instr).isSome = true := by
  refine ⟨all_run ?_, all_run ?_, all_run ?_, ?_, ?_, ?_, ?_⟩ <;> decide +kernel

/-! ## Barrier objects -/

/-- The window holds a valid object at 64 (1 arrival expected, no bytes, speculation allowed), in its phase 0; one that has an error; one with a waiting thread. -/
def objected : State := ((windowed.modTeam 1 fun m => { m with specS := 0 }).objInit 1 64 false false true 1 0)
def erred : State := objected.objSet 1 64 oFLAGS (8 + 4 + 16)
def passed : State := objected.objSet 1 64 oPHASE 1
def barriers : List Instr := [.binit t .t false false true (.k 0) (.k 1) (.k 0) 64, .binit t .t false true false (.k 0) (.k 0) (.k 0) 512, .binval t .t (.k 0) 64,
  .arrive t .t true (.v 20) (.k 0) (.k 1) (.k 0) 64, .wait t .t true true (.v 20) (.k 0) (.k 0) 64, .btest t .t 7 (.k 0) (.k 0) 64]

/-- A publish of scope .dom that counts an arrival at 64, with recorded ranges `r` and writes to other modules on their way until the cycles `f`; a
flagged flush point of the thread. -/
def arriving (r : List RangeRec) (f : List Nat) : State := { objected with
  far := f, ranges := r, publishes := [⟨9, 1, 1, 0xFF, .dom, true, some ⟨1, 64, 1, 0, none, 7⟩⟩] }
def pointOut : State := { base with points := [⟨[], 9, 1, false, some 0, none, none, 0, 0⟩] }

theorem witness_Fences_more : (∀ i ∈ [Instr.xfence t 1], pointOut.Runs (pointOut.th 1) i) ∧ (pointOut.points.any fun p => p.thread == 1 && p.flag.isSome) = true ∧
    ((arriving [⟨9, 1, 64, 68⟩] []).rangeBusy 1 64 ((arriving [] []).objLen 1 64) = true ∧ (arriving [] []).rangeBusy 1 64 ((arriving [] []).objLen 1 64) = false) ∧
    (((arriving [] [9]).publish 1 .dom 0xFF).farBusy = true ∧ ((arriving [] []).publish 1 .dom 0xFF).farBusy = false) ∧
    (let s := arriving [] []
     let y := s.publish 1 .dom 0xFF
     let z := ({ y with publishes := [] } : State).acquireBy (y.th 1) .dom
     ((z.objCount 1 64 1 0).th 1).status = .live ∧ ((z.objCount 1 64 1 0).th 1).hold ≠ .publish 9) ∧
    (base.scopeHere (base.th 1) .team = true ∧ apart.scopeHere (apart.th 1) .team = false ∧ base.scopeHere (base.th 1) .dom = false) := by
  refine ⟨all_run ?_, ?_, ?_, ?_, ?_, ?_⟩ <;> decide +kernel

theorem witness_BarrierInstructions : (∀ i ∈ barriers, windowed.Runs (windowed.th 1) i) ∧ (∀ i ∈ barriers, objected.Runs (objected.th 1) i) ∧
    (∀ i ∈ barriers, passed.Runs (passed.th 1) i) ∧ okOf (objected.objAt (objected.th 1) .t (.k 0) 960) = some (1, 960, 960) ∧
    errOf (objected.objAt (objected.th 1) .t (.k 0) 1) = some (.fault .alignment 1) ∧
    errOf (({ objected with ranges := [⟨9, 1, 64, 68⟩] } : State).objAt (objected.th 1) .t (.k 0) 64) = some (.stall (.range 1 64 64)) ∧
    (windowed.objValid 1 64 = false ∧ objected.objValid 1 64 = true ∧ objected.objCex 1 64 = false) ∧
    (objected.obj 1 64 oWCNT = 0 ∧ objected.obj 1 64 oPEND = 0 ∧ objected.obj 1 64 oSGRP = 0) ∧ (objected.objSet 1 64 oWCNT 1).obj 1 64 oWCNT ≠ 0 ∧
    (word (objected.obj 1 64 oPHASE) = 0 ∧ word (passed.obj 1 64 oPHASE) ≠ 0 ∧ passed.objErr 1 64 = false ∧ erred.objErr 1 64 = true) ∧
    objected.canSpec (objected.th 1) 1 64 = false ∧
    ((larger.modTeam 1 fun m => { m with spadK := 2, specS := 1, specCtl := 0x80000020 }).objInit 1 64 false false true 1 0).canSpec (larger.th 1) 1 64 = true := by
  refine ⟨all_run ?_, all_run ?_, all_run ?_, ?_, ?_, ?_, ?_, ?_, ?_, ?_, ?_, ?_⟩ <;> decide +kernel

/-- An object with a completion map at 64, its map in a recorded range; BINIT.cex at 960 has no room for a map. -/
def mapped1 : State := windowed.objInit 1 64 false true false 0 0

theorem witness_BarrierInstructions_maps : mapped1.objCex 1 64 = true ∧ mapped1.rangeBusy 1 (64 + 64 + 0 / 4) 1 = false ∧
    ({ mapped1 with ranges := [⟨9, 1, 128, 132⟩] } : State).rangeBusy 1 (64 + 64 + 0 / 4) 1 = true ∧
    ({ windowed with ranges := [⟨9, 1, 188, 192⟩] } : State).rangeBusy 1 64 (64 + mapBytes (windowed.team 1).tsize) = true ∧
    okOf (windowed.window (windowed.th 1) .t 896 (64 + mapBytes (windowed.team 1).tsize)) = some (1, 896) ∧
    okOf (windowed.objAt (windowed.th 1) .t (.k 0) 960) = some (1, 960, 960) ∧
    errOf (windowed.window (windowed.th 1) .t 960 (64 + mapBytes (windowed.team 1).tsize)) = some (.fault .notPresent 960) := by decide +kernel

/-- A phase of the object has completed; a thread speculates past it, with a flag up and without. -/
def phased : State := { objected with phases := [⟨1, 64⟩] }
def specRec : SpecRec := ⟨0, 1, 64, 0x40, false, 0, Vector.replicate 128 1, 0, 0, 1, 0, none, none, 64, [], none⟩
def speculating : State := objected.modTh 1 fun u => { u with spec := some specRec }

theorem witness_BarrierPhases : ((objected.teams.find? (fun x => x.id == 1)).map Team.id = some 1 ∧ Sparse.wf (w := 8) (objected.team 1).spad = true ∧ 2 ^ 32 - 1 < 2 ^ 32) ∧
    (objected.obj 1 64 oEXPA < objected.obj 1 64 oARRV + 2 ∧ objected.obj 1 64 oARRV + 1 ≤ objected.obj 1 64 oEXPA ∧ objected.obj 1 64 oEXPB < objected.obj 1 64 oLAND + 1 ∧
      objected.obj 1 64 oLAND + 0 ≤ objected.obj 1 64 oEXPB) ∧ objected.phases = [] ∧
    ((⟨1, 64⟩ : PhaseRec) ∈ phased.phases ∧ phased.points = [] ∧ (phased.team 1).specObjs = [] ∧ (phased.threads.map Thread.hold) = [.none]) ∧
    (objected.specThreads 1).length = 0 ∧ ((speculating.specThreads 1).map Thread.id = [1] ∧ (speculating.th 1).spec = some specRec ∧ speculating.ops = [] ∧
      (speculating.threads.map Thread.id).Nodup ∧ (speculating.th 1).flagBits = 0) ∧ ((speculating.modTh 1 fun u => u.flagUp 0).th 1).flagBits ≠ 0 := by
  refine ⟨?_, ?_, ?_, ?_, ?_, ?_, ?_⟩ <;> decide +kernel

/-- The phase has completed and the thread waits at the object, with a destination and without. -/
def waitingAt (d : Option Opd) : State := (phased.modTh 1 fun u => { u with hold := .waitObj 1 64 64 0 d }).objSet 1 64 oWCNT 1

theorem witness_BarrierPhases_waiting : ∀ d ∈ [none, some (.v 20)], let s := waitingAt d
    (⟨1, 64⟩ : PhaseRec) ∈ s.phases ∧ s.points = [] ∧ (s.team 1).specObjs = [] ∧ s.objErr 1 64 = false ∧ (s.threads.map Thread.id).Nodup ∧
    (s.teams.find? (fun x => x.id == 1)).map Team.id = some 1 ∧ Sparse.wf (w := 8) (s.team 1).spad = true ∧ s.obj 1 64 oWCNT = 1 ∧
    ((s.threads.filter fun u => u.status == .live && (match u.hold with | .waitObj a b _ _ _ => a == 1 && b == 64 | _ => false)).map Thread.id) = [1] ∧
    (s.team (s.th 1).team).state = .resident ∧ (s.th 1).hold = .waitObj 1 64 64 0 d := by decide +kernel

theorem witness_BarrierPhases_rollback : (speculating.th 1).pend = none ∧ word (speculating.obj 1 64 oPHASE) = specRec.operand ∧
    (speculating.teams.all fun m => Sparse.wf (w := 8) m.spad) = true ∧ (speculating.teams.any fun m => m.id == 1) = true := by decide +kernel

/-! ## Engines -/

/-- Handle table at 0x10000: a copy tile of one 4-byte element, an f32 tensor of 4 by 4 at 0x18000, a node layout of 16-byte records
at 0x1C000 for 256 bytes over that tensor, a binding of log 1 (R328, R330, R333, R335, R339). -/
def table : List (Nat × Byte) := [(0x10000, 4), (0x10001, 2), (0x10004, 1), (0x10006, 1), (0x10008, 1), (0x10040, 1), (0x10042, 0x0F), (0x10044, 4), (0x10048, 4),
  (0x10051, 0x80), (0x10052, 1), (0x10058, 64), (0x10080, 2), (0x10081, 4), (0x10086, 8), (0x10088, 64), (0x1008A, 32), (0x1008B, 0x0F), (0x1008C, 8),
  (0x1008E, 0xFF), (0x1008F, 0xFF), (0x10090, 0xFF), (0x10091, 0xFF), (0x10092, 96), (0x10094, 8), (0x10096, 16), (0x10098, 8), (0x1009A, 24), (0x1009C, 8),
  (0x1009E, 32), (0x100A0, 1), (0x100A9, 0xC0), (0x100AA, 1), (0x100B1, 1), (0x100C0, 3), (0x100C4, 1)]
/-- A log of one segment at 0x10000, of context 1. -/
def log1 : LogRec := ⟨1, 1, 0, 0x10000, 0x1F000, 1, 0, 0, true, 0⟩
/-- That table in the context, log 1 open, and a window. -/
def engined : State := { (mapped base 0x2F table).modCtx 1 fun c => { c with handles := 0x10000, handleCount := 4 } with
  logs := [log1], teams := windowed.teams }
def enginedAt (lo : Word) : State := pointed lo engined
def copy1 : Instr := .cpy t false .t false 0 0 .rn (.v 18) (.k 0) (.v 0) 0
def engines : List Instr := [copy1, .cpy fa true .t false 7 0 .rn (.v 18) (.k 0) (.v 0) 0, .fetch t 3 (.v 24) (.k 0) (.k 0) 1, .tstep t (.v 40) 7 (.v 18) (.v 20) (.v 21) 2,
  .tlog t true (.v 40) (.k 0) (.k 3) (.v 21) 3, .lds t .b32 0 .t false (.v 18) (.k 0) (.v 0) 0]

theorem witness_EngineIssue : (∀ i ∈ engines, (enginedAt 0x1C000).Runs ((enginedAt 0x1C000).th 1) i) ∧
    (∀ i ∈ [Instr.cpy fa true .t false 7 0 .rn (.v 18) (.k 0) (.v 0) 0], (fullFlag engined).Runs ((fullFlag engined).th 1) i) ∧
    errOf (engined.entry (engined.th 1) 4 tensorOk).2 = some (.reservedField, 0x10100) ∧ errOf (engined.entry (engined.th 1) 0 tensorOk).2 = some (.reservedField, 0x10000) ∧
    (okOf (engined.entry (engined.th 1) 0 (copyOk false)).2).map (fun b => ((copyTile b).span, copyOdd (copyTile b) false 0x10000 0, copyOdd (copyTile b) false 0x10002 0)) = some (4, none, some 0x10002) ∧
    (okOf (engined.entry (engined.th 1) 1 tensorOk).2).map (fun b => (tensorSlotOk (tensor b) (slotOf plainSlot), tensorSlotOk (tensor b) (slotOf 0x12))) = some (true, false) ∧
    (okOf (engined.entry (engined.th 1) 2 layoutOk).2).map (fun b => ((layout b).holds 0x1C0F0, (layout b).holds 0x1C100, (layout b).hfeat, 0x1C0F0 % (layout b).rsz, 0x1C008 % (layout b).rsz)) =
      some (true, false, 1, 0, 8) ∧
    (okOf (engined.entry (engined.th 1) 3 bindingOk).2).map (fun b => field b 4 4) = some 1 ∧ (engined.log? 1 = some log1 ∧ engined.log? 2 = none) ∧
    (engined.ops.any fun o => o.tstepOf 1) = false ∧ (stepping.ops.any fun o => o.tstepOf 1) = true ∧
    (okOf (engined.window (engined.th 1) .t 1020 4) = some (1, 1020) ∧ engined.rangeRoom 1 = true ∧ okOf (engined.barOf (engined.th 1) .t false (.v 0)) = some none ∧
      ({ engined with ranges := List.replicate 64 ⟨9, 1, 0, 4⟩ } : State).rangeRoom 1 = false) ∧
    (okOf (engined.checkCore (engined.th 1) false .read 0x1C000 1).2).map (fun l => (engined.slot 1 1 l.fs).fmt) = some 0 := by
  refine ⟨all_run ?_, all_run ?_, ?_, ?_, ?_, ?_, ?_, ?_, ?_, ?_, ?_, ?_, ?_⟩ <;> decide +kernel

/-- Slot 1 holds block-scaled e4m3 codes from 0x10000, their scales at `sb`, and the page names it. -/
def planed (sb : Nat) : State := (page (0x2F + 2 ^ 16)).modCtx 1 fun c => { c with
  slots := c.slots.set 1 (BitVec.ofNat 512 (0x112 + 0x10000 * 2 ^ 64 + sb * 2 ^ 128)) }
def ldsSource (s : State) (va : Nat) := (s.loadSource (s.th 1) false .f32 4 va fun k => slotOf (s.engSlotBits (s.th 1) .copy k)).2

/-- Sources of LDS: not present, plain, and formatted with its scales on a page that may be read and on none. -/
theorem witness_EngineIssue_sources : errOf (ldsSource base 0) = some (.fault .notPresent 0) ∧ (okOf (ldsSource engined 0x10000)).map Prod.snd = some none ∧
    (∀ sb ∈ [0x11000, 0x40000], (okOf (ldsSource (planed sb) 0x10004)).map Prod.snd = some (some (.e4m3, 4, 4))) ∧
    ((planed 0x11000).readable ((planed 0x11000).th 1) (planeBytes (slotOf ((planed 0x11000).engSlotBits ((planed 0x11000).th 1) .copy 1)) 4 4)).2.isNone = true ∧
    ((planed 0x40000).readable ((planed 0x40000).th 1) (planeBytes (slotOf ((planed 0x40000).engSlotBits ((planed 0x40000).th 1) .copy 1)) 4 4)).2.isSome = true := by
  refine ⟨?_, ?_, ?_, ?_, ?_⟩ <;> decide +kernel

/-- 64 records are held; an element type that a formatted page takes as plain bytes. -/
theorem witness_EngineIssue_records : let s := engined.modTh 1 fun u => { u with faults := List.replicate 64 faultRec }
    s.recordsOut (s.th 1) = 64 ∧ engined.recordsOut (engined.th 1) < 64 ∧ issuesB s (.lds t .b32 0 .t false (.v 18) (.k 0) (.v 0) 0) = true ∧
    Ty.b128 ∈ [Ty.b8, .b16, .b32, .b64, .b128] := by decide +kernel

/-- Operations in flight, with their bytes read from that table. -/
def entryAt (h : Nat) (ok : List Byte → Bool) : List Byte := (okOf (engined.entry (engined.th 1) h ok).2).getD []
def running : State := { engined with ops := [opOf 9 (.fetch fa 3 (.v 24) (.k 0) (.k 0) 1) [0, 0] (entryAt 1 tensorOk),
  opOf 10 (.tstep fa (.v 40) 7 (.v 18) (.v 20) (.v 21) 2) [0x1C000, 0, 0] (entryAt 2 layoutOk ++ entryAt 1 tensorOk),
  { opOf 11 (.tstep fa (.v 40) 7 (.v 18) (.v 20) (.v 21) 2) [0x1C000, 0, 0] (entryAt 2 layoutOk ++ entryAt 1 tensorOk) with thread := 1 },
  opOf 12 copy1 [0x10000, 1, 0, 4, 0, 0] (entryAt 0 (copyOk false)),
  { opOf 13 (.lds fa .b32 0 .t false (.v 18) (.k 0) (.v 0) 0) [0x10000, 1, 512, 4, 0, 0] [] with started := true }] }

theorem witness_EngineCompletion : ((running.op? 9).isSome && (running.op? 10).isSome && (running.op? 11).isSome && (running.op? 12).isSome) = true ∧
    ((running.ctx 1).frozen = false ∧ ((running.modCtx 1 fun c => { c with frozen := true }).ctx 1).frozen = true) ∧
    ((running.op? 9).bind fun o => okOf (running.fetchRun (o.fetchEnv o.bytes) 0 8 0).2) = some (List.replicate 8 0) ∧
    (running.ops.any fun p => p.tstepOf 1 && decide (p.id < 11)) = true ∧ (running.ops.all fun p => !p.tstepOf 1 || decide (10 ≤ p.id)) = true ∧
    ((running.op? 10).bind fun o => okOf (running.treeStep o).2).map (fun k => (k.d, k.leaf, k.br)) = some (0x1C000, false, 1) ∧
    ((running.op? 10).bind fun o => errOf (base.treeStep o).2) = some (.notPresent, 0x1C000) ∧
    ((running.op? 12).map Op.started = some false ∧ (running.op? 13).map Op.started = some true ∧ (running.op? 13).map (fun o => running.copyBehind o) = some false) ∧
    ((running.op? 13).bind fun o => okOf (running.ldsBytes o .b32 1).2) = some [4, 2, 0, 0] ∧
    (running.ops.find? (fun p => p.copying && gladeOf p.core == 0 && !p.started)).map Op.id = some 12 := by
  refine ⟨?_, ?_, ?_, ?_, ?_, ?_, ?_, ?_, ?_, ?_⟩ <;> decide +kernel

/-- A TLOG waits at the log engine; the log is full; its first segment is complete. -/
def logging : State := { mapped engined 0x10F [] with ops := [opOf 9 (.tlog fa true (.v 40) (.k 0) (.k 3) (.v 21) 3) [1, 0] (List.replicate 40 0)], logQueue := [9] }
def logFull : State := logging.modLog 1 fun l => { l with ap := 2 ^ 20 }

theorem witness_LogEngine : engined.nextLog 0 = none ∧ ((logging.nextLog 0).map fun p => (p.1.id, p.2)) = some (9, log1) ∧ ((logFull.nextLog 0).map fun p => p.2.ap) = some (2 ^ 20) ∧
    (log1.opened = true ∧ log1.ap < log1.nseg * 2 ^ 20) ∧
    okOf (logging.engWrite (logTlb 0) 1 true .append 0x10000 (List.replicate 64 0)).2 = some () ∧
    errOf (base.engWrite (logTlb 0) 1 true .append 0x10000 (List.replicate 64 0)).2 = some (.notPresent, 0x10000) ∧
    (logging.log? 1 = some log1 ∧ log1.ap < (log1.segs + 1) * 2 ^ 20 ∧ (logFull.log? 1).map LogRec.ap = some ((0 + 1) * 2 ^ 20)) := by
  refine ⟨?_, ?_, ?_, ?_, ?_, ?_, ?_⟩ <;> decide +kernel

theorem witness_LogEngine_segment : errOf ((base.modLog 1 id).engRead (logTlb 0) 1 true ((0x10000 + 0 * 2 ^ 20) % 2 ^ 64) (2 ^ 20)).2 = some (.notPresent, 0x10000) := by
  decide +kernel

/-- m0 and m1 hold arrays, m2 the stream of both. -/
def merging (l : List MergeReg) : State := engined.modTeam 1 fun m => { m with merge := l ++ m.merge.drop l.length }
def arrays : State := merging [.array 0x10000 1 0 none none, .array 0x10008 1 0 none none]
def streams : State := merging [.array 0x10000 1 0 none (some 2), .array 0x10008 1 0 none (some 2), .stream 1 0 1 .none none none]
def merges : List Instr := [.mopen t 7 (.v 18) (.k 10), .mint t 7 0 1, .muni t 7 0 1, .msub t 7 1 0, .mmadd t .f32 7 0 1, .mnextSt t 7 0 (.v 20) (.v 18) (.k 1), .mclose t 0]

theorem witness_MergeInstructions : (∀ i ∈ merges, (pointed 0x10008 arrays).Runs ((pointed 0x10008 arrays).th 1) i) ∧
    (∀ i ∈ [Instr.mopen t 0 (.v 18) (.k 1), .mint t 2 0 0, .mclose t 0, .mclose t 2], (pointed 0x10004 streams).Runs ((pointed 0x10004 streams).th 1) i) ∧
    (∀ i ∈ [Instr.mnext off 0 (.v 20) (.k 1)], arrays.Issues (arrays.th 1) i) ∧
    (mreg (arrays.team 1).merge 7 = .closed ∧ mreg (arrays.team 1).merge 0 ≠ .closed ∧ (mreg (arrays.team 1).merge 0).usable = true ∧ (mreg (arrays.team 1).merge 1).usable = true) ∧
    ((pointed 0x10008 arrays).rd64 ((pointed 0x10008 arrays).th 1) (.v 18) = 0x10008 ∧ (pointed 0x10004 streams).rd64 ((pointed 0x10004 streams).th 1) (.v 18) = 0x10004) ∧
    ((mreg (streams.team 1).merge 0).isBound = true ∧ (mreg (streams.team 1).merge 2).isBound = false ∧ (mreg (streams.team 1).merge 0).usable = false) ∧
    (streams.ops.all fun o => o.team != 1) = true := by
  refine ⟨all_run ?_, all_run ?_, all_issue ?_, ?_, ?_, ?_, ?_⟩ <;> decide +kernel

/-- MNEXT.st is in flight on m0, whose array has one key left; an earlier one stands before it on the tree. -/
def taking (id : Nat) : Op := opOf id (.mnextSt fa 7 0 (.v 20) (.v 18) (.k 1)) [0x10008, 1] []
def mergeStore : State := { arrays with ops := [taking 9] }
def mergeQueue : State := { arrays with ops := [taking 8, taking 9] }

/-- MNEXT.st with a full flag, behind another, over an array, into memory that cannot be written; a combination and a MCLOSE meanwhile. -/
theorem witness_MergeInstructions_store : (issuesB (fullFlag arrays) (.mnextSt fa 7 0 (.v 20) (.v 18) (.k 1)) &&
      (fullFlag arrays).flagFull ((fullFlag arrays).th 1) (((fullFlag arrays).th 1).flagOf .fa)) = true ∧
    ((mergeStore.op? 9) = some (taking 9) ∧ mergeStore.mergeBehind (taking 9) 0 = false ∧ mergeQueue.mergeBehind (taking 9) 0 = true ∧ (mergeStore.ctx 1).frozen = false) ∧
    ((mergeStore.mTake (mergeStore.team 1).home 1 false (mergeStore.team 1).merge 0 1).2.1.length = 1 ∧
      (mergeStore.mTake (mergeStore.team 1).home 1 false (mergeStore.team 1).merge 0 1).2.2.2.isNone = true ∧
      okOf (mergeStore.engWrite (engTlb 1) 1 false .write 0x10008 (List.replicate 8 0)).2 = some () ∧
      errOf (mergeStore.engWrite (engTlb 1) 1 false .write 0x20000 (List.replicate 8 0)).2 = some (.notPresent, 0x20000)) ∧
    (0 ∈ mTree (streams.team 1).merge 8 2 ∧ (mreg (streams.team 1).merge 2).isBound = false) ∧
    (mergeStore.mergeBusy 1 0 = true ∧ arrays.mergeBusy 1 0 = false ∧ mergeStore.mergeBusy 1 1 = false) := by
  refine ⟨?_, ?_, ?_, ?_, ?_⟩ <;> decide +kernel

/-! ## Tasks -/

/-- A valid record in v20 to v35: entry 0x50000, one place of EXT, HINT 0xFF, B 128, 1 KiB (R348, R349). -/
def record : List Word := [0x50000, 0, 0, 0, 0, 0x10000, 0, 0, 0xFF00, 0x10080, 0, 0, 0, 0, 0, 0]
def taskRec : TaskRec := ⟨wordsBytes record, .launch 1, none, none, 0, 0, false, true⟩
/-- Queue 0 of the context takes two records and holds `l`; the thread has the record in its registers. -/
def queueing (l : List TaskRec) : State := (room.modCtx 1 fun c => { c with queues := [⟨0x10000, 1, 0, l.length, l⟩] }).modTh 1 fun u => u.putRun 20 record
/-- The thread is held at a TPOST whose posting waits. -/
def posting : State := ((queueing [taskRec, taskRec]).modCtx 1 fun c => { c with kept := [⟨0, taskRec, some (1, .tpost t 0 (.v 20))⟩] }).modTh 1 fun u => { u with hold := .tpost 0 }
/-- The thread runs a task. -/
def tasked : State := base.modTeam 1 fun m => { m with task := some taskRec }

theorem witness_TaskInstructions : (∀ i ∈ [Instr.tpost t 0 (.v 20), .tpost fa 1 (.v 20), .tpost t 0 (.v 40), .targ t (.word 15) (.v 20)], (queueing []).Runs ((queueing []).th 1) i) ∧
    (∀ i ∈ [Instr.tpost t 0 (.v 20)], (queueing [taskRec, taskRec]).Runs ((queueing [taskRec, taskRec]).th 1) i) ∧
    (∀ i ∈ [Instr.tpost fa 0 (.v 20)], (fullFlag (queueing [])).Runs ((fullFlag (queueing [])).th 1) i) ∧
    (∀ i ∈ [Instr.targ t (.word 15) (.v 20), .targ t (.pair 14) (.v 20), .targ t .ext (.s 63)], (tasked.modTh 1 fun u => { u with handler := some ⟨0, .userTrap, 0⟩ }).Runs
      ((tasked.modTh 1 fun u => { u with handler := some ⟨0, .userTrap, 0⟩ }).th 1) i) ∧
    (((queueing []).ctx 1).queue? 1 = none ∧ ((((queueing []).ctx 1).queue? 0).map TaskQueue.tail) = some 0) ∧
    (((queueing []).ctx 1).taskOk ((queueing []).postRec ((queueing []).th 1) (.tpost t 0 (.v 20))).bytes = true ∧
      ((queueing []).ctx 1).taskOk ((queueing []).postRec ((queueing []).th 1) (.tpost t 0 (.v 40))).bytes = false) ∧
    (((queueing []).ctx 1).queueFree 0 = true ∧ ((queueing [taskRec, taskRec]).ctx 1).queueFree 0 = false) ∧
    (posting.thread? 1).map Thread.hold = some (.tpost 0) ∧ ((posting.ctxOf (posting.th 1)).kept.find? fun p => (p.post.map (·.1)) == some 1).isSome = true ∧
    (posting.cycle < 0 + 2 ^ 20 ∧ 0 + 2 ^ 20 ≤ ({ posting with cycle := 2 ^ 20 } : State).cycle) ∧ ((base.team 1).task = none ∧ (tasked.team 1).task = some taskRec) := by
  refine ⟨all_run ?_, all_run ?_, all_run ?_, all_run ?_, ?_, ?_, ?_, ?_, ?_, ?_, ?_⟩ <;> decide +kernel

/-- The team's last thread and group have ended; so have the launch's clusters. -/
def gone (s : State) : State := { s with threads := [], groups := [] }
def ending : State := { gone base with launches := base.launches.map fun l => { l with left := 0 } }

theorem witness_TaskEvents : ((firstHead [(1, 0, taskRec), (1, 1, { taskRec with bytes := wordsBytes (record.set 8 0xFF07) })]).map fun h => h.2.1) = some 1 ∧
    (queueing [taskRec]).dropDead = queueing [taskRec] ∧ ((firstHead (queueing [taskRec]).taskHeads).map fun h => (h.1, h.2.1)) = some (1, 0) ∧
    ((queueing [taskRec]).taskCores 1 taskRec).find? (fun c => (queueing [taskRec]).taskFits taskRec.bytes c) = some 0 ∧ (queueing []).taskHeads = [] ∧
    (base.teamOver 1 = false ∧ (gone base).teamOver 1 = true ∧ ((gone base).team 1).task = none ∧ (gone tasked).teamOver 1 = true ∧ ((gone tasked).team 1).task = some taskRec) ∧
    (ending.launches.find? (fun l => l.id == 2) = none ∧ (ending.launches.find? (fun l => l.id == 1)).map (fun l => (l.done, l.left, l.tasks)) = some (false, 0, 0) ∧
      (base.launches.find? (fun l => l.id == 1)).map Launch.left = some 1) := by
  refine ⟨?_, rfl, ?_, ?_, ?_, ?_, ?_⟩ <;> decide +kernel

/-! ## Duplex streams -/

/-- A bound stream at 0x10000 with G 2, P 1, K 0, 64 places and one log entry of eight that has not been taken. -/
def stream1 : Stream := ⟨1, 0x10000, 2, 1, 0, false, 0, 0x10100, 64, 1, 0x10200, 0x10300, 8, 1, 0, 0, 0, List.replicate 8 (0, 0), 0, 0, .launch 1⟩
def streaming (x : Stream) : State := { room with streams := [x] }
def duplexes : List Instr := [.dappend t true true (.v 40) (.v 18) (.k 1) (.k 0), .dcut fa true (.v 40) (.v 18), .dckpt t true (.v 18) (.v 0) (.v 0) 7,
  .dckpt t false (.v 18) (.v 20) (.v 22) 0, .dtake t (.v 40) (.v 18), .dcurs t (.v 40) (.v 18)]

theorem witness_DuplexInstructions : (∀ i ∈ duplexes, (pointed 0x10000 (streaming stream1)).Runs ((pointed 0x10000 (streaming stream1)).th 1) i) ∧
    (∀ i ∈ [Instr.dcut fa true (.v 40) (.v 18)], (fullFlag (streaming stream1)).Runs ((fullFlag (streaming stream1)).th 1) i) ∧
    ((streaming stream1).op? (streaming stream1).nextId).isNone = true ∧ ((streaming stream1).stream? (base.team 1).ctx 0x10000 = some stream1) ∧
    (room.stream? (base.team 1).ctx 0x10000 = none ∧ (streaming { stream1 with ctx := 2 }).stream? (base.team 1).ctx 0x10000 = none) ∧ (canonicalVa 0x0100000000000000 = false ∧ 0x10080 % 256 ≠ 0) ∧
    (stream1.room ≠ 0 ∧ ({ stream1 with logRd := 0, logWr := 8 } : Stream).room = 0) ∧ (2 ≤ stream1.g ∧ stream1.g < 3) ∧
    (stream1.logRd < stream1.logWr ∧ ({ stream1 with logRd := 1 } : Stream).logWr ≤ 1) ∧
    okOf ((streaming stream1).engRead duTlb 1 true (0x10300 + 32 * ((0 + 1) % 8)) 32).2 = some (List.replicate 32 0) ∧
    ([stream1.append true true 5 0, { stream1 with k := 1 }.append true true 5 0, stream1.append true true 5 1, { stream1 with g := 65 }.append true true 5 0].map
      fun r => r.regs.head?) = [some 0, some 1, some 2, some 3] := by
  refine ⟨all_run ?_, all_run ?_, ?_, ?_, ?_, ?_, ?_, ?_, ?_, ?_, ?_⟩ <;> decide +kernel

theorem witness_DuplexInstructions_fault : let s : State := { base with streams := [stream1] }
    errOf (s.engRead duTlb 1 true ((0x10300 + 32 * ((0 + 1) % 8)) % 2 ^ 64) 32).2 = some (.notPresent, 0x10320) ∧ s.stream? 1 0x10000 = some stream1 ∧
    s.op? s.nextId = none := by decide +kernel

/-! ## The exchange -/

/-- An exchange descriptor at 0x10000 (one expert, two peers, self 0, payloads of 64 bytes, 32 entries, XID 1), its expert at 0x10400,
a receive buffer of 32 slots at 0x10200 in the open state and one of another XID at 0x10240 (R426, R427, R429). -/
def exchange : List (Nat × Byte) := [(0x10000, 1), (0x10008, 1), (0x1000A, 2), (0x1000C, 64), (0x10010, 32), (0x10014, 1), (0x10019, 4), (0x1001A, 1),
  (0x10021, 6), (0x10022, 1), (0x10029, 0x10), (0x1002A, 1), (0x10031, 0x20), (0x10032, 1), (0x10201, 0x30), (0x10202, 1), (0x1020C, 32), (0x10210, 64),
  (0x10214, 1), (0x1022C, 1), (0x1024C, 32), (0x10250, 64), (0x10254, 2), (0x10401, 1), (0x10409, 2), (0x1040A, 1), (0x10600, 1)]
def exchanging : State := { mapped base 0x2F exchange with teams := windowed.teams }
def exchangeAt (lo : Word) : State := pointed lo exchanging
def lists : List Instr := [.xlist t true (.v 40) (.v 18) (.v 20) (.k 0), .xsend fa true true (.v 40) (.v 18) (.k 0)]

theorem witness_ExchangeInstructions : (∀ i ∈ lists, (exchangeAt 0x10000).Runs ((exchangeAt 0x10000).th 1) i) ∧
    (∀ i ∈ [Instr.xrecv t (.v 18) (.k 0) (.k 1)], (exchangeAt 0x10240).Runs ((exchangeAt 0x10240).th 1) i) ∧
    (∀ i ∈ [Instr.xsend fa true true (.v 40) (.v 18) (.k 0)], (fullFlag exchanging).Runs ((fullFlag exchanging).th 1) i) ∧
    exchanging.flagFull (exchanging.th 1) ((exchanging.th 1).flagOf t.sb) = false ∧
    (okOf (exchanging.engRead xTlb 1 false 0x10000 64).2).map (fun b => (xdOk b, rbufOk b, (xd b).npeer)) = some (true, false, 2) ∧
    (okOf (exchanging.engRead xTlb 1 false 0x10240 64).2).map (fun b => (xdOk b, rbufOk b)) = some (false, true) ∧
    errOf (base.engRead xTlb 1 false 0x10000 64).2 = some (.notPresent, 0x10000) ∧
    (okOf (exchanging.engRead xTlb 1 false 0x10000 64).2).bind (fun b => okOf (exchanging.xlistOp 1 0x10000 (xd b) 0 0xFFFF 5 6).2) = some 0 ∧
    (okOf (exchanging.engRead xTlb 1 false 0x10000 64).2).bind (fun b => errOf (exchanging.xlistOp 1 0x10000 (xd b) 1 0xFFFF 5 6).2) = some (.engineFault, 0x10410) ∧
    ((exchanging.rd32 (exchanging.th 1) (.k 1)).toNat = 1 ∧ exchanging.recvBufs = [] ∧ exchanging.op? exchanging.nextId = none) := by
  refine ⟨all_run ?_, all_run ?_, all_run ?_, ?_, ?_, ?_, ?_, ?_, ?_, ?_⟩ <;> decide +kernel

/-- A token for the buffer at `rbuf`. -/
def tokenFor (rbuf : DWord) (xid : Nat) : Token := ⟨0, 0xFFFF, 0, 1, 5, 6, 0, xid, 64, rbuf, 0, List.replicate 64 0, 0, 9, 0⟩
/-- A frame sent at cycle 0. -/
def sent1 : Sent := ⟨.frame ⟨1, 4791, 7⟩ 5, 0, 0⟩
/-- An XSEND waits for the second choice of its one entry, and peer 2's end marker. -/
def sending : State := { exchanging with ops := [opOf 9 (.xsend fa true true (.v 40) (.v 18) (.k 0)) [0x10000] []]
                                         sends := [⟨9, 1, [⟨none, 0x11000, { tokenFor 0x10200 1 with alt := 0 }, 0, 0, 1, some .full, false⟩], [(2, sent1)], none⟩] }
/-- A token is held; a transfer waits for peer 3. -/
def heldTok : HeldToken := ⟨4, tokenFor 0x10280 1, 0⟩
def holding : State := { exchanging with heldToks := [heldTok], xfers := [⟨1, 0, 1, .transfer ⟨1, 0, 1, 1⟩ 0 0 0 1 3, 3, sent1, 0, 0, [1]⟩] }
/-- The buffer at 0x10200 is full, or closed, or unbound. -/
def rbufWith (fill st : Byte) : State := mapped base 0x2F ((exchange.filter fun p => p.1 < 0x10218) ++ [(0x10218, fill), (0x1022C, st)])

theorem witness_ExchangeEvents : (exchanging.send? 9 = none ∧ (sending.send? 9).map (fun r => (r.round, r.toks.length, r.ends, r.toks.all fun t => !t.open_)) = some (1, 1, [(2, sent1)], true) ∧
      (sending.op? 9).isSome = true) ∧
    ((sending.send? 9).map fun r => r.toks.all fun t => t.tok.alt != 0xFFFF && !t.fault) = some true ∧
    (sending.modSend 9 fun r => { r with round := 2 }).sends.map SendRec.round = [2] ∧
    (exchanging.instance? 1 = none ∧ (exchanging.instance? 0).map Context.id = some 1 ∧ ((exchanging.ctx 1).halted = false)) ∧
    (okOf (exchanging.engRead xTlb 1 true 0x10200 64).2).map (fun b => (field b 44 4, field b 24 4, field b 12 4, field b 20 4, field b 16 4)) = some (1, 0, 32, 1, 64) ∧
    (okOf (exchanging.engRead xTlb 1 true 0x10240 64).2).map (fun b => (field b 44 4, field b 20 4)) = some (0, 2) ∧
    (okOf ((rbufWith 32 1).engRead xTlb 1 true 0x10200 64).2).map (fun b => (field b 44 4, field b 24 4, field b 20 4)) = some (1, 32, 1) ∧
    (okOf ((rbufWith 0 2).engRead xTlb 1 true 0x10200 64).2).map (fun b => field b 44 4) = some 2 ∧
    errOf (base.engRead xTlb 1 true 0x10200 64).2 = some (.notPresent, 0x10200) ∧
    okOf (exchanging.engWrite xTlb 1 true .write ((0x13000 + 0 * 96) % 2 ^ 64) (headerBytes (tokenFor 0x10200 1) 1 0 ++ List.replicate 64 0)).2 = some () ∧
    (holding.heldToks.find? (fun j => j.id == 4) = some heldTok ∧ exchanging.heldToks = [] ∧ holding.cycle < 0 + 2 ^ 20) ∧
    ((∃ y ∈ holding.xfers, y.peer = 3) ∧ exchanging.xfers = [] ∧ exchanging.sends = []) ∧ (sending.sends.all fun r => r.ends.all fun e => e.1 != 1) = true := by
  refine ⟨?_, ?_, ?_, ?_, ?_, ?_, ?_, ?_, ?_, ?_, ?_, ?_, ?_⟩ <;> decide +kernel

/-- A buffer whose slots lie in no page; an entry of peer 1 that still waits for its answer; an end marker of peer 1. -/
def rbufAway : State := mapped base 0x2F ((exchange.filter fun p => p.1 < 0x10202 || 0x10202 < p.1))
def sendingOpen (ends : List (Nat × Sent)) : State := { sending with
  sends := [⟨9, 1, [⟨some sent1, 0x11000, { tokenFor 0x10200 1 with alt := 0 }, 0, 0, 1, none, false⟩], ends, none⟩] }

theorem witness_ExchangeEvents_more : (let q := (rbufAway.engRead xTlb 1 true 0x10200 64).1
      errOf (q.engWrite xTlb 1 true .write ((0x3000 + 0 * 96) % 2 ^ 64) (headerBytes (tokenFor 0x10200 1) 1 0 ++ List.replicate 64 0)).2 = some (.notPresent, 0x3000)) ∧
    (okOf (rbufAway.engRead xTlb 1 true 0x10200 64).2).map (fun b => (field b 0 8, field b 44 4, field b 24 4)) = some (0x3000, 1, 0) ∧
    ((31 + 1) % 32 = 0 ∧ (0 + 1) % 32 ≠ 0 ∧ exchanging.recvBufs = []) ∧
    ((sendingOpen [(2, sent1)]).send? 9).map (fun r => (r.round, r.toks.all fun t => t.open_ && t.peer == 1 && t.tok.payload != [], r.ends)) = some (1, true, [(2, sent1)]) ∧
    ((sending.xfers.all fun y => y.peer != 1) = true ∧ ((sending.send? 9).map fun r => r.toks.all fun t => !t.open_) = some true) := by
  refine ⟨?_, ?_, ?_, ?_, ?_⟩ <;> decide +kernel

/-- The expert's peer is a scale-out one. -/
def scaleOut : State := { mapped base 0x2F ((exchange.filter fun p => p.1 != 0x10600) ++ [(0x10600, 2), (0x10602, 1), (0x10604, 0xB7), (0x10605, 0x12), (0x10610, 7)]) with
  teams := windowed.teams }

/-- A token goes to a scale-out peer; frames of peer 1 stay unanswered for 50 µs, for 10 ms, and less; a buffer of STATE 3. -/
theorem witness_ExchangeEvents_frames : (let o := { opOf 9 (.xsend fa true true (.v 40) (.v 18) (.k 0)) [0x10000] [] with bytes := (okOf (scaleOut.engRead xTlb 1 true 0x10000 64).2).getD [] }
      (okOf (scaleOut.expertOf 1 (xd o.bytes) 0).2).map (fun p => (p.1, p.2.1.kind, p.2.1.wire, p.2.2)) = some (0, 2, ⟨1, 4791, 7⟩, 0x10200) ∧
      okOf (scaleOut.engRead xTlb 1 o.priv (((xd o.bytes).payBase + 5 * (xd o.bytes).psz) % 2 ^ 64) (xd o.bytes).psz).2 = some (List.replicate 64 0)) ∧
    (okOf ((rbufWith 0 3).engRead xTlb 1 true 0x10200 64).2).map (fun b => field b 44 4) = some 3 ∧
    (let s : State := { sendingOpen [] with cycle := 50 * Config.cyclesPerUs }
     (s.sends.all fun r => r.ends.isEmpty && r.toks.all fun t => t.sent == some sent1 && t.open_ && t.peer == 1) = true ∧ s.resends sent1 = true ∧ s.silent sent1 = false ∧ s.xfers = []) ∧
    (({ sendingOpen [(1, sent1)] with cycle := 10 * Config.cyclesPerMs } : State).silent sent1 = true ∧ (sendingOpen [(1, sent1)]).resends sent1 = false ∧
      (sendingOpen [(1, sent1)]).silent sent1 = false ∧ (holding.xfers.map XferRec.sent) = [sent1]) := by
  refine ⟨?_, ?_, ?_, ?_⟩ <;> decide +kernel

/-! ## Clauses and scheduling -/

/-- A thread about to start a clause at 0x10000, in a page that may be executed; the line's bytes. -/
def starting (bs : List (Nat × Byte)) : State := (mapped base 0x3F bs).modTh 1 fun u => { u with clause := none, entered := false, pc := 0x10000 }
/-- The same in portable code. -/
def startingP : State := (starting []).modTh 1 fun u => { u with portable := true }
/-- A line whose WAIT names flag 0; a thread whose flag 0 counts, and one whose flag 0 holds a fault. -/
def waitLine : List (Nat × Byte) := [(0x1003C, 1), (0x1003F, 0x80)]
def counting : State := (starting waitLine).modTh 1 fun u => { u with flags := u.flags.set 0 1 }
def faulty : State := (starting waitLine).modTh 1 fun u => { u with faults := [faultRec] }

theorem witness_ClauseStart : (curB (starting []) && curB startingP && curB counting && curB faulty) = true ∧
    (((starting []).modCtx 1 fun c => { c with frozen := true }).ctxOf ((starting []).th 1)).frozen = true ∧
    (((starting []).ctxOf ((starting []).th 1)).frozen = false ∧ ((starting []).th 1).portable = false ∧ (startingP.th 1).portable = true ∧ (startingP.th 1).pushBlock = false) ∧
    (nativePc 0x10000 = true ∧ nativePc 0x10005 = false) ∧
    okOf ((starting []).fetchLine ((starting []).th 1)).2 = some 0 ∧ errOf (room.fetchLine ((starting []).th 1)).2 = some (.permission, 0x10000) ∧
    okOf ((starting []).fetchWords ((starting []).th 1) 0x10000 2).2 = some (List.replicate 8 0) ∧ errOf (room.fetchWords ((starting []).th 1) 0x10008 1).2 = some (.permission, 0x10008) ∧
    (startingP.pointOf (startingP.th 1) 0x10000).isNone = true ∧
    (parityBad 0 = false ∧ parityBad 1 = true ∧ checkLine 0 0 false = none ∧ checkLine 0 4 true = some .illegalTarget ∧ checkLine 1 0 false = some .lineParity ∧
      checkLine (BitVec.ofNat 512 (13 * 2 ^ 492 + 2 ^ 511)) 0 false = some .reservedField ∧ checkLine (BitVec.ofNat 512 (14 * 2 ^ 496 + 2 ^ 511)) 0 false = some .reservedField ∧
      checkLine (BitVec.ofNat 512 (2 ^ 509 + 2 ^ 511)) 0 false = some .reservedField) ∧
    (okOf (counting.fetchLine (counting.th 1)).2).map lineWait = some 1 ∧ ((counting.th 1).flagBits &&& 1 ≠ 0 ∧ ((starting []).th 1).flagBits &&& 1 = 0) ∧
    ((faulty.th 1).namedFault 1 = some faultRec ∧ (counting.th 1).namedFault 1 = none) ∧ ((0 : BitVec 512).getLsbD 509 = false ∧ 0x10000 % 8 = 0) := by
  refine ⟨?_, ?_, ?_, ?_, ?_, ?_, ?_, ?_, ?_, ?_, ?_, ?_, ?_, ?_⟩ <;> decide +kernel

/-- A thread that keeps the line that WAIT held it with; a line with EQP at slot 0 and a point in portable code, while a flag keeps the
group from moving. -/
def eqpLine : BitVec 512 := BitVec.ofNat 512 (2 ^ 509 + 2 ^ 511)
def atPoint : State := { room.modTh 1 fun u => { u with
  portable := true, clause := none, entered := false, pc := 0x50000, handler := some ⟨0, .userTrap, 0⟩ } with
  tlb := room.tlb ++ [⟨1, 1, 5, 16, BitVec.ofNat 128 (0x3F + 5 * 2 ^ 32)⟩] }
def keeping : State := counting.modTh 1 fun u => { u with clause := some (.line 0) }

theorem witness_ClauseStart_kept : (curB keeping = true ∧ keeping.stopped (keeping.th 1) = false ∧ (keeping.th 1).clause = some (.line 0) ∧ (keeping.th 1).portable = false) ∧
    ((keeping.th 1).namedFault (lineWait 0) = none ∧ (keeping.th 1).flagBits &&& lineWait 0 = 0) ∧
    (eqpLine.getLsbD 509 = true ∧ 0x10000 % 8 = 0 ∧ (((starting []).modTh 1 fun u => { u with handler := some ⟨0, .userTrap, 0⟩ }).notePoint ((starting []).th 1)).mayMove ((starting []).th 1) 0 = false) ∧
    (curB atPoint && (atPoint.th 1).portable && !(atPoint.th 1).pushBlock && (atPoint.pointOf (atPoint.th 1) 0x50000).isSome &&
      !((atPoint.notePoint (atPoint.th 1)).mayMove (atPoint.th 1) 0)) = true ∧
    okOf (atPoint.fetchWords (atPoint.th 1) 0x50000 2).2 = some (List.replicate 8 0) := by
  refine ⟨?_, ?_, ?_, ?_, ?_⟩ <;> decide +kernel

/-- A thread ready for a bundle, its line in the core's cache; one that sleeps. -/
def bundling : State := { onTh fun u => { u with entered := false, clause := none } with issues := [], icache := [(1, 0)], icacheMiss := [(1, 0x40)] }
def sleeping : State := onTh fun u => { u with hold := .sleep 5 }
/-- A launch of one cluster whose admission is pending, and a cluster to be restored. -/
def admitting : State := { base with launches := base.launches.map fun l => { l with geom := [1, 0, 1, 0, 1, 0, 1, 0, 32, 0, 0, 0, 0xFF, 0, 0, 0], next := 0 } }
def backlog : State := { base with clusters := base.clusters.map fun c => { c with state := .queued } }
/-- The team waits for its home core; it is being parked; it has waited at a WAITJ since cycle 0. -/
def teamIs (y : TeamState) : State := base.modTeam 1 fun m => { m with state := y }
def stalled (h : Hold) : State := (({ base with cycle := 2 ^ 20 } : State).modTeam 1 fun m => { m with state := .parked, stallAt := some 0 }).modTh 1 fun u => { u with hold := h }
def away1 (s : State) : State := s.modGroup 1 fun g => { g with resident := false }
/-- A handler runs under a watchdog of 2^17 cycles. -/
def watched : State := priv.modCtx 1 fun c => { c with preemptLive := 0x010000 }

theorem witness_SchedulingEvents : (bundling.threads.all fun u => bundling.ready u && bundling.icache.contains (1, u.line)) = true ∧ (bundling.corePass 1).issues.length = 1 ∧
    ((sleeping.thread? 1).map Thread.hold = some (.sleep 5) ∧ sleeping.cycle < 5 ∧ 5 ≤ ({ sleeping with cycle := 5 } : State).cycle) ∧
    ((1, 0) ∉ bundling.icacheMiss ∧ (1, 0x40) ∈ bundling.icacheMiss) ∧
    (base.pending 7).length = 0 ∧ ((admitting.pending 0).map fun p => match p with | .fresh l => l.id | .back _ => 0) = [1] ∧
    ((backlog.pending 0).map fun p => match p with | .fresh _ => 0 | .back c => c.id) = [1] ∧
    (base.taskHeads = [] ∧ (base.candidates 1).length = 0 ∧ ((teamIs .waiting).candidates 1).map Team.id = [1] ∧ (queueing [taskRec]).candidates 0 = []) ∧
    ((firstHead ((queueing [taskRec]).taskHeads.filter fun h => (queueing [taskRec]).taskFits h.2.2.bytes 0)).map fun h => h.2.1) = some 0 ∧
    ((base.team 1).state = .resident ∧ (((teamIs .parking).teams.find? fun x => x.id == 1).map Team.state) = some .parking ∧
      (((teamIs .parkingReady).teams.find? fun x => x.id == 1).map Team.state) = some .parkingReady) ∧
    ((base.liveOf 1).all fun u => u.handler.isNone) = true ∧ ((watched.liveOf 1).find? fun u => u.handler.isSome).map Thread.handler = some (some ⟨0, .userTrap, 0⟩) ∧
    (watched.ctxOf (watched.th 1)).watchdog ≠ none ∧
    (base.stalling 1 = false ∧ (base.team 1).stallAt = none) ∧ ([stalled (.waitj 15), stalled (.waitObj 1 64 64 0 none)].map fun s =>
      (s.stalling 1, (s.team 1).stallAt, ((away1 s).liveTeam 1).length, ((away1 s).group 1).resident)) = List.replicate 2 (true, some 0, 1, false) := by
  refine ⟨?_, ?_, ?_, ?_, ?_, ?_, ?_, ?_, ?_, ?_, ?_, ?_, ?_, ?_, ?_⟩ <;> decide +kernel

def unwatched : State := priv.modCtx 1 fun c => { c with preemptLive := 0x100000 }

/-- A group waits in the bead store of glade 0 for a core that takes it; a handler without a limit; a team with no thread that speculates, in
the last cycle of its stall counter. -/
theorem witness_SchedulingEvents_more : (waiting.waitingRods (gladeOf 1) = [1] ∧ base.waitingRods (gladeOf 1) = []) ∧
    (firstHead (base.taskHeads.filter fun h => base.taskFits h.2.2.bytes 1)).isNone = true ∧
    ((unwatched.ctxOf (unwatched.th 1)).watchdog = none ∧ ((unwatched.liveOf 1).find? fun u => u.handler.isSome).isSome = true) ∧ base.thread? 2 = none ∧
    (∀ v ∈ (stalled (.waitj 15)).threads, v.spec = none) ∧ (0 + 2 ^ 20 ≤ (stalled (.waitj 15)).cycle ∧ (stalled (.waitj 15)).cycle ≤ 2 ^ 20) ∧
    ((1, 0) ∈ bundling.icache ∧ (1, 0x40) ∉ bundling.icache) := by
  refine ⟨?_, ?_, ?_, ?_, ?_, ?_, ?_⟩ <;> decide +kernel

/-! ## Items and commands -/

/-- An item stands ready in queue 0 of session 1, for context 1 and for none. -/
def hdr : Hdr := ⟨1, 0, 1, 1⟩
def hdrNone : Hdr := ⟨1, 0, 1, 9⟩
def hdrPhys : Hdr := ⟨1, 0, 1, 0⟩
def itemAt (i : Instr) (s : State) : State :=
  { s with sessions := [⟨1, List.replicate 32 0, false, 0⟩], intake := [⟨1, 0, 2, [], [⟨1, i, .ready, 0, [], none, 0⟩]⟩] }
/-- What the premises on an item of a statement ask for: it stands ready, in its context's queue. -/
theorem ready (i : Instr) (s : State) : (itemAt i s).Ready hdr i ∧ (itemAt i s).Ready hdrNone i ∧ (itemAt i s).Ready hdrPhys i :=
  ⟨⟨_, rfl, rfl, rfl⟩, ⟨_, rfl, rfl, rfl⟩, ⟨_, rfl, rfl, rfl⟩⟩

/-- A state in which the ladder of context 1 stands at STATE `n`, since cycle 0. -/
def ladder (n cycle : Nat) : State := ({ base with cycle := cycle } : State).setStage 1 n
/-- Its team is parked and its group saved; its image is lost. -/
def saving : State := ((away1 (teamIs .parked)).modGroup 1 fun g => { g with saved := true }).setStage 1 2
def lostImage : State := (ladder 4 0).modCtx 1 fun c => { c with saveBase := 0x100000A, images := [⟨65536, 256, 1, 1, 1, 0⟩] }

theorem witness_PreemptionLadder : (∀ s i, (itemAt i s).Ready hdr i ∧ (itemAt i s).Ready hdrNone i) ∧
    (((itemAt (.preempt hdr) base).ctx? hdr.ctx).isSome = true ∧ ((itemAt (.preempt hdr) base).ctx? hdrNone.ctx).isNone = true) ∧
    ((base.ctx? 1).map Context.stage = some 0 ∧ ((ladder 2 0).ctx? 1).map Context.stage = some 2) ∧
    ((base.ctx? 1).map fun c => c.preemptCtl.toNat % 256) = some 2 ∧
    (((base.modCtx 1 fun c => { c with preemptCtl := 0x500 }).ctx? 1).map fun c => c.preemptCtl.toNat % 256) = some 0 ∧
    ([ladder 1 0, ladder 1 (2 ^ 40)].map fun s => (s.ctx? 1).map fun c => (c.stage, c.frozen, decide (c.ladderAt + c.drainCycles ≤ s.cycle))) = [some (1, false, false), some (1, false, true)] ∧
    ([ladder 2 0, ladder 2 (2 ^ 40)].map fun s => (s.ctx? 1).map fun c => (c.stage, c.frozen, decide (c.ladderAt + c.saveCycles ≤ s.cycle))) = [some (2, false, false), some (2, false, true)] ∧
    ((base.teams.find? (fun m => m.id == 2)).isNone = true ∧ ((ladder 2 0).teams.find? (fun m => m.id == 1)).map Team.state = some .resident ∧ (ladder 2 0).stageOf 1 = 2 ∧
      (base.stageOf 1 = 0 ∧ ((ladder 2 0).ctx 1).frozen = false ∧ ((ladder 2 0).group 1).resident = true)) ∧
    (let r := saving.saveGroups 1 1; r.stageOf 1 = 2 ∧ r.teamGroups 1 = [1] ∧ (r.team 1).state = .parked ∧ (r.group 1).resident = false ∧ r.ops = []) ∧
    ((ladder 4 0).stageOf 1 = 4 ∧ ((ladder 4 0).imagesUsable 1 ((ladder 4 0).ctx 1).images).2 = true ∧ (lostImage.imagesUsable 1 (lostImage.ctx 1).images).2 = false) := by
  refine ⟨fun s i => ⟨(ready i s).1, (ready i s).2.1⟩, ?_, ?_, ?_, ?_, ?_, ?_, ?_, ?_, ?_⟩ <;> decide +kernel

/-- An empty machine: every part idle. A glade asleep with work come. A request for the builder, whose entry at 0x20000 is absent,
building on this module, or ready with an image at 0x1000000. -/
def woken : State := { base with powerDown := [(.glade 0, 2)] }
def asked1 : XReq := ⟨List.replicate 32 7, 0x20000, .bramble, 0, 1, 1, 0⟩
def building (bs : List Byte) : State := { base with xreqs := [asked1], mem := (List.range bs.length).map fun k => (0x20000 + k, bs.getD k 0) }
def readyEntry : List Byte := List.replicate 32 7 ++ [2] ++ List.replicate 10 0 ++ [1] ++ List.replicate 5 0 ++ [64]
def buildEntry : List Byte := List.replicate 32 7 ++ [1, 0] ++ leBytes 6 Config.serial.toNat

theorem leNat_leBytes (n x : Nat) : leNat (leBytes n x) = x % 2 ^ (8 * n) := by
  induction n generalizing x with
  | zero => simp [leBytes, leNat, Nat.mod_one]
  | succ n ih =>
    show (byte x).toNat + 256 * leNat (leBytes n (x / 256)) = _
    rw [ih, show 8 * (n + 1) = 8 + 8 * n by omega, Nat.pow_add, Nat.mod_mul, byte, BitVec.toNat_ofNat]

theorem serial_field : field ((building buildEntry).xEntry asked1) 34 6 = Config.serial.toNat % 2 ^ 48 := by
  rw [show 48 = 8 * 6 from rfl, ← leNat_leBytes]; rfl

theorem witness_ModuleEvents : (PartFault.hbm 23 ∉ base.partFaults ∧ PartFault.canopy 7 ∈ ({ base with partFaults := [.canopy 7] } : State).partFaults) ∧
    (base.recovering = false ∧ ({ base with recovering := true } : State).recovering = true) ∧
    ((base.core 1151).failed = false ∧ ((base.modCore 1 fun c => { c with failed := true }).core 1).failed = true ∧ (base.teamsOn 1).length = 1) ∧
    (State.reset.deepest (.glade 95) = 2 ∧ State.reset.powerOf (.glade 95) = 0 ∧ State.reset.deepest .module = 0 ∧ woken.powerOf (.glade 0) ≠ 0 ∧ woken.powerCond (.glade 0) 2 = false) ∧
    ((building []).xreqs.find? (fun r => r.key == List.replicate 32 7 && r.kind == .bramble) = some asked1 ∧ (building []).xreqs.find? (fun r => r.key == [] && r.kind == .bramble) = none ∧
      (building []).xreqs.find? (fun r => r.key == []) = none ∧ (building []).xreqs.find? (fun r => r.key == List.replicate 32 7) = some asked1) ∧
    (let e := (building readyEntry).xEntry asked1; e.take 32 = List.replicate 32 7 ∧ field e 32 1 = 2 ∧ (field e 40 8 = 0x1000000 ∧ field e 48 4 = 0 + 16384)) ∧
    (((building []).xEntry asked1).take 32 ≠ List.replicate 32 7 ∧ field ((building []).xEntry asked1) 32 1 = 0 ∧ field ((building buildEntry).xEntry asked1) 32 1 = 1) ∧
    ((0x1000000 : DWord).toNat % 64 = 0 ∧ paMapped 0x1000000 = true ∧ paMapped (0x1000000 + 64 - 1) = true) ∧
    (base.cycle < 0 + 100 * Config.cyclesPerMs ∧ 0 + 100 * Config.cyclesPerMs ≤ ({ base with cycle := 2 ^ 40 } : State).cycle) ∧
    (base.homeOf 0x20000 16 = true ∧ base.homeOf (2 ^ 46) 16 = false ∧ base.sealOf 0x20000 = none ∧ sealed.sealOf 0x20000 ≠ none ∧ 0x20000 % max (Ty.s64.bits / 8) 1 = 0 ∧
      0x20001 % max (Ty.s64.bits / 8) 1 ≠ 0) ∧ (base.instance? 1 = none ∧ (room.instance? 0).map Context.id = some 1) ∧
    okOf (room.engWrite xTlb 1 true .write 0x1FFFF [1]).2 = some () := by
  refine ⟨?_, ?_, ?_, ?_, ?_, ?_, ?_, ?_, ?_, ?_, ?_, ?_⟩ <;> decide +kernel

/-- An entry whose key is another; a ready entry of no size; a frame that is not at this home; a page that cannot be written. -/
theorem witness_ModuleEvents_more : ((building []).xEntry asked1).take 32 ≠ asked1.key ∧
    ((building (readyEntry.take 48)).xEntry asked1).take 32 = List.replicate 32 7 ∧ field ((building (readyEntry.take 48)).xEntry asked1) 48 4 = 0 ∧
    base.homeOf (2 ^ 46) 16 = false ∧ errOf (base.engWrite xTlb 1 true .write 0x1FFFF [1]).2 = some (.notPresent, 0x1FFFF) := by
  refine ⟨?_, ?_, ?_, ?_, ?_⟩ <;> decide +kernel

/-- Queue 0 of session 1 as `k`; an item that draws no number. -/
def session1 (frozen : Bool) (l : List IntakeQ) : State := { base with sessions := [⟨1, List.replicate 32 0, frozen, 0⟩], intake := l }
def closing : Instr := .destroyContext hdr
def logged (seq : Nat) (y : ItemState) : ItemRec := ⟨seq, closing, y, 0, [], none, 0⟩
/-- An item is being performed after one that has been reported. -/
def performing : State := session1 false [⟨1, 0, 3, [], [logged 0 .reported, logged 1 .started]⟩]

theorem witness_IntakeProtocol : ([true, false].map fun f => ((session1 f []).sessions.find? fun x => x.id == hdr.session).map Session.frozen) = [some true, some false] ∧
    (hdr.queue < 64 ∧ ((session1 false []).intakeQ 1 0).expected = hdr.seq ∧ ((session1 false []).intakeQ 1 0).heldMsgs = [] ∧ ((session1 false []).intakeQ 1 0).log = [] ∧
      closing.isItem = true ∧ closing.drawsNumber = false ∧ (Instr.launch hdr 0 0 [] 0 []).isItem = true ∧ (Instr.launch hdr 0 0 [] 0 []).drawsNumber = true) ∧
    (((session1 false [⟨1, 0, 1, [], List.replicate 4096 (logged 0 .reported)⟩]).intakeQ 1 0).used = 4096 ∧
      ((session1 false [⟨1, 0, 1, [], List.replicate 4095 (logged 0 .reported)⟩]).intakeQ 1 0).used < 4096) ∧
    (1 < 64 ∧ 64 ≤ 1 + 63 ∧ 1 + 63 < 65 ∧ 1 < 4097 ∧ 4097 ≤ 1 + 4096 ∧ 1 + 4096 < 4098) ∧
    (performing.intake.find? fun q => q.session == hdr.session && q.queue == hdr.queue).map (fun k => k.log) = some ([logged 0 .reported] ++ [logged 1 .started]) ∧
    (∀ y ∈ [logged 0 .reported], y.seq ≠ hdr.seq ∧ (y.state = .reported ∨ y.state = .acknowledged)) ∧
    (let p : State := { performing with cycle := Config.cyclesPerMs }
     ((p.intakeQ 1 0).log.filter fun r => r.state == .reported && r.sentAt + Config.cyclesPerMs ≤ p.nowCycle)) = [logged 0 .reported] ∧
    ((session1 false []).intakeQ 1 0).log.filter (fun r => r.state == .reported && r.sentAt + Config.cyclesPerMs ≤ (session1 false []).nowCycle) = [] ∧
    (∀ i s, (itemAt i s).Ready hdr i) ∧ ¬(session1 false []).Ready hdr closing ∧ ((session1 false []).arriveMsg hdr closing).Ready hdr closing ∧
    ¬((session1 true []).arriveMsg hdr closing).Ready hdr closing ∧ ((itemAt closing base).ctx? hdrNone.ctx).isNone = true := by
  refine ⟨by decide +kernel, by decide +kernel, by decide +kernel, by decide, by decide +kernel, by decide +kernel, by decide +kernel, by decide +kernel,
    fun i s => (ready i s).1, ?_, ⟨logged 1 .ready, ?_⟩, ?_, by decide +kernel⟩
  · rintro ⟨r, h, -⟩; rw [show (session1 false []).itemRec hdr = none from rfl] at h; cases h
  · decide +kernel
  · rintro ⟨r, h, -⟩; rw [show ((session1 true []).arriveMsg hdr closing).itemRec hdr = none from rfl] at h; cases h

/-- Translation tables at 0 (R239): VA page 1 maps frame 2 for every access, page 8 frame 8 and pages 16 to 31 their frames append-only. -/
def tables : List (Nat × Byte) := [(0, 1), (1, 0x20), (0x2000, 1), (0x2001, 0x40), (0x4000, 1), (0x4001, 0x60), (0x6000, 1), (0x6001, 0x80), (0x8010, 0x2F), (0x8014, 2),
  (0x8080, 0x0F), (0x8081, 1), (0x8084, 8)] ++ (List.range 16).flatMap fun k => [(0x8100 + 16 * k, 0x0F), (0x8101 + 16 * k, 1), (0x8104 + 16 * k, BitVec.ofNat 8 (16 + k))]
def walked : State := { base with mem := tables }

theorem seal_some {s : State} {c n : Nat} {a : DWord} (h : (a.toNat % 65536 != 0 || n == 0 || 2 ^ 26 < n || 1024 ≤ s.seals.length) = false)
    (hl : (s.sealLeaves c a.toNat n).isSome = true) : (s.sealRegion c a n).isSome = true := by
  obtain ⟨l, hl⟩ := Option.isSome_iff_exists.1 hl
  simp only [State.sealRegion, h, hl]; rfl

theorem witness_HostMemory : (∀ i s, (itemAt i s).Ready hdr i ∧ (itemAt i s).Ready hdrPhys i) ∧ ((itemAt closing room).ctx? hdr.ctx).isSome = true ∧ (hdr.ctx ≠ 0 ∧ hdrPhys.ctx = 0) ∧
    okOf (room.hostPlace 1 true (piecesOf 0x1FFFF 1)).2 = some [(0x2FFFF, 1)] ∧ okOf (room.physPlace false (piecesOf 0x2FFFF 2)) = some [(0x2FFFF, 1), (0x30000, 1)] ∧
    (errOf (sealed.hostPlace 1 true (piecesOf 0x10000 4)).2 matches some (.sealed 0x10000)) = true ∧ (errOf (base.hostPlace 1 false (piecesOf 0x10000 4)).2 matches some (.cause .notPresent)) = true ∧
    (errOf (room.physPlace true (piecesOf (2 ^ 52) 1)) matches some (.cause .notPresent)) = true ∧
    (base.seals.length < 1024 ∧ ({ base with seals := List.replicate 1024 ⟨1, 1, 0, 1, [], 0, 1⟩ } : State).seals.length = 1024) ∧
    (walked.sealRegion 1 0x10000 1).isSome = true ∧ (0x10001 % 65536 ≠ 0 ∧ 2 ^ 26 < 2 ^ 26 + 1) ∧ (base.sealRegion 1 0x10000 1).isNone = true := by
  refine ⟨fun i s => ⟨(ready i s).1, (ready i s).2.2⟩, ?_, ?_, ?_, ?_, ?_, ?_, ?_, ?_, seal_some ?_ ?_, ?_, ?_⟩ <;> decide +kernel

/-- A reduction buffered with an entry that the tables no longer give; none. -/
theorem witness_HostMemory_reductions : (let s := ((buffered room).invalidate 1 0x10000 1); s.oldReds (s.ctx 1) 0x10000 1 = true) ∧
    (let s := (room.invalidate 1 0x10000 1); s.oldReds (s.ctx 1) 0x10000 1 = false) ∧ dirtied.L1Form := by
  refine ⟨?_, ?_, dirtied_form⟩ <;> decide +kernel

/-- A descriptor of 192 bytes with root 0 and one handle (R440); one with a save area; the smallest code object (R80, R81), at 0x10000,
whose needs of features have `f` in their top byte. -/
def desc1 : List Byte := List.replicate 16 0 ++ [1] ++ List.replicate 175 0
def object1 (f : Byte) : List (Nat × Byte) := [(0, 0x4E), (1, 0x51), (2, 0x37), (3, 0x43), (4, 1), (6, 1), (8, 1), (23, f), (32, 64), (64, 1), (68, 1), (72, 96), (80, 4)].map fun p => (0x10000 + p.1, p.2)
def bytes1 (l : List (Nat × Byte)) : List Byte := (List.range 100).map fun k => Sparse.read (w := 8) l (0x10000 + k)
/-- A geometry of one cluster of one team of 32 threads, and one of no threads; an object with one kernel. -/
def geom1 (n : Byte) : List Byte := [1, 0, 1, 0, 1, 0, 1, 0, n, 0, 0, 0, 0xFF, 0, 0, 0]
def kernel1 : CodeObj := { object with decls := [TeamDecl.plain 32 128], funcs := [⟨0x50000, 0x40000, 0, 0, true⟩, ⟨0x50000, 0x40000, 0, 0, true⟩] }

theorem witness_ContextItems : (∀ i s, (itemAt i s).Ready hdr i) ∧ ((itemAt closing room).ctx? hdr.ctx).isSome = true ∧
    (descOk desc1 = true ∧ descOk [] = false ∧ base.descSaveOk desc1 = true ∧ base.descSaveOk (desc1.set 32 32) = false ∧ descOk (desc1.set 32 32) = true) ∧
    (base.contexts.length < 256 ∧ ({ base with contexts := List.replicate 256 (base.ctx 1) } : State).contexts.length = 256) ∧
    (base.holdsWork (base.ctx 1) = true ∧ (gone { ending with launches := [], teams := [] }).holdsWork (base.ctx 1) = false) ∧
    okOf (room.hostPlace 1 false (piecesOf 0x10000 100)).2 = some [(0x20000, 100)] ∧ (errOf (base.hostPlace 1 false (piecesOf 0x10000 100)).2 matches some (.cause .notPresent)) = true ∧
    ((parseObject (bytes1 (object1 0)) 0x10000 1).map fun l => (l.obj.handle, l.bytes == bytes1 (object1 0))) = some (1, true) ∧ (parseObject [] 0x10000 1).isNone = true ∧
    (field (bytes1 (object1 0)) 16 8 &&& (2 ^ 64 - 1 - Config.features) = 0 ∧ field (bytes1 (object1 0x80)) 16 8 &&& (2 ^ 64 - 1 - Config.features) ≠ 0) ∧
    ((parseObject (bytes1 (object1 0x80)) 0x10000 1).isSome = true) ∧
    ([kernel1].find? (fun o => o.handle == 1)).map (fun o => ((o.funcs[0]?).isSome, (o.funcs[2]?).isSome, (o.decl? 0).isSome, (o.decl? 1).isSome)) = some (true, false, true, false) ∧
    ([kernel1].find? (fun o => o.handle == 2)).isNone = true ∧
    (launchOk true (TeamDecl.plain 32 128) (geom1 32) 0 = true ∧ launchOk true (TeamDecl.plain 32 128) (geom1 0) 0 = false) ∧
    (((queueing []).ctx 1).queue? 1 = none ∧ ((((queueing []).ctx 1).queue? 0).isSome = true) ∧ ((queueing []).ctx 1).taskOk (wordsBytes record) = true ∧
      ((queueing []).ctx 1).queueFree 0 = true ∧ ((queueing [taskRec, taskRec]).ctx 1).queueFree 0 = false) := by
  refine ⟨fun i s => (ready i s).1, ?_, ?_, ?_, ?_, ?_, ?_, ?_, ?_, ?_, ?_, ?_, ?_, ?_, ?_⟩ <;> decide +kernel

/-- A transfer of the item that has waited since cycle 0; an object of a stream with 64 places and 8 log entries (R361). -/
def xfer1 : XferRec := ⟨1, 0, 1, .transfer hdr 0 0 0 1 3, 3, sent1, 0, 0, [1]⟩
def streamObj : List (Nat × Byte) := [(0x10021, 1), (0x10024, 4), (0x10038, 8)]

theorem witness_LogAndStreamItems : (∀ i s, (itemAt i s).Ready hdr i) ∧ ((itemAt closing walked).ctx? hdr.ctx).isSome = true ∧
    (walked.logPages 1 0x100000 16 = true ∧ walked.logPages 1 (0x80000 / 65536 * 65536) ((0x80000 % 65536 + 256 * 1 + 65535) / 65536) = true ∧ base.logPages 1 0x100000 16 = false ∧
      canonicalVa 0x100000 = true ∧ canonicalVa 0x80000 = true ∧ 0x100000 % 2 ^ 20 = 0 ∧ 0x80000 % 256 = 0) ∧
    (walked.logs.length < 256 ∧ ({ walked with logs := List.replicate 256 log1 } : State).logs.length = 256) ∧
    (engined.log? 2 = none ∧ engined.log? 1 = some log1 ∧ log1.opened = true ∧ log1.owner = 1 ∧ (engined.modLog 1 fun l => { l with opened := false }).log? 1 = some { log1 with opened := false }) ∧
    (okOf (engined.queryData hdr 2 1) = some (List.replicate 8 0) ∧ errOf (engined.queryData hdr 3 0) = some 0x84 ∧ (streaming stream1).stream? hdr.ctx 0x10000 = some stream1) ∧
    ({ base with cycle := 2 ^ 40, xfers := [xfer1] } : State).xfers = [xfer1] ∧ (okOf (scaleOut.peerOf 1 (xd ((okOf (scaleOut.engRead xTlb 1 true 0x10000 64).2).getD [])) 0).2).map (fun p => (p.kind, p.wire)) = some (2, ⟨1, 4791, 7⟩) ∧
    (canonicalVa (0x10000 : DWord).toNat = true ∧ (0x10000 : DWord).toNat % 64 = 0 ∧ (0x10004 : DWord).toNat % 64 ≠ 0) ∧
    (okOf (exchanging.engRead xTlb 1 true 0x10000 64).2).map (fun b => (xdOk b, (okOf (exchanging.peerOf 1 (xd b) 0).2).map (fun p => (p.kind, p.module)), (okOf (exchanging.peerOf 1 (xd b) 1).2).map (fun p => (p.kind, p.module)))) =
      some (true, some (1, 0), some (0, 0)) ∧ (exchanging.reaches 0 = true ∧ exchanging.moduleNo = 0 ∧ ({ exchanging with moduleNo := 5, routes := [1] } : State).reaches 0 = true) ∧
    okOf (exchanging.engRead xTlb 1 true 0x1FFFF 1).2 = some [0] ∧
    ((room.stream? 1 0x10000).isNone = true ∧ canonicalVa 0x10000 = true ∧ 0x10000 % 256 = 0 ∧ ({ room with streams := List.replicate 4096 stream1 } : State).streams.length = 4096) ∧
    ((okOf ((mapped base 0x2F streamObj).engRead duTlb 1 true 0x10000 256).2).map streamOk = some true ∧ (okOf (room.engRead duTlb 1 true 0x10000 256).2).map streamOk = some false ∧
      errOf (base.engRead duTlb 1 true 0x10000 256).2 = some (.notPresent, 0x10000)) ∧
    (stream1.ctx = 1 ∧ 2 ≤ stream1.room ∧ stream1.hrec = 0 ∧ ({ stream1 with logRd := 0, logWr := 7 } : Stream).room < 2) := by
  refine ⟨fun i s => (ready i s).1, ?_, ?_, ?_, ?_, ?_, ?_, ?_, ?_, ?_, ?_, ?_, ?_, ?_, ?_⟩ <;> decide +kernel

/-- A transfer that has waited its time beside another; a peer that is not reached and memory that cannot be read; a stream object written. -/
theorem witness_LogAndStreamItems_more : (let s : State := { base with cycle := 2 ^ 40, xfers := [{ xfer1 with seq := 7 }, xfer1] }
      s.xfers.find? (fun x => x.session == 1 && x.queue == 0 && x.seq == 1) = some xfer1 ∧ s.silent xfer1.sent = true ∧ ({ s with cycle := 0 } : State).silent xfer1.sent = false) ∧
    errOf (base.engRead xTlb 1 true 0x10000 64).2 = some (.notPresent, 0x10000) ∧ errOf (exchanging.engRead xTlb 1 true 0x20000 1).2 = some (.notPresent, 0x20000) ∧
    ((okOf (room.engRead xTlb 1 true 0x10000 64).2).map xdOk = some false) ∧ exchanging.reaches 70 = false ∧
    ((streaming stream1).duPut 1 [(0x10000, stream1.bytes false)]).2 = none ∧ ((base.duPut 1 [(0x10000, stream1.bytes false)]).2).isSome = true := by
  refine ⟨?_, ?_, ?_, ?_, ?_, ?_, ?_⟩ <;> decide +kernel

/-- The Ranger has accepted a command with sequence 5. -/
def commanded : State := { room with rangerLast := some (.ranger 0x81 0 5 []), rangerSeq := 5, sessions := [⟨1, [], false, 0⟩] }

theorem witness_RangerCommands : (commanded.rangerLast = some (.ranger 0x81 0 5 []) ∧ (RHdr.mk 5).seq = commanded.rangerSeq ∧ (RHdr.mk 4).seq < commanded.rangerSeq) ∧
    commanded.NewCommand ⟨6⟩ ∧ State.reset.NewCommand ⟨0⟩ ∧ (10 < 8 + [(1 : Byte), 2, 3].length ∧ 8 + [(1 : Byte)].length < 10 ∧ 8 + [(1 : Byte), 2].length = 10) ∧
    ((commanded.ctx? 1).isSome = true ∧ commanded.ctx? 2 = none) ∧ ((commanded.sessions.find? fun y => y.id == 1).isSome = true ∧ ∀ y ∈ commanded.sessions, y.id ≠ 2) ∧
    ((commanded.ctx? 1).map Context.stage = some 0 ∧ ((ladder 4 0).ctx? 1).map Context.stage = some 4) ∧
    ((walked.sealRegion 1 0x10000 1).isSome = true ∧ (walked.sealRegion 1 0x10000 0).isNone = true) := by
  refine ⟨by decide +kernel, .inr (by decide), .inl rfl, by decide, by decide +kernel, by decide +kernel, by decide +kernel, seal_some ?_ ?_, ?_⟩ <;> decide +kernel

theorem witness_InitialState : 7 < 8 ∧ (List.replicate 64 (0 : Word)).length ≤ 64 ∧ ([] : List Word).length ≤ 64 ∧ 6 < 7 ∧ 63 < 64 := by decide

end Sys2Proof.Machine.Tests
end

section
/-!
PROOFS. The special registers and the trail: an accepted SETSR stores as its register's row says, every SETSR row is one
write, and the words of the trail are the trail again.
-/

namespace Sys2Proof.Machine

/-! ## Issue of an instruction that changes its thread's record -/

/-- An instruction whose body only updates the record of its thread goes on with that record past the instruction. -/
theorem becomes_modTh {s : State} {i : Instr} {th : Thread} {x : X} {f : State → Thread → State × Next} {g : Thread → Thread}
    (h : s.Runs th i) (hx : i.x = some x) (he : exec i s = .next (s.issue i x f)) (hf : f s th = (s.modTh th.id g, .next))
    (hg : ∀ u, (g u).id = u.id ∧ (g u).hold = u.hold ∧ (g u).pend = u.pend) :
    s.Becomes i th { (g th).advance with ovf := [] } s := by
  have keepsId : ∀ u, u.id = th.id → (g u).id = th.id := fun u hu => (hg u).1.trans hu
  refine issue_becomes h hx he hf ?_ ?_ ?_ ?_ (modTh_rest _ _ _)
  · rw [thread_modTh_self _ _ _ keepsId, cur_thread h.cur]; rfl
  · rw [(hg th).2.1]; exact h.free
  · exact fun k hk => thread_modTh_ne _ _ _ _ keepsId hk
  · exact calm_modTh h.calm _ _ fun u hu => (hg u).2.2.trans hu

/-! ## GETSR -/

theorem loWord_zeroExtend (w : Word) : loWord (w.zeroExtend 64) = w := by
  apply BitVec.eq_of_toNat_eq
  simp only [loWord, BitVec.extractLsb'_toNat, BitVec.truncate_eq_setWidth, BitVec.toNat_setWidth]
  omega

/-- What the body of GETSR writes where the thread may read the register (R123). -/
theorem getsr_hasEffect {s : State} {th : Thread} {x : X} {d : Opd} {sr : SReg} (h : s.Runs th (.getsr x d sr))
    (hp : srReadPriv sr = false ∨ th.privileged = true) : s.HasEffect (.getsr x d sr) th
      ⟨d, if Wf.wide sr then [loWord (s.readSr th sr), hiWord (s.readSr th sr)] else [loWord (s.readSr th sr)], 0, none⟩ := by
  have allowed : (srReadPriv sr && !th.privileged) = false := by rcases hp with hp | hp <;> simp [hp]
  have ht := cur_thread h.cur
  refine hasEffect h rfl rfl ?_
  simp only [allowed, Bool.false_eq_true, if_false]
  by_cases hw : Wf.wide sr = true
  · simp only [hw, if_true, wr64_plain s th ht]
  · simp only [hw, Bool.false_eq_true, if_false, wr32_plain s th ht]

theorem getsr_refused {s : State} {th : Thread} {x : X} {d : Opd} {sr : SReg} (h : s.Runs th (.getsr x d sr))
    (hr : srReadPriv sr = true) (hp : th.privileged = false) : s.Ends (.getsr x d sr) th s (.trap .privilege th.pc) :=
  ends_issue h rfl rfl (by simp [hr, hp])

theorem kindNum_kindOf (core : Nat) : kindNum (kindOf core) = if core % 12 ∈ [0, 3, 8, 11] then 1 else 0 := by
  unfold kindOf
  by_cases h : core % 12 ∈ [0, 3, 8, 11]
  · rw [if_pos (List.contains_iff_mem.2 h), if_pos h]; rfl
  · rw [if_neg (mt List.contains_iff_mem.1 h), if_neg h]; rfl

/-! ## SETSR -/

/-- The rows of the opcode table that write special register `sr` from operand `a`. -/
def srWriters (x : X) (sr : SReg) (a : Opd) : List (Instr × SReg) :=
  [(.setsr x sr a, sr), (.controlRegisterWrite x sr a, sr), (.fseedWrite x a, .fseed),
    (.spillBaseWrite x a, .spillBase), (.spillLimitWrite x a, .spillLimit), (.trapCauseWrite x a, .trapCause),
    (.trapBaseWrite x a, .trapBase), (.saveBaseWrite x a, .saveBase), (.preemptCtlWrite x a, .preemptCtl),
    (.migPolicyWrite x a, .migPolicy), (.specCtlWrite x a, .specCtl)]

/-- Every SETSR row runs as the one write `State.writeSr` of its register. -/
theorem exec_of_mem_srWriters {x : X} {sr : SReg} {a : Opd} {i : Instr} (h : (i, sr) ∈ srWriters x sr a) (s : State) :
    i.x = some x ∧ exec i s = .next (s.issue i x fun s th => s.writeSr th sr (srWritten s th sr a)) := by
  simp only [srWriters, List.mem_cons, Prod.mk.injEq, List.not_mem_nil, or_false] at h
  rcases h with ⟨rfl, -⟩ | ⟨rfl, -⟩ | ⟨rfl, rfl⟩ | ⟨rfl, rfl⟩ | ⟨rfl, rfl⟩ | ⟨rfl, rfl⟩ | ⟨rfl, rfl⟩ | ⟨rfl, rfl⟩ |
    ⟨rfl, rfl⟩ | ⟨rfl, rfl⟩ | ⟨rfl, rfl⟩ <;> exact ⟨rfl, rfl⟩

/-- Neither the privilege of the register (R124) nor its reserved bits (R14) refuse the write of `v`. -/
structure SrAccepts (th : Thread) (sr : SReg) (v : DWord) : Prop where
  privilege : (srWritePriv sr && !th.privileged) = false
  reserved : (v.toNat &&& srReserved sr != 0) = false

/-- An accepted write comes to the register's own row of `State.writeSr`. -/
theorem SrAccepts.passes {th : Thread} {sr : SReg} {v : DWord} (h : SrAccepts th sr v) (s : State)
    (r : State × Next) : (if srWritePriv sr && !th.privileged then (s, .trap .privilege th.pc)
      else if v.toNat &&& srReserved sr != 0 then (s, .trap .reservedField th.pc) else r) = r := by
  rw [h.privilege, h.reserved]; rfl

theorem srWrite_privilege {th : Thread} {sr : SReg} (h : srWritePriv sr = false ∨ th.privileged = true) :
    (srWritePriv sr && !th.privileged) = false := by
  rcases h with h | h <;> simp [h]

theorem writeSr_unprivileged (s : State) {th : Thread} {sr : SReg} (v : DWord) (hw : srWritePriv sr = true)
    (hp : th.privileged = false) : s.writeSr th sr v = (s, .trap .privilege th.pc) := by
  simp [State.writeSr, hw, hp]

theorem writeSr_reserved (s : State) {th : Thread} {sr : SReg} {v : DWord} (hp : srWritePriv sr = false ∨ th.privileged = true)
    (hv : v.toNat &&& srReserved sr ≠ 0) : s.writeSr th sr v = (s, .trap .reservedField th.pc) := by
  simp [State.writeSr, srWrite_privilege hp, hv]

section Accepted
variable (s : State) {th : Thread} {v : DWord}

theorem writeSr_fstat (h : SrAccepts th .fstat v) :
    s.writeSr th .fstat v = (s.modTh th.id fun u => { u with fstat := loWord v }, .next) :=
  h.passes s _

theorem writeSr_fmode (h : SrAccepts th .fmode v) :
    s.writeSr th .fmode v = (s.modTh th.id fun u => { u with fmode := loWord v }, .next) :=
  h.passes s _

theorem writeSr_fseed (h : SrAccepts th .fseed v) : s.writeSr th .fseed v =
    (s.modTh th.id fun u => { u with fseed := if loWord v = 0 then 1 else loWord v }, .next) :=
  (h.passes s _).trans (by simp only [beq_iff_eq])

theorem writeSr_spillBase (h : SrAccepts th .spillBase v) : s.writeSr th .spillBase v =
    if th.spillPtr = 0 then (s.modTh th.id fun u => { u with spillBase := v }, .next)
    else (s, .trap .reservedField th.pc) :=
  (h.passes s _).trans (by simp only [beq_iff_eq])

theorem writeSr_spillLimit (h : SrAccepts th .spillLimit v) : s.writeSr th .spillLimit v =
    if th.spillPtr = 0 then (s.modTh th.id fun u => { u with spillLimit := loWord v }, .next)
    else (s, .trap .reservedField th.pc) :=
  (h.passes s _).trans (by simp only [beq_iff_eq])

theorem writeSr_trapAddr (h : SrAccepts th .trapAddr v) :
    s.writeSr th .trapAddr v = (s.modTh th.id fun u => { u with trapAddr := v }, .next) :=
  h.passes s _

theorem writeSr_trapPcn (h : SrAccepts th .trapPcn v) :
    s.writeSr th .trapPcn v = (s.modTh th.id fun u => { u with trapPcn := v }, .next) :=
  h.passes s _

theorem writeSr_trapPcx (h : SrAccepts th .trapPcx v) :
    s.writeSr th .trapPcx v = (s.modTh th.id fun u => { u with trapPcx := v }, .next) :=
  h.passes s _

theorem writeSr_trapEqp (h : SrAccepts th .trapEqp v) :
    s.writeSr th .trapEqp v = (s.modTh th.id fun u => { u with trapEqp := loWord v }, .next) :=
  h.passes s _

theorem writeSr_trapBase (h : SrAccepts th .trapBase v) : s.writeSr th .trapBase v =
    (s.modCtx (s.team th.team).ctx fun c => { c with trapBase := v }, .next) :=
  h.passes s _

theorem writeSr_saveBase (h : SrAccepts th .saveBase v) (hs : s.saveOk v = true)
    (hc : (s.ctxOf th).preemptCtl.toNat < 2 ^ 29) (hi : (s.ctxOf th).images = []) : s.writeSr th .saveBase v =
    (s.modCtx (s.team th.team).ctx fun c => { c with saveBase := v }, .next) := by
  have stage : ((s.ctxOf th).preemptCtl.toNat / 2 ^ 29 == 0) = true := by rw [Nat.div_eq_of_lt hc]; rfl
  unfold State.ctxOf at stage hi
  exact (h.passes s _).trans (if_pos (by rw [hs, stage, hi]; rfl))

theorem writeSr_specCtl (h : SrAccepts th .specCtl v) : s.writeSr th .specCtl v =
    (s.modTeam th.team fun t => { t with specCtl := loWord v }, .next) :=
  h.passes s _

theorem writeSr_migPolicy (h : SrAccepts th .migPolicy v) : s.writeSr th .migPolicy v =
    (s.modCore (s.group th.group).core fun c => { c with migNext := some (loWord v) }, .next) :=
  h.passes s _

/-! ### TRAP_CAUSE: writing 1 to REPLAY drops the record (R389) -/

/-- TRAP_CAUSE after a write of `w`: REPLAY, bit 14, stays only where `keep` says so. -/
def trapCauseWritten (w : Word) (keep : Bool) : Word := (w &&& 0xFFFFBFFF#32) ||| (if keep then 0x4000#32 else 0#32)

theorem getLsbD_loWord (v : DWord) {k : Nat} (hk : k < 32) : (loWord v).getLsbD k = v.getLsbD k := by
  simp [loWord, hk]

theorem getLsbD_trapCauseWritten (w : Word) (keep : Bool) {k : Nat} (hk : k < 32) :
    (trapCauseWritten w keep).getLsbD k = if k = 14 then keep else w.getLsbD k := by
  have mask : (0xFFFFBFFF#32).getLsbD k = !decide (k = 14) := by revert k; decide
  have bit : (0x4000#32).getLsbD k = decide (k = 14) := by revert k; decide
  cases keep <;> by_cases h : k = 14 <;> simp [trapCauseWritten, mask, bit, h]

theorem writeSr_trapCause (h : SrAccepts th .trapCause v) :
    s.writeSr th .trapCause v = (s.modTh th.id fun u => { u with
      trapCause := trapCauseWritten (loWord v) (th.trapCause.getLsbD 14 && !v.getLsbD 14)
      replay := if th.trapCause.getLsbD 14 && !v.getLsbD 14 then u.replay else none }, .next) := by
  rw [← getLsbD_loWord v (k := 14) (by decide)]
  exact h.passes s _

/-! ### PREEMPT_CTL: STATE stays (R400) -/

/-- PREEMPT_CTL after a write of `w` over `c`: the bits of STATE, 31:29, are those of `c`. -/
def preemptCtlWritten (c w : Word) : Word := (c &&& 0xE0000000#32) ||| (w &&& 0x1FFFFFFF#32)

theorem preemptCtlWritten_state (c w : Word) : (preemptCtlWritten c w).toNat / 2 ^ 29 = c.toNat / 2 ^ 29 := by
  have state : c.toNat / 2 ^ 29 < 2 ^ 3 := by have := c.isLt; omega
  simp only [preemptCtlWritten, BitVec.toNat_or, BitVec.toNat_and, BitVec.toNat_ofNat, Nat.or_div_two_pow, Nat.and_div_two_pow]
  calc c.toNat / 2 ^ 29 &&& 7 ||| w.toNat / 2 ^ 29 &&& 0
      = c.toNat / 2 ^ 29 &&& 2 ^ 3 - 1 := by rw [Nat.and_zero, Nat.or_zero]; rfl
    _ = c.toNat / 2 ^ 29 := by rw [Nat.and_two_pow_sub_one_eq_mod, Nat.mod_eq_of_lt state]

theorem preemptCtlWritten_rest (c w : Word) : (preemptCtlWritten c w).toNat % 2 ^ 29 = w.toNat % 2 ^ 29 := by
  simp only [preemptCtlWritten, BitVec.toNat_or, BitVec.toNat_and, BitVec.toNat_ofNat, Nat.or_mod_two_pow, Nat.and_mod_two_pow]
  calc c.toNat % 2 ^ 29 &&& 0 ||| w.toNat % 2 ^ 29 &&& 2 ^ 29 - 1
      = w.toNat % 2 ^ 29 &&& 2 ^ 29 - 1 := by rw [Nat.and_zero, Nat.zero_or]
    _ = w.toNat % 2 ^ 29 := by rw [Nat.and_two_pow_sub_one_eq_mod, Nat.mod_mod]

theorem loWord_mod (v : DWord) : (loWord v).toNat % 2 ^ 29 = v.toNat % 2 ^ 29 := by
  simp only [loWord, BitVec.extractLsb'_toNat]
  omega

theorem writeSr_preemptCtl (h : SrAccepts th .preemptCtl v) : s.writeSr th .preemptCtl v =
    (s.modCtx (s.team th.team).ctx fun c => { c with preemptCtl := preemptCtlWritten c.preemptCtl (loWord v) }, .next) :=
  h.passes s _

end Accepted

/-! ## The trail -/

theorem leNat_leBytes_append (n x : Nat) (r : List Byte) : leNat (leBytes n x ++ r) = x % 2 ^ (8 * n) + 2 ^ (8 * n) * leNat r := by
  induction n generalizing x with
  | zero => simp [leBytes, Nat.mod_one]
  | succ n ih =>
    have split : x % 2 ^ (8 * (n + 1)) = x % 256 + 256 * (x / 256 % 2 ^ (8 * n)) := by
      rw [Nat.mul_succ, Nat.pow_add, Nat.mul_comm (2 ^ (8 * n)), Nat.mod_mul]
    have scale : 2 ^ (8 * (n + 1)) = 256 * 2 ^ (8 * n) := by rw [Nat.mul_succ, Nat.pow_add, Nat.mul_comm]
    calc leNat (leBytes (n + 1) x ++ r)
        = x % 256 + 256 * leNat (leBytes n (x / 256) ++ r) := rfl
      _ = x % 256 + 256 * (x / 256 % 2 ^ (8 * n)) + 256 * 2 ^ (8 * n) * leNat r := by rw [ih]; ring
      _ = x % 2 ^ (8 * (n + 1)) + 2 ^ (8 * (n + 1)) * leNat r := by rw [split, scale]

theorem leNat_wordsBytes_cons (w : Word) (ws : List Word) :
    leNat (wordsBytes (w :: ws)) = w.toNat + 2 ^ 32 * leNat (wordsBytes ws) := by
  simp only [wordsBytes, List.flatMap_cons, leNat_leBytes_append]
  rw [Nat.mod_eq_of_lt w.isLt]

theorem quadOf_quadWords (q : Quad) : quadOf (quadWords q) = q := by
  apply BitVec.eq_of_toNat_eq
  have words : quadWords q = [word q.toNat, word (q.toNat / 2 ^ 32), word (q.toNat / 2 ^ 64), word (q.toNat / 2 ^ 96)] := by
    simp [quadWords, upto, List.range_succ]
  have nil : leNat (wordsBytes []) = 0 := rfl
  simp only [quadOf, words, leNat_wordsBytes_cons, nil, word, BitVec.toNat_ofNat]
  omega

theorem trailOp_idle {s : State} {th : Thread} (h : (s.ops.any fun o => o.tstepOf th.id) = false) (f : State → State) :
    s.trailOp th f = (f s, .next) := by
  simp [State.trailOp, h]

theorem trailOp_waits {s : State} {th : Thread} (h : (s.ops.any fun o => o.tstepOf th.id) = true) (f : State → State) :
    s.trailOp th f = (s, .stall .trail) := by
  simp only [State.trailOp, h, if_true]

section Trail
variable {s : State} {th : Thread} {x : X} {n : Fin 1024}

theorem trailRd_becomes (idle : (s.ops.any fun o => o.tstepOf th.id) = false) (h : s.Runs th (.trailRd x (.v n))) :
    s.Becomes (.trailRd x (.v n)) th { (th.putRun n (quadWords th.trail)).advance with ovf := [] } s :=
  becomes_modTh h rfl rfl (trailOp_idle idle _) fun u =>
    let ⟨hold, id, pend⟩ := putRun_keeps (quadWords th.trail) u n
    ⟨id, hold, pend⟩

theorem trailZ_becomes (idle : (s.ops.any fun o => o.tstepOf th.id) = false) (h : s.Runs th (.trailZ x)) :
    s.Becomes (.trailZ x) th { th.advance with trail := 0, ovf := [] } s :=
  becomes_modTh h rfl rfl (trailOp_idle idle _) fun _ => ⟨rfl, rfl, rfl⟩

theorem trailWr_becomes (idle : (s.ops.any fun o => o.tstepOf th.id) = false) (h : s.Runs th (.trailWr x (.v n))) :
    s.Becomes (.trailWr x (.v n)) th { th.advance with trail := quadOf (th.getRun n 4), ovf := [] } s := by
  have loaded : quadOf (s.opdWords th (.v n) 4) = quadOf (th.getRun n 4) := rfl
  generalize quadOf (th.getRun n 4) = q at loaded ⊢
  have hf : (s.trailOp th fun s => s.modTh th.id fun u => { u with trail := quadOf (s.opdWords th (.v n) 4) }) =
      (s.modTh th.id fun u => { u with trail := q }, .next) := by rw [trailOp_idle idle, loaded]
  exact becomes_modTh h rfl rfl hf fun _ => ⟨rfl, rfl, rfl⟩

theorem trail_waits (busy : (s.ops.any fun o => o.tstepOf th.id) = true) {i : Instr}
    (hi : i ∈ [Instr.trailRd x (.v n), .trailZ x, .trailWr x (.v n)]) (h : s.Runs th i) : s.Ends i th s (.stall .trail) := by
  simp only [List.mem_cons, List.not_mem_nil, or_false] at hi
  rcases hi with rfl | rfl | rfl <;> exact ends_issue h rfl rfl (trailOp_waits busy _)

end Trail

/-! ## The statement -/

/-- What GETSR reads of the registers that R22, R62, R124 and R389 name. -/
theorem readSr_values (s : State) (th : Thread) :
    s.readSr th .tid = th.tid ∧ s.readSr th .hcore = dword (s.team th.team).home ∧
    s.readSr th .glade = dword ((s.group th.group).core / 12) ∧ s.readSr th .die = dword ((s.group th.group).core / 144) ∧
    s.readSr th .fstat = th.fstat.zeroExtend 64 ∧ s.readSr th .trapPcn = th.trapPcn ∧
    s.readSr th .trapBase = (s.ctx (s.team th.team).ctx).trapBase ∧
    loWord (s.readSr th (.fast 0)) = word th.rank ∧ loWord (s.readSr th (.fast 1)) = loWord th.tid ∧
    loWord (s.readSr th (.fast 6)) = word (s.group th.group).core ∧
    loWord (s.readSr th (.fast 12)) = word (if (s.group th.group).core % 12 ∈ [0, 3, 8, 11] then 1 else 0) ∧
    (th.depth < 2 ^ 24 → loWord (s.readSr th (.fast 13)) = word th.depth) := by
  have fast (c : Fin 15) : loWord (s.readSr th (.fast c)) = s.fastSr th c := loWord_zeroExtend _
  refine ⟨rfl, rfl, rfl, rfl, rfl, rfl, rfl, fast 0, fast 1, fast 6, (fast 12).trans ?_, fun hd => (fast 13).trans ?_⟩
  · rw [← kindNum_kindOf]; rfl
  · exact congrArg word (Nat.mod_eq_of_lt hd)

/-- Settles O20: a register read, the one write behind every SETSR row with what it refuses and stores, and the trail. -/
theorem specialRegisters : Obligations.SpecialRegisters := by
  refine ⟨fun s th x d sr h => ⟨getsr_hasEffect h, getsr_refused h⟩, readSr_values, ?writers, ?write, ?trail⟩
  case writers =>
    intro s r th x sr a n i hi h hw
    obtain ⟨hx, he⟩ := exec_of_mem_srWriters hi s
    exact ends_issue h hx he hw
  case write =>
    intro s th sr v
    refine ⟨writeSr_unprivileged s v, fun hp => ⟨writeSr_reserved s hp, fun hv => ?_⟩⟩
    have accepts : SrAccepts th sr v := ⟨srWrite_privilege hp, by simp [hv]⟩
    refine ⟨?_, ?_, ?_, ?_, ?_, ?_, ?_, ?_, ?_, ?_, ?_, ?_, ?_, ?_, ?_⟩ <;> rintro rfl
    · exact writeSr_fstat s accepts
    · exact writeSr_fmode s accepts
    · exact writeSr_fseed s accepts
    · exact writeSr_spillBase s accepts
    · exact writeSr_spillLimit s accepts
    · exact writeSr_trapAddr s accepts
    · exact writeSr_trapPcn s accepts
    · exact writeSr_trapPcx s accepts
    · exact writeSr_trapEqp s accepts
    · refine ⟨_, writeSr_trapCause s accepts, fun k hk => ?_⟩
      rw [getLsbD_trapCauseWritten _ _ hk, getLsbD_loWord v hk]
    · exact writeSr_trapBase s accepts
    · exact writeSr_saveBase s accepts
    · exact ⟨_, writeSr_preemptCtl s accepts, fun c =>
        ⟨preemptCtlWritten_state _ _, (preemptCtlWritten_rest _ _).trans (loWord_mod v)⟩⟩
    · exact writeSr_specCtl s accepts
    · exact writeSr_migPolicy s accepts
  case trail =>
    exact fun s th x n _ => ⟨fun idle => ⟨trailRd_becomes idle, trailZ_becomes idle, trailWr_becomes idle⟩,
      fun busy _ hi h => trail_waits busy hi h, quadOf_quadWords⟩

end Sys2Proof.Machine
end

section
/-!
PROOFS. The state that reset leaves, and the records of a thread, a team and a context when each begins.
-/

namespace Sys2Proof.Machine

/-! ## Reset -/

theorem reset_ring {d : Nat} (h : d < 8) : State.reset.ring d = Ring.fresh := by
  have each : ∀ d : Fin 8, State.reset.ring d = Ring.fresh := by decide
  exact each ⟨d, h⟩

theorem reset_core (c : Nat) : State.reset.core c = Core.fresh c := rfl

theorem moduleReset_sessions (s : State) : s.moduleReset.sessions.map Session.id = s.sessions.map Session.id := by
  simp only [State.moduleReset, List.map_map]
  rfl

/-! ## A new thread -/

theorem seedOf_eq (tid : DWord) :
    seedOf tid = if loWord tid = 0x9E3779B9 then 1 else loWord tid ^^^ 0x9E3779B9 := by
  have zero : loWord tid ^^^ 0x9E3779B9#32 = 0 ↔ loWord tid = 0x9E3779B9#32 := BitVec.xor_eq_zero_iff
  simp only [seedOf, beq_iff_eq, zero]
  rfl

theorem seedOf_ne_zero (tid : DWord) : seedOf tid ≠ 0 := by
  rw [seedOf_eq]
  split
  · decide
  · rename_i h
    exact fun h0 => h (BitVec.xor_eq_zero_iff.1 h0)

section Fresh
variable {id team group rank tindex : Nat} {tid : DWord} {fmode : Word} {sb : DWord} {sl : Word} {pc : DWord} {p : Bool}

theorem Thread.fresh_get {k : Nat} : (Thread.fresh id team group rank tindex tid fmode sb sl pc p).get k = 0 := by
  unfold Thread.get
  split
  · rename_i hk
    show (Vector.replicate 128 (0 : Word)).getD k 0 = 0
    simp [Vector.getD, hk]
  · rfl

theorem Thread.fresh_flagCount {f : Fin 12} : (Thread.fresh id team group rank tindex tid fmode sb sl pc p).flagCount f = 0 := by
  show (Vector.replicate 12 0).getD f.val 0 = 0
  simp [Vector.getD]

end Fresh

/-! ## A new team and a new context -/

theorem getD_append_replicate (l : List Word) (n k : Nat) : (l ++ List.replicate n 0).getD k 0 = l.getD k 0 := by
  rcases Nat.lt_or_ge k l.length with h | h
  · rw [List.getD_append _ _ _ _ h]
  · rw [List.getD_append_right _ _ _ _ h, List.getD_eq_default _ _ h, List.getD_eq_getElem?_getD, List.getElem?_getD_replicate_default_eq]

theorem descContext_stage (id : Nat) (desc : List Byte) (x q : Nat) : (descContext id desc x q).stage = 0 := by
  show (word (field desc 40 4 % 2 ^ 29)).toNat / 2 ^ 29 = 0
  simp only [word, BitVec.toNat_ofNat]
  omega

/-- Settles O60: reset and module reset field by field; then the records of `Thread.fresh`, `Team.fresh` and `descContext`. -/
theorem initialState : Obligations.InitialState := by
  refine ⟨⟨rfl, rfl, rfl, rfl, rfl, ?rings, ?cores, fun _ => rfl, ?moduleReset⟩, ?thread, ?team, ?context⟩
  case rings => exact fun d hd => by rw [reset_ring hd]; exact ⟨rfl, rfl⟩
  case cores => exact fun c => by rw [reset_core c]; exact ⟨rfl, rfl, rfl⟩
  case moduleReset =>
    exact fun s => ⟨rfl, moduleReset_sessions s, by simp [State.moduleReset, State.reset]⟩
  case thread =>
    intro id team group rank tindex tid fmode sb sl pc p
    exact ⟨fun _ => Thread.fresh_get, fun k _ => by simp [Thread.fresh], fun _ => Thread.fresh_flagCount, rfl, rfl, rfl, seedOf_eq tid, seedOf_ne_zero tid, rfl,
      rfl, rfl, rfl, rfl, rfl, rfl, rfl, rfl, rfl, rfl, rfl⟩
  case team =>
    intro id ctx cl l n h t d p ks core base no args hargs
    refine ⟨?_, getD_append_replicate args _, fun r hr => List.eq_of_mem_replicate hr, rfl, rfl, rfl, fun _ => rfl⟩
    simp only [Team.fresh, List.length_append, List.length_replicate]
    omega
  case context =>
    intro id desc x q
    refine ⟨rfl, rfl, rfl, rfl, rfl, descContext_stage id desc x q, rfl, rfl, rfl, by simp [descContext, Context.fresh, upto], fun h hh => ?_⟩
    exact List.getD_replicate _ hh

end Sys2Proof.Machine
end

section
/-!
PROOFS. The shared checks of a thread instruction and the ways in which it ends: an instruction whose guard fails, the checks
that stand before the guard, the next slot, a taken transfer, a hold, another try, a stall.
-/

namespace Sys2Proof.Machine

/-! ## From the end of an instruction to the state that follows -/

/-- An instruction that ends with the next slot leaves its thread past it; `r` is the state its body gives. -/
theorem becomes_of_ends {s q r : State} {i : Instr} {th u : Thread} (h : s.Ends i th q .next)
    (hu : q.thread? th.id = some u) (hold : u.hold = Hold.none) (ho : ∀ k, k ≠ th.id → q.thread? k = s.thread? k)
    (hc : q.Calm) (hr : r.Rest q) : s.Becomes i th { u.advance with ovf := [] } r := by
  have keepsId : ∀ u : Thread, u.id = th.id → ({ u with ovf := [] } : Thread).id = th.id := fun _ h => h
  have dropped : (q.dropOvf th.id).thread? th.id = some { u with ovf := [] } := by
    rw [State.dropOvf, thread_modTh_self _ _ _ keepsId, hu]; rfl
  have others : ∀ k, k ≠ th.id → (q.dropOvf th.id).thread? k = s.thread? k := fun k hk => by
    rw [State.dropOvf, thread_modTh_ne _ _ _ _ keepsId hk, ho k hk]
  obtain ⟨self, rest, frame⟩ := finish_next dropped hold (calm_modTh hc _ _ fun _ h => h)
  exact ⟨_, h, self, fun k hk => (rest k hk).trans (others k hk), Rest.trans (Rest.trans hr (modTh_rest _ _ _)) frame⟩

/-! ## A guard that tests false (R21) -/

/-- Under a guard that tests false, an instruction in which such a thread takes no part only ends. -/
theorem ends_of_guard_false {s : State} {th : Thread} {i : Instr} {x : X} (h : s.Issues th i) (hx : i.x = some x)
    (hg : th.psel x.g = false) (hi : i.gathers = false) : s.Ends i th s .next := by
  obtain ⟨f, he⟩ := exec_issue i x hx hi
  exact ends_issueG h (he s) (by rw [hg]; rfl)

section Reorder
variable {s : State} {th : Thread} {x : X} {core : Bool} {n : Fin 8} {key b : Opd} {kind : KindSel} {colours : Byte}

theorem reorder_ends_of_guard_false (h : s.Issues th (.reorder x core n key b kind colours)) (hg : th.psel x.g = false) :
    s.Ends (.reorder x core n key b kind colours) th (s.pastReorder th) .next :=
  ends_issueG h rfl (by rw [hg]; rfl)

/-- Past the last slot of a native line the thread leaves the line. -/
theorem advance_lastSlot {th : Thread} (hp : th.portable = false) (h4 : th.pc.toNat % 64 ≤ 4) :
    ({ th with pc := dword (th.pc.toNat / 8 * 8 + 4) } : Thread).advance =
      { th with pc := dword (th.pc.toNat / 64 * 64 + 64), clause := none, entered := false, byTransfer := false } := by
  have isLt := th.pc.isLt
  have last : (dword (th.pc.toNat / 8 * 8 + 4)).toNat = th.pc.toNat / 64 * 64 + 4 := by
    rw [dword, BitVec.toNat_ofNat]; omega
  have next : nextNative (dword (th.pc.toNat / 8 * 8 + 4)) = (dword (th.pc.toNat / 64 * 64 + 64), true) := by
    have slot : ¬ (th.pc.toNat / 64 * 64 + 4) % 8 < 4 := by omega
    have line : (th.pc.toNat / 64 * 64 + 4) / 64 = th.pc.toNat / 64 := by omega
    rw [nextNative, last, if_neg slot, line]
  simp [Thread.advance, Thread.nextPc, hp, next]

end Reorder

/-- Settles O6: every other instruction by its one shared issue, and REORDER by where its line ends. -/
theorem failedGuardIsNoOperation : Obligations.FailedGuardIsNoOperation := by
  refine ⟨fun s th i x h hx hg hi => ?_, ?reorder⟩
  · exact becomes_of_ends (ends_of_guard_false h hx hg hi) (cur_thread h.cur) h.free (fun _ _ => rfl) h.calm rfl
  intro s th x core n key b kind colours i h hg
  refine ⟨fun hp => ?_, fun hp h4 => ?_⟩
  · have stays : s.pastReorder th = s := by rw [State.pastReorder, hp]; rfl
    refine becomes_of_ends (reorder_ends_of_guard_false h hg) ?_ h.free ?_ ?_ ?_ <;> rw [stays]
    · exact cur_thread h.cur
    · exact fun _ _ => rfl
    · exact h.calm
    · rfl
  · have moves : s.pastReorder th = s.modTh th.id fun u => { u with pc := dword (th.pc.toNat / 8 * 8 + 4) } := by
      rw [State.pastReorder, hp]; rfl
    have keepsId : ∀ u : Thread, u.id = th.id → ({ u with pc := dword (th.pc.toNat / 8 * 8 + 4) } : Thread).id = th.id :=
      fun _ h => h
    have ends := reorder_ends_of_guard_false h hg
    rw [moves] at ends
    have became := becomes_of_ends ends (u := { th with pc := dword (th.pc.toNat / 8 * 8 + 4) })
      (by rw [thread_modTh_self _ _ _ keepsId, cur_thread h.cur]; rfl) h.free
      (fun k hk => thread_modTh_ne _ _ _ _ keepsId hk) (calm_modTh h.calm _ _ fun _ h => h) (modTh_rest s _ _)
    rwa [advance_lastSlot hp h4] at became

/-! ## The checks before the guard (R65, R166, R167, R243, R248) -/

/-- A thread instruction that the shared checks stop ends as they say. -/
theorem exec_of_preIssue {s : State} {th : Thread} {i : Instr} {x : X} {n : Next} (hc : s.cur = some th) (hx : i.x = some x)
    (hn : s.preIssue th i = some n) : exec i s = .next (s.finish th.id n) := by
  obtain ⟨f, he⟩ := exec_issueG i x hx
  rw [he s, State.issueG, hc]
  simp only [hn]

/-- A thread's context issues, or its bundle has begun its slot. -/
def State.Running (s : State) (th : Thread) : Prop := (s.ctxOf th).frozen = false ∨ ∃ b r, s.issues = b :: r ∧ b.begun = true

theorem slotBegun_iff (s : State) : s.slotBegun = true ↔ ∃ b r, s.issues = b :: r ∧ b.begun = true := by
  unfold State.slotBegun
  cases s.issues with
  | nil => simp
  | cons i r => simp

theorem stopped_eq_false_iff (s : State) (th : Thread) : s.stopped th = false ↔ s.Running th := by
  rw [State.Running, ← slotBegun_iff, State.stopped, Bool.and_eq_false_iff, Bool.not_eq_false']

theorem roleAdmits_eq_false {s : State} {th : Thread} {c : Cls} (h : (s.group th.group).role.admits c = false ∨
    c = .barred ∧ (s.team th.team).hasRoles = true) : s.roleAdmits th c = false := by
  rcases h with h | ⟨rfl, h⟩
  · rw [State.roleAdmits, h, Bool.false_and]
  · rw [State.roleAdmits, h]; simp

/-- Settles O7: the three checks of `State.preIssue` in their order, then the instructions that they name. -/
theorem checksBeforeGuard : Obligations.ChecksBeforeGuard := by
  refine ⟨fun s th i x hc hx => ?checks, fun x a b n ty sat => ⟨rfl, rfl, rfl, rfl, rfl, fun _ => rfl⟩⟩
  refine ⟨fun frozen => ?_, fun runs user named => ?_, fun runs user noPriv noConst role => ?_⟩
  · have stopped : s.stopped th = true := by
      rw [← Bool.not_eq_false, stopped_eq_false_iff]; exact frozen
    exact exec_of_preIssue hc hx (by rw [State.preIssue, if_pos stopped])
  · have issues := (stopped_eq_false_iff s th).2 runs
    have needs : (!th.privileged && (i.needsPrivilege || i.writesConst)) = true := by
      rw [user]; rcases named with h | h <;> simp [h]
    exact exec_of_preIssue hc hx (by rw [State.preIssue, issues, if_neg Bool.false_ne_true, if_pos needs])
  · have issues := (stopped_eq_false_iff s th).2 runs
    have barred := roleAdmits_eq_false role
    exact exec_of_preIssue hc hx (by simp [State.preIssue, issues, user, noPriv, noConst, barred])

/-! ## The record of one thread -/

/-- The record of the thread that is updated. -/
theorem thread_modTh {s : State} {t : Nat} {u : Thread} {f : Thread → Thread} (h : s.thread? t = some u)
    (hf : ∀ x, x.id = t → (f x).id = t := by intro _ h; exact h) : (s.modTh t f).thread? t = some (f u) := by
  rw [thread_modTh_self _ _ _ hf, h]; rfl

/-- The record of another thread. -/
theorem thread_modTh_other {s : State} {t k : Nat} {f : Thread → Thread} (hk : k ≠ t)
    (hf : ∀ x, x.id = t → (f x).id = t := by intro _ h; exact h) : (s.modTh t f).thread? k = s.thread? k :=
  thread_modTh_ne _ _ _ _ hf hk

theorem id_of_thread {s : State} {t : Nat} {u : Thread} (h : s.thread? t = some u) : u.id = t := by
  simpa using List.find?_some h

/-! ## The end of an instruction (R32, R158, R159) -/

/-- The bookkeeping of the bundle after an instruction, while no trap waits, changes nothing but which bundles still issue. -/
theorem bundleEnd_calm {s : State} (h : s.Calm) (f g : Issue → Issue) :
    s.Rest ((s.modIssue f).modIssue g).slotEnd ∧ ((s.modIssue f).modIssue g).slotEnd.threads = s.threads := by
  have threads : ((s.modIssue f).modIssue g).threads = s.threads := by rw [modIssue_threads, modIssue_threads]
  obtain ⟨rest, same⟩ := slotEnd_calm (calm_threads threads h)
  exact ⟨Rest.trans (Rest.trans (modIssue_rest _ _) (modIssue_rest _ _)) rest, same.trans threads⟩

/-- `r` is `s` with thread `t` standing as `u`, the bundles that still issue apart. -/
def State.Leaves (s : State) (t : Nat) (u : Thread) (r : State) : Prop :=
  r.thread? t = some u ∧ (∀ k, k ≠ t → r.thread? k = s.thread? k) ∧ s.Rest r

/-- An instruction's end that updates its thread's record by `f` and closes the bundle. -/
theorem finish_of_modTh {s : State} {th : Thread} {n : Next} {f : Thread → Thread} (hth : s.thread? th.id = some th) (hs : s.Calm)
    (hn : s.finish th.id n = (((s.modTh th.id f).modIssue fun i => { i with ends := true }).modIssue
      fun i => { i with todo := i.todo.tail, begun := true }).slotEnd)
    (hf : ∀ u, (f u).id = u.id ∧ (f u).pend = u.pend) : s.Leaves th.id (f th) (s.finish th.id n) := by
  have keepsId : ∀ u, u.id = th.id → (f u).id = th.id := fun u hu => (hf u).1.trans hu
  have calm : (s.modTh th.id f).Calm := calm_modTh hs _ _ fun u hu => (hf u).2.trans hu
  obtain ⟨rest, threads⟩ := bundleEnd_calm calm (fun i => { i with ends := true })
    fun i => { i with todo := i.todo.tail, begun := true }
  rw [hn]
  refine ⟨?_, fun k hk => ?_, Rest.trans (modTh_rest _ _ _) rest⟩
  · rw [thread_threads threads, thread_modTh hth keepsId]
  · rw [thread_threads threads, thread_modTh_other hk keepsId]

section Ends
variable {s : State} {th : Thread} (hth : s.thread? th.id = some th) (hs : s.Calm)
include hth hs

theorem finish_goto (pc : DWord) (p : Bool) : s.Leaves th.id
    { th with pc := pc, portable := p, clause := none, entered := false, byTransfer := true } (s.finish th.id (.goto pc p)) :=
  finish_of_modTh (f := fun u => { u with pc := pc, portable := p, clause := none, entered := false, byTransfer := true })
    hth hs rfl fun _ => ⟨rfl, rfl⟩

theorem finish_wait (h : Hold) : s.Leaves th.id { th with hold := h } (s.finish th.id (.wait h)) :=
  finish_of_modTh (f := fun u => { u with hold := h }) hth hs rfl fun _ => ⟨rfl, rfl⟩

theorem finish_retry : s.Leaves th.id th (s.finish th.id .retry) :=
  finish_of_modTh (f := fun u => u) hth hs (by rw [modTh_id]; rfl) fun _ => ⟨rfl, rfl⟩

theorem finish_stall (w : Stall) : s.Leaves th.id { th with stall := some w } (s.finish th.id (.stall w)) :=
  finish_of_modTh (f := fun u => { u with stall := some w }) hth hs rfl fun _ => ⟨rfl, rfl⟩

end Ends

/-- Slot `k` of line `l` goes on to the next slot, or to the next line (R32). -/
theorem nextNative_slot {l k : Nat} (hl : l % 64 = 0) (hb : l + 64 < 2 ^ 64) (hk : k ≤ 4) :
    nextNative (BitVec.ofNat 64 (l + k)) = (BitVec.ofNat 64 (if k < 4 then l + k + 1 else l + 64), decide (k = 4)) := by
  have value : (BitVec.ofNat 64 (l + k)).toNat = l + k := by rw [BitVec.toNat_ofNat]; omega
  rw [nextNative, value]
  rcases Nat.lt_or_ge k 4 with h | h
  · rw [if_pos (by omega), if_pos h, decide_eq_false (by omega), BitVec.ofNat_add (l + k) 1]
  · rw [if_neg (by omega), if_neg (by omega), decide_eq_true (by omega), dword, show (l + k) / 64 * 64 = l by omega]

/-- Settles O8: each way to end by its own lemma, then the PC that follows a native slot. -/
theorem endOfInstruction : Obligations.EndOfInstruction := by
  refine ⟨fun s th hc hold hs n u hn => ?ends, fun th l k hp hl hb hpc hk => ?slot, fun s th pc p hc _ hs => ?goto⟩
  case ends =>
    have hth := cur_thread hc
    rcases hn with ⟨rfl, rfl⟩ | ⟨pc, p, rfl, rfl⟩ | ⟨h, rfl, rfl⟩ | ⟨rfl, rfl⟩ | ⟨w, rfl, rfl⟩
    · exact finish_next hth hold hs
    · exact finish_goto hth hs pc p
    · exact finish_wait hth hs h
    · exact finish_retry hth hs
    · exact finish_stall hth hs w
  case slot =>
    have next := nextNative_slot hl hb hk
    rw [← hpc] at next
    refine ⟨by simp [Thread.advance, Thread.nextPc, hp, next], ?_⟩
    simp only [Thread.advance, hp, next, Bool.false_or, decide_eq_true_eq]
    rcases Nat.lt_or_ge k 4 with h | h
    · rw [if_neg (by omega), if_pos h]
    · rw [if_pos (by omega), if_neg (by omega)]
  case goto =>
    exact ⟨_, (finish_goto (cur_thread hc) hs pc p).1, rfl, rfl, rfl⟩

end Sys2Proof.Machine
end

section
/-!
PROOFS. A raised trap: it waits exactly, its TRAP_CAUSE word, and the freeze of its context where it is a refused sealed write.
-/

namespace Sys2Proof.Machine

/-! ## A trap that waits for its bundle (R35, R385) -/

/-- A trap of a thread outside a speculation and a handler is held until its handler is entered (R394). -/
theorem raise_waits {s : State} {th : Thread} {p : PendTrap} (hth : s.thread? th.id = some th) (hspec : th.spec = none)
    (hhandler : th.handler = none) (hc : p.cause ≠ .sealedWrite) :
    s.raise th.id p = s.modTh th.id fun u => { u with pend := some p, hold := .trap } := by
  simp [State.raise, th_of hth, hspec, hhandler, hc]

/-- While other threads of the bundle have still to issue the slot, a trap only waits and the bundle goes on to them. -/
theorem finish_trap_of_others {s : State} {th : Thread} {c : Cause} {a : DWord} {i : Issue} {r : List Issue}
    (hth : s.thread? th.id = some th) (hspec : th.spec = none) (hhandler : th.handler = none) (hc : c ≠ .sealedWrite)
    (hi : s.issues = i :: r) (ht : i.todo.tail ≠ []) : s.finish th.id (.trap c a) =
      (s.modTh th.id fun u => { u with pend := some (plainTrap c a th.pc true s.trapStamp), hold := .trap }).setIssues
        ({ i with ends := true, todo := i.todo.tail, begun := true } :: r) := by
  simp only [State.finish, th_of hth]
  rw [raise_waits hth hspec hhandler hc]
  simp [State.modIssue, State.slotEnd, State.setIssues, hi, ht]

/-! ## TRAP_CAUSE (R389) -/

theorem word_toNat_of_lt {n : Nat} (h : n < 2 ^ 32) : (word n).toNat = n := by
  rw [word, BitVec.toNat_ofNat, Nat.mod_eq_of_lt h]

theorem causeCode_lt (c : Cause) : causeCode c < 2 ^ 7 := by cases c <;> decide

/-- Bit `k` of a word is the parity of what stands above it. -/
theorem getLsbD_eq_decide (w : Word) (k : Nat) : w.getLsbD k = decide (w.toNat / 2 ^ k % 2 = 1) := by
  rw [BitVec.getLsbD, Nat.testBit_eq_decide_div_mod_eq]

/-- The fields of TRAP_CAUSE, from the cause upward. -/
theorem packed_fields {w c t s r f d g : Nat} (hc : c < 2 ^ 12) (ht : t < 2) (hs : s < 2) (hr : r < 2) (hf : f < 16) (hd : d < 32)
    (h : w = g * 2 ^ 24 + d * 2 ^ 19 + f * 2 ^ 15 + r * 2 ^ 14 + s * 2 ^ 13 + t * 2 ^ 12 + c) :
    w % 4096 = c ∧ w / 2 ^ 12 % 2 = t ∧ w / 2 ^ 13 % 2 = s ∧ w / 2 ^ 14 % 2 = r ∧ w / 2 ^ 15 % 16 = f ∧ w / 2 ^ 19 % 32 = d ∧
      w / 2 ^ 24 = g := by
  subst h
  refine ⟨?_, ?_, ?_, ?_, ?_, ?_, ?_⟩ <;> omega

/-- FLAG of TRAP_CAUSE: the flag's number, or 15. -/
def PendTrap.flagField (p : PendTrap) : Nat := match p.flag with | some f => f.val | none => 15

theorem PendTrap.flagField_lt (p : PendTrap) : p.flagField < 16 := by
  unfold PendTrap.flagField
  split <;> omega

theorem bit_eq (b : Bool) (k : Nat) : (if b then 2 ^ k else 0) = b.toNat * 2 ^ k := by cases b <;> simp

/-- DREG of TRAP_CAUSE: 0 without a marked run. -/
def PendTrap.dregField (p : PendTrap) : Nat := if p.dcnt = 0 then 0 else p.dreg % 256

theorem PendTrap.dregField_lt (p : PendTrap) : p.dregField < 256 := by
  unfold PendTrap.dregField
  split <;> omega

theorem PendTrap.word_toNat (p : PendTrap) (h : p.dcnt < 32) : p.word.toNat =
    p.dregField * 2 ^ 24 + p.dcnt * 2 ^ 19 + p.flagField * 2 ^ 15 + p.replay.isSome.toNat * 2 ^ 14 + p.res.toNat * 2 ^ 13 +
      p.defer.toNat * 2 ^ 12 + causeCode p.cause := by
  have cause := causeCode_lt p.cause
  have flag := p.flagField_lt
  have dreg := p.dregField_lt
  have replay := Bool.toNat_lt p.replay.isSome
  have res := Bool.toNat_lt p.res
  have defer := Bool.toNat_lt p.defer
  refine Eq.trans ?_ (word_toNat_of_lt (by omega))
  unfold PendTrap.word PendTrap.dregField PendTrap.flagField
  cases p.flag <;> simp only [bit_eq, beq_iff_eq]

theorem PendTrap.word_fields (p : PendTrap) (h : p.dcnt < 32) :
    p.word.toNat % 4096 = causeCode p.cause ∧ p.word.getLsbD 12 = p.defer ∧ p.word.getLsbD 13 = p.res ∧
    p.word.getLsbD 14 = p.replay.isSome ∧ p.word.toNat / 2 ^ 15 % 16 = p.flagField ∧
    p.word.toNat / 2 ^ 19 % 32 = p.dcnt ∧ p.word.toNat / 2 ^ 24 = p.dregField := by
  have cause := causeCode_lt p.cause
  obtain ⟨code, defer, res, replay, flag, count, reg⟩ := packed_fields (by omega) (Bool.toNat_lt p.defer) (Bool.toNat_lt p.res)
    (Bool.toNat_lt p.replay.isSome) p.flagField_lt h (p.word_toNat h)
  refine ⟨code, ?_, ?_, ?_, flag, count, reg⟩
  · rw [getLsbD_eq_decide, defer]; cases p.defer <;> rfl
  · rw [getLsbD_eq_decide, res]; cases p.res <;> rfl
  · rw [getLsbD_eq_decide, replay]; cases p.replay.isSome <;> rfl

/-! ## The freeze of a context (R248, R464) -/

theorem toHost_outbox (s : State) (session queue type seq : Nat) (body : List Byte) :
    ∃ o, s.toHost session queue type seq body = { s with outbox := o } := by
  unfold State.toHost
  split
  · exact ⟨_, rfl⟩
  · exact ⟨_, rfl⟩

theorem freezeMsg_outbox (s : State) (ctx a : Nat) : ∃ o, s.freezeMsg ctx a = { s with outbox := o } :=
  toHost_outbox s _ _ _ _ _

theorem freezeAgain_outbox (s : State) (ctx old a : Nat) : ∃ o, s.freezeAgain ctx old a = { s with outbox := o } := by
  simp only [State.freezeAgain]
  split
  · obtain ⟨o, h⟩ := freezeMsg_outbox _ ctx a
    exact ⟨o, h⟩
  · exact ⟨_, rfl⟩

theorem ctx_of {s : State} {c : Nat} {x : Context} (h : s.ctx? c = some x) : s.ctx c = x := by simp [State.ctx, h]

/-- The record of the context that is updated. -/
theorem ctx_modCtx {s : State} {c : Nat} {x : Context} {f : Context → Context} (h : s.ctx? c = some x)
    (hf : ∀ y, y.id = c → (f y).id = c := by intro _ h; exact h) : (s.modCtx c f).ctx? c = some (f x) := by
  show (updBy Context.id s.contexts c f).find? _ = _
  rw [find_updBy_self _ _ _ hf]
  exact congrArg (Option.map f) h

/-- The record of a context in which a write at `a` has been refused in the cycle `now`. -/
def Context.refused (x : Context) (now : Nat) (a : DWord) : Context := { x with
  frozen := true
  frozenSince := if x.frozen then x.frozenSince else now
  frozenAt := if x.frozen = true ∧ ¬(x.frozenSince = now ∧ a < x.frozenAt) then x.frozenAt else a }

/-- A later refused write that names no lower byte leaves the record as it was. -/
theorem Context.refused_of_frozen {x : Context} {now : Nat} {a : DWord} (hf : x.frozen = true)
    (hl : ¬(x.frozenSince = now ∧ a < x.frozenAt)) : x.refused now a = x := by
  obtain ⟨_, _, _, _, _, _, _, _, _, _, _, _, _, _, _, _, _, _, frozen, _, _, _, _, _, _, _, _, _⟩ := x
  cases hf
  simp only [Context.refused, if_true, if_pos (And.intro trivial hl)]

/-- A refused write freezes its context, or names a lower byte, and else only sends a message. -/
theorem freezeCtx_eq {s : State} {c : Nat} {x : Context} (h : s.ctx? c = some x) (a : DWord) :
    (∃ o q, s.freezeCtx c a = { s with outbox := o, contexts := q }) ∧ (s.freezeCtx c a).ctx? c = some (x.refused s.cycle a) := by
  have hx := ctx_of h
  unfold State.freezeCtx
  simp only [hx]
  by_cases hf : x.frozen = true
  · by_cases hl : x.frozenSince = s.cycle ∧ a < x.frozenAt
    · obtain ⟨o, ho⟩ := freezeAgain_outbox s c x.frozenAt.toNat a.toNat
      rw [if_neg (by simp [hf]), if_pos (by simp [hl]), ho]
      refine ⟨⟨o, _, rfl⟩, (ctx_modCtx h).trans ?_⟩
      simp [Context.refused, hf, hl]
    · rw [if_neg (by simp [hf]), if_neg (by simpa using hl), Context.refused_of_frozen hf hl]
      exact ⟨⟨_, _, rfl⟩, h⟩
  · obtain ⟨o, ho⟩ := freezeMsg_outbox s c a.toNat
    rw [if_pos (by simpa using hf), ho]
    refine ⟨⟨o, _, rfl⟩, (ctx_modCtx h).trans ?_⟩
    simp [Context.refused, hf]

/-- Settles O9: the trap that waits, the fields of its word, and the freeze that takes its place after a refused sealed write. -/
theorem raisedTrap : Obligations.RaisedTrap := by
  refine ⟨fun s th c a hc hspec hhandler hcause hbundle => ?waits, fun p h => p.word_fields h,
    fun s th x p hth hx hspec hcause hdefer => ?frozen⟩
  case waits =>
    obtain ⟨i, r, hi, ht⟩ := hbundle
    have hth := cur_thread hc
    rw [finish_trap_of_others hth hspec hhandler hcause hi ht]
    exact ⟨thread_modTh hth, fun k hk => thread_modTh_other hk, rfl⟩
  case frozen =>
    intro z lower
    have hid : x.id = (s.team th.team).ctx := by simpa using List.find?_some hx
    have hz : z = ((s.freezeCtx (s.team th.team).ctx p.addr).modTh th.id fun u => { u with hold := .trap }).modCtx
        (s.team th.team).ctx fun c => { c with frozenFaults := c.frozenFaults ++ [(th.id, p)] } := by
      simp [z, State.raise, State.freeze, th_of hth, hspec, hcause, hdefer]
    obtain ⟨⟨o, q, freezes⟩, record⟩ := freezeCtx_eq hx p.addr
    have recorded : z.ctx? (s.team th.team).ctx = some
        { x.refused s.cycle p.addr with frozenFaults := x.frozenFaults ++ [(th.id, p)] } := by
      rw [hz]; exact ctx_modCtx (s := (s.freezeCtx _ p.addr).modTh th.id _) record
    rw [freezes] at hz
    refine ⟨?_, fun k hk => ?_, ?_, ?_, ?_, (congrArg z.ctx? hid).trans recorded⟩
    · rw [hz]; exact thread_modTh (s := { s with outbox := o, contexts := q }) hth
    · rw [hz]; exact thread_modTh_other (s := { s with outbox := o, contexts := q }) hk
    all_goals rw [hz]; rfl

end Sys2Proof.Machine
end

section
/-!
PROOFS. Fields of byte lists, and the entry of R39 that a spilled part takes on the spill stack.
-/

namespace Sys2Proof.Machine

/-! ## Fields of byte lists -/

@[simp] theorem leBytes_length (n x : Nat) : (leBytes n x).length = n := by
  induction n generalizing x with
  | zero => rfl
  | succ n ih => simp [leBytes, ih]

theorem leNat_leBytes (n x : Nat) : leNat (leBytes n x) = x % 2 ^ (8 * n) := by
  simpa [leNat] using leNat_leBytes_append n x []

theorem leBytes_drop (m k x : Nat) : (leBytes (k + m) x).drop k = leBytes m (x / 256 ^ k) := by
  induction k generalizing x with
  | zero => simp
  | succ k ih =>
    rw [Nat.succ_add, leBytes, List.drop_succ_cons, ih, Nat.div_div_eq_div_mul, Nat.pow_succ']

theorem leBytes_take (n m x : Nat) : (leBytes (n + m) x).take n = leBytes n x := by
  induction n generalizing x with
  | zero => rfl
  | succ n ih => rw [Nat.succ_add, leBytes, leBytes, List.take_succ_cons, ih]

/-- A field of a little-endian number. -/
theorem field_leBytes {m off n : Nat} (x : Nat) (h : off + n ≤ m) :
    field (leBytes m x) off n = x / 256 ^ off % 2 ^ (8 * n) := by
  obtain ⟨k, rfl⟩ := Nat.le.dest h
  rw [field, slice, Nat.add_assoc, leBytes_drop, leBytes_take, leNat_leBytes]

theorem slice_append_left {a b : List Byte} {off n : Nat} (h : off + n ≤ a.length) : slice (a ++ b) off n = slice a off n := by
  rw [slice, slice, List.drop_append_of_le_length (by omega), List.take_append_of_le_length (by rw [List.length_drop]; omega)]

theorem slice_append_right {a b : List Byte} {off n : Nat} (h : a.length ≤ off) :
    slice (a ++ b) off n = slice b (off - a.length) n := by
  rw [slice, slice, List.drop_append, List.drop_eq_nil_of_le h, List.nil_append]

theorem field_append_left {a b : List Byte} {off n : Nat} (h : off + n ≤ a.length) : field (a ++ b) off n = field a off n := by
  rw [field, field, slice_append_left h]

theorem field_append_right {a b : List Byte} {off n : Nat} (h : a.length ≤ off) :
    field (a ++ b) off n = field b (off - a.length) n := by
  rw [field, field, slice_append_right h]

theorem field_slice {l : List Byte} {a n b m : Nat} (h : b + m ≤ n) : field (slice l a n) b m = field l (a + b) m := by
  rw [field, field, slice, slice, slice, List.drop_take, List.drop_drop, List.take_take, Nat.min_eq_left (by omega)]

theorem leNat_replicate_zero (n : Nat) : leNat (List.replicate n 0#8) = 0 := by
  induction n with
  | zero => rfl
  | succ n ih => rw [List.replicate_succ, leNat, ih]; rfl

theorem field_replicate_zero (k off n : Nat) : field (List.replicate k 0#8) off n = 0 := by
  rw [field, slice, List.drop_replicate, List.take_replicate, leNat_replicate_zero]

theorem allZero_iff (l : List Byte) : allZero l = true ↔ leNat l = 0 := by
  induction l with
  | nil => exact ⟨fun _ => rfl, fun _ => rfl⟩
  | cons b l ih =>
    have zero : b = 0 ↔ b.toNat = 0 := ⟨fun h => by rw [h]; rfl, fun h => BitVec.eq_of_toNat_eq h⟩
    rw [allZero, List.all_cons, Bool.and_eq_true, ← allZero, ih, beq_iff_eq, leNat, zero]
    omega

theorem allZero_slice (l : List Byte) (off n : Nat) : allZero (slice l off n) = true ↔ field l off n = 0 := allZero_iff _

/-! ## Words -/

@[simp] theorem wordsBytes_length (ws : List Word) : (wordsBytes ws).length = 4 * ws.length := by
  induction ws with
  | nil => rfl
  | cons w ws ih =>
    rw [wordsBytes, List.flatMap_cons, List.length_append, leBytes_length, ← wordsBytes, ih, List.length_cons]; omega

theorem field_wordsBytes (ws : List Word) {i : Nat} (h : i < ws.length) :
    field (wordsBytes ws) (4 * i) 4 = (ws.getD i 0).toNat := by
  induction ws generalizing i with
  | nil => exact absurd h (Nat.not_lt_zero _)
  | cons w ws ih =>
    rw [wordsBytes, List.flatMap_cons, ← wordsBytes]
    cases i with
    | zero =>
      rw [field_append_left (by simp), field_leBytes _ (by omega)]
      rw [Nat.mul_zero, Nat.pow_zero, Nat.div_one]
      exact Nat.mod_eq_of_lt w.isLt
    | succ i =>
      rw [field_append_right (by simp), leBytes_length, show 4 * (i + 1) - 4 = 4 * i by omega,
        ih (Nat.lt_of_succ_lt_succ h)]
      rfl

theorem words4_length (n : Nat) (l : List Byte) : (words4 n l).length = n := by
  induction n generalizing l with
  | zero => rfl
  | succ n ih => rw [words4, List.length_cons, ih]

theorem words4_getD {n i : Nat} (l : List Byte) (h : i < n) : (words4 n l).getD i 0 = word (field l (4 * i) 4) := by
  induction n generalizing i l with
  | zero => exact absurd h (Nat.not_lt_zero _)
  | succ n ih =>
    cases i with
    | zero => rfl
    | succ i =>
      rw [words4, List.getD_cons_succ, ih _ (Nat.lt_of_succ_lt_succ h), field, field, slice, slice, List.drop_drop]
      rw [show 4 + 4 * i = 4 * (i + 1) by omega]

/-! ## The entry of a spilled part (R39) -/

theorem entryBytes_length (o : Hidden) : (entryBytes o).length = max (entrySize o.n) (24 + 4 * o.n) - 4 * o.n + 4 * o.regs.length := by
  simp only [entryBytes, List.length_append, leBytes_length, wordsBytes_length, List.length_replicate]
  omega

/-- An entry of whole 32-byte blocks has room for the copy of n at its end. -/
theorem entrySize_room {n : Nat} (h : n % 8 = 0) : 24 + 4 * n ≤ entrySize n := by
  unfold entrySize; omega

section Entry
variable {o : Hidden}

theorem entryBytes_length_eq (h8 : o.n % 8 = 0) (hr : o.regs.length = o.n) : (entryBytes o).length = entrySize o.n := by
  have := entrySize_room h8
  rw [entryBytes_length, hr]; omega

/-- The fields of an entry: the return PC, n, the registers, zeros, and n again in its last 8 bytes. -/
theorem entryBytes_ret : field (entryBytes o) 0 8 = o.ret.toNat := by
  simp only [entryBytes, List.append_assoc]
  rw [field_append_left (by simp), field_leBytes _ (by omega)]
  rw [Nat.pow_zero, Nat.div_one]
  exact Nat.mod_eq_of_lt o.ret.isLt

theorem entryBytes_n (hn : o.n < 256) : field (entryBytes o) 8 1 = o.n ∧ field (entryBytes o) 9 7 = 0 := by
  simp only [entryBytes, List.append_assoc]
  constructor
  · rw [field_append_right (by simp), field_append_left (by simp), leBytes_length, field_leBytes _ (by omega)]
    simpa using hn
  · rw [field_append_right (by simp), field_append_left (by simp), leBytes_length, field_leBytes _ (by omega)]
    rw [Nat.div_eq_of_lt (by simpa using hn), Nat.zero_mod]

theorem entryBytes_reg (hr : o.regs.length = o.n) {i : Nat} (hi : i < o.n) : field (entryBytes o) (16 + 4 * i) 4 = (o.regs.getD i 0).toNat := by
  simp only [entryBytes, List.append_assoc]
  rw [field_append_right (by simp; omega), field_append_right (by simp; omega), field_append_left (by simp [hr]; omega)]
  rw [leBytes_length, leBytes_length, show 16 + 4 * i - 8 - 8 = 4 * i by omega, field_wordsBytes _ (by omega)]

theorem entryBytes_zeros (hr : o.regs.length = o.n) : field (entryBytes o) (16 + 4 * o.n) (entrySize o.n - 24 - 4 * o.n) = 0 := by
  simp only [entryBytes, List.append_assoc]
  rw [field_append_right (by simp; omega), field_append_right (by simp; omega), field_append_right (by simp [hr]; omega),
    field_append_left (by simp [hr]; omega), field_replicate_zero]

theorem entryBytes_tail (h8 : o.n % 8 = 0) (hr : o.regs.length = o.n) (hn : o.n < 256) : field (entryBytes o) (entrySize o.n - 8) 8 = o.n := by
  have room := entrySize_room h8
  simp only [entryBytes, List.append_assoc]
  rw [field_append_right (by simp; omega), field_append_right (by simp; omega), field_append_right (by simp [hr]; omega),
    field_append_right (by simp [hr]; omega), field_leBytes _ (by simp [hr]; omega)]
  simp only [leBytes_length, wordsBytes_length, List.length_replicate, hr]
  rw [show entrySize o.n - 8 - 8 - 8 - 4 * o.n - (entrySize o.n - 24 - 4 * o.n) = 0 by omega, Nat.pow_zero, Nat.div_one]
  exact Nat.mod_eq_of_lt (by omega)

end Entry

end Sys2Proof.Machine
end

section
/-!
PROOFS. The registers of a view, and the register window: a slide that fits, one that spills, and the return to a resident part
or to an entry of the spill stack.
-/

namespace Sys2Proof.Machine

/-! ## Registers of a view -/

theorem get_put {u : Thread} {n : Nat} (hn : n < 128) (v : Word) (k : Nat) :
    (u.put n v).get k = if k = n then v else u.get k := by
  have put : u.put n v = { u with regs := u.regs.setIfInBounds n v } := if_pos hn
  rw [put, Thread.get, Thread.get]
  by_cases hk : k < 128
  · rw [if_pos hk, if_pos hk]
    simp only [Vector.getD, Vector.toArray_setIfInBounds, Array.getD_eq_getD_getElem?, Array.getElem?_setIfInBounds, eq_comm (a := n)]
    by_cases h : k = n <;> simp [h, hn]
  · rw [if_neg hk, if_neg hk, if_neg (by omega)]

/-- A run inside the register file changes registers only. -/
theorem putRun_eq (ws : List Word) : ∀ {u : Thread} {n : Nat}, n + ws.length ≤ 128 →
    u.putRun n ws = { u with regs := (u.putRun n ws).regs } := by
  induction ws with
  | nil => exact fun _ => rfl
  | cons w ws ih =>
    intro u n h
    rw [List.length_cons] at h
    have put : u.put n w = { u with regs := u.regs.setIfInBounds n w } := if_pos (by omega)
    conv_lhs => rw [Thread.putRun, ih (by omega), put]
    rw [Thread.putRun, put]

theorem get_putRun (ws : List Word) : ∀ {u : Thread} {n : Nat}, n + ws.length ≤ 128 → ∀ k,
    (u.putRun n ws).get k = if n ≤ k ∧ k < n + ws.length then ws.getD (k - n) 0 else u.get k := by
  induction ws with
  | nil => intro u n _ k; rw [if_neg (by simp)]; rfl
  | cons w ws ih =>
    intro u n h k
    rw [List.length_cons] at h ⊢
    rw [Thread.putRun, ih (by omega), get_put (by omega)]
    rcases Nat.lt_trichotomy k n with hk | rfl | hk
    · rw [if_neg (by omega), if_neg (by omega), if_neg (by omega)]
    · rw [if_neg (by omega), if_pos rfl, if_pos (by omega), Nat.sub_self]; rfl
    · obtain ⟨j, rfl⟩ := Nat.exists_eq_add_of_lt hk
      rw [if_neg (c := n + j + 1 = n) (by omega), show n + j + 1 - n = j + 1 by omega, show n + j + 1 - (n + 1) = j by omega,
        List.getD_cons_succ]
      exact if_congr (by omega) rfl rfl

@[simp] theorem getRun_length (u : Thread) (n k : Nat) : (u.getRun n k).length = k := by
  induction k generalizing n with
  | zero => rfl
  | succ k ih => rw [Thread.getRun, List.length_cons, ih]

theorem getRun_getD (u : Thread) {n k i : Nat} (h : i < k) : (u.getRun n k).getD i 0 = u.get (n + i) := by
  induction k generalizing n i with
  | zero => exact absurd h (Nat.not_lt_zero _)
  | succ k ih =>
    cases i with
    | zero => rfl
    | succ i => rw [Thread.getRun, List.getD_cons_succ, ih (Nat.lt_of_succ_lt_succ h), show n + 1 + i = n + (i + 1) by omega]

/-- Two views of equal registers have equal register files. -/
theorem regs_eq_of_get {u v : Thread} (h : ∀ k, k < 128 → u.get k = v.get k) : u.regs = v.regs := by
  refine Vector.ext fun k hk => ?_
  simpa [Thread.get, hk, Vector.getD] using h k hk

/-! ## The window of a view -/

section Window
variable {u : Thread} {ws : List Word} (hw : ws.length = 112)
include hw

theorem setWindow_eq : u.setWindow ws = { u with regs := (u.setWindow ws).regs } := putRun_eq ws (by omega)

theorem get_setWindow {i : Nat} (hi : i < 112) : (u.setWindow ws).get (16 + i) = ws.getD i 0 := by
  rw [Thread.setWindow, get_putRun ws (by omega), if_pos (by omega), Nat.add_sub_cancel_left]

theorem get_setWindow_global {i : Nat} (hi : i < 16) : (u.setWindow ws).get i = u.get i := by
  rw [Thread.setWindow, get_putRun ws (by omega), if_neg (by omega)]

end Window

theorem windowRegs_length (u : Thread) : u.windowRegs.length = 112 := getRun_length ..

theorem windowRegs_getD (u : Thread) {i : Nat} (hi : i < 112) : u.windowRegs.getD i 0 = u.get (16 + i) := getRun_getD u hi

/-- The callee's window registers: the caller's from n on, then n zeros (R36). -/
def Thread.calleeRegs (u : Thread) (n : Nat) : List Word := u.windowRegs.drop n ++ List.replicate n 0#32

theorem calleeRegs_length (u : Thread) {n : Nat} (hn : n ≤ 112) : (u.calleeRegs n).length = 112 := by
  rw [Thread.calleeRegs, List.length_append, List.length_drop, List.length_replicate, windowRegs_length]; omega

theorem calleeRegs_getD (u : Thread) {n i : Nat} :
    (u.calleeRegs n).getD i 0 = if i + n < 112 then u.get (16 + n + i) else 0 := by
  have len : (u.windowRegs.drop n).length = 112 - n := by rw [List.length_drop, windowRegs_length]
  rw [Thread.calleeRegs]
  by_cases h : i + n < 112
  · rw [if_pos h, List.getD_append _ _ _ _ (by omega), List.getD_eq_getElem?_getD, List.getElem?_drop,
      ← List.getD_eq_getElem?_getD, windowRegs_getD u (by omega), Nat.add_assoc]
  · rw [if_neg h, List.getD_append_right _ _ _ _ (by omega), List.getD_eq_getElem?_getD]
    exact List.getElem?_getD_replicate_default_eq _ _ _

/-- The caller's window registers: the hidden ones, then the callee's (R36). -/
def Thread.callerRegs (u : Thread) (n : Nat) (hidden : List Word) : List Word := hidden ++ u.windowRegs.take (112 - n)

section Caller
variable (u : Thread) {n : Nat} {ws : List Word} (hn : n ≤ 112) (hw : ws.length = n)
include hw

theorem callerRegs_length (hn : n ≤ 112) : (u.callerRegs n ws).length = 112 := by
  rw [Thread.callerRegs, List.length_append, List.length_take, windowRegs_length, hw]; omega

theorem callerRegs_getD {i : Nat} (hi : i < 112) :
    (u.callerRegs n ws).getD i 0 = if i < n then ws.getD i 0 else u.get (16 + i - n) := by
  rw [Thread.callerRegs]
  by_cases h : i < n
  · rw [if_pos h, List.getD_append _ _ _ _ (by omega)]
  · rw [if_neg h, List.getD_append_right _ _ _ _ (by omega), List.getD_eq_getElem?_getD, List.getElem?_take_of_lt (by omega),
      ← List.getD_eq_getElem?_getD, windowRegs_getD u (by omega), hw, show 16 + (i - n) = 16 + i - n by omega]

end Caller

/-! ## The slide (R36, R38) -/

/-- The hidden part that a call leaves of its caller's frame. -/
def Thread.part (th : Thread) (n : Nat) (ret : DWord) : Hidden :=
  { ret := ret, n := n, base := th.wbase, regs := th.getRun 16 n }

/-- The caller's part stands with the resident ones. -/
def State.pushPart (s : State) (t : Nat) (h : Hidden) : State := s.modTh t fun u => { u with hidden := h :: u.hidden }

/-- The view of the callee of `old`, in the record `u` that its spills left. -/
def Thread.slid (old : Thread) (n frame off : Nat) (u : Thread) : Thread :=
  { u.setWindow (old.calleeRegs n) with wbase := old.wbase + n, depth := old.depth + 1, frames := (frame, off) :: old.frames }

section Slide
variable {s z : State} {t n frame : Nat} {ret : DWord} {th : Thread} (hth : s.thread? t = some th)
include hth

theorem slideWindow_of_spilled (hf : frame ≤ 112)
    (hs : (s.pushPart t (th.part n ret)).spillOld t ((s.team th.team).regsB - 128) (th.hidden.length + 1) = (z, none)) :
    s.slideWindow t n ret frame = (z.modTh t (th.slid n frame (z.th t).spillPtr.toNat), none) := by
  unfold State.slideWindow
  rw [th_of hth]
  simp only [State.pushPart, Thread.part] at hs
  simp only [State.team, State.modTh_teams] at hs ⊢
  rw [hs]
  simp only [if_neg (Nat.not_lt.2 hf)]
  rfl

theorem slideWindow_of_spillFault {e : Cause × Nat}
    (hs : (s.pushPart t (th.part n ret)).spillOld t ((s.team th.team).regsB - 128) (th.hidden.length + 1) = (z, some e)) :
    s.slideWindow t n ret frame = (z.setTh th, some e) := by
  unfold State.slideWindow
  rw [th_of hth]
  simp only [State.pushPart, Thread.part] at hs
  simp only [State.team, State.modTh_teams] at hs ⊢
  rw [hs]

end Slide

/-- Nothing is spilled while the resident parts fit. -/
theorem spillOld_fits {s : State} {t room : Nat} (h : residentRegs (s.th t).hidden ≤ room) (k : Nat) :
    s.spillOld t room k = (s, none) := by
  cases k with
  | zero => rfl
  | succ k =>
    rw [State.spillOld]
    split
    · rfl
    · rw [if_pos h]

section Spill
variable {s z : State} {t room : Nat} {keep : List Hidden} {o : Hidden} (hh : (s.th t).hidden = keep ++ [o])
  (hroom : room < residentRegs (keep ++ [o]))
include hh hroom

/-- The oldest part is spilled when the resident ones do not fit. -/
theorem spillOld_spills (hs : s.spillPush t (entryBytes o) = (z, none)) (k : Nat) :
    s.spillOld t room (k + 1) = (z.modTh t fun u => { u with hidden := u.hidden.dropLast }).spillOld t room k := by
  simp only [State.spillOld, hh, List.getLast?_concat, if_neg (Nat.not_le.2 hroom), hs]

theorem spillOld_fault {e : Cause × Nat} (hs : s.spillPush t (entryBytes o) = (z, some e)) (k : Nat) :
    s.spillOld t room (k + 1) = (z, some e) := by
  simp only [State.spillOld, hh, List.getLast?_concat, if_neg (Nat.not_le.2 hroom), hs]

end Spill

/-- What the callee's record holds, whatever its call spilled. -/
theorem slid_get (th u : Thread) {n frame off : Nat} (hn : n ≤ 112) (hu : ∀ i, i < 16 → u.get i = th.get i) :
    (∀ i, i < 112 → (th.slid n frame off u).get (16 + i) = if i + n < 112 then th.get (16 + n + i) else 0) ∧
      ∀ i, i < 16 → (th.slid n frame off u).get i = th.get i := by
  have len := calleeRegs_length th hn
  refine ⟨fun i hi => ?_, fun i hi => ?_⟩
  · exact (get_setWindow len hi).trans (calleeRegs_getD th)
  · exact (get_setWindow_global len hi).trans (hu i hi)

theorem slid_eq (th u : Thread) {n frame off : Nat} (hn : n ≤ 112) : th.slid n frame off u =
    { u with regs := (th.slid n frame off u).regs, wbase := th.wbase + n, depth := th.depth + 1, frames := (frame, off) :: th.frames } := by
  unfold Thread.slid
  rw [setWindow_eq (calleeRegs_length th hn)]

theorem slid_keeps (th u : Thread) {n frame off : Nat} (hn : n ≤ 112) :
    (th.slid n frame off u).hidden = u.hidden ∧ (th.slid n frame off u).spillPtr = u.spillPtr ∧
    (th.slid n frame off u).preds = u.preds ∧ (th.slid n frame off u).fstat = u.fstat ∧
    (th.slid n frame off u).trail = u.trail ∧ (th.slid n frame off u).flags = u.flags := by
  rw [slid_eq th u hn]
  exact ⟨rfl, rfl, rfl, rfl, rfl, rfl⟩

theorem slid_id (th u : Thread) {n frame off : Nat} (hn : n ≤ 112) : (th.slid n frame off u).id = u.id := by
  rw [slid_eq th u hn]

theorem residentRegs_cons (h : Hidden) (hs : List Hidden) : residentRegs (h :: hs) = h.n + residentRegs hs := by
  simp [residentRegs]

/-- The slide's view, in the state that it leaves. -/
theorem thread_slid {z : State} {t : Nat} {th u : Thread} {n frame : Nat} (hn : n ≤ 112) (off : Nat) (hz : z.thread? t = some u) :
    (z.modTh t (th.slid n frame off)).thread? t = some (th.slid n frame off u) :=
  thread_modTh hz fun x hx => (slid_id th x hn).trans hx

theorem thread_slid_other {z : State} {t k : Nat} {th : Thread} {n frame : Nat} (hn : n ≤ 112) (off : Nat) (hk : k ≠ t) :
    (z.modTh t (th.slid n frame off)).thread? k = z.thread? k :=
  thread_modTh_other hk fun x hx => (slid_id th x hn).trans hx

section Slide
variable {s : State} {t n frame : Nat} {ret : DWord} {th : Thread} (hth : s.thread? t = some th)
include hth

theorem thread_pushPart (h : Hidden) : (s.pushPart t h).thread? t = some { th with hidden := h :: th.hidden } := thread_modTh hth

/-- A slide that fits changes its thread's record alone. -/
theorem slideWindow_fits (hf : frame ≤ 112) (hfit : residentRegs th.hidden + n + 128 ≤ (s.team th.team).regsB) :
    s.slideWindow t n ret frame =
      ((s.pushPart t (th.part n ret)).modTh t (th.slid n frame th.spillPtr.toNat), none) := by
  have pushed := th_of (thread_pushPart hth (th.part n ret))
  have fits : residentRegs ((s.pushPart t (th.part n ret)).th t).hidden ≤ (s.team th.team).regsB - 128 := by
    rw [pushed, residentRegs_cons]
    show n + residentRegs th.hidden ≤ _
    omega
  rw [slideWindow_of_spilled hth hf (spillOld_fits fits _), pushed]

/-- An entry or a block goes on the spill stack below SPILL_LIMIT once its lines are stored. -/
theorem spillPush_ok {r : State} {bs : List Byte} (hl : th.spillPtr.toNat + bs.length ≤ th.spillLimit.toNat)
    (hs : s.spillLines t (canonVa th.spillBase.toNat + th.spillPtr.toNat) (bs.length / 64) bs = (r, none)) :
    s.spillPush t bs = (r.modTh t fun u => { u with spillPtr := u.spillPtr + word bs.length }, none) := by
  unfold State.spillPush
  simp only [th_of hth, Thread.spillVa, if_neg (Nat.not_lt.2 hl), hs]

theorem spillPush_fault {r : State} {bs : List Byte} {f : Cause × Nat} (hl : th.spillPtr.toNat + bs.length ≤ th.spillLimit.toNat)
    (hs : s.spillLines t (canonVa th.spillBase.toNat + th.spillPtr.toNat) (bs.length / 64) bs = (r, some f)) :
    s.spillPush t bs = (r, some f) := by
  unfold State.spillPush
  simp only [th_of hth, Thread.spillVa, if_neg (Nat.not_lt.2 hl), hs]

theorem spillPush_beyond {bs : List Byte} (hl : th.spillLimit.toNat < th.spillPtr.toNat + bs.length) :
    s.spillPush t bs = (s, some (.spill, canonVa th.spillBase.toNat + th.spillLimit.toNat)) := by
  unfold State.spillPush
  simp only [th_of hth, Thread.spillVa, if_pos hl]

/-- A slide that spills the oldest part goes on when the rest fit. -/
theorem slideWindow_spills {r : State} {o : Hidden} {keep : List Hidden} (hf : frame ≤ 112)
    (hh : th.part n ret :: th.hidden = keep ++ [o]) (hroom : (s.team th.team).regsB - 128 < residentRegs (keep ++ [o]))
    (hkeep : residentRegs keep ≤ (s.team th.team).regsB - 128)
    (hl : th.spillPtr.toNat + (entryBytes o).length ≤ th.spillLimit.toNat)
    (hs : (s.pushPart t (th.part n ret)).spillLines t (canonVa th.spillBase.toNat + th.spillPtr.toNat)
      ((entryBytes o).length / 64) (entryBytes o) = (r, none))
    (hr : r.thread? t = (s.pushPart t (th.part n ret)).thread? t) :
    ∃ z off, s.slideWindow t n ret frame = (z.modTh t (th.slid n frame off), none) ∧
      z.thread? t = some { th with hidden := keep, spillPtr := th.spillPtr + word (entryBytes o).length } ∧
      (∀ k, k ≠ t → z.thread? k = r.thread? k) ∧ r.Rest z := by
  have pushed := thread_pushPart hth (th.part n ret)
  have rth := hr.trans pushed
  have spilled := spillPush_ok (bs := entryBytes o) pushed hl hs
  have kept : (((r.modTh t fun u => { u with spillPtr := u.spillPtr + word (entryBytes o).length }).modTh t
      fun u => { u with hidden := u.hidden.dropLast }).thread? t) =
        some { th with hidden := keep, spillPtr := th.spillPtr + word (entryBytes o).length } := by
    rw [thread_modTh (thread_modTh rth)]
    simp only [hh, List.dropLast_concat]
  have all := (spillOld_spills (by rw [th_of pushed]; exact hh) hroom spilled th.hidden.length).trans
    (spillOld_fits (by rw [th_of kept]; exact hkeep) _)
  exact ⟨_, _, slideWindow_of_spilled hth hf all, kept,
    fun k hk => (thread_modTh_other hk).trans (thread_modTh_other hk), rfl⟩

end Slide

/-! ## The return (R36, R39, R43) -/

/-- The caller's view that a part brings back into the record `u` of the callee `old`. -/
def Thread.unslid (old : Thread) (h : Hidden) (size : Nat) (u : Thread) : Thread :=
  { u.setWindow (old.callerRegs h.n (applyLate u.late (old.wbase - h.n) h.regs)) with
    wbase := old.wbase - h.n, depth := old.depth - 1, frames := old.frames.tail, hidden := u.hidden.tail
    late := u.late.filter fun p => p.1 < old.wbase - h.n, spillPtr := u.spillPtr - word size }

theorem applyLate_nil (base : Int) (regs : List Word) : applyLate [] base regs = regs := by
  unfold applyLate
  exact (List.mapIdx_eq_zipIdx_map ..).trans (by simp [assoc])

theorem applyLate_length (late : List (Int × Word)) (base : Int) (regs : List Word) :
    (applyLate late base regs).length = regs.length := by
  unfold applyLate
  rw [List.length_mapIdx]

theorem unslid_keeps (th u : Thread) {h : Hidden} {size : Nat} (hn : h.n ≤ 112) (hr : h.regs.length = h.n) :
    (th.unslid h size u).hidden = u.hidden.tail ∧ (th.unslid h size u).spillPtr = u.spillPtr - word size ∧
    (th.unslid h size u).preds = u.preds ∧ (th.unslid h size u).flags = u.flags := by
  unfold Thread.unslid
  rw [setWindow_eq (callerRegs_length th ((applyLate_length ..).trans hr) hn)]
  exact ⟨rfl, rfl, rfl, rfl⟩

theorem unslid_id (th u : Thread) {h : Hidden} {size : Nat} (hn : h.n ≤ 112) (hr : h.regs.length = h.n) :
    (th.unslid h size u).id = u.id := by
  unfold Thread.unslid
  rw [setWindow_eq (callerRegs_length th ((applyLate_length ..).trans hr) hn)]

section Unslid
variable {th u : Thread} {h : Hidden} {size : Nat} (hn : h.n ≤ 112) (hr : h.regs.length = h.n) (hlate : u.late = [])
include hn hr hlate

theorem unslid_eq : th.unslid h size u = { u with
    regs := (th.unslid h size u).regs, wbase := th.wbase - h.n, depth := th.depth - 1, frames := th.frames.tail
    hidden := u.hidden.tail, late := [], spillPtr := u.spillPtr - word size } := by
  have len : (th.callerRegs h.n h.regs).length = 112 := callerRegs_length th hr hn
  unfold Thread.unslid
  rw [hlate, applyLate_nil, setWindow_eq len]
  rfl

theorem unslid_get : (∀ i, i < 112 → (th.unslid h size u).get (16 + i) =
      if i < h.n then h.regs.getD i 0 else th.get (16 + i - h.n)) ∧
    ∀ i, i < 16 → (th.unslid h size u).get i = u.get i := by
  have len : (th.callerRegs h.n (applyLate u.late (th.wbase - h.n) h.regs)).length = 112 := by
    rw [hlate, applyLate_nil]; exact callerRegs_length th hr hn
  refine ⟨fun i hi => (get_setWindow len hi).trans ?_, fun i hi => get_setWindow_global len hi⟩
  rw [hlate, applyLate_nil]
  exact callerRegs_getD th hr hi

end Unslid

section Return
variable {s : State} {t : Nat} {th : Thread} {ok : DWord → Bool} (hth : s.thread? t = some th)
include hth

theorem unslideWindow_depthZero (hd : th.depth = 0) : s.unslideWindow t ok = (s, .error (.spill, 0)) := by
  unfold State.unslideWindow
  simp only [th_of hth, hd, beq_self_eq_true, if_true]

variable (hd : th.depth ≠ 0) (hf : (th.frames.headD (0, 0)).1 ≤ 112)
include hd hf

/-- The return to a resident part. -/
theorem unslideWindow_resident {h : Hidden} {hs : List Hidden} (hh : th.hidden = h :: hs) (hok : ok h.ret = true) :
    s.unslideWindow t ok = (s.modTh t (th.unslid h 0), .ok h.ret) := by
  unfold State.unslideWindow
  simp only [th_of hth, beq_iff_eq, if_neg hd, if_neg (Nat.not_lt.2 hf), hh, hok]
  rfl

/-- The return to a part on the spill stack, whose entry reads well. -/
theorem unslideWindow_reload {z : State} {h : Hidden} {size : Nat} (hh : th.hidden = []) (ht : s.topEntry t = (z, .ok (h, size)))
    (hok : ok h.ret = true) : s.unslideWindow t ok = (z.modTh t (th.unslid h size), .ok h.ret) := by
  unfold State.unslideWindow
  simp only [th_of hth, beq_iff_eq, if_neg hd, if_neg (Nat.not_lt.2 hf), hh, ht, hok]
  rfl

theorem unslideWindow_badEntry {z : State} {f : Cause × Nat} (hh : th.hidden = []) (ht : s.topEntry t = (z, .error f)) :
    s.unslideWindow t ok = (z.setTh th, .error f) := by
  unfold State.unslideWindow
  simp only [th_of hth, beq_iff_eq, if_neg hd, if_neg (Nat.not_lt.2 hf), hh, ht]

end Return

/-- The callee's record after a slide that fitted. -/
def Thread.inCallee (th : Thread) (n frame off : Nat) (ret : DWord) : Thread :=
  th.slid n frame off { th with hidden := th.part n ret :: th.hidden }

section InCallee
variable {th : Thread} {n frame off : Nat} {ret : DWord} (hn : n ≤ 112)
include hn

theorem inCallee_eq : th.inCallee n frame off ret = { th with
    regs := (th.inCallee n frame off ret).regs, wbase := th.wbase + n, depth := th.depth + 1
    hidden := th.part n ret :: th.hidden, frames := (frame, off) :: th.frames } := slid_eq th _ hn

/-- The return after a slide that fitted finds the caller's registers. -/
theorem unslid_inCallee_regs (hlate : th.late = []) :
    ((th.inCallee n frame off ret).unslid (th.part n ret) 0 (th.inCallee n frame off ret)).regs = th.regs := by
  generalize hv : th.inCallee n frame off ret = v
  have late : v.late = [] := by rw [← hv, inCallee_eq hn]; exact hlate
  obtain ⟨window, globals⟩ : (∀ i, i < 112 → v.get (16 + i) = if i + n < 112 then th.get (16 + n + i) else 0) ∧
      ∀ i, i < 16 → v.get i = th.get i := hv ▸ slid_get th _ hn fun _ _ => rfl
  obtain ⟨window', globals'⟩ : (∀ i, i < 112 → (v.unslid (th.part n ret) 0 v).get (16 + i) =
        if i < n then (th.getRun 16 n).getD i 0 else v.get (16 + i - n)) ∧
      ∀ i, i < 16 → (v.unslid (th.part n ret) 0 v).get i = v.get i :=
    unslid_get (th := v) (h := th.part n ret) (size := 0) hn (getRun_length ..) late
  refine regs_eq_of_get fun k hk => ?_
  rcases Nat.lt_or_ge k 16 with h | h
  · exact (globals' k h).trans (globals k h)
  · obtain ⟨i, rfl⟩ := Nat.exists_eq_add_of_le h
    rw [window' i (by omega)]
    by_cases hi : i < n
    · rw [if_pos hi, getRun_getD th hi]
    · obtain ⟨j, rfl⟩ := Nat.exists_eq_add_of_le (Nat.not_lt.1 hi)
      rw [if_neg hi, show 16 + (n + j) - n = 16 + j by omega, window j (by omega), if_pos (by omega), Nat.add_assoc]

/-- The return after a slide that fitted gives back the caller's record. -/
theorem unslid_inCallee (hlate : th.late = []) :
    (th.inCallee n frame off ret).unslid (th.part n ret) 0 (th.inCallee n frame off ret) = th := by
  have late : (th.inCallee n frame off ret).late = [] := by rw [inCallee_eq hn]; exact hlate
  rw [unslid_eq (h := th.part n ret) hn (getRun_length ..) late, unslid_inCallee_regs hn hlate, inCallee_eq hn]
  show ({ th with wbase := th.wbase + n - n, depth := th.depth + 1 - 1, late := [], spillPtr := th.spillPtr - 0#32 } : Thread) = th
  rw [Int.add_sub_cancel, Nat.add_sub_cancel, BitVec.sub_zero, ← hlate]

end InCallee

/-! ## The entry on top of the spill stack (R39) -/

/-- The part that the bytes of an entry hold. -/
def Thread.entryPart (th : Thread) (n : Nat) (e : List Byte) : Hidden :=
  { ret := dword (field e 0 8), n := n, base := th.wbase - n, regs := words4 n (slice e 16 (4 * n)) }

section Top
variable {s q : State} {t : Nat} {th : Thread} {tail : List Byte} (hth : s.thread? t = some th)
  (htail : s.spillRead t (canonVa th.spillBase.toNat + th.spillPtr.toNat - 8) 1 = (q, .ok tail))
include hth htail

/-- The copy of n at the entry's end names no entry. -/
theorem topEntry_badTail (h : field tail 0 1 < 8 ∨ 112 < field tail 0 1 ∨ field tail 0 1 % 8 ≠ 0 ∨
      th.spillPtr.toNat < entrySize (field tail 0 1)) :
    s.topEntry t = (q, .error (.spill, canonVa th.spillBase.toNat + th.spillPtr.toNat - 8)) := by
  unfold State.topEntry
  simp only [th_of hth, Thread.spillVa, htail]
  rw [if_pos (by simpa [or_assoc] using h)]

variable {r : State} {e : List Byte} (h8 : 8 ≤ field tail 0 1) (h112 : field tail 0 1 ≤ 112) (hm : field tail 0 1 % 8 = 0)
  (hp : entrySize (field tail 0 1) ≤ th.spillPtr.toNat)
  (he : q.spillRead t (canonVa th.spillBase.toNat + th.spillPtr.toNat - entrySize (field tail 0 1))
    (entrySize (field tail 0 1) / 8) = (r, .ok e))
include h8 h112 hm hp he

/-- The head or the rest of the tail does not fit the copy of n. -/
theorem topEntry_badHead (h : field e 8 1 ≠ field tail 0 1 ∨ field e 9 7 ≠ 0 ∨ field tail 1 7 ≠ 0) : s.topEntry t =
    (r, .error (.spill, canonVa th.spillBase.toNat + th.spillPtr.toNat - entrySize (field tail 0 1))) := by
  have bad : (field e 8 1 != field tail 0 1 || !allZero (slice e 9 7) || !allZero (slice tail 1 7)) = true := by
    simpa [← Bool.not_eq_true, allZero_slice, or_assoc] using h
  unfold State.topEntry
  simp only [th_of hth, Thread.spillVa, htail]
  rw [if_neg (by simp; omega), he]
  simp only [bad, if_true]

/-- The part that a well-formed entry holds. -/
theorem topEntry_ok (hn : field e 8 1 = field tail 0 1) (h7 : field e 9 7 = 0) (ht : field tail 1 7 = 0) : s.topEntry t =
    (r, .ok (th.entryPart (field tail 0 1) e, entrySize (field tail 0 1))) := by
  have good : (field e 8 1 != field tail 0 1 || !allZero (slice e 9 7) || !allZero (slice tail 1 7)) = false := by
    simpa [allZero_slice] using And.intro (And.intro hn h7) ht
  unfold State.topEntry
  simp only [th_of hth, Thread.spillVa, htail]
  rw [if_neg (by simp; omega), he]
  simp only [good, Bool.false_eq_true, if_false]
  rfl

end Top

/-- The registers that an entry holds. -/
theorem entry_words_getD {e : List Byte} {n i : Nat} (h : i < n) :
    (words4 n (slice e 16 (4 * n))).getD i 0 = word (field e (16 + 4 * i) 4) := by
  rw [words4_getD _ h, field_slice (by omega)]

theorem thread_setTh {s : State} {t : Nat} {u th : Thread} (h : s.thread? t = some u) (hid : th.id = t) :
    (s.setTh th).thread? t = some th := by
  subst hid
  exact thread_modTh h fun _ _ => rfl

/-- What a call that spills nothing leaves. -/
theorem windowSlides_fits (s : State) (t n frame : Nat) (ret : DWord) (th : Thread) (hth : s.thread? t = some th) (hn : n ≤ 112)
    (hf : frame ≤ 112) (hfit : residentRegs th.hidden + n + 128 ≤ (s.team th.team).regsB) :
    ∃ r, s.slideWindow t n ret frame = (r, none) ∧ s.Leaves t (th.inCallee n frame th.spillPtr.toNat ret) r :=
  ⟨_, slideWindow_fits hth hf hfit, thread_slid hn _ (thread_pushPart hth _),
    fun _ hk => (thread_slid_other hn _ hk).trans (thread_modTh_other hk), rfl⟩

/-- Settles O12: the slide that fits and its return, the slide that spills, the entry it writes, and the return that reads it. -/
theorem windowSlides : Obligations.WindowSlides := by
  refine ⟨?slide, ?returns, ⟨?spills, ?lines, ?entry⟩, ?reload⟩
  case slide =>
    intro s t n frame ret th hth hn hf hfit
    obtain ⟨r, slides, self, others, rest⟩ := windowSlides_fits s t n frame ret th hth hn hf hfit
    obtain ⟨window, globals⟩ := slid_get th { th with hidden := th.part n ret :: th.hidden } (frame := frame)
      (off := th.spillPtr.toNat) hn fun _ _ => rfl
    obtain ⟨hidden, spillPtr, preds, fstat, trail, flags⟩ := slid_keeps th { th with hidden := th.part n ret :: th.hidden }
      (frame := frame) (off := th.spillPtr.toNat) hn
    exact ⟨r, _, slides, self, window, globals, rfl, rfl, hidden, spillPtr, preds, fstat, trail, flags, others, rest⟩
  case returns =>
    intro s r t n frame ret th ok hth hn hf hfit hlate hok slides
    obtain ⟨r', slides', self, others, rest⟩ := windowSlides_fits s t n frame ret th hth hn hf hfit
    obtain rfl : r' = r := congrArg Prod.fst (slides'.symm.trans slides)
    have hv := inCallee_eq (th := th) (frame := frame) (off := th.spillPtr.toNat) (ret := ret) hn
    have back := unslideWindow_resident (ok := ok) self (by rw [hv]; exact Nat.succ_ne_zero _) (by rw [hv]; exact hf)
      (h := th.part n ret) (hs := th.hidden) (by rw [hv]) hok
    have keepsId : ∀ x : Thread, x.id = t → ((th.inCallee n frame th.spillPtr.toNat ret).unslid (th.part n ret) 0 x).id = t :=
      fun x hx => (unslid_id _ x hn (getRun_length ..)).trans hx
    refine ⟨_, back, (thread_modTh self keepsId).trans (congrArg some (unslid_inCallee hn hlate)), fun k hk => ?_, rest⟩
    exact (thread_modTh_other hk keepsId).trans (others k hk)
  case spills =>
    intro s t n frame ret th o keep hth hn hf h hh hroom hkeep hl q r hs hr
    obtain ⟨z, off, slides, kept, others, rest⟩ := slideWindow_spills hth hf hh hroom hkeep hl hs hr
    obtain ⟨window, globals⟩ := slid_get th
      { th with hidden := keep, spillPtr := th.spillPtr + word (entryBytes o).length } (frame := frame) (off := off) hn fun _ _ => rfl
    obtain ⟨hidden, spillPtr, -⟩ := slid_keeps th
      { th with hidden := keep, spillPtr := th.spillPtr + word (entryBytes o).length } (frame := frame) (off := off) hn
    exact ⟨_, _, slides, thread_slid hn off kept, window, globals, rfl, rfl, hidden, spillPtr,
      fun k hk => (thread_slid_other hn off hk).trans (others k hk), rest⟩
  case lines =>
    exact fun s r t va k b => ⟨rfl, fun h => by rw [State.spillLines, h]⟩
  case entry =>
    intro o h8 h112 hm hr b size
    obtain ⟨head, zeros⟩ := entryBytes_n (o := o) (by omega)
    exact ⟨entryBytes_length_eq hm hr, entryBytes_ret, head, zeros, fun i hi => entryBytes_reg hr hi, entryBytes_zeros hr,
      entryBytes_tail hm hr (by omega)⟩
  case reload =>
    intro s q t th tail ok hth hh hd hf hlate top n size htail hq
    refine ⟨fun bad => ?_, fun h8 h112 hm hp r e he hr _ => ⟨fun bad => ?_, fun hn h7 ht hok => ?_⟩⟩
    · exact ⟨_, unslideWindow_badEntry hth hd hf hh (topEntry_badTail hth htail bad), thread_setTh hq (id_of_thread hth)⟩
    · exact ⟨_, unslideWindow_badEntry hth hd hf hh (topEntry_badHead hth htail h8 h112 hm hp he bad),
        thread_setTh hr (id_of_thread hth)⟩
    · have len : (th.entryPart n e).regs.length = n := words4_length _ _
      have back := unslideWindow_reload hth hd hf hh (topEntry_ok hth htail h8 h112 hm hp he hn h7 ht) (ok := ok) hok
      have keepsId : ∀ x : Thread, x.id = t → (th.unslid (th.entryPart n e) size x).id = t :=
        fun x hx => (unslid_id _ x h112 len).trans hx
      obtain ⟨window, globals⟩ := unslid_get (th := th) (u := th) (h := th.entryPart n e) (size := size) h112 len hlate
      obtain ⟨hidden, spillPtr, preds, flags⟩ := unslid_keeps th th (h := th.entryPart n e) (size := size) h112 len
      exact ⟨_, _, back, thread_modTh hr keepsId,
        fun i hi => (window i hi).trans (ite_congr rfl (fun h => entry_words_getD h) fun _ => rfl), globals, rfl, rfl,
        hidden.trans (by rw [hh]; rfl), spillPtr, preds, flags, fun k hk => thread_modTh_other hk keepsId, rfl⟩

end Sys2Proof.Machine
end

section
/-!
PROOFS. Taking an exception: its vector, the room for its window slide, and the record with which the handler starts.
-/

namespace Sys2Proof.Machine

/-! ## The vector (R27, R391, R392) -/

/-- Bit 56 of a 57-bit address stands for the bits above it. -/
theorem canonVa_of_lt {a : Nat} (h : a < 2 ^ 57) : canonVa a = if a < 2 ^ 56 then a else a + (2 ^ 64 - 2 ^ 57) := by
  have low : a % 2 ^ 57 = a := Nat.mod_eq_of_lt h
  rcases Nat.lt_or_ge a (2 ^ 56) with h56 | h56
  · have bit : bitAt a 56 = false := by rw [bitAt, Nat.div_eq_of_lt h56]; rfl
    rw [canonVa, bit, if_neg Bool.false_ne_true, if_pos h56, low]
  · have one : a / 2 ^ 56 = 1 := by omega
    have bit : bitAt a 56 = true := by rw [bitAt, one]; rfl
    rw [canonVa, bit, if_pos rfl, if_neg (Nat.not_lt.2 h56), low]

theorem readVector_noTable {s : State} {t : Nat} {c : Cause} (h : (s.ctxOf (s.th t)).trapBase = 0) : (s.readVector t c).2 = none := by
  unfold State.readVector
  simp only [h, beq_self_eq_true, if_true]

/-! ## The entry (R392, R393) -/

section Entry
variable {s r q : State} {t : Nat} {p : PendTrap} {pc : DWord} {portable : Bool}

theorem takeTrap_noVector (h : (s.readVector t p.cause).2 = none) : (s.takeTrap t p).2 = some (p.cause, none) := by
  unfold State.takeTrap
  rcases hv : s.readVector t p.cause with ⟨r, v⟩
  rw [hv] at h
  cases h
  rfl

variable (hv : s.readVector t p.cause = (r, some (pc, portable)))
include hv

theorem takeTrap_deepest (hd : (r.th t).depth = 2 ^ 24 - 1) : s.takeTrap t p = (r, some (.spill, none)) := by
  unfold State.takeTrap
  have deepest : ((r.th t).depth == maxDepth) = true := by rw [hd]; rfl
  simp only [hv, deepest, if_true]

/-- The record with which a handler starts, over the one that the window slide left. -/
def Thread.inHandler (p : PendTrap) (pc : DWord) (portable : Bool) (depth cycle : Nat) (eqp : Word × DWord) (u : Thread) : Thread :=
  { u with
    trapCause := p.word, trapAddr := p.addr, trapPcn := p.pcn, trapPcx := eqp.2, trapEqp := eqp.1, replay := p.replay
    pend := if p.cause == .preemption then u.pend else none, preempt := none, hold := .none, stall := none
    handler := some { depth := depth, cause := p.cause, since := cycle }
    pc := pc, portable := portable, clause := none, entered := false, byTransfer := true }

variable (hd : (r.th t).depth ≠ 2 ^ 24 - 1)
include hd

theorem takeTrap_noRoom {f : Cause × Nat}
    (hs : r.slideWindow t 112 (r.th t).pc (r.frameOf (r.team (r.th t).team).ctx pc) = (q, some f)) :
    s.takeTrap t p = (q, some (.spill, if f.1 = .sealedWrite then some f.2 else none)) := by
  have room : ((r.th t).depth == maxDepth) = false := by simpa [maxDepth] using hd
  unfold State.takeTrap
  simp only [hv, room, Bool.false_eq_true, if_false, hs, beq_iff_eq]

theorem takeTrap_enters (hs : r.slideWindow t 112 (r.th t).pc (r.frameOf (r.team (r.th t).team).ctx pc) = (q, none)) :
    s.takeTrap t p =
      (q.modTh t (Thread.inHandler p pc portable (r.th t).depth q.cycle (q.eqpRegs (q.th t))), none) := by
  have room : ((r.th t).depth == maxDepth) = false := by simpa [maxDepth] using hd
  unfold State.takeTrap
  simp only [hv, room, Bool.false_eq_true, if_false, hs]
  rfl

end Entry

/-- Settles O10: no vector, no room for one more call, a window slide that fails, and the entry; then where a vector stands. -/
theorem takeTrap : Obligations.TakeTrap := by
  refine ⟨fun s t p => ⟨takeTrap_noVector, fun r pc portable hv => ⟨takeTrap_deepest hv, fun hd q e hs => ⟨?noRoom, ?enters⟩⟩⟩,
    fun s t c => ⟨readVector_noTable, fun x hx => ?vector⟩⟩
  case noRoom => rintro f rfl; exact takeTrap_noRoom hv hd hs
  case enters =>
    rintro v rfl hth
    rw [takeTrap_enters hv hd hs, th_of hth]
    exact ⟨rfl, _, thread_modTh hth, rfl, rfl, rfl, rfl, rfl, rfl, rfl, rfl, rfl, rfl, rfl, rfl, rfl, rfl, rfl, rfl, rfl,
      fun k hk => thread_modTh_other hk⟩
  case vector =>
    constructor
    · rw [Context.vector, canonVa_of_lt hx]; simp [kindNum]
    · rw [Context.vector, canonVa_of_lt hx]; simp only [kindNum]; omega

end Sys2Proof.Machine
end

section
/-!
PROOFS. Transfers: the legal targets, the addresses that B-format targets name, and how BRA, BRX, CALL, CALLX and RET end.
-/

namespace Sys2Proof.Machine

/-! ## CheckTarget (R31, R117) -/

/-- Where an image lets a transfer land: a start of the portable one, a valid PC of a native one. -/
def Image.admits (im : Image) (pc : DWord) : Prop :=
  if im.kind = 1 then im.starts.contains pc.toNat = true else pc.toNat % 64 / 8 = 0 ∧ pc.toNat % 8 ≤ 4

theorem nativePc_iff (pc : Nat) : nativePc pc = true ↔ pc % 64 / 8 = 0 ∧ pc % 8 ≤ 4 := by
  rw [nativePc, Bool.and_eq_true, beq_iff_eq, decide_eq_true_eq]
  omega

section Target
variable {s : State} {th : Thread} {ctx : Nat} {pc : DWord}

theorem target_noImage (h : s.imageAt ctx pc.toNat = none) : s.target ctx pc = none := by
  unfold State.target
  rw [h]

variable {o : CodeObj} {im : Image} (h : s.imageAt ctx pc.toNat = some (o, im))
include h

theorem target_admitted (good : im.admits pc) : s.target ctx pc = some (o, im) := by
  unfold State.target
  rw [h]
  simp only [beq_iff_eq]
  unfold Image.admits at good
  by_cases hk : im.kind = 1
  · rw [if_pos hk] at good ⊢; rw [if_pos good]
  · rw [if_neg hk] at good ⊢; rw [if_pos ((nativePc_iff _).2 good)]

theorem target_refused (bad : ¬im.admits pc) : s.target ctx pc = none := by
  unfold State.target
  rw [h]
  simp only [beq_iff_eq]
  unfold Image.admits at bad
  by_cases hk : im.kind = 1
  · rw [if_pos hk] at bad ⊢; rw [if_neg bad]
  · rw [if_neg hk] at bad ⊢; rw [if_neg (mt (nativePc_iff _).1 bad)]

end Target

section Check
variable {s : State} {th : Thread} {pc : DWord}

theorem checkTarget_illegal (h : s.target (s.team th.team).ctx pc = none) (same : Bool) :
    s.checkTarget th same pc = .error (.trap .illegalTarget pc) := by
  unfold State.checkTarget
  simp only [h]

variable {o : CodeObj} {im : Image} (h : s.target (s.team th.team).ctx pc = some (o, im))
include h

theorem checkTarget_anyImage : s.checkTarget th false pc = .ok (im.kind == 1) := by
  unfold State.checkTarget
  simp only [h, Bool.false_and, Bool.false_eq_true, if_false]

theorem checkTarget_sameImage {o' : CodeObj} {im' : Image} (here : s.imageAt (s.team th.team).ctx th.pc.toNat = some (o', im')) :
    s.checkTarget th true pc = if o'.handle = o.handle ∧ im'.base = im.base ∧ im'.kind = im.kind then .ok (im.kind == 1)
      else .error (.trap .illegalTarget pc) := by
  unfold State.checkTarget
  simp only [h, here, Option.map_some, Bool.true_and, bne_iff_ne, ne_eq, Option.some.injEq, Prod.mk.injEq, ite_not]

end Check

/-! ## The target of a B-format transfer (R58, R67) -/

theorem toNat_signExtend {w : Nat} (b : BitVec w) : ((b.signExtend 64).toNat : Int) = b.toInt % 2 ^ 64 := by
  rw [BitVec.signExtend, BitVec.toNat_ofInt]
  omega

theorem targetPc_line (th : Thread) (loff : BitVec 26) (slot : Fin 5) : ((th.targetPc (.line loff slot)).toNat : Int) =
    ((th.pc.toNat / 64 : Int) * 64 + 64 * loff.toInt + slot.val) % 2 ^ 64 := by
  have offset := toNat_signExtend loff
  have isLt := th.pc.isLt
  simp only [Thread.targetPc, BitVec.toNat_add, BitVec.toNat_shiftLeft, Nat.shiftLeft_eq, dword, BitVec.toNat_ofNat]
  omega

theorem targetPc_off (th : Thread) (off : BitVec 32) :
    ((th.targetPc (.off off)).toNat : Int) = (th.pc.toNat + off.toInt) % 2 ^ 64 := by
  have offset := toNat_signExtend off
  simp only [Thread.targetPc, BitVec.toNat_add]
  omega

/-! ## The instructions (R118) -/

/-- The body of a transfer that goes to a checked target. -/
def State.jumpOp (s : State) (th : Thread) (same : Bool) (pc : DWord) (f : Bool → State × Next) : State × Next :=
  match s.checkTarget th same pc with
  | .error n => (s, n)
  | .ok p => f p

/-- A transfer ends as its check says, or goes on with its legal target. -/
theorem ends_of_jump {s : State} {th : Thread} {i : Instr} {x : X} {same : Bool} {pc : State → Thread → DWord}
    {f : State → Thread → Bool → State × Next} (h : s.Runs th i) (hx : i.x = some x)
    (he : exec i s = .next (s.issue i x fun s th => s.jumpOp th same (pc s th) (f s th))) :
    (∀ n, s.checkTarget th same (pc s th) = .error n → s.Ends i th s n) ∧
      ∀ p, s.checkTarget th same (pc s th) = .ok p → ∀ r n, f s th p = (r, n) → s.Ends i th r n :=
  ⟨fun n hn => ends_issue h hx he (by rw [State.jumpOp, hn]),
    fun p hp r n hf => ends_issue h hx he (by rw [State.jumpOp, hp]; exact hf)⟩

section Call
variable {s : State} {th : Thread} {pc : DWord} {p : Bool} {n : Nat}

theorem callOp_deepest (hd : th.depth = 2 ^ 24 - 1) : s.callOp th pc p n = (s, .trap .spill 0) := by
  unfold State.callOp
  rw [if_pos (by rw [hd]; rfl)]

/-- The state of a call's window slide: the directory has been asked for a portable function (R447). -/
def State.atCall (s : State) (th : Thread) (pc : DWord) (p : Bool) : State :=
  if p then s.xlateLookup (s.team th.team).ctx (s.hostOf th) pc else s

/-- A call below the greatest depth slides the window and goes to its entry, or ends in the slide's fault. -/
theorem callOp_slides {r : State} {e : DWord × Bool} {f : Option (Cause × Nat)} (hd : th.depth ≠ 2 ^ 24 - 1)
    (he : (s.atCall th pc p).callEntry (s.team th.team).ctx (s.hostOf th) pc p = e)
    (hs : (s.atCall th pc p).slideWindow th.id n th.nextPc
      (if e.2 then (s.atCall th pc p).frameOf (s.team th.team).ctx e.1 else 0) = (r, f)) :
    s.callOp th pc p n = (r, f.elim (.goto e.1 e.2) fun f => .trap f.1 (dword f.2)) := by
  simp only [State.atCall] at he hs
  simp only [State.callOp, beq_iff_eq, if_neg (show ¬th.depth = maxDepth from hd), he, hs]
  cases f <;> rfl

end Call

/-- Settles O21: the target's check, the four transfers that use it, the return, and the addresses of B-format targets. -/
theorem transfers : Obligations.Transfers := by
  refine ⟨?_, fun th loff slot off => ⟨targetPc_line th loff slot, targetPc_off th off⟩⟩
  intro s th x t a nsl ctx
  refine ⟨?noImage, ?image, ?jumps, ?ret⟩
  case noImage => exact fun pc h same => checkTarget_illegal (target_noImage h) same
  case image =>
    intro pc o im h good
    exact ⟨fun bad same => checkTarget_illegal (target_refused h bad) same,
      fun ok => checkTarget_anyImage (target_admitted h ok),
      fun o' im' here ok => checkTarget_sameImage (target_admitted h ok) here⟩
  case jumps =>
    intro i same pc hi h
    simp only [List.mem_cons, Prod.mk.injEq, List.not_mem_nil, or_false] at hi
    rcases hi with ⟨rfl, rfl, rfl⟩ | ⟨rfl, rfl, rfl⟩ | ⟨rfl, rfl, rfl⟩ | ⟨rfl, rfl, rfl⟩
    · obtain ⟨illegal, legal⟩ := ends_of_jump (pc := fun _ th => th.targetPc t)
        (f := fun s th p => (s, .goto (th.targetPc t) p)) h rfl rfl
      exact ⟨illegal, fun p hp => ⟨fun _ => legal p hp _ _ rfl, fun hi => by simp at hi⟩⟩
    · obtain ⟨illegal, legal⟩ := ends_of_jump (pc := fun s th => s.rd64 th a)
        (f := fun s th p => (s, .goto (s.rd64 th a) p)) h rfl rfl
      exact ⟨illegal, fun p hp => ⟨fun _ => legal p hp _ _ rfl, fun hi => by simp at hi⟩⟩
    · obtain ⟨illegal, legal⟩ := ends_of_jump (pc := fun _ th => th.targetPc t)
        (f := fun s th p => s.callOp th (th.targetPc t) p (8 * nsl.val)) h rfl rfl
      refine ⟨illegal, fun p hp => ⟨fun hi => by simp at hi, fun _ => ⟨fun hd => legal p hp _ _ (callOp_deepest hd), ?_⟩⟩⟩
      rintro hd q e r (_ | f) hs <;> exact legal p hp _ _ (callOp_slides hd rfl hs)
    · obtain ⟨illegal, legal⟩ := ends_of_jump (pc := fun s th => s.rd64 th a)
        (f := fun s th p => s.callOp th (s.rd64 th a) p (8 * nsl.val)) h rfl rfl
      refine ⟨illegal, fun p hp => ⟨fun hi => by simp at hi, fun _ => ⟨fun hd => legal p hp _ _ (callOp_deepest hd), ?_⟩⟩⟩
      rintro hd q e r (_ | f) hs <;> exact legal p hp _ _ (callOp_slides hd rfl hs)
  case ret =>
    refine fun h r e hs => ⟨?_, ?_⟩
    · rintro f rfl
      exact ends_issue h rfl rfl (by simp only [ctx] at hs; simp only [hs])
    · rintro pc o im rfl ht
      exact ends_issue h rfl rfl (by simp only [ctx] at hs ht; simp only [hs, ht])

end Sys2Proof.Machine
end

section
/-!
PROOFS. The CORE path and the records of threads: translation, the L1s and stores of a thread that does not speculate neither read
nor change a thread's record.
-/

namespace Sys2Proof.Machine

/-- Another list of thread records. -/
def State.onThreads (s : State) (f : List Thread → List Thread) : State := { s with threads := f s.threads }

section Parts
variable (s : State) (f : List Thread → List Thread)

/-! ## What is read -/

theorem onThreads_homeRead (pa n : Nat) : (s.onThreads f).homeRead pa n = s.homeRead pa n := by
  induction n generalizing pa with
  | zero => rfl
  | succ n ih => rw [State.homeRead, State.homeRead, ih]; rfl

theorem onThreads_walkVia (kept : Nat → Option Nat) (va : Nat) (levels : List (Nat × Nat × Nat)) :
    ∀ node, (s.onThreads f).walkVia kept va levels node = s.walkVia kept va levels node := by
  induction levels with
  | nil => exact fun _ => rfl
  | cons l ls ih =>
    intro node
    simp only [State.walkVia, State.homeNat, onThreads_homeRead, ih]
    rfl

/-! ## Translation -/

theorem onThreads_homeWrite (pa : Nat) (bs : List Byte) : (s.onThreads f).homeWrite pa bs = (s.homeWrite pa bs).onThreads f := by
  unfold State.homeWrite
  rw [show (s.onThreads f).localPa pa = s.localPa pa from rfl]
  split <;> rfl

theorem onThreads_tlbPut (e : TlbEnt) : (s.onThreads f).tlbPut e = (s.tlbPut e).onThreads f := by
  unfold State.tlbPut
  rw [show (s.onThreads f).tlb = s.tlb from rfl]
  split <;> rfl

theorem onThreads_sealLeaf (l : Leaf) : (s.onThreads f).sealLeaf l = ((s.sealLeaf l).1.onThreads f, (s.sealLeaf l).2) := by
  simp only [State.sealLeaf, onThreads_homeWrite, show (s.onThreads f).seals = s.seals from rfl]
  split
  · dsimp only
    split <;> rfl
  · rfl

/-- A fold over steps that do not look at the thread records. -/
theorem onThreads_foldl {α : Type} {g : State → α → State} (h : ∀ s a, g (s.onThreads f) a = (g s a).onThreads f) (l : List α) (s : State) :
    l.foldl g (s.onThreads f) = (l.foldl g s).onThreads f := List.foldl_hom (fun s : State => s.onThreads f) h

theorem onThreads_translate (tlb ctx va : Nat) :
    (s.onThreads f).translate tlb ctx va = ((s.translate tlb ctx va).1.onThreads f, (s.translate tlb ctx va).2) := by
  unfold State.translate
  rw [show (s.onThreads f).tlbEnt? = s.tlbEnt? from rfl]
  split
  · rfl
  split
  · rw [onThreads_tlbPut]
  rw [onThreads_walkVia, show (s.onThreads f).walkEnt? = s.walkEnt? from rfl, show (s.onThreads f).ctx = s.ctx from rfl]
  split
  · rfl
  rw [onThreads_sealLeaf]
  dsimp only
  rw [onThreads_foldl f (g := fun s (u : Nat × Nat) => s.tlbPut ⟨walkTlb tlb, ctx, va % 2 ^ 57 / 2 ^ u.1, u.1, BitVec.ofNat 128 u.2⟩)
    (fun s u => onThreads_tlbPut s f _), onThreads_tlbPut, onThreads_tlbPut]

theorem onThreads_checkVa (tlb ctx : Nat) (priv : Bool) (acc : Acc) (va size : Nat) :
    (s.onThreads f).checkVa tlb ctx priv acc va size =
      ((s.checkVa tlb ctx priv acc va size).1.onThreads f, (s.checkVa tlb ctx priv acc va size).2) := by
  unfold State.checkVa
  rw [onThreads_translate]
  split
  · rfl
  split
  · rfl
  rcases s.translate tlb ctx va with ⟨r, _ | l⟩
  · rfl
  simp only [show (r.onThreads f).permit = r.permit from rfl, show (r.onThreads f).reaches = r.reaches from rfl]
  split
  · rfl
  split <;> rfl

theorem onThreads_checkCore (th : Thread) (priv : Bool) (acc : Acc) (va size : Nat) :
    (s.onThreads f).checkCore th priv acc va size =
      ((s.checkCore th priv acc va size).1.onThreads f, (s.checkCore th priv acc va size).2) := by
  unfold State.checkCore
  rw [show (s.onThreads f).hostOf = s.hostOf from rfl, show (s.onThreads f).team = s.team from rfl, onThreads_checkVa]
  rcases s.checkVa (s.hostOf th) (s.team th.team).ctx priv acc va size with ⟨r, _ | l⟩ <;> rfl

/-! ## Write-backs -/

theorem onThreads_once (i : Instr) : (s.onThreads f).once i = (s.once i).onThreads f := by
  unfold State.once
  rw [show (s.onThreads f).agenda = s.agenda from rfl]
  split <;> rfl

theorem onThreads_checkedWrite (team tag : Nat) (colour : Option (Fin 8)) :
    (s.onThreads f).checkedWrite team tag colour = (s.checkedWrite team tag colour).onThreads f := by
  unfold State.checkedWrite
  refine onThreads_foldl f (fun s o => ?_) _ s
  rw [show (s.onThreads f).objColours = s.objColours from rfl]
  have all := onThreads_foldl f (g := fun s g => (s.doom team o.off g).once (.rollback g))
    (fun s g => onThreads_once (s.doom team o.off g) f _) (o.implicated tag) s
  cases colour with
  | none => exact all
  | some c =>
    dsimp only
    split
    · exact all
    · rfl

theorem onThreads_freshen (core line : Nat) : (s.onThreads f).freshen core line = (s.freshen core line).onThreads f := rfl

theorem onThreads_passOn (core : Nat) (teams : List Nat) : (s.onThreads f).passOn core teams = (s.passOn core teams).onThreads f := by
  unfold State.passOn
  split <;> rfl

theorem onThreads_writeBack (l : L1Line) (p : Nat → Bool) :
    (s.onThreads f).writeBack l p = ((s.writeBack l p).1.onThreads f, (s.writeBack l p).2) := by
  unfold State.writeBack
  refine Prod.ext ?_ rfl
  dsimp only
  rw [onThreads_freshen, onThreads_passOn, ← apply_ite (State.onThreads · f),
    onThreads_foldl f fun s r => onThreads_homeWrite s f (l.pa + r.1) r.2]
  refine onThreads_foldl f (fun s k => ?_) _ _
  split
  · split
    · exact onThreads_checkedWrite ..
    · rfl
  · rfl

theorem onThreads_publishCore (core : Nat) (colours : Byte) :
    (s.onThreads f).publishCore core colours = (s.publishCore core colours).onThreads f := by
  unfold State.publishCore
  refine onThreads_foldl f (fun s l => ?_) _ s
  rw [show (s.onThreads f).l1Line? = s.l1Line? from rfl, onThreads_writeBack]
  rfl

theorem onThreads_settlePubs (core : Nat) : (s.onThreads f).settlePubs core = (s.settlePubs core).onThreads f := by
  unfold State.settlePubs
  exact onThreads_foldl f (fun s p => onThreads_publishCore s f core p.colours) _ s

theorem onThreads_dropLine (l : L1Line) : (s.onThreads f).dropLine l = (s.dropLine l).onThreads f := by
  unfold State.dropLine
  rw [onThreads_settlePubs, onThreads_writeBack]
  rfl

theorem onThreads_makeRoom (core line : Nat) : (s.onThreads f).makeRoom core line = (s.makeRoom core line).onThreads f := by
  unfold State.makeRoom
  rw [show (s.onThreads f).l1Line? = s.l1Line? from rfl, show (s.onThreads f).l1Full = s.l1Full from rfl,
    show (s.onThreads f).l1Held = s.l1Held from rfl]
  split
  · rfl
  split
  · exact onThreads_dropLine ..
  · rfl

/-! ## Stores -/

theorem onThreads_l1WriteLine (core pa : Nat) (colour : Fin 8) (own : Nat × Option Nat) (bs : List Byte) :
    (s.onThreads f).l1WriteLine core pa colour own bs = (s.l1WriteLine core pa colour own bs).onThreads f := by
  unfold State.l1WriteLine
  dsimp only
  rw [onThreads_makeRoom]
  generalize s.makeRoom core (pa / 64 * 64) = r
  rw [show (r.onThreads f).l1Line? = r.l1Line? from rfl, onThreads_settlePubs, ← apply_ite (State.onThreads · f)]
  rw [show ∀ r : State, (r.onThreads f).l1Line? = r.l1Line? from fun _ => rfl, onThreads_writeBack]
  rfl

theorem onThreads_l1Write (core pa va : Nat) (colour : Fin 8) (team : Nat) (checked : Bool) (bs : List Byte) :
    (s.onThreads f).l1Write core pa va colour team checked bs = (s.l1Write core pa va colour team checked bs).onThreads f := by
  unfold State.l1Write
  exact onThreads_foldl f (fun s p => onThreads_l1WriteLine s f ..) _ s

theorem onThreads_afterStore (th : Thread) : (s.onThreads f).afterStore th = (s.afterStore th).onThreads f := by
  unfold State.afterStore
  rw [onThreads_publishCore]
  exact (apply_ite (State.onThreads · f) ..).symm

/-- A store that finds its room and its thread's record through any list of thread records alike. -/
theorem onThreads_storeG (th : Thread) (priv : Bool) (va : Nat) (colour : Fin 8) (bs : List Byte)
    (hspec : ∀ (s : State) (r : SpecRec) (x : SpecStore),
      (s.onThreads f).specStore th r x = ((s.specStore th r x).1.onThreads f, (s.specStore th r x).2)) :
    (s.onThreads f).storeG th priv va colour bs = ((s.storeG th priv va colour bs).1.onThreads f, (s.storeG th priv va colour bs).2) := by
  unfold State.storeG
  rw [onThreads_checkCore]
  rcases s.checkCore th priv .write va bs.length with ⟨q, _ | l⟩
  · rfl
  cases th.spec with
  | some r => exact hspec ..
  | none =>
    dsimp only
    rw [show (q.onThreads f).hostOf = q.hostOf from rfl, onThreads_l1Write, onThreads_afterStore]

end Parts
end Sys2Proof.Machine
end

section
/-!
PROOFS. Spill faults (R40, R41) and an instruction of portable code that names entries of its frame's overflow block (R69).
-/

namespace Sys2Proof.Machine

/-! ## Spill faults -/

theorem entrySize_le_entryBytes {o : Hidden} (hr : o.regs.length = o.n) : entrySize o.n ≤ (entryBytes o).length := by
  rw [entryBytes_length, hr]; omega

theorem spillLines_fault {s r : State} {t va : Nat} {b : List Byte} {f : Stop}
    (h : s.storeG (s.th t) (s.th t).privileged va 0 (b.take 64) = (r, .error f)) (k : Nat) :
    s.spillLines t va (k + 1) b = (r, some (spillStop f)) := by
  rw [State.spillLines, h]

section Fault
variable {s r : State} {t n frame : Nat} {ret : DWord} {th : Thread} {o : Hidden} {keep : List Hidden} {f : Cause × Nat}
  (hth : s.thread? t = some th)
include hth

/-- A slide whose spill fails ends with that fault, the caller's record as it was. -/
theorem slideWindow_of_pushFault (hh : th.part n ret :: th.hidden = keep ++ [o])
    (hroom : (s.team th.team).regsB - 128 < residentRegs (keep ++ [o]))
    (hs : (s.pushPart t (th.part n ret)).spillPush t (entryBytes o) = (r, some f)) :
    s.slideWindow t n ret frame = (r.setTh th, some f) := by
  have pushed : ((s.pushPart t (th.part n ret)).th t).hidden = keep ++ [o] := by rw [th_of (thread_pushPart hth _)]; exact hh
  exact slideWindow_of_spillFault hth (spillOld_fault pushed hroom hs _)

/-- An entry beyond SPILL_LIMIT. -/
theorem slideWindow_beyond (hn : 8 ≤ n) (hh : th.hidden = []) (hroom : (s.team th.team).regsB < 128 + n)
    (hl : th.spillLimit.toNat < th.spillPtr.toNat + entrySize n) :
    s.slideWindow t n ret frame = ((s.pushPart t (th.part n ret)).setTh th,
      some (.spill, canonVa th.spillBase.toNat + th.spillLimit.toNat)) := by
  have size : entrySize n ≤ (entryBytes (th.part n ret)).length := entrySize_le_entryBytes (o := th.part n ret) (getRun_length th 16 n)
  have regs : residentRegs [th.part n ret] = n := by rw [residentRegs_cons]; rfl
  refine slideWindow_of_pushFault hth (keep := []) (by rw [hh]; rfl) ?_
    (spillPush_beyond (th := { th with hidden := th.part n ret :: th.hidden }) (thread_pushPart hth _) ?_)
  · rw [List.nil_append, regs]; omega
  · exact Nat.lt_of_lt_of_le hl (Nat.add_le_add_left size _)

end Fault

/-! ## Entries of an overflow block -/

/-- An instruction whose slot has passed its checks and its guard. -/
theorem issue_of_passes {s : State} {th : Thread} {i : Instr} {x : X} {f : State → Thread → State × Next} (hc : s.cur = some th)
    (hp : s.preIssue th i = none) (hg : th.psel x.g = true) (hs : i.specStalls = false) :
    s.issue i x f = (s.withOvf th.id i true f).1.finish th.id (s.withOvf th.id i true f).2 := by
  unfold State.issue State.issueG
  simp only [hc, hp, hg, hs, Bool.and_false, Bool.false_eq_true, if_false, if_true]

/-- An instruction of portable code whose overflow entries load, and whose written ones are stored. -/
theorem withOvf_of_loaded {s a b q : State} {th : Thread} {i : Instr} {f : State → Thread → State × Next} {rs ws : List Nat} {n : Next}
    (hth : s.th th.id = th) (hp : th.portable = true)
    (hrs : ovfRegs false (i.opds (s.slot (s.hostOf th) (s.team th.team).ctx)) = rs) (hl : s.loadOvf th.id rs = (a, none))
    (hf : f a (a.th th.id) = (b, n))
    (hws : (ovfRegs true (i.opds (s.slot (s.hostOf th) (s.team th.team).ctx))).filter (fun k => (assoc (b.th th.id).ovf k).isSome) = ws)
    (hst : b.storeOvf th.id ws = (q, none)) :
    s.withOvf th.id i true f = (q.dropOvf th.id, n) := by
  unfold State.withOvf
  simp only [hth, hp, if_true, ovfOpds, hrs, hl, hf, hws, hst]

/- Lean derives no equations of the two walks over overflow entries, since it would evaluate an access to do so; the two lemmas
open the recursion themselves. -/

theorem loadOvf_cons {s r : State} {t n : Nat} {b : List Byte}
    (h : s.loadG (s.th t) (s.th t).privileged ((s.th t).ovfAddr n) 4 = (r, .ok b)) (l : List Nat) :
    s.loadOvf t (n :: l) = (r.modTh t fun u => u.put n (word (leNat b))).loadOvf t l := by
  delta State.loadOvf
  simp only
  delta State.loadOvf._f
  simp only [h]

theorem storeOvf_cons {s q : State} {t n : Nat}
    (h : s.storeG (s.th t) (s.th t).privileged ((s.th t).ovfAddr n) 0 (leBytes 4 ((s.th t).get n).toNat) = (q, .ok ())) (l : List Nat) :
    s.storeOvf t (n :: l) = q.storeOvf t l := by
  delta State.storeOvf
  simp only
  delta State.storeOvf._f
  simp only [h]

theorem assoc_assocSet (l : List (Nat × Word)) (n : Nat) (v : Word) : assoc (assocSet l n v) n = some v := by
  have none : (l.filter fun p => p.1 != n).find? (fun p => p.1 == n) = none := by simp
  simp [assoc, assocSet, List.find?_append, none]

/-- A write to an overflow entry changes the loaded entries only. -/
theorem put_entry {n : Nat} (hn : 128 ≤ n) (u : Thread) (v : Word) : u.put n v = { u with ovf := assocSet u.ovf n v } :=
  if_neg (Nat.not_lt.2 hn)

theorem get_put_entry {n : Nat} (hn : 128 ≤ n) (u : Thread) (v : Word) : (u.put n v).get n = v := by
  rw [put_entry hn, Thread.get, if_neg (Nat.not_lt.2 hn), assoc_assocSet]
  rfl

/-! ## Loaded entries and stores -/

section Updates
variable (s : State) {t k : Nat} {f g : Thread → Thread} (hf : ∀ u, (f u).id = u.id)
include hf

theorem modTh_modTh : (s.modTh t f).modTh t g = s.modTh t fun u => g (f u) := by
  have each (u : Thread) : (if (if u.id == t then f u else u).id == t then g (if u.id == t then f u else u)
      else if u.id == t then f u else u) = if u.id == t then g (f u) else u := by
    by_cases h : u.id = t <;> simp [h, hf]
  simp only [State.modTh, updBy, List.map_map, Function.comp_def, each]

theorem modTh_comm (hg : ∀ u, (g u).id = u.id) (h : ∀ u, g (f u) = f (g u)) :
    (s.modTh t f).modTh k g = (s.modTh k g).modTh t f := by
  have each (u : Thread) : (if (if u.id == t then f u else u).id == k then g (if u.id == t then f u else u)
      else if u.id == t then f u else u) = if (if u.id == k then g u else u).id == t then f (if u.id == k then g u else u)
      else if u.id == k then g u else u := by
    cases ht : u.id == t <;> cases hk : u.id == k <;> simp only [ht, hk, hf, hg, h, if_true, Bool.false_eq_true, if_false]
  simp only [State.modTh, updBy, List.map_map, Function.comp_def, each]

end Updates

section Drop
variable (s : State) (t : Nat)

theorem specRoom_dropOvf (team n : Nat) : (s.dropOvf t).specRoom team n = s.specRoom team n := by
  have teams (x : Thread) : (if x.id == t then { x with ovf := [] } else x).team = x.team := by split <;> rfl
  have specs (x : Thread) : (if x.id == t then { x with ovf := [] } else x).spec = x.spec := by split <;> rfl
  unfold State.specRoom
  simp only [State.dropOvf, State.modTh, updBy, List.filter_map, List.foldl_map, Function.comp_def, teams, specs]
  rfl

theorem specStore_dropOvf (th : Thread) (r : SpecRec) (x : SpecStore) :
    (s.dropOvf t).specStore th r x = ((s.specStore th r x).1.dropOvf t, (s.specStore th r x).2) := by
  unfold State.specStore
  rw [specRoom_dropOvf]
  split
  · refine Prod.ext ?_ rfl
    exact modTh_comm s (fun _ => rfl) (fun _ => rfl) fun _ => rfl
  · rfl

/-- A store neither sees nor changes the overflow entries that a thread has loaded. -/
theorem storeG_dropOvf (th : Thread) (priv : Bool) (va : Nat) (colour : Fin 8) (bs : List Byte) :
    (s.dropOvf t).storeG th priv va colour bs = ((s.storeG th priv va colour bs).1.dropOvf t, (s.storeG th priv va colour bs).2) :=
  onThreads_storeG s (fun l => updBy Thread.id l t fun u => { u with ovf := [] }) th priv va colour bs
    fun s => specStore_dropOvf s t th

theorem storeG_of_dropOvf_eq {p q : State} {th : Thread} {priv : Bool} {va : Nat} {colour : Fin 8} {bs : List Byte} {e : Except Stop Unit}
    (hd : s.dropOvf t = p.dropOvf t) (h : p.storeG th priv va colour bs = (q, e)) :
    ∃ z, s.storeG th priv va colour bs = (z, e) ∧ z.dropOvf t = q.dropOvf t := by
  have stored := (storeG_dropOvf s t th priv va colour bs).symm.trans (hd ▸ storeG_dropOvf p t th priv va colour bs)
  rw [h, Prod.mk.injEq] at stored
  exact ⟨_, Prod.ext rfl stored.2, stored.1⟩

theorem dropOvf_modTh (e : Thread → List (Nat × Word)) : (s.modTh t fun u => { u with ovf := e u }).dropOvf t = s.dropOvf t := by
  exact modTh_modTh s fun _ => rfl

end Drop

/-! ## MOV between two entries -/

theorem preIssue_mov {s : State} {th : Thread} {x : X} {m n : Fin 1024} (hf : (s.ctxOf th).frozen = false)
    (hr : th.privileged = true ∨ (s.group th.group).role.admits .common = true) : s.preIssue th (.mov x .b32 (.v n) (.v m)) = none := by
  have admits : (s.group th.group).role.admits .common = true → s.roleAdmits th .common = true := fun h => by
    unfold State.roleAdmits
    rw [h]; rfl
  unfold State.preIssue
  rw [(stopped_eq_false_iff s th).2 (.inl hf)]
  rcases hr with h | h
  · rw [h]; rfl
  · rw [show Instr.cls (.mov x .b32 (.v n) (.v m)) = .common from rfl, admits h,
      show Instr.needsPrivilege (.mov x .b32 (.v n) (.v m)) = false from rfl,
      show Instr.writesConst (.mov x .b32 (.v n) (.v m)) = false from rfl]
    simp

/-- A MOV reads its 32-bit source register as it stands. -/
theorem plain_mov (s : State) (th : Thread) (n m : Fin 1024) : s.plain th .b32 (.v n) (s.rd th .b32 (.v m)) =
    (s.modTh th.id fun u => u.put n (th.get m), .next) := by
  show (s.modTh th.id fun u => u.put n (word (th.get m).toNat), Next.next) = _
  rw [word, BitVec.ofNat_toNat, BitVec.setWidth_eq]

theorem ovfRegs_mov {dst : Bool} {x : X} {m n : Fin 1024} (slot : Nat → SlotD) (hm : 128 ≤ m.val) (hn : 128 ≤ n.val) :
    ovfRegs dst (Instr.opds slot (.mov x .b32 (.v n) (.v m))) = [if dst then n.val else m.val] := by
  have one : opLen .b32 = 1 := rfl
  cases dst <;> simp [ovfRegs, Instr.opds, one, upto, hm, hn]

/-- A MOV of portable code between two entries of its frame's overflow block. -/
theorem mov_entries {s r p q : State} {th : Thread} {x : X} {m n : Fin 1024} {b : List Byte} (hc : s.cur = some th)
    (hp : th.portable = true) (hg : th.psel x.g = true) (hf : (s.ctxOf th).frozen = false)
    (hr : th.privileged = true ∨ (s.group th.group).role.admits .common = true) (hm : 128 ≤ m.val) (hn : 128 ≤ n.val)
    (hl : s.loadG th th.privileged (th.ovfAddr m.val) 4 = (r, .ok b)) (hrt : r.thread? th.id = some th)
    (hpd : p.dropOvf th.id = r.dropOvf th.id)
    (hst : p.storeG ((th.put m (word (leNat b))).put n (word (leNat b))) th.privileged (th.ovfAddr n.val) 0
      (leBytes 4 (word (leNat b)).toNat) = (q, .ok ())) :
    exec (.mov x .b32 (.v n) (.v m)) s = .next ((q.dropOvf th.id).finish th.id .next) := by
  have hth := th_of (cur_thread hc)
  have loaded := loadOvf_cons (t := th.id) (n := m.val) (by rw [hth]; exact hl) []
  generalize word (leNat b) = w at loaded hst
  have putId (k : Nat) (u : Thread) : (u.put k w).id = u.id := (put_hold u k w).2.1
  have read : (r.modTh th.id fun u => u.put m w).thread? th.id = some (th.put m w) :=
    thread_modTh hrt fun u hu => (putId _ u).trans hu
  have moved : ((r.modTh th.id fun u => u.put m w).modTh th.id fun u => u.put n w).th th.id = (th.put m w).put n w :=
    th_of (thread_modTh read fun u hu => (putId _ u).trans hu)
  have same : ((r.modTh th.id fun u => u.put m w).modTh th.id fun u => u.put n w).dropOvf th.id = p.dropOvf th.id := by
    simp only [put_entry hm, put_entry hn, dropOvf_modTh, hpd]
  obtain ⟨z, stored, dropped⟩ := storeG_of_dropOvf_eq _ th.id same hst
  have wrote : (((r.modTh th.id fun u => u.put m w).modTh th.id fun u => u.put n w).storeOvf th.id [n.val]) = (z, none) := by
    refine storeOvf_cons ?_ []
    rw [moved, get_put_entry hn]
    simp only [put_entry hm, put_entry hn] at stored ⊢
    exact stored
  have named : (assoc ((th.put m w).put n w).ovf n.val).isSome = true := by rw [put_entry hn]; simp only [assoc_assocSet]; rfl
  have ran := withOvf_of_loaded (f := fun s th => s.plain th .b32 (.v n) (s.rd th .b32 (.v m))) hth hp
    (ovfRegs_mov (dst := false) (x := x) _ hm hn) loaded
    (by rw [th_of read, plain_mov, putId, get_put_entry hm])
    (by rw [ovfRegs_mov (dst := true) (x := x) _ hm hn, moved]; simp only [if_true, List.filter_cons, named, List.filter_nil]) wrote
  show Host.Outcome.next (s.issue (.mov x .b32 (.v n) (.v m)) x fun s th => s.plain th .b32 (.v n) (s.rd th .b32 (.v m))) = _
  rw [issue_of_passes hc (preIssue_mov hf hr) hg rfl, ran, dropped]

/-- Settles O13: an entry beyond SPILL_LIMIT, a line that is not stored, the fault of such a line, a return at depth 0, and a MOV
between overflow entries. -/
theorem spillFaultIsExact : Obligations.SpillFaultIsExact := by
  refine ⟨⟨?beyond, ?lines, ?stop, fun _ _ _ _ hth hd => unslideWindow_depthZero hth hd⟩, ?entries⟩
  case beyond =>
    intro s t n frame ret th hth hn _ hh hroom hl
    exact ⟨_, slideWindow_beyond hth hn hh hroom hl, thread_setTh (thread_pushPart hth _) (id_of_thread hth), fun k hk => by
      rw [State.setTh, id_of_thread hth, thread_modTh_other hk fun _ _ => id_of_thread hth, State.pushPart, thread_modTh_other hk], rfl⟩
  case lines =>
    intro s t n frame ret th o keep hth h hh hroom hl q r f hs hr
    have pushed := thread_pushPart hth (th.part n ret)
    exact ⟨slideWindow_of_pushFault hth hh hroom (spillPush_fault (bs := entryBytes o) pushed hl hs),
      thread_setTh (hr.trans pushed) (id_of_thread hth)⟩
  case stop =>
    intro s r t va k b f h
    rw [spillLines_fault h]
    cases f with
    | fault c a => cases c <;> rfl
    | stall w => rfl
  case entries =>
    intro s r q th x m n b hc hp hg hf hr hm hn ho hl _ hrt hst
    have entry : ({ th with ovf := [(m.val, word (leNat b))] } : Thread) = th.put m (word (leNat b)) := by
      rw [put_entry hm, ho]; rfl
    have moved : ((r.modTh th.id fun u => { u with ovf := [(m.val, word (leNat b))] }).modTh th.id
        fun u => u.put n (word (leNat b))).th th.id = (th.put m (word (leNat b))).put n (word (leNat b)) := by
      rw [th_of (thread_modTh (thread_modTh hrt) fun u hu => (put_hold u _ _).2.1.trans hu), entry]
    dsimp only at hst
    rw [moved] at hst
    exact mov_entries hc hp hg hf hr hm hn hl hrt (by simp only [put_entry hn, dropOvf_modTh]) hst

end Sys2Proof.Machine
end

section
/-!
PROOFS. Loads change no thread's record: translation, the L1s, scratchpad windows, formatted pages, fragments.
-/

namespace Sys2Proof.Machine

/-! ## Parts of a read -/

/-- What does not look at the thread records does not change them. -/
theorem threads_of_onThreads {g : State → State} (h : ∀ s f, g (s.onThreads f) = (g s).onThreads f) (s : State) : (g s).threads = s.threads := by
  have same := congrArg State.threads (h s fun _ => s.threads)
  exact same

theorem translate_threads (s : State) (tlb ctx va : Nat) : (s.translate tlb ctx va).1.threads = s.threads :=
  threads_of_onThreads (g := fun s => (s.translate tlb ctx va).1) (fun s f => congrArg Prod.fst (onThreads_translate s f tlb ctx va)) s

theorem checkCore_threads (s : State) (th : Thread) (priv : Bool) (acc : Acc) (va size : Nat) :
    (s.checkCore th priv acc va size).1.threads = s.threads :=
  threads_of_onThreads (g := fun s => (s.checkCore th priv acc va size).1)
    (fun s f => congrArg Prod.fst (onThreads_checkCore s f th priv acc va size)) s

theorem makeRoom_threads (s : State) (core line : Nat) : (s.makeRoom core line).threads = s.threads :=
  threads_of_onThreads (g := fun s => s.makeRoom core line) (fun s f => onThreads_makeRoom s f core line) s

theorem passOn_threads (s : State) (core : Nat) (teams : List Nat) : (s.passOn core teams).threads = s.threads :=
  threads_of_onThreads (g := fun s => s.passOn core teams) (fun s f => onThreads_passOn s f core teams) s

theorem onThreads_settle (s : State) (f : List Thread → List Thread) (core pa n : Nat) :
    (s.onThreads f).settle core pa n = (s.settle core pa n).onThreads f := by
  unfold State.settle
  refine onThreads_foldl f (fun s p => ?_) _ s
  dsimp only
  rw [onThreads_settlePubs, onThreads_freshen]
  generalize (s.settlePubs core).freshen core (p.1 / 64 * 64) = r
  rw [show (r.onThreads f).l1Line? = r.l1Line? from rfl]
  split
  · rfl
  · rw [onThreads_writeBack]; rfl

theorem settle_threads (s : State) (core pa n : Nat) : (s.settle core pa n).threads = s.threads :=
  threads_of_onThreads (g := fun s => s.settle core pa n) (fun s f => onThreads_settle s f core pa n) s

theorem noteRead_threads (s : State) (th : Thread) (tags : List Nat) : (s.noteRead th tags).threads = s.threads := by
  unfold State.noteRead
  split <;> rfl

theorem afterLoad_threads (s : State) (th : Thread) : (s.afterLoad th).threads = s.threads := by
  unfold State.afterLoad
  split <;> rfl

/-! ## Loads of bytes -/

theorem l1ReadLine_threads (s : State) (core pa n : Nat) : (s.l1ReadLine core pa n).1.threads = s.threads := by
  unfold State.l1ReadLine
  extract_lets line o l m
  split
  · rfl
  split
  · rfl
  · exact makeRoom_threads s core line

theorem l1ReadPieces_threads (host : Nat) (via : Nat → Nat) (ps : List (Nat × Nat)) :
    ∀ s : State, (s.l1ReadPieces host via ps).1.threads = s.threads := by
  induction ps with
  | nil => exact fun _ => rfl
  | cons p ps ih =>
    intro s
    have line := l1ReadLine_threads s (via p.1) p.1 p.2
    rw [State.l1ReadPieces]
    generalize s.l1ReadLine (via p.1) p.1 p.2 = m at line ⊢
    rcases m with ⟨q, _ | b⟩
    · exact line
    have rest := (ih q).trans line
    dsimp only
    generalize q.l1ReadPieces host via ps = m at rest ⊢
    rcases m with ⟨r, _ | c⟩ <;> exact rest

theorem readLeaf_threads (s : State) (th : Thread) (va n : Nat) (l : Leaf) : (s.readLeaf th va n l).1.threads = s.threads := by
  unfold State.readLeaf
  cases th.spec with
  | none =>
    have read : (s.l1Read th l.pa n).1.threads = s.threads := by
      rw [State.l1Read, l1ReadPieces_threads, passOn_threads]
    generalize s.l1Read th l.pa n = m at read ⊢
    rcases m with ⟨q, _ | b⟩
    · exact read
    · exact (afterLoad_threads q th).trans read
  | some r =>
    have settled := settle_threads s (s.hostOf th) l.pa n
    dsimp only
    split
    · exact settled
    · exact (noteRead_threads _ th _).trans settled

theorem loadG_threads (s : State) (th : Thread) (priv : Bool) (va n : Nat) : (s.loadG th priv va n).1.threads = s.threads := by
  have checked := checkCore_threads s th priv .read va n
  unfold State.loadG
  generalize s.checkCore th priv .read va n = m at checked ⊢
  rcases m with ⟨q, _ | l⟩
  · exact checked
  · exact (readLeaf_threads q th va n l).trans checked

theorem loadW_threads (s : State) (th : Thread) (sp : Space) (o : Int) (n : Nat) : (s.loadW th sp o n).1.threads = s.threads := by
  unfold State.loadW
  split
  · rfl
  split
  · rfl
  split
  · rfl
  · exact noteRead_threads ..

theorem rawLoad_threads (s : State) (th : Thread) (priv : Bool) (slot : Option Nat) (va n : Nat) :
    (s.rawLoad th priv slot va n).1.threads = s.threads := by
  have checked := checkCore_threads s th priv .read va n
  unfold State.rawLoad
  generalize s.checkCore th priv .read va n = m at checked ⊢
  rcases m with ⟨q, _ | l⟩
  · exact checked
  dsimp only
  split
  · exact checked
  · exact (readLeaf_threads q th va n l).trans checked

/-! ## Formatted pages (R284) -/

theorem planeScale_threads (s : State) (th : Thread) (priv : Bool) (slot : Option Nat) (base k : Nat) :
    (s.planeScale th priv slot base k).1.threads = s.threads := by
  have first := rawLoad_threads s th priv slot (planeByte base k) 1
  unfold State.planeScale
  dsimp only
  generalize s.rawLoad th priv slot (planeByte base k) 1 = m at first ⊢
  rcases m with ⟨q, _ | b0⟩
  · exact first
  have second := (rawLoad_threads q th priv slot ((planeByte base k + 1) % 2 ^ 64) 1).trans first
  dsimp only
  generalize q.rawLoad th priv slot ((planeByte base k + 1) % 2 ^ 64) 1 = m at second ⊢
  rcases m with ⟨r, _ | b1⟩
  · exact second
  have third := (rawLoad_threads r th priv slot ((planeByte base k + 2) % 2 ^ 64) 1).trans second
  dsimp only
  generalize r.rawLoad th priv slot ((planeByte base k + 2) % 2 ^ 64) 1 = m at third ⊢
  rcases m with ⟨z, _ | b2⟩ <;> exact third

theorem decodeRun_threads (th : Thread) (priv : Bool) (t f : Ty) (sl : SlotD) (e0 codes : Nat) (n : Nat) :
    ∀ (s : State) (i : Nat), (s.decodeRun th priv t f sl e0 codes n i).1.threads = s.threads := by
  induction n with
  | zero => exact fun _ _ => rfl
  | succ n ih =>
    intro s i
    have scale := planeScale_threads s th priv none sl.sbase ((e0 + i) / sl.blockLen)
    rw [State.decodeRun]
    generalize hm : (ite (sl.scaled = true) _ _ : State × Except Stop (Option Nat)) = m
    have scaled : m.1.threads = s.threads := by
      rw [← hm]
      split
      · generalize s.planeScale th priv none sl.sbase ((e0 + i) / sl.blockLen) = m at scale ⊢
        rcases m with ⟨q, _ | k⟩ <;> exact scale
      · rfl
    rcases m with ⟨q, _ | k⟩
    · exact scaled
    have rest := (ih q (i + 1)).trans scaled
    dsimp only
    generalize q.decodeRun th priv t f sl e0 codes n (i + 1) = m at rest ⊢
    rcases m with ⟨r, _ | l⟩ <;> exact rest

theorem loadSource_threads (s : State) (th : Thread) (priv : Bool) (t : Ty) (n va : Nat) (see : Nat → SlotD) :
    (s.loadSource th priv t n va see).1.threads = s.threads := by
  have found := translate_threads s (s.hostOf th) (s.team th.team).ctx va
  unfold State.loadSource
  dsimp only
  split
  · rfl
  generalize s.translate (s.hostOf th) (s.team th.team).ctx va = m at found ⊢
  rcases m with ⟨q, _ | l⟩
  · exact found
  dsimp only
  split <;> exact found

theorem loadElems_threads (s : State) (th : Thread) (priv : Bool) (t : Ty) (n va : Nat) :
    (s.loadElems th priv t n va).1.threads = s.threads := by
  have source := loadSource_threads s th priv t n va (s.slot (s.hostOf th) (s.team th.team).ctx)
  unfold State.loadElems
  generalize s.loadSource th priv t n va (s.slot (s.hostOf th) (s.team th.team).ctx) = m at source ⊢
  rcases m with ⟨q, _ | ⟨l, _ | ⟨f, e0, nb⟩⟩⟩
  · exact source
  · have read := (readLeaf_threads q th va (n * (t.bits / 8)) l).trans source
    dsimp only
    generalize q.readLeaf th va (n * (t.bits / 8)) l = m at read ⊢
    rcases m with ⟨r, _ | b⟩ <;> exact read
  · have read := (readLeaf_threads q th va nb l).trans source
    dsimp only
    generalize q.readLeaf th va nb l = m at read ⊢
    rcases m with ⟨r, _ | b⟩
    · exact read
    have decoded := (decodeRun_threads th priv t f (r.slot (r.hostOf th) (r.team th.team).ctx l.fs) e0 (leNat b) n r 0).trans read
    dsimp only
    generalize r.decodeRun th priv t f _ e0 (leNat b) n 0 = m at decoded ⊢
    rcases m with ⟨z, _ | xs⟩ <;> exact decoded

/-! ## Fragments (R224) -/

theorem ldfCodes_threads (th : Thread) (h : Nat) (sl : SlotD) (w row k0 : Nat) (perm : Bool) (n : Nat) :
    ∀ (s : State) (k : Nat), (s.ldfCodes th h sl w row k0 perm n k).1.threads = s.threads := by
  induction n with
  | zero => exact fun _ _ => rfl
  | succ n ih =>
    intro s k
    have place := rawLoad_threads s th th.privileged (some h) ((sl.pbase + 2 * (k0 + k)) % 2 ^ 64) 2
    rw [State.ldfCodes]
    generalize hm : (ite ((!perm) = true) _ _ : State × Except Stop Nat) = m
    have chosen : m.1.threads = s.threads := by
      rw [← hm]
      split
      · rfl
      · unfold State.codeLoad
        generalize s.rawLoad th th.privileged (some h) ((sl.pbase + 2 * (k0 + k)) % 2 ^ 64) 2 = m at place ⊢
        rcases m with ⟨q, _ | b⟩ <;> exact place
    rcases m with ⟨q, _ | c⟩
    · exact chosen
    have code := (rawLoad_threads q th th.privileged (some h) ((row + c * w / 8) % 2 ^ 64) (max (w / 8) 1)).trans chosen
    dsimp only
    rw [State.codeLoad]
    generalize q.rawLoad th th.privileged (some h) ((row + c * w / 8) % 2 ^ 64) (max (w / 8) 1) = m at code ⊢
    rcases m with ⟨r, _ | b⟩
    · exact code
    have rest := (ih r (k + 1)).trans code
    dsimp only
    generalize r.ldfCodes th h sl w row k0 perm n (k + 1) = m at rest ⊢
    rcases m with ⟨z, _ | l⟩ <;> exact rest

theorem ldfScale_threads (s : State) (th : Thread) (h : Nat) (sl : SlotD) (w row k0 kk : Nat) :
    (s.ldfScale th h sl w row k0 kk).1.threads = s.threads := by
  unfold State.ldfScale
  extract_lets e len b
  split
  · rfl
  have first := planeScale_threads s th th.privileged (some h) sl.sbase b
  generalize s.planeScale th th.privileged (some h) sl.sbase b = m at first ⊢
  rcases m with ⟨q, _ | x⟩
  · exact first
  dsimp only
  split
  · exact first
  have second := (planeScale_threads q th th.privileged (some h) sl.sbase (b + 1)).trans first
  generalize q.planeScale th th.privileged (some h) sl.sbase (b + 1) = m at second ⊢
  rcases m with ⟨r, _ | y⟩ <;> exact second

theorem ldfOp_threads (s : State) (th : Thread) (ty : Ty) (perm scl : Bool) (row k0 : Nat) :
    (s.ldfOp th ty perm scl row k0).1.threads = s.threads := by
  unfold State.ldfOp
  extract_lets kk w bad at_
  split
  · rfl
  split
  · rfl
  generalize (if perm then max (w / 8) 1 else 32) = align
  split
  · rfl
  have checked := checkCore_threads s th th.privileged .read row 1
  generalize s.checkCore th th.privileged .read row 1 = m at checked ⊢
  rcases m with ⟨q, _ | l⟩
  · exact checked
  have codes := (ldfCodes_threads th l.fs (q.slot (q.hostOf th) (q.team th.team).ctx l.fs) w row k0 perm kk q 0).trans checked
  dsimp only
  generalize q.slot (q.hostOf th) (q.team th.team).ctx l.fs = sl at codes ⊢
  split
  · exact checked
  generalize q.ldfCodes th l.fs sl w row k0 perm kk 0 = m at codes ⊢
  rcases m with ⟨r, _ | cs⟩
  · exact codes
  dsimp only
  split
  · exact codes
  have scale := (ldfScale_threads r th l.fs sl w row k0 kk).trans codes
  generalize r.ldfScale th l.fs sl w row k0 kk = m at scale ⊢
  rcases m with ⟨z, _ | x⟩ <;> exact scale

end Sys2Proof.Machine
end

section
/-!
PROOFS. Format slots as cores and engines see them after a write (R85, R209).
-/

namespace Sys2Proof.Machine

/-- Whether a view is a core's own of a slot. -/
def ofCore (core ctx h : Nat) (x : SlotView) : Bool := x.path.isNone && x.core == core && x.ctx == ctx && x.slot == h
/-- Whether a view is that of the engines of a path. -/
def ofPath (p : Path) (ctx h : Nat) (x : SlotView) : Bool := x.path == some p && x.ctx == ctx && x.slot == h

theorem ofCore_iff (core ctx h : Nat) (x : SlotView) :
    ofCore core ctx h x = true ↔ x.path = none ∧ x.core = core ∧ x.ctx = ctx ∧ x.slot = h := by
  simp [ofCore, and_assoc]

theorem ofPath_iff (p : Path) (ctx h : Nat) (x : SlotView) : ofPath p ctx h x = true ↔ x.path = some p ∧ x.ctx = ctx ∧ x.slot = h := by
  simp [ofPath, and_assoc]

theorem slotBits_of_find {s : State} {core ctx h : Nat} {v : Option SlotView} (hv : s.oldSlots.find? (ofCore core ctx h) = v) :
    s.slotBits core ctx h = (v.map SlotView.bits).getD (((s.ctx ctx).slots[h]?).getD plainSlot) := by
  subst hv
  unfold State.slotBits
  show (match s.oldSlots.find? (ofCore core ctx h) with | some x => x.bits | none => _) = _
  cases s.oldSlots.find? (ofCore core ctx h) <;> rfl

/-- A list of views in which all that fit a test hold one descriptor, and one does fit. -/
theorem find_bits {l : List SlotView} {p : SlotView → Bool} {x : SlotView} (hx : x ∈ l) (hp : p x = true)
    (all : ∀ y ∈ l, p y = true → y.writer = x.writer ∧ y.bits = x.bits) :
    ∃ y, l.find? p = some y ∧ y.writer = x.writer ∧ y.bits = x.bits := by
  cases found : l.find? p with
  | none => exact absurd hp (List.find?_eq_none.1 found x hx)
  | some y => exact ⟨y, rfl, all y (List.mem_of_find?_eq_some found) (List.find?_some found)⟩

/-! ## What a write leaves -/

/-- The cores but one that host threads of a context. -/
def State.otherCores (z : State) (core ctx : Nat) : List Nat := (z.coresOfCtx ctx).filter fun c => some c != some core
/-- A core's view of a slot as it stands. -/
def State.coreView (z : State) (ctx h c : Nat) : SlotView :=
  { path := none, writer := 0, core := c, ctx := ctx, slot := h, bits := z.slotBits c ctx h }
/-- The engines' view of a slot as it stands, for threads but its writer. -/
def State.pathView (z : State) (core t ctx h : Nat) (p : Path) : SlotView :=
  { path := some p, writer := t, core := core, ctx := ctx, slot := h
    bits := ((z.engView ctx h p).map SlotView.bits).getD (((z.ctx ctx).slots[h]?).getD plainSlot) }
/-- The paths whose engines decode by slots. -/
def slotPaths : List Path := [.copy, .fetch, .tree]
/-- Whether a view is older than a write of core `core`. -/
def State.superseded (z : State) (core ctx h : Nat) (x : SlotView) : Bool :=
  x.ctx == ctx && x.slot == h && if x.path.isSome then true else some x.core == some core || (z.otherCores core ctx).contains x.core

section Write
variable (z : State) (core t ctx h : Nat) (w : BitVec 512)

theorem writeSlot_oldSlots : (z.writeSlot (some (core, t)) ctx h w).oldSlots =
    z.oldSlots.filter (fun x => !z.superseded core ctx h x) ++ (z.otherCores core ctx).map (z.coreView ctx h) ++
      slotPaths.map (z.pathView core t ctx h) := rfl

theorem writeSlot_slots (hc : ∃ c ∈ z.contexts, c.id = ctx) :
    ((z.writeSlot (some (core, t)) ctx h w).ctx ctx).slots = (z.ctx ctx).slots.set h w := by
  obtain ⟨c, mem, id⟩ := hc
  cases found : z.ctx? ctx with
  | none => exact absurd (List.find?_eq_none.1 found c mem) (by simp [id])
  | some x =>
    rw [ctx_of found]
    show ((z.modCtx ctx fun c => { c with slots := c.slots.set h w }).ctx ctx).slots = _
    rw [ctx_of (ctx_modCtx found)]

theorem mem_otherCores (k : Nat) : k ∈ z.otherCores core ctx ↔
    (∃ u ∈ z.threads, u.status = .live ∧ (z.team u.team).ctx = ctx ∧ z.hostOf u = k) ∧ k ≠ core := by
  simp [State.otherCores, State.coresOfCtx, and_assoc]

/-- A view in force after the write is an earlier one that the write leaves, another core's, or that of a path. -/
theorem mem_writeSlot {x : SlotView} : x ∈ (z.writeSlot (some (core, t)) ctx h w).oldSlots ↔
    (x ∈ z.oldSlots ∧ z.superseded core ctx h x = false) ∨ (∃ k ∈ z.otherCores core ctx, z.coreView ctx h k = x) ∨
      ∃ p ∈ slotPaths, z.pathView core t ctx h p = x := by
  rw [writeSlot_oldSlots]
  simp only [List.mem_append, List.mem_filter, List.mem_map, Bool.not_eq_true', or_assoc]

/-- No view of the writer's core stands. -/
theorem writeSlot_noView : ∀ x ∈ (z.writeSlot (some (core, t)) ctx h w).oldSlots, ofCore core ctx h x = false := by
  intro x hx
  rw [Bool.eq_false_iff, ne_eq, ofCore_iff]
  rintro ⟨path, host, context, slot⟩
  rcases (mem_writeSlot ..).1 hx with ⟨-, old⟩ | ⟨k, other, rfl⟩ | ⟨p, -, rfl⟩
  · simp [State.superseded, path, host, context, slot] at old
  · exact ((mem_otherCores ..).1 other).2 host
  · cases path

/-- The views of another core are those that it had. -/
theorem writeSlot_coreViews {k : Nat} (other : k ∈ z.otherCores core ctx) :
    ∀ x ∈ (z.writeSlot (some (core, t)) ctx h w).oldSlots, ofCore k ctx h x = true → x = z.coreView ctx h k := by
  intro x hx hp
  obtain ⟨path, host, context, slot⟩ := (ofCore_iff ..).1 hp
  rcases (mem_writeSlot ..).1 hx with ⟨-, old⟩ | ⟨j, -, rfl⟩ | ⟨p, -, rfl⟩
  · simp [State.superseded, path, host, context, slot, other] at old
  · exact congrArg _ host
  · cases path

/-- The views of a path are those that its engines had. -/
theorem writeSlot_pathViews (p : Path) :
    ∀ x ∈ (z.writeSlot (some (core, t)) ctx h w).oldSlots, ofPath p ctx h x = true → x = z.pathView core t ctx h p := by
  intro x hx hp
  obtain ⟨path, context, slot⟩ := (ofPath_iff ..).1 hp
  rcases (mem_writeSlot ..).1 hx with ⟨-, old⟩ | ⟨j, -, rfl⟩ | ⟨q, -, rfl⟩
  · simp [State.superseded, path, context, slot] at old
  · cases path
  · rw [Option.some.inj path]

/-! ## Which descriptor is seen -/

variable (hc : ∃ c ∈ z.contexts, c.id = ctx) (hh : h < (z.ctx ctx).slots.length)
include hc hh

theorem writeSlot_slot : ((((z.writeSlot (some (core, t)) ctx h w).ctx ctx).slots[h]?).getD plainSlot) = w := by
  rw [writeSlot_slots z core t ctx h w hc]
  simp [hh]

/-- The writer's core sees the slot at once. -/
theorem writeSlot_seen : (z.writeSlot (some (core, t)) ctx h w).slotBits core ctx h = w := by
  have gone := List.find?_eq_none.2 fun x hx => Bool.eq_false_iff.1 (writeSlot_noView z core t ctx h w x hx)
  rw [slotBits_of_find gone]
  exact writeSlot_slot z core t ctx h w hc hh

/-- Another core sees it once it acquires. -/
theorem writeSlot_acquired (k : Nat) : ((z.writeSlot (some (core, t)) ctx h w).acquireCore k).slotBits k ctx h = w := by
  have gone : ((z.writeSlot (some (core, t)) ctx h w).acquireCore k).oldSlots.find? (ofCore k ctx h) = none := by
    refine List.find?_eq_none.2 fun x hx hp => ?_
    obtain ⟨path, host, -, -⟩ := (ofCore_iff ..).1 hp
    have kept := (List.mem_filter.1 hx).2
    simp [path, host] at kept
  rw [slotBits_of_find gone]
  exact writeSlot_slot z core t ctx h w hc hh

omit hc hh

/-- Until then it sees the old one. -/
theorem writeSlot_unseen {k : Nat} (other : k ∈ z.otherCores core ctx) :
    (z.writeSlot (some (core, t)) ctx h w).slotBits k ctx h = z.slotBits k ctx h := by
  have views := writeSlot_coreViews z core t ctx h w other
  obtain ⟨y, found, -, bits⟩ := find_bits (p := ofCore k ctx h) (x := z.coreView ctx h k) ((mem_writeSlot ..).2 (.inr (.inl ⟨k, other, rfl⟩)))
    ((ofCore_iff ..).2 ⟨rfl, rfl, rfl, rfl⟩) fun y hy hp => by rw [views y hy hp]; exact ⟨rfl, rfl⟩
  rw [slotBits_of_find found]
  exact bits

/-- Another slot is seen as before. -/
theorem writeSlot_other {j : Nat} (hj : j ≠ h) (hc : ∃ c ∈ z.contexts, c.id = ctx) (k : Nat) :
    (z.writeSlot (some (core, t)) ctx h w).slotBits k ctx j = z.slotBits k ctx j := by
  have same : (z.writeSlot (some (core, t)) ctx h w).oldSlots.find? (ofCore k ctx j) = z.oldSlots.find? (ofCore k ctx j) := by
    have kept (x : SlotView) : (!z.superseded core ctx h x && ofCore k ctx j x) = ofCore k ctx j x := by
      cases hp : ofCore k ctx j x with
      | false => exact Bool.and_false _
      | true =>
        obtain ⟨-, -, -, slot⟩ := (ofCore_iff ..).1 hp
        simp [State.superseded, slot, hj]
    have olds : ((z.otherCores core ctx).map (z.coreView ctx h)).find? (ofCore k ctx j) = none := by
      simp [ofCore, State.coreView, hj.symm]
    have paths : (slotPaths.map (z.pathView core t ctx h)).find? (ofCore k ctx j) = none := by
      simp [ofCore, State.pathView]
    rw [writeSlot_oldSlots, List.find?_append, List.find?_append, olds, paths, List.find?_filter]
    simp [kept]
  rw [slotBits_of_find same, slotBits_of_find rfl, writeSlot_slots z core t ctx h w hc, List.getElem?_set_ne hj.symm]

/-- The engines of a path have a view of the slot under the writer's name. -/
theorem writeSlot_engView {p : Path} (hp : p ∈ slotPaths) : ∃ v, (z.writeSlot (some (core, t)) ctx h w).engView ctx h p = some v ∧
    v.writer = t ∧ v.bits = ((z.engView ctx h p).map SlotView.bits).getD (((z.ctx ctx).slots[h]?).getD plainSlot) :=
  find_bits (p := ofPath p ctx h) (x := z.pathView core t ctx h p) ((mem_writeSlot ..).2 (.inr (.inr ⟨p, hp, rfl⟩)))
    ((ofPath_iff ..).2 ⟨rfl, rfl, rfl⟩) fun y hy fits => by rw [writeSlot_pathViews z core t ctx h w p y hy fits]; exact ⟨rfl, rfl⟩

section Engine
variable {p : Path} (hp : p ∈ slotPaths) {u : Thread} (hu : (z.team u.team).ctx = ctx)
include hp hu

/-- An engine's command of the writing thread sees the slot at once. -/
theorem engSlotBits_writer (hc : ∃ c ∈ z.contexts, c.id = ctx) (hh : h < (z.ctx ctx).slots.length) (ht : u.id = t)
    (host : z.hostOf u = core) : (z.writeSlot (some (core, t)) ctx h w).engSlotBits u p h = w := by
  obtain ⟨v, view, writer, -⟩ := writeSlot_engView z core t ctx h w hp
  unfold State.engSlotBits
  rw [show ((z.writeSlot (some (core, t)) ctx h w).team u.team).ctx = ctx from hu,
    show (z.writeSlot (some (core, t)) ctx h w).hostOf u = core from host]
  simp only [view, Option.filter, writer, ht, bne_self_eq_false, Bool.false_eq_true, if_false]
  exact writeSlot_seen z core t ctx h w hc hh

/-- One of another thread sees the old slot. -/
theorem engSlotBits_other (ht : u.id ≠ t) : (z.writeSlot (some (core, t)) ctx h w).engSlotBits u p h =
    ((z.engView ctx h p).map SlotView.bits).getD (((z.ctx ctx).slots[h]?).getD plainSlot) := by
  obtain ⟨v, view, writer, bits⟩ := writeSlot_engView z core t ctx h w hp
  unfold State.engSlotBits
  rw [show ((z.writeSlot (some (core, t)) ctx h w).team u.team).ctx = ctx from hu]
  simp only [view, Option.filter, writer, bne_iff_ne.2 ht.symm, if_true]
  exact bits

end Engine

end Write

end Sys2Proof.Machine
end

section
/-!
PROOFS. The completion of a load (R34, R142): its registers land, its fault is held, its flag counts it.
-/

namespace Sys2Proof.Machine

/-! ## LOAD_COMPLETE -/

section Complete
variable {s : State} {o : Op} (hop : s.op? o.id = some o)
include hop

theorem loadComplete_done (ha : ∀ x t p c a t', o.instr ≠ .accld x t p c a t') (hf : ∀ x h c a f, o.instr ≠ .fslot x h c a f) :
    exec (.loadComplete o.id) s = .next (s.opDone o) := by
  show execLoadComplete o.id s = _
  unfold execLoadComplete
  rw [hop]
  dsimp only
  generalize o.instr = i at ha hf ⊢
  cases i
  case accld => exact (ha _ _ _ _ _ _ rfl).elim
  case fslot => exact (hf _ _ _ _ _ rfl).elim
  all_goals rfl

theorem loadComplete_fslot {x : X} {h : Fin 64} {c : Fin 8} {a : Opd} {f : BitVec 24} (hi : o.instr = .fslot x h c a f) :
    exec (.loadComplete o.id) s =
      .next ((if o.fault.isSome then s else s.writeSlot (some (o.core, o.thread)) o.ctx h.val o.slot).opDone o) := by
  show execLoadComplete o.id s = _
  unfold execLoadComplete
  simp only [hop, hi]
  rfl

end Complete

/-! ## Landing registers -/

/-- Registers of a view receive words. -/
def Thread.putAll (u : Thread) (ws : List (Nat × Word)) : Thread := ws.foldl (fun u w => u.put w.1 w.2) u

theorem putAll_eq (ws : List (Nat × Word)) : ∀ u : Thread, (∀ w ∈ ws, w.1 < 128) → u.putAll ws = { u with regs := (u.putAll ws).regs } := by
  induction ws with
  | nil => exact fun _ _ => rfl
  | cons w ws ih =>
    intro u h
    have put : u.put w.1 w.2 = { u with regs := u.regs.setIfInBounds w.1 w.2 } := if_pos (h w (List.mem_cons_self ..))
    have rest := ih (u.put w.1 w.2) fun x hx => h x (List.mem_cons_of_mem _ hx)
    show (u.put w.1 w.2).putAll ws = { u with regs := ((u.put w.1 w.2).putAll ws).regs }
    conv_lhs => rw [rest, put]
    rw [put]

theorem putAll_other (ws : List (Nat × Word)) : ∀ u : Thread, (∀ w ∈ ws, w.1 < 128) → ∀ k, k ∉ ws.map Prod.fst →
    (u.putAll ws).get k = u.get k := by
  induction ws with
  | nil => exact fun _ _ _ _ => rfl
  | cons w ws ih =>
    intro u h k hk
    obtain ⟨hw, hk⟩ := not_or.1 (fun e => hk (List.mem_cons.2 e))
    refine (ih (u.put w.1 w.2) (fun x hx => h x (List.mem_cons_of_mem _ hx)) k hk).trans ?_
    rw [get_put (h w (List.mem_cons_self ..)), if_neg hw]

theorem putAll_get (ws : List (Nat × Word)) : ∀ u : Thread, (∀ w ∈ ws, w.1 < 128) → (ws.map Prod.fst).Nodup →
    ∀ w ∈ ws, (u.putAll ws).get w.1 = w.2 := by
  induction ws with
  | nil => exact fun _ _ _ _ h => nomatch h
  | cons x ws ih =>
    intro u h distinct w hw
    have below : ∀ y ∈ ws, y.1 < 128 := fun y hy => h y (List.mem_cons_of_mem _ hy)
    obtain ⟨new, distinct⟩ := List.nodup_cons.1 distinct
    rcases List.mem_cons.1 hw with rfl | hw
    · refine (putAll_other ws (u.put w.1 w.2) below w.1 new).trans ?_
      rw [get_put (h w (List.mem_cons_self ..)), if_pos rfl]
    · exact ih (u.put x.1 x.2) below distinct w hw

/-- A register of the view under whose window base it was named lands in that view (R34). -/
theorem land_view {s : State} {t n : Nat} {u : Thread} (hu : s.thread? t = some u) (hn : n < 128) (w : Word) :
    s.land t u.wbase n w = (s.modTh t fun v => v.put n w, none) := by
  unfold State.land
  simp only [th_of hu]
  rw [if_neg (by omega)]
  split
  · rfl
  · rw [if_pos (by omega), if_pos (by omega), show (u.wbase + (n - 16 : Nat) - u.wbase).toNat + 16 = n by omega]

theorem landAll_view (ws : List (Nat × Word)) : ∀ {s : State} {t : Nat} {u : Thread}, s.thread? t = some u → (∀ w ∈ ws, w.1 < 128) →
    s.landAll t u.wbase ws = (s.modTh t fun v => v.putAll ws, none) := by
  induction ws with
  | nil =>
    intro s t u _ _
    exact congrArg (·, none) (modTh_id s t).symm
  | cons w ws ih =>
    intro s t u hu h
    have putId (v : Thread) : (v.put w.1 w.2).id = v.id := (put_hold v _ _).2.1
    have landed : (s.modTh t fun v => v.put w.1 w.2).thread? t = some (u.put w.1 w.2) := thread_modTh hu fun v hv => (putId v).trans hv
    have base : (u.put w.1 w.2).wbase = u.wbase := by rw [Thread.put]; split <;> rfl
    have rest := ih landed fun x hx => h x (List.mem_cons_of_mem _ hx)
    rw [base, modTh_modTh _ putId] at rest
    rw [State.landAll, land_view hu (h w (List.mem_cons_self ..))]
    exact rest

/-! ## The completion of a flagged operation -/

/-- Two records of one thread that stand alike for the entry of handlers. -/
def Thread.Alike (u v : Thread) : Prop := v.id = u.id ∧ v.group = u.group ∧ v.status = u.status ∧ v.rank = u.rank ∧ v.pend = u.pend

theorem pendOf_modTh (s : State) (t g : Nat) {f : Thread → Thread} (hf : ∀ u : Thread, u.Alike (f u)) : (s.modTh t f).pendOf g = s.pendOf g := by
  have alike (u : Thread) : u.Alike (if u.id == t then f u else u) := by
    split
    · exact hf u
    · exact ⟨rfl, rfl, rfl, rfl, rfl⟩
  have id (u : Thread) := (alike u).1
  have group (u : Thread) := (alike u).2.1
  have status (u : Thread) := (alike u).2.2.1
  have rank (u : Thread) := (alike u).2.2.2.1
  have pend (u : Thread) := (alike u).2.2.2.2
  simp only [State.pendOf, State.liveOf, State.modTh, updBy, List.filter_map, List.filterMap_map, Function.comp_def, id, group, status,
    rank, pend]

/-- The registers of an operation in its thread's view, and in what a rollback gives back. -/
def Thread.landed (o : Op) (u : Thread) : Thread := (u.putAll o.writes).specKeep o fun v => v

/-- The flag counts the operation complete; a wait for all flags ends with the last. -/
def Thread.counted (f : Fin 12) (u : Thread) : Thread :=
  if (u.flagDown f).hold == Hold.flags && (u.flagDown f).flagBits == 0 then { u.flagDown f with hold := .none } else u.flagDown f

theorem counted_alike (f : Fin 12) (u : Thread) : u.Alike (u.counted f) := by
  unfold Thread.counted
  split <;> exact ⟨rfl, rfl, rfl, rfl, rfl⟩

theorem counted_eq {u : Thread} (h : u.hold ≠ Hold.flags) (f : Fin 12) : u.counted f = u.flagDown f := by
  unfold Thread.counted
  have waits : (u.flagDown f).hold ≠ Hold.flags := h
  rw [beq_false_of_ne waits]
  rfl

theorem putAll_alike (ws : List (Nat × Word)) : ∀ u : Thread, u.Alike (u.putAll ws) := by
  induction ws with
  | nil => exact fun _ => ⟨rfl, rfl, rfl, rfl, rfl⟩
  | cons w ws ih =>
    intro u
    obtain ⟨id, group, status, rank, pend⟩ := ih (u.put w.1 w.2)
    have put : u.Alike (u.put w.1 w.2) := by unfold Thread.put; split <;> exact ⟨rfl, rfl, rfl, rfl, rfl⟩
    obtain ⟨id', group', status', rank', pend'⟩ := put
    exact ⟨id.trans id', group.trans group', status.trans status', rank.trans rank', pend.trans pend'⟩

/-- The record that holds the fault of a flagged operation (R326, R386). -/
def State.faultRec (s : State) (o : Op) (c : Cause) (a : DWord) : FaultRec :=
  { ord := o.id, word := o.word, cause := c, addr := a, instr := o.instr, pc := o.pc, src := o.src, flag := o.flag, wbase := o.wbase
    dreg := (o.instr.destRun (s.slot o.core o.ctx)).1, dcnt := (o.instr.destRun (s.slot o.core o.ctx)).2, replay := true, priv := o.priv }

theorem opFault_flagged {s : State} {o : Op} {u : Thread} {c : Cause} {a : DWord} (hu : s.thread? o.thread = some u)
    (live : u.status = .live) (held : o.held = false) (hc : c ≠ .sealedWrite) :
    s.opFault o c a = s.holdFault o.thread (s.faultRec o c a) := by
  unfold State.opFault
  simp only [th_of hu, live, held, bne_self_eq_false, Bool.false_eq_true, if_false, beq_false_of_ne hc]
  rfl

theorem enterFor_calm {s : State} {t : Nat} {u : Thread} (hu : s.thread? t = some u) (h : s.pendOf u.group = []) : s.enterFor t = s := by
  unfold State.enterFor
  simp only [th_of hu, h]
  rfl

theorem landed_alike (o : Op) (u : Thread) : u.Alike (u.landed o) := putAll_alike o.writes u

/-- A thread that does not speculate receives registers alone. -/
theorem landed_eq {o : Op} {u : Thread} (h : ∀ w ∈ o.writes, w.1 < 128) (hs : u.spec = none) :
    u.landed o = { u with regs := (u.putAll o.writes).regs } := by
  unfold Thread.landed Thread.specKeep
  rw [putAll_eq o.writes u h]
  simp only [hs, Option.map_none]

/-- Holds a fault in a live thread's record. -/
def Thread.holds (r : FaultRec) (u : Thread) : Thread := if u.status == .live then { u with faults := insertFault r u.faults } else u

theorem holds_alike (r : FaultRec) (u : Thread) : u.Alike (u.holds r) := by
  unfold Thread.holds
  split <;> exact ⟨rfl, rfl, rfl, rfl, rfl⟩

/-- A flag counts an operation of a group in which no trap waits. -/
theorem flagDone_enterFor {s : State} {t : Nat} {u : Thread} (hu : s.thread? t = some u) (h : s.pendOf u.group = []) (f : Fin 12) :
    (s.flagDone t (some f)).enterFor t = s.modTh t (Thread.counted f) := by
  have counted : (s.modTh t (Thread.counted f)).thread? t = some (u.counted f) :=
    thread_modTh hu fun v hv => (counted_alike f v).1.trans hv
  refine enterFor_calm counted (Eq.trans ?_ h)
  show (s.modTh t (Thread.counted f)).pendOf _ = _
  rw [(counted_alike f u).2.1, pendOf_modTh s t _ (counted_alike f)]

section OpDone
variable {z : State} {o : Op} {u : Thread} {f : Fin 12} (hu : z.thread? o.thread = some u) (live : u.status = .live)
  (hf : o.flag = some f) (held : o.held = false) (base : o.wbase = u.wbase) (small : ∀ w ∈ o.writes, w.1 < 128)
  (calm : z.pendOf u.group = [])
include hu live hf held base small calm

/-- A flagged operation leaves, its registers land, its fault is held, and its flag counts it. -/
theorem opDone_eq (hs : ∀ a, o.fault ≠ some (.sealedWrite, a)) : ∃ g : Thread → Thread,
    z.opDone o = ((({ z with ops := z.ops.filter fun x => x.id != o.id } : State).modTh o.thread (Thread.landed o)).modTh o.thread g).modTh
      o.thread (Thread.counted f) ∧ (∀ v : Thread, v.Alike (g v)) ∧ (o.fault = none → g = fun v => v) ∧
    ∀ c a, o.fault = some (c, a) → ∃ s : State, g = Thread.holds (s.faultRec o c a) := by
  generalize hz : ({ z with ops := z.ops.filter fun x => x.id != o.id } : State) = s
  have hsu : s.thread? o.thread = some u := by rw [← hz]; exact hu
  have hcalm : s.pendOf u.group = [] := by rw [← hz]; exact calm
  have landed := landAll_view o.writes hsu small
  have landedTh : (s.modTh o.thread (Thread.landed o)).thread? o.thread = some (u.landed o) :=
    thread_modTh hsu fun v hv => (landed_alike o v).1.trans hv
  have both : ((s.modTh o.thread fun v => v.putAll o.writes).modTh o.thread fun v => v.specKeep o fun v => v) =
      s.modTh o.thread (Thread.landed o) := modTh_modTh s fun v => (putAll_alike o.writes v).1
  have landedCalm : (s.modTh o.thread (Thread.landed o)).pendOf (u.landed o).group = [] := by
    rw [(landed_alike o u).2.1, pendOf_modTh s _ _ (landed_alike o), hcalm]
  cases fault : o.fault with
  | none =>
    refine ⟨fun v => v, ?_, fun _ => ⟨rfl, rfl, rfl, rfl, rfl⟩, fun _ => rfl, (fun _ _ h => nomatch h)⟩
    rw [modTh_id, ← flagDone_enterFor landedTh landedCalm, ← both]
    unfold State.opDone State.opDoneWith
    simp only [hz, th_of hsu, live, base, landed, fault, held, hf]
    rfl
  | some e =>
    obtain ⟨c, a⟩ := e
    have hc : c ≠ .sealedWrite := fun e => hs a (e ▸ fault)
    have record := opFault_flagged (c := c) (a := a) landedTh ((landed_alike o u).2.2.1.trans live) held hc
    generalize hr : (s.modTh o.thread (Thread.landed o)).faultRec o c a = r at record
    have heldTh : ((s.modTh o.thread (Thread.landed o)).modTh o.thread (Thread.holds r)).thread? o.thread = some ((u.landed o).holds r) :=
      thread_modTh landedTh fun v hv => (holds_alike r v).1.trans hv
    have heldCalm : ((s.modTh o.thread (Thread.landed o)).modTh o.thread (Thread.holds r)).pendOf ((u.landed o).holds r).group = [] := by
      rw [(holds_alike r _).2.1, pendOf_modTh _ _ _ (holds_alike r), landedCalm]
    refine ⟨Thread.holds r, ?_, holds_alike r, (fun h => nomatch h), fun c' a' h => ?_⟩
    · rw [← flagDone_enterFor heldTh heldCalm]
      show _ = (State.flagDone (State.holdFault _ o.thread r) o.thread (some f)).enterFor o.thread
      rw [← record, ← both]
      unfold State.opDone State.opDoneWith
      simp only [hz, th_of hsu, live, base, landed, fault, hf]
      rfl
    · obtain ⟨rfl, rfl⟩ := Prod.mk.inj (Option.some.inj h)
      exact ⟨_, congrArg Thread.holds hr.symm⟩

end OpDone

end Sys2Proof.Machine
end

section
/-!
PROOFS. LD, LDF and FSLOT: the operation in flight, the format slots as cores and engines see them, and the completion.
-/

namespace Sys2Proof.Machine

/-! ## Counts of completion flags (R34) -/

theorem flagCount_setFlag (u : Thread) (f g : Fin 12) (v : Nat) :
    ({ u with flags := u.flags.setIfInBounds f.val v } : Thread).flagCount g = if f = g then v else u.flagCount g := by
  simp only [Thread.flagCount, Vector.getD, Vector.toArray_setIfInBounds, Array.getD_eq_getD_getElem?, Array.getElem?_setIfInBounds,
    Fin.ext_iff]
  by_cases h : f.val = g.val <;> simp [h]

theorem flagCount_flagUp (u : Thread) (f g : Fin 12) : (u.flagUp f).flagCount g = u.flagCount g + if some f = some g then 1 else 0 := by
  rw [Thread.flagUp, flagCount_setFlag]
  by_cases h : f = g <;> simp [h]

theorem flagCount_flagDown (u : Thread) (f g : Fin 12) : (u.flagDown f).flagCount g = if f = g then u.flagCount f - 1 else u.flagCount g := by
  rw [Thread.flagDown, flagCount_setFlag]

/-! ## The operation in flight -/

/-- The state in which a thread has put a flagged operation in flight. -/
def State.flown (r : State) (th : Thread) (i : Instr) (fl : Fin 12) (ws : List (Nat × Word)) (fault : Option (Cause × DWord))
    (data : List Nat) (w : BitVec 512) (e : Nat → Instr) : State :=
  (r.newOp th i (some fl) false ws fault data w).1.later (e (r.newOp th i (some fl) false ws fault data w).2)

/-- An instruction that puts a flagged operation in flight, in a state with its thread's record. -/
theorem flies_of_flown {s r : State} {th : Thread} {i : Instr} {x : X} {f : State → Thread → State × Next} {fl : Fin 12}
    {ws : List (Nat × Word)} {fault : Option (Cause × DWord)} {data : List Nat} {w : BitVec 512} {e : Nat → Instr}
    (h : s.Runs th i) (hx : i.x = some x) (he : exec i s = .next (s.issue i x f)) (hr : r.threads = s.threads)
    (hf : f s th = (r.flown th i fl ws fault data w e, .next)) :
    ∃ (o : Op) (q : State), s.Flies i th fl o e q ∧ o.writes = ws ∧ o.fault = fault ∧ o.slot = w ∧ q.mem = r.mem ∧ q.l1 = r.l1 := by
  have hth : r.thread? th.id = some th := (thread_threads hr th.id).trans (cur_thread h.cur)
  have raised : (r.modTh th.id fun u => u.flagUp fl).thread? th.id = some (th.flagUp fl) := thread_modTh hth
  refine ⟨_, _, ⟨ends_issue h hx he hf, ⟨_, raised, rfl, flagCount_flagUp th fl⟩, List.mem_append_right _ (List.mem_singleton.2 rfl),
    rfl, rfl, rfl, rfl, rfl, List.mem_append_right _ (List.mem_singleton.2 rfl)⟩, rfl, rfl, rfl, rfl, rfl⟩

/-! ## How a load ends (R34, R142) -/

section LoadEnd
variable (s r : State) (th : Thread) (i : Instr) {x : X} (d : Opd) {f : Fin 12}

theorem loadEnd_stall (w : Stall) : s.loadEnd th i x d (r, .error (.stall w)) = (s, w.next) := by
  unfold State.loadEnd
  cases th.flagOf x.sb <;> rfl

theorem loadEnd_fault (hf : th.flagOf x.sb = none) (c : Cause) (a : Nat) :
    s.loadEnd th i x d (r, .error (.fault c a)) = (r, .trap c (dword a)) := by
  unfold State.loadEnd
  rw [hf]; rfl

theorem loadEnd_ok (hf : th.flagOf x.sb = none) (ws : List Word) : s.loadEnd th i x d (r, .ok ws) = (r.wrRun th.id d ws, .next) := by
  unfold State.loadEnd
  rw [hf]

theorem loadEnd_flown (hf : th.flagOf x.sb = some f) (ws : List Word) :
    s.loadEnd th i x d (r, .ok ws) = (r.flown th i f (runWrites d ws) none [] 0 .loadComplete, .next) := by
  unfold State.loadEnd
  rw [hf]; rfl

theorem loadEnd_flownFault (hf : th.flagOf x.sb = some f) (c : Cause) (a : Nat) :
    s.loadEnd th i x d (r, .error (.fault c a)) = (r.flown th i f [] (some (c, dword a)) [] 0 .loadComplete, .next) := by
  unfold State.loadEnd
  rw [hf]; rfl

end LoadEnd

/-- An instruction that loads its destination's registers by `load`. -/
def Loading (i : Instr) (x : X) (d : Opd) (load : State → Thread → State × Except Stop (List Word)) : Prop :=
  i.x = some x ∧ ∀ s, exec i s = .next (s.issue i x fun s th =>
    if s.flagFull th (th.flagOf x.sb) then (s, .stall (.flag (th.flagOf x.sb))) else s.loadEnd th i x d (load s th))

section Loading
variable {s r : State} {th : Thread} {i : Instr} {x : X} {d : Opd} {load : State → Thread → State × Except Stop (List Word)}
  (hi : Loading i x d load) (h : s.Runs th i)
include hi h

theorem load_full (full : s.flagFull th (th.flagOf x.sb) = true) : s.Ends i th s (.stall (.flag (th.flagOf x.sb))) :=
  ends_issue h hi.1 (hi.2 s) (if_pos full)

variable (full : s.flagFull th (th.flagOf x.sb) = false)
include full

theorem load_stall {w : Stall} (hl : load s th = (r, .error (.stall w))) : s.Ends i th s w.next :=
  ends_issue h hi.1 (hi.2 s) (by simp only [full, hl, loadEnd_stall]; rfl)

theorem load_fault {c : Cause} {a : Nat} (hl : load s th = (r, .error (.fault c a))) (hf : th.flagOf x.sb = none) :
    s.Ends i th r (.trap c (dword a)) :=
  ends_issue h hi.1 (hi.2 s) (by simp only [full, hl, loadEnd_fault _ _ _ _ _ hf]; rfl)

theorem load_ok {ws : List Word} (hl : load s th = (r, .ok ws)) (hf : th.flagOf x.sb = none) : s.Ends i th (r.wrRun th.id d ws) .next :=
  ends_issue h hi.1 (hi.2 s) (by simp only [full, hl, loadEnd_ok _ _ _ _ _ hf]; rfl)

variable {f : Fin 12} (hf : th.flagOf x.sb = some f) (hr : r.threads = s.threads)
include hf hr

theorem load_flies {ws : List Word} (hl : load s th = (r, .ok ws)) : ∃ (o : Op) (q : State), s.Flies i th f o .loadComplete q ∧
    o.writes = runWrites d ws ∧ o.fault = none ∧ o.slot = 0 ∧ q.mem = r.mem ∧ q.l1 = r.l1 :=
  flies_of_flown h hi.1 (hi.2 s) hr (by simp only [full, hl, loadEnd_flown _ _ _ _ _ hf]; rfl)

theorem load_fliesFault {c : Cause} {a : Nat} (hl : load s th = (r, .error (.fault c a))) :
    ∃ (o : Op) (q : State), s.Flies i th f o .loadComplete q ∧
      o.writes = [] ∧ o.fault = some (c, dword a) ∧ o.slot = 0 ∧ q.mem = r.mem ∧ q.l1 = r.l1 :=
  flies_of_flown h hi.1 (hi.2 s) hr (by simp only [full, hl, loadEnd_flownFault _ _ _ _ _ hf]; rfl)

end Loading

/-- The registers that LD loads. -/
def State.ldRegs (ty : Ty) (n : Fin 16) (sp : Space) (a : Opd) (off : BitVec 24) (s : State) (th : Thread) :
    State × Except Stop (List Word) :=
  if sp = .g then s.loadElems th th.privileged ty (n.val + 1) (s.addrG th a off)
  else ((s.loadW th sp (s.offT th a off) ((n.val + 1) * (ty.bits / 8))).1,
    ((s.loadW th sp (s.offT th a off) ((n.val + 1) * (ty.bits / 8))).2.map fun bs => loadedRegs ty bs (n.val + 1)))

theorem loading_ld (x : X) (ty : Ty) (n : Fin 16) (sp : Space) (colour : Fin 8) (d a : Opd) (off : BitVec 24) :
    Loading (.ld x ty n sp colour d a off) x d (State.ldRegs ty n sp a off) := by
  refine ⟨rfl, fun s => ?_⟩
  show execLd x ty n sp colour d a off s = _
  unfold execLd
  refine congrArg Host.Outcome.next (congrArg (s.issue _ x) (funext fun s => funext fun th => ?_))
  refine congrArg (ite _ _) (congrArg (s.loadEnd th _ x d) ?_)
  unfold State.ldRegs
  cases sp with
  | g => rfl
  | _ =>
    rw [if_neg (by decide)]
    dsimp only
    generalize s.loadW th _ _ _ = m
    rcases m with ⟨q, _ | b⟩ <;> rfl

theorem ldRegs_threads (ty : Ty) (n : Fin 16) (sp : Space) (a : Opd) (off : BitVec 24) (s : State) (th : Thread) :
    (s.ldRegs ty n sp a off th).1.threads = s.threads := by
  unfold State.ldRegs
  split
  · exact loadElems_threads ..
  · exact loadW_threads ..

theorem loading_ldf (x : X) (ty : Ty) (perm scl : Bool) (colour : Fin 8) (d a b : Opd) (off : BitVec 24) :
    Loading (.ldf x ty perm scl colour d a b off) x d
      fun s th => s.ldfOp th ty perm scl (s.addrG th a off) (s.rd32 th b).toNat := ⟨rfl, fun _ => rfl⟩

/-! ## FSLOT (R206 to R210) -/

section Fslot
variable {s r : State} {th : Thread} {x : X} {slot : Fin 64} {colour : Fin 8} {a : Opd} {off : BitVec 24} {bs : List Byte}
  (h : s.Runs th (.fslot x slot colour a off))
include h

theorem fslot_full (full : s.flagFull th (th.flagOf x.sb) = true) :
    s.Ends (.fslot x slot colour a off) th s (.stall (.flag (th.flagOf x.sb))) :=
  ends_issue h rfl rfl (if_pos full)

theorem fslot_fault {c : Cause} {ad : Nat} (hf : th.flagOf x.sb = none)
    (hl : s.loadG th th.privileged (s.addrG th a off) 64 = (r, .error (.fault c ad))) :
    s.Ends (.fslot x slot colour a off) th r (.trap c (dword ad)) :=
  ends_issue h rfl rfl (by simp only [hl, hf]; rfl)

variable (hl : s.loadG th th.privileged (s.addrG th a off) 64 = (r, .ok bs))
include hl

theorem fslot_invalid (hf : th.flagOf x.sb = none) (bad : slotInvalid (BitVec.ofNat 512 (leNat bs)) = true) :
    s.Ends (.fslot x slot colour a off) th r (.trap .reservedField (dword (s.addrG th a off))) :=
  ends_issue h rfl rfl (by simp only [hl, hf, bad]; rfl)

theorem fslot_writes (hf : th.flagOf x.sb = none) (good : slotInvalid (BitVec.ofNat 512 (leNat bs)) = false) :
    s.Ends (.fslot x slot colour a off) th
      (r.writeSlot (some (r.hostOf th, th.id)) (r.team th.team).ctx slot.val (BitVec.ofNat 512 (leNat bs))) .next :=
  ends_issue h rfl rfl (by simp only [hl, hf, good]; rfl)

/-- A flagged FSLOT is in flight with its descriptor, or with the fault of one that is not valid. -/
theorem fslot_flies {f : Fin 12} (hf : th.flagOf x.sb = some f) (full : s.flagFull th (th.flagOf x.sb) = false) :
    ∃ (o : Op) (q : State), s.Flies (.fslot x slot colour a off) th f o .loadComplete q ∧
    if slotInvalid (BitVec.ofNat 512 (leNat bs)) then o.fault = some (.reservedField, dword (s.addrG th a off))
    else o.slot = BitVec.ofNat 512 (leNat bs) ∧ o.fault = none := by
  rw [hf] at full
  have hr : r.threads = s.threads := by rw [← loadG_threads s th th.privileged (s.addrG th a off) 64, hl]
  cases bad : slotInvalid (BitVec.ofNat 512 (leNat bs)) with
  | true =>
    obtain ⟨o, q, flies, -, fault, -⟩ := flies_of_flown (r := r) (fl := f) (ws := [])
      (fault := some (.reservedField, dword (s.addrG th a off))) (data := []) (w := 0) (e := .loadComplete) h rfl rfl hr
      (by simp only [full, hl, hf, bad]; rfl)
    exact ⟨o, q, flies, fault⟩
  | false =>
    obtain ⟨o, q, flies, -, fault, word, -⟩ := flies_of_flown (r := r) (fl := f) (ws := []) (fault := none) (data := [])
      (w := BitVec.ofNat 512 (leNat bs)) (e := .loadComplete) h rfl rfl hr (by simp only [full, hl, hf, bad]; rfl)
    exact ⟨o, q, flies, word, fault⟩

end Fslot

/-! ## What a completion leaves -/

/-- The faults that a thread holds once an operation has completed. -/
def FaultsAfter (u : Thread) (o : Op) (f : Fin 12) (fs : List FaultRec) : Prop :=
  (o.fault = none → fs = u.faults) ∧
  ∀ c a, o.fault = some (c, a) → ∃ r : FaultRec, fs = insertFault r u.faults ∧ r.cause = c ∧ r.addr = a ∧
    r.instr = o.instr ∧ r.pc = o.pc ∧ r.src = o.src ∧ r.flag = some f ∧ r.ord = o.id

section Lands
variable {z : State} {o : Op} {u : Thread} {f : Fin 12} (hu : z.thread? o.thread = some u) (live : u.status = .live)
  (hold : u.hold ≠ .flags) (hs : u.spec = none) (calm : z.pendOf u.group = []) (hf : o.flag = some f) (held : o.held = false)
  (base : o.wbase = u.wbase) (small : ∀ w ∈ o.writes, w.1 < 128) (hseal : ∀ a, o.fault ≠ some (.sealedWrite, a))
include hu live hold hs calm hf held base small hseal

/-- The completion changes its thread's registers, faults and flags alone. -/
theorem opDone_thread : ∃ fs, FaultsAfter u o f fs ∧ (z.opDone o).thread? o.thread =
      some (({ u with regs := (u.putAll o.writes).regs, faults := fs } : Thread).flagDown f) ∧
    (∀ k, k ≠ o.thread → (z.opDone o).thread? k = z.thread? k) ∧ ∀ p ∈ (z.opDone o).ops, p.id ≠ o.id := by
  obtain ⟨g, done, alike, clean, recorded⟩ := opDone_eq hu live hf held base small calm hseal
  have landed := landed_eq small hs
  have idL (v : Thread) : (v.landed o).id = v.id := (landed_alike o v).1
  have idC (v : Thread) : (v.counted f).id = v.id := (counted_alike f v).1
  have others (k : Nat) (hk : k ≠ o.thread) : (z.opDone o).thread? k = z.thread? k := by
    rw [done, thread_modTh_other hk fun v hv => (idC v).trans hv, thread_modTh_other hk fun v hv => (alike v).1.trans hv,
      thread_modTh_other hk fun v hv => (idL v).trans hv]
    rfl
  have ops : ∀ p ∈ (z.opDone o).ops, p.id ≠ o.id := by
    rw [done]
    exact fun p hp => by simpa using (List.mem_filter.1 hp).2
  have self : (z.opDone o).thread? o.thread = some ((g (u.landed o)).counted f) := by
    rw [done]
    exact thread_modTh (thread_modTh (thread_modTh hu fun v hv => (idL v).trans hv) fun v hv => (alike v).1.trans hv)
      fun v hv => (idC v).trans hv
  have faults : ∃ fs, FaultsAfter u o f fs ∧ g (u.landed o) = { u with regs := (u.putAll o.writes).regs, faults := fs } := by
    cases fault : o.fault with
    | none => exact ⟨u.faults, ⟨fun _ => rfl, fun c a h => nomatch fault.symm.trans h⟩, by rw [clean fault, landed]⟩
    | some e =>
      obtain ⟨c, a⟩ := e
      obtain ⟨s, holds⟩ := recorded c a fault
      refine ⟨insertFault (s.faultRec o c a) u.faults, ⟨(fun h => nomatch fault.symm.trans h), fun c' a' h => ?_⟩, ?_⟩
      · obtain ⟨rfl, rfl⟩ := Prod.mk.inj (Option.some.inj (fault.symm.trans h))
        exact ⟨_, rfl, rfl, rfl, rfl, rfl, rfl, hf, rfl⟩
      · rw [holds, landed]
        exact if_pos (by simp only [live]; rfl)
  obtain ⟨fs, after, record⟩ := faults
  refine ⟨fs, after, ?_, others, ops⟩
  rw [self, record, counted_eq (u := { u with regs := (u.putAll o.writes).regs, faults := fs }) hold]

end Lands

/-- A register of the view, in a record with the same registers. -/
theorem get_of_regs {u v : Thread} (h : v.regs = u.regs) {k : Nat} (hk : k < 128) : v.get k = u.get k := by
  rw [Thread.get, Thread.get, if_pos hk, if_pos hk, h]

/-- Settles O34: how LD, LDF and FSLOT end, flagged and unflagged, who sees a written slot, and what a completion leaves. -/
theorem loads : Obligations.Loads := by
  intro s th x ty n sp colour d a b off perm scl slot ld ldf fs flag
  refine ⟨?full, ?loads, ?fslot, fun r c ad hr _ hf hl => fslot_fault hr hf hl, ?slots, fun o hop => ⟨loadComplete_done hop, ?_⟩, ?lands⟩
  case full =>
    intro i hi hr full
    simp only [List.mem_cons, List.not_mem_nil, or_false] at hi
    rcases hi with rfl | rfl | rfl
    · exact load_full (loading_ld ..) hr full
    · exact load_full (loading_ldf ..) hr full
    · exact fslot_full hr full
  case loads =>
    intro i r e hi hr full
    obtain ⟨load, loading, hl, threads⟩ : ∃ load, Loading i x d load ∧ load s th = (r, e) ∧ (load s th).1.threads = s.threads := by
      rcases hi with ⟨rfl, hl⟩ | ⟨rfl, hl⟩
      · exact ⟨_, loading_ld .., hl.symm, ldRegs_threads ..⟩
      · exact ⟨_, loading_ldf .., hl.symm, ldfOp_threads ..⟩
    rw [hl] at threads
    refine ⟨?_, ?_, ?_, ?_, ?_⟩
    · rintro w rfl
      exact load_stall loading hr full hl
    · rintro c ad rfl hf
      exact load_fault loading hr full hl hf
    · rintro ws rfl hf
      exact load_ok loading hr full hl hf
    · rintro f ws hf rfl
      obtain ⟨o, q, flies, writes, fault, -, mem, l1⟩ := load_flies loading hr full hf threads hl
      exact ⟨o, q, flies, writes, fault, mem, l1⟩
    · rintro f c ad hf rfl
      obtain ⟨o, q, flies, writes, fault, -, mem, l1⟩ := load_fliesFault loading hr full hf threads hl
      exact ⟨o, q, flies, writes, fault, mem, l1⟩
  case fslot =>
    intro r bs hr full hl w
    exact ⟨fun bad hf => fslot_invalid hr hl hf bad, fun good hf => fslot_writes hr hl hf good, fun f hf => fslot_flies hr hl hf full⟩
  case slots =>
    intro z core t ctx h k j w hh hc len y
    have within : h < (z.ctx ctx).slots.length := len ▸ hh
    refine ⟨writeSlot_seen z core t ctx h w hc within, fun hk hosts => ?_, fun hj => writeSlot_other z core t ctx h w hj hc k,
      fun p hp u hu => ⟨engSlotBits_writer z core t ctx h w hp hu hc within, fun ht => ?_⟩⟩
    · exact ⟨writeSlot_unseen z core t ctx h w ((mem_otherCores ..).2 ⟨hosts, hk⟩), writeSlot_acquired z core t ctx h w hc within k⟩
    · rw [engSlotBits_other z core t ctx h w hp hu ht, ← List.getD_eq_getElem?_getD]
      cases z.engView ctx h p <;> rfl
  case lands =>
    intro z o u f hu live hold hs calm hf held hc base small distinct hseal
    obtain ⟨fs, ⟨clean, recorded⟩, self, others, ops⟩ := opDone_thread hu live hold hs calm hf held base small hseal
    refine ⟨_, self, rfl, fun w hw => ?_, fun k hk hkn => ?_, ?_, fun g hg => ?_, clean, recorded, others, ops⟩
    · refine Eq.trans (get_of_regs (u := u.putAll o.writes) ?_ (small w hw)) (putAll_get o.writes u small distinct w hw)
      rfl
    · refine Eq.trans (get_of_regs (u := u.putAll o.writes) ?_ hk) (putAll_other o.writes u small k hkn)
      rfl
    · rw [flagCount_flagDown, if_pos rfl]
      exact Nat.sub_add_cancel hc
    · rw [flagCount_flagDown, if_neg hg.symm]
      rfl
  · rintro x h c a f hi
    exact loadComplete_fslot hop hi

end Sys2Proof.Machine
end

section
/-!
PROOFS. An intake item that stands ready (R439), and what the destruction of a context leaves (R246, R248).
-/

namespace Sys2Proof.Machine

/-! ## An item that stands ready (R439) -/

/-- An update of a log entry changes nothing but the intake queues. -/
theorem modItem_eq (s : State) (sess q seq : Nat) (f : ItemRec → ItemRec) : ∃ k, s.modItem sess q seq f = { s with intake := k } := by
  unfold State.modItem
  split
  · exact ⟨_, rfl⟩
  · exact ⟨s.intake, rfl⟩

/-- The start of an item changes nothing but the agenda and the intake queues. -/
theorem started_eq (s : State) (h : Hdr) (i : Instr) : ∃ a k, s.started h i = { s with agenda := a, intake := k } := by
  obtain ⟨k, hk⟩ := modItem_eq { s with agenda := s.agenda.erase i } h.session h.queue h.seq fun x => { x with state := .started }
  exact ⟨_, k, hk⟩

@[simp] theorem started_contexts (s : State) (h : Hdr) (i : Instr) : (s.started h i).contexts = s.contexts := by
  obtain ⟨a, k, hq⟩ := started_eq s h i
  rw [hq]

@[simp] theorem started_launches (s : State) (h : Hdr) (i : Instr) : (s.started h i).launches = s.launches := by
  obtain ⟨a, k, hq⟩ := started_eq s h i
  rw [hq]

section Ready
variable {s : State} {h : Hdr} {i : Instr} (ready : s.Ready h i)
include ready

/-- An item that stands ready is performed, once its log entry says that it has started. -/
theorem item_of_ready (f : State → State) : s.item h i f = f (s.started h i) := by
  obtain ⟨r, logged, state, instr⟩ := ready
  have stands : (r.state == .ready && r.instr == i) = true := by simp [state, instr]
  simp only [State.item, State.perform, logged, stands, if_true]
  rfl

theorem ctxItem_of_ready {c : Context} (hc : s.ctx? h.ctx = some c) (f : State → Context → State) :
    s.ctxItem h i f = f (s.started h i) c := by
  have present : (s.started h i).ctx? h.ctx = some c := by rw [State.ctx?, started_contexts]; exact hc
  refine (item_of_ready ready _).trans ?_
  simp only [present]

theorem exec_of_ready {f : State → State} (he : exec i s = .next (s.item h i f)) : exec i s = .next (f (s.started h i)) := by
  rw [he, item_of_ready ready]

theorem exec_of_readyCtx {f : State → Context → State} (he : exec i s = .next (s.ctxItem h i f)) {c : Context}
    (hc : s.ctx? h.ctx = some c) : exec i s = .next (f (s.started h i) c) := by
  rw [he, ctxItem_of_ready ready hc]

end Ready

/-! ## What a context holds, and what leaves it as it is -/

/-- The records of the contexts, teams, sealed regions and bound streams of a module. -/
structure Holdings where
  contexts : List Context
  teams : List Team
  seals : List SealRec
  streams : List Stream

def State.holdings (s : State) : Holdings := ⟨s.contexts, s.teams, s.seals, s.streams⟩

/-- A fold whose every step keeps a view of the state keeps it. -/
theorem foldl_keeps {α β : Type} {view : State → β} {g : State → α → State} (step : ∀ s a, view (g s a) = view s)
    (l : List α) (s : State) : view (l.foldl g s) = view s := by
  induction l generalizing s with
  | nil => rfl
  | cons a l ih => exact (ih (g s a)).trans (step s a)

@[simp] theorem later_holdings (s : State) (i : Instr) : (s.later i).holdings = s.holdings := rfl

@[simp] theorem once_holdings (s : State) (i : Instr) : (s.once i).holdings = s.holdings := by
  unfold State.once
  split
  · rfl
  · rfl

@[simp] theorem modItem_holdings (s : State) (sess q seq : Nat) (f : ItemRec → ItemRec) : (s.modItem sess q seq f).holdings = s.holdings := by
  obtain ⟨k, hk⟩ := modItem_eq s sess q seq f
  rw [hk]; rfl

@[simp] theorem toHost_holdings (s : State) (sess q type seq : Nat) (body : List Byte) : (s.toHost sess q type seq body).holdings = s.holdings := by
  obtain ⟨o, ho⟩ := toHost_outbox s sess q type seq body
  rw [ho]; rfl

@[simp] theorem sendReports_holdings (s : State) (sess q : Nat) : (s.sendReports sess q).holdings = s.holdings := by
  refine foldl_keeps (fun s r => ?_) _ s
  exact (modItem_holdings ..).trans (toHost_holdings ..)

@[simp] theorem pump_holdings (s : State) (sess q : Nat) : (s.pump sess q).holdings = s.holdings := by
  unfold State.pump
  split
  · exact modItem_holdings ..
  · rfl

@[simp] theorem itemEnd_holdings (s : State) (sess q seq cause : Nat) (result : List Byte) :
    (s.itemEnd sess q seq cause result).holdings = s.holdings := by
  unfold State.itemEnd
  extract_lets running
  split
  · rfl
  · rw [pump_holdings, sendReports_holdings, modItem_holdings]

@[simp] theorem itemDone_holdings (s : State) (h : Hdr) (cause : Nat) (result : List Byte) : (s.itemDone h cause result).holdings = s.holdings :=
  itemEnd_holdings ..

@[simp] theorem homeWrite_holdings (s : State) (pa : Nat) (bs : List Byte) : (s.homeWrite pa bs).holdings = s.holdings := by
  unfold State.homeWrite
  split
  · rfl
  · rfl

@[simp] theorem admitAll_holdings (s : State) : s.admitAll.holdings = s.holdings :=
  foldl_keeps (fun s d => once_holdings s (.clusterAdmit d)) _ s

/-! ## The teams of a context that ends -/

@[simp] theorem areaFreed_holdings (s : State) (ctx : Nat) : (s.areaFreed ctx).holdings = s.holdings := by
  refine foldl_keeps (fun s c => ?_) _ s
  exact once_holdings ..

@[simp] theorem movesAgain_holdings (s : State) (core : Nat) : (s.movesAgain core).holdings = s.holdings :=
  foldl_keeps (fun _ _ => once_holdings ..) _ s

@[simp] theorem freed_holdings (s : State) (core : Nat) : (s.freed core).holdings = s.holdings := by
  rw [State.freed, once_holdings, movesAgain_holdings]
  exact foldl_keeps (fun _ _ => once_holdings ..) _ s

@[simp] theorem startWhere_holdings (s : State) (p : MatOp → Bool) : (s.startWhere p).holdings = s.holdings := by
  refine foldl_keeps (fun s c => ?_) _ s
  split
  · exact once_holdings ..
  · rfl

@[simp] theorem tilesFreed_holdings (s : State) (core : Nat) : (s.tilesFreed core).holdings = s.holdings := by
  rw [State.tilesFreed, startWhere_holdings, movesAgain_holdings, foldl_keeps (view := State.holdings), foldl_keeps (view := State.holdings)]
  · intro s o
    split
    · rfl
    · rfl
  · intro s u
    split
    · split
      · rfl
      · rfl
    · rfl

/-- The teams that are dropped are gone, and no other. -/
theorem dropTeams_teams (s : State) (ts : List Nat) : (s.dropTeams ts).teams = s.teams.filter fun t => !ts.contains t.id := by
  refine congrArg Holdings.teams ((foldl_keeps (view := State.holdings) (fun s c => ?cores) _ _).trans (foldl_keeps (fun s a => ?areas) _ _))
  case cores => rw [tilesFreed_holdings, freed_holdings]
  case areas => exact areaFreed_holdings s a

/-- No team of a context whose teams are dropped is left. -/
theorem dropTeams_ctxTeams (s : State) (ctx : Nat) : ∀ y ∈ (s.dropTeams ((s.ctxTeams ctx).map Team.id)).teams, y.ctx ≠ ctx := by
  intro y hy hctx
  rw [dropTeams_teams, List.mem_filter] at hy
  obtain ⟨mem, spared⟩ := hy
  have named : y.id ∈ (s.ctxTeams ctx).map Team.id := List.mem_map_of_mem (List.mem_filter.2 ⟨mem, by simp [hctx]⟩)
  simp [named] at spared

@[simp] theorem endLaunch_holdings (s : State) (l : Launch) (code : Nat) : (s.endLaunch l code).holdings = s.holdings :=
  (itemEnd_holdings ..).trans rfl

@[simp] theorem endWaiting_holdings (s : State) (ctx : Nat) : (s.endWaiting ctx).holdings = s.holdings := by
  refine (foldl_keeps (view := State.holdings) (fun s p => ?_) _ _).trans ?_
  · exact itemDone_holdings ..
  · rfl

/-- The sealed regions of the context are gone, and no other (R246). -/
theorem scrub_holdings (s : State) (ctx : Nat) :
    (s.scrub ctx).holdings = { s.holdings with seals := s.holdings.seals.filter fun r => r.ctx != ctx } := by
  have written := foldl_keeps (fun s f => homeWrite_holdings s (f * 65536) (List.replicate 65536 0#8))
    ((s.seals.filter fun r => r.ctx == ctx).flatMap SealRec.frames) s
  rw [← written]
  rfl

/-- Nothing that a context holds is left. -/
structure Holdings.Free (x : Holdings) (ctx : Nat) : Prop where
  contexts : ∀ y ∈ x.contexts, y.id ≠ ctx
  teams : ∀ y ∈ x.teams, y.ctx ≠ ctx
  seals : ∀ y ∈ x.seals, y.ctx ≠ ctx
  streams : ∀ y ∈ x.streams, y.ctx ≠ ctx

/-- The same of the state's own fields. -/
theorem State.holds_none {s : State} {ctx : Nat} (free : s.holdings.Free ctx) : (∀ y ∈ s.contexts, y.id ≠ ctx) ∧
    (∀ y ∈ s.teams, y.ctx ≠ ctx) ∧ (∀ y ∈ s.seals, y.ctx ≠ ctx) ∧ ∀ y ∈ s.streams, y.ctx ≠ ctx :=
  ⟨free.contexts, free.teams, free.seals, free.streams⟩

theorem key_ne_of_mem_filter {α : Type} (l : List α) (key : α → Nat) (k : Nat) : ∀ y ∈ l.filter fun x => key x != k, key y ≠ k := by
  intro y hy
  simpa using (List.mem_filter.1 hy).2

/-- A context that is destroyed leaves no record, no team, no sealed region and no bound stream (R246, R248). -/
theorem destroyCtx_free (s : State) (ctx : Nat) : (s.destroyCtx ctx).holdings.Free ctx := by
  unfold State.destroyCtx
  extract_lets published closed launches dropped mine cleared ended scrubbed removed answered
  have drops : ended.holdings = dropped.holdings :=
    (endWaiting_holdings ..).trans (foldl_keeps (fun s l => endLaunch_holdings s l 0x86) _ _)
  have scrubs : scrubbed.holdings = { ended.holdings with seals := ended.holdings.seals.filter fun r => r.ctx != ctx } :=
    scrub_holdings ended ctx
  clear_value scrubbed
  have removes : removed.holdings = { scrubbed.holdings with
      contexts := scrubbed.contexts.filter fun c => c.id != ctx, streams := scrubbed.streams.filter fun x => x.ctx != ctx } := rfl
  have answers : answered.holdings = removed.holdings := by
    refine foldl_keeps (fun s k => ?_) _ _
    exact later_holdings ..
  rw [once_holdings, admitAll_holdings, answers, removes, scrubs, drops]
  exact ⟨key_ne_of_mem_filter _ Context.id ctx, dropTeams_ctxTeams closed ctx, key_ne_of_mem_filter _ SealRec.ctx ctx,
    key_ne_of_mem_filter _ Stream.ctx ctx⟩

end Sys2Proof.Machine
end

section
/-!
PROOFS. The outcomes of the items on contexts, code objects, launches and task seeds, in the order of their checks.
-/

namespace Sys2Proof.Machine

/-! ## Contexts (R435, R440) -/

section CreateContext
variable {s q : State} {h : Hdr} {desc : List Byte} (ready : s.Ready h (.createContext h desc))
  (start : s.started h (.createContext h desc) = q)
include ready start

theorem createContext_malformed (bad : descOk desc = false) : exec (.createContext h desc) s = .next (q.itemDone h 0x80 []) := by
  subst start
  refine (exec_of_ready ready rfl).trans ?_
  rw [if_pos (by simp [bad])]

theorem createContext_badSaveArea (good : descOk desc = true) (bad : q.descSaveOk desc = false) :
    exec (.createContext h desc) s = .next (q.itemDone h 0x86 []) := by
  subst start
  refine (exec_of_ready ready rfl).trans ?_
  rw [if_neg (by simp [good]), if_pos (by simp [bad])]

theorem createContext_full (good : descOk desc = true) (save : q.descSaveOk desc = true) (full : 256 ≤ s.contexts.length) :
    exec (.createContext h desc) s = .next (q.itemDone h 0x87 []) := by
  subst start
  refine (exec_of_ready ready rfl).trans ?_
  rw [if_neg (by simp [good]), if_neg (by simp [save]), if_pos (by rwa [started_contexts])]

theorem createContext_creates (good : descOk desc = true) (save : q.descSaveOk desc = true) (room : s.contexts.length < 256) :
    exec (.createContext h desc) s = .next (({ q with
      nextId := q.nextId + 1, contexts := q.contexts ++ [descContext q.nextId desc h.session h.queue] } : State).itemDone h 0
        (leBytes 4 q.nextId ++ leBytes 4 0)) := by
  subst start
  refine (exec_of_ready ready rfl).trans ?_
  rw [if_neg (by simp [good]), if_neg (by simp [save]), if_neg (by rw [started_contexts]; omega)]
  rfl

end CreateContext

/-- What an accepted descriptor changes in its context; its format slots and its code objects stay. -/
def Context.described (n x : Context) : Context := { x with
  root := n.root, handles := n.handles, handleCount := n.handleCount, lattol := n.lattol, dctx := n.dctx, trapBase := n.trapBase
  saveBase := n.saveBase, preemptCtl := n.preemptCtl, preemptLive := n.preemptCtl, queues := n.queues }

section WriteDescriptor
variable {s q : State} {h : Hdr} {desc : List Byte} {c : Context} (hc : s.ctx? h.ctx = some c)
  (ready : s.Ready h (.writeContextDescriptor h desc)) (start : s.started h (.writeContextDescriptor h desc) = q)
include hc ready start

theorem writeDescriptor_malformed (bad : descOk desc = false) :
    exec (.writeContextDescriptor h desc) s = .next (q.itemDone h 0x80 []) := by
  subst start
  refine (exec_of_readyCtx ready rfl hc).trans ?_
  rw [if_pos (by simp [bad])]

theorem writeDescriptor_refused (good : descOk desc = true) (bad : q.descSaveOk desc = false ∨ q.holdsWork c = true) :
    exec (.writeContextDescriptor h desc) s = .next (q.itemDone h 0x86 []) := by
  subst start
  refine (exec_of_readyCtx ready rfl hc).trans ?_
  rw [if_neg (by simp [good]), if_pos (by simpa using bad)]

theorem writeDescriptor_writes (good : descOk desc = true) (save : q.descSaveOk desc = true) (idle : q.holdsWork c = false) :
    exec (.writeContextDescriptor h desc) s =
      .next ((q.modCtx c.id (descContext c.id desc c.session c.queue).described).itemDone h 0 []) := by
  subst start
  refine (exec_of_readyCtx ready rfl hc).trans ?_
  rw [if_neg (by simp [good]), if_neg (by simp [save, idle])]
  rfl

end WriteDescriptor

/-! ## Code objects (R81, R85, R450) -/

section Load
variable {s q r : State} {h : Hdr} {va : DWord} {size : Nat} {c : Context} (hc : s.ctx? h.ctx = some c)
  (ready : s.Ready h (.loadCodeObject h va size)) (start : s.started h (.loadCodeObject h va size) = q)
include hc ready start

theorem load_unread {f : HostStop} (placed : q.hostPlace c.id false (piecesOf va.toNat size) = (r, .error f)) :
    exec (.loadCodeObject h va size) s = .next (r.hostFail h f) := by
  subst start
  refine (exec_of_readyCtx ready rfl hc).trans ?_
  simp only [placed]

variable {ps : List (Nat × Nat)} (placed : q.hostPlace c.id false (piecesOf va.toNat size) = (r, .ok ps))
include placed

theorem load_malformed (bad : parseObject (r.readPieces ps) va.toNat (c.objs.length + 1) = none) :
    exec (.loadCodeObject h va size) s = .next (r.itemDone h 0x82 []) := by
  subst start
  refine (exec_of_readyCtx ready rfl hc).trans ?_
  simp only [placed, bad]

variable {l : Loaded} (parsed : parseObject (r.readPieces ps) va.toNat (c.objs.length + 1) = some l)
include parsed

theorem load_featureAbsent (absent : field (r.readPieces ps) 16 8 &&& (2 ^ 64 - 1 - Config.features) ≠ 0) :
    exec (.loadCodeObject h va size) s = .next (r.itemDone h 0x83 []) := by
  subst start
  refine (exec_of_readyCtx ready rfl hc).trans ?_
  simp only [placed, parsed]
  rw [if_pos (bne_iff_ne.2 absent)]

/-- An object that its relocations leave as it is becomes visible where it stands. -/
theorem load_unrelocated (present : field (r.readPieces ps) 16 8 &&& (2 ^ 64 - 1 - Config.features) = 0)
    (same : l.bytes = r.readPieces ps) : exec (.loadCodeObject h va size) s =
      .next ((r.makeVisible c.id ps (r.readPieces ps) l).itemDone h 0 (loadResult (c.objs.length + 1) l.obj.version)) := by
  subst start
  refine (exec_of_readyCtx ready rfl hc).trans ?_
  have unchanged : (l.bytes == r.readPieces ps) = true := by simp [same]
  simp only [placed, parsed, unchanged, if_true]
  rw [if_neg fun absent => bne_iff_ne.1 absent present]

end Load

/-! ## Launches (R147, R148, R152) -/

/-- The launch that an accepted item adds in the state `q`, before any of its clusters is admitted. -/
def State.newLaunch (q : State) (h : Hdr) (c : Context) (o : CodeObj) (d : TeamDecl) (handle fidx : Nat) (geom : List Byte)
    (spill : DWord) (args : List Word) : Launch :=
  { id := q.nextId, ctx := c.id, number := q.itemNumber h, handle := handle, fidx := fidx, geom := geom, spill := spill, args := args
    decl := d, edition1 := o.edition1, left := (geomOf geom).count, next := 0
    die := (if (geomOf geom).glade < 96 then (geomOf geom).glade else c.startGlade) / 12, order := q.nextId, tasks := 0
    failed := none, done := false, session := h.session, queue := h.queue, seq := h.seq }

section Launch
variable {s q : State} {h : Hdr} {handle fidx : Nat} {geom : List Byte} {spill : DWord} {args : List Word} {c : Context}
  (hc : s.ctx? h.ctx = some c) (ready : s.Ready h (.launch h handle fidx geom spill args))
  (start : s.started h (.launch h handle fidx geom spill args) = q)
include hc ready start

theorem launch_noObject (absent : c.objs.find? (fun o => o.handle == handle) = none) :
    exec (.launch h handle fidx geom spill args) s = .next (q.itemDone h 0x84 (leBytes 8 (q.itemNumber h).toNat)) := by
  subst start
  refine (exec_of_readyCtx ready rfl hc).trans ?_
  simp only [absent]

variable {o : CodeObj} (object : c.objs.find? (fun o => o.handle == handle) = some o)
include object

theorem launch_noFunction (absent : o.funcs[fidx]? = none) :
    exec (.launch h handle fidx geom spill args) s = .next (q.itemDone h 0x84 (leBytes 8 (q.itemNumber h).toNat)) := by
  subst start
  refine (exec_of_readyCtx ready rfl hc).trans ?_
  simp only [object, absent]

variable {f : Func} (function : o.funcs[fidx]? = some f)
include function

theorem launch_undeclared (absent : o.decl? fidx = none) :
    exec (.launch h handle fidx geom spill args) s = .next (q.itemDone h 0x81 (leBytes 8 (q.itemNumber h).toNat)) := by
  subst start
  refine (exec_of_readyCtx ready rfl hc).trans ?_
  simp only [object, function, absent]

variable {d : TeamDecl} (decl : o.decl? fidx = some d)
include decl

theorem launch_badGeometry (bad : launchOk f.kernel d geom spill.toNat = false) :
    exec (.launch h handle fidx geom spill args) s = .next (q.itemDone h 0x81 (leBytes 8 (q.itemNumber h).toNat)) := by
  subst start
  refine (exec_of_readyCtx ready rfl hc).trans ?_
  simp only [object, function, decl, bad]
  rfl

/-- The launch that an accepted LAUNCH adds: its number is the item's, and every cluster of its grid is still to end. -/
theorem launch_accepted (good : launchOk f.kernel d geom spill.toNat = true) :
    let g := geomOf geom
    let die := (if g.glade < 96 then g.glade else c.startGlade) / 12
    ∃ (l : Launch) (z : State), exec (.launch h handle fidx geom spill args) s = .next ((z.itemRuns h).once (.clusterAdmit die)) ∧
      z.launches = s.launches ++ [l] ∧ l.ctx = c.id ∧ l.number = q.itemNumber h ∧ l.fidx = fidx ∧ l.geom = geom ∧ l.args = args ∧
      l.decl = d ∧ l.left = g.cx * g.cy * g.cz ∧ l.next = 0 ∧ l.die = die ∧ l.done = false := by
  subst start
  intro g die
  have runs := exec_of_readyCtx ready rfl hc
  simp only [object, function, decl] at runs
  rw [if_neg (by simp [good])] at runs
  refine ⟨(s.started h (.launch h handle fidx geom spill args)).newLaunch h c o d handle fidx geom spill args, _, runs, ?launches, ?record⟩
  case launches =>
    rw [← started_launches s h (.launch h handle fidx geom spill args)]
    rfl
  case record => exact ⟨rfl, rfl, rfl, rfl, rfl, rfl, rfl, rfl, rfl, rfl⟩

end Launch

/-! ## Task seeds (R349, R352, R357) -/

section Seed
variable {s q : State} {h : Hdr} {qn : Nat} {r : List Byte} {c : Context} (hc : s.ctx? h.ctx = some c)
  (ready : s.Ready h (.seedTask h qn r)) (start : s.started h (.seedTask h qn r) = q)
include hc ready start

theorem seedTask_refused (bad : c.queue? qn = none ∨ c.taskOk r = false) :
    exec (.seedTask h qn r) s = .next (q.itemDone h 0x80 []) := by
  subst start
  refine (exec_of_readyCtx ready rfl hc).trans ?_
  rw [if_pos (by simpa using bad)]

variable (queue : c.queue? qn ≠ none) (good : c.taskOk r = true)
include queue good

theorem seedTask_waits (full : c.queueFree qn = false) : exec (.seedTask h qn r) s = .next q := by
  subst start
  refine (exec_of_readyCtx ready rfl hc).trans ?_
  rw [if_neg (by simp [queue, good]), if_pos (by simp [full])]

theorem seedTask_enters (free : c.queueFree qn = true) : exec (.seedTask h qn r) s = .next ((q.enqueue c.id qn {
    bytes := r, owner := .item h.session h.queue h.seq (q.itemNumber h), glade := none, core := none, q := 0, seq := 0
    entryBad := false, written := false }).itemDone h 0 []) := by
  subst start
  refine (exec_of_readyCtx ready rfl hc).trans ?_
  rw [if_neg (by simp [queue, good]), if_neg (by simp [free])]

end Seed

/-! ## The statement -/

/-- Settles O57: each item's outcomes by name, in the order of its checks; what a destroyed context leaves is `destroyCtx_free`. -/
theorem contextItems : Obligations.ContextItems := by
  intro s h desc
  refine ⟨fun ready => ?create, fun c hc => ?items⟩
  case create =>
    exact ⟨createContext_malformed ready rfl, createContext_badSaveArea ready rfl, fun good save =>
      ⟨createContext_full ready rfl good save, createContext_creates ready rfl good save⟩⟩
  case items =>
    obtain ⟨contexts, teams, seals, streams⟩ := State.holds_none (destroyCtx_free s c.id)
    refine ⟨fun ready => ?write, fun ready => exec_of_readyCtx ready rfl hc, contexts, teams, seals, streams,
      fun va size ready r e placed => ?load, fun handle fidx geom spill args ready => ?launch, fun qn r ready => ?seed⟩
    case write =>
      exact ⟨writeDescriptor_malformed hc ready rfl, writeDescriptor_refused hc ready rfl, fun good save idle =>
        ⟨_, writeDescriptor_writes hc ready rfl good save idle, fun y => ⟨rfl, rfl, rfl⟩⟩⟩
    case load =>
      refine ⟨fun f err => load_unread hc ready rfl (err ▸ placed), fun ps ok => ?_⟩
      subst ok
      exact ⟨load_malformed hc ready rfl placed, fun l parsed =>
        ⟨load_featureAbsent hc ready rfl placed parsed, load_unrelocated hc ready rfl placed parsed⟩⟩
    case launch =>
      exact ⟨launch_noObject hc ready rfl, fun o object => ⟨launch_noFunction hc ready rfl object, fun f function =>
        ⟨launch_undeclared hc ready rfl object function, fun d decl =>
          ⟨launch_badGeometry hc ready rfl object function decl, launch_accepted hc ready rfl object function decl⟩⟩⟩⟩
    case seed =>
      exact ⟨seedTask_refused hc ready rfl, fun queue good =>
        ⟨seedTask_waits hc ready rfl queue good, seedTask_enters hc ready rfl queue good⟩⟩

end Sys2Proof.Machine
end

section
/-!
PROOFS. A dense multiplication as one update of the tile for each pair of present ranks, and what those updates leave.
-/

namespace Sys2Proof.Machine

/-! ## Updates of single keys -/

/-- The value at a key becomes a function of what it was. -/
def Sparse.update {w : Nat} (t : Sparse w) (p : Nat × (BitVec w → BitVec w)) : Sparse w :=
  Sparse.write t p.1 (p.2 (Sparse.read t p.1))

theorem Sparse.read_update_other {w : Nat} {t : Sparse w} (wf : Sparse.wf t = true) (p : Nat × (BitVec w → BitVec w)) {k : Nat}
    (h : k ≠ p.1) : Sparse.read (t.update p) k = Sparse.read t k :=
  Sparse.read_write_other t p.1 k _ h 0 wf

theorem Sparse.wf_foldl_update {w : Nat} (l : List (Nat × (BitVec w → BitVec w))) :
    ∀ {t : Sparse w}, Sparse.wf t = true → Sparse.wf (l.foldl Sparse.update t) = true := by
  induction l with
  | nil => exact fun h => h
  | cons p l ih => exact fun h => ih (Sparse.write_wf _ _ _ h)

theorem Sparse.read_foldl_update_other {w : Nat} (l : List (Nat × (BitVec w → BitVec w))) {k : Nat} :
    ∀ {t : Sparse w}, Sparse.wf t = true → (∀ p ∈ l, k ≠ p.1) → Sparse.read (l.foldl Sparse.update t) k = Sparse.read t k := by
  induction l with
  | nil => exact fun _ _ => rfl
  | cons p l ih =>
    intro t wf h
    rw [List.forall_mem_cons] at h
    exact (ih (Sparse.write_wf _ _ _ wf) h.2).trans (Sparse.read_update_other wf p h.1)

/-- Updates of distinct keys each see the value that stood at their key before all of them. -/
theorem Sparse.read_foldl_update {w : Nat} (l : List (Nat × (BitVec w → BitVec w))) :
    ∀ {t : Sparse w}, Sparse.wf t = true → (l.map Prod.fst).Nodup → ∀ p ∈ l,
      Sparse.read (l.foldl Sparse.update t) p.1 = p.2 (Sparse.read t p.1) := by
  induction l with
  | nil => exact fun _ _ _ h => absurd h List.not_mem_nil
  | cons a l ih =>
    intro t wf distinct p hp
    rw [List.map_cons, List.nodup_cons] at distinct
    have away : ∀ b ∈ l, a.1 ≠ b.1 := fun b hb e => distinct.1 (e ▸ List.mem_map_of_mem hb)
    have wf' : Sparse.wf (t.update a) = true := Sparse.write_wf _ _ _ wf
    rcases List.mem_cons.1 hp with rfl | hp
    · exact (Sparse.read_foldl_update_other l wf' away).trans (Sparse.read_write_same t p.1 _ 0 wf)
    · rw [List.foldl_cons, ih wf' distinct.2 p hp, Sparse.read_update_other wf a (away p hp).symm]

/-! ## The multiplication -/

/-- The K products of row signer `r` and column signer `c` in unscaled fragments (R203, R219). -/
def MatForm.products (f : MatForm) (sa sb : SlotD) (r c : Capture) : List (FVal × Bool) :=
  (upto (fragK f.ta)).map fun k => (fragVal f.ta sa 0 r.a k).mul (fragVal f.tb sb 0 c.b k)

/-- An element of the tile after one multiplication, from its old value and its products (R106, R107). -/
def MatForm.element (f : MatForm) (prods : List (FVal × Bool)) (old : Word) : Word :=
  word (if f.ta.isInt then intMmaWrite (prods.foldl (fun z p => z + p.1.scaled 0) (intVal true 32 old.toNat)) f.sat
    else mmaSum ((ffmt .f32).decode old.toNat) prods)

/-- The updates of a dense multiplication, row by row. -/
def MatForm.updates (f : MatForm) (sa sb : SlotD) (caps : List Capture) : List (Nat × (Word → Word)) :=
  caps.flatMap fun r => caps.map fun c => (32 * r.rank + c.rank, f.element (f.products sa sb r c))

theorem fragVal_unscaled {sl : SlotD} (h : sl.scaled = false) (t : Ty) (scale : Word) (ws : List Word) (k : Nat) :
    fragVal t sl scale ws k = fragVal t sl 0 ws k := by
  simp [fragVal, h]

theorem getD_map_upto {α : Type} (g : Nat → α) {n i : Nat} (h : i < n) (d : α) : ((upto n).map g).getD i d = g i := by
  simp [upto, List.getD_eq_getElem?_getD, h]

/-- The products that `MatForm.apply` forms of a row and a decoded column. -/
theorem products_eq {f : MatForm} {sa sb : SlotD} (ha : sa.scaled = false) (hb : sb.scaled = false) (r c : Capture) :
    (((upto (fragK f.ta)).map fun i => (i, fragVal f.ta sa (r.scale.getD 0 0) r.a i)).map fun e =>
      e.2.mul (((upto (fragK f.ta)).map fun i => fragVal f.tb sb (c.scale.getD 1 0) c.b i).getD e.1 (.fin false 0 0))) =
      f.products sa sb r c := by
  rw [List.map_map]
  refine List.map_congr_left fun k hk => ?_
  rw [Function.comp_apply, getD_map_upto _ (List.mem_range.1 hk), fragVal_unscaled ha, fragVal_unscaled hb]

theorem apply_eq_foldl_updates {f : MatForm} {sa sb : SlotD} (hs : f.sparse = none) (ha : sa.scaled = false)
    (hb : sb.scaled = false) (caps : List Capture) (t : Sparse 32) :
    f.apply sa sb caps t = (f.updates sa sb caps).foldl Sparse.update t := by
  simp only [MatForm.apply, MatForm.updates, hs, List.foldl_flatMap, List.foldl_map (l := caps), products_eq ha hb, ha, hb,
    Bool.not_false, Bool.and_true]
  rfl

theorem key_injective {r c r' c' : Nat} (hc : c < 32) (hc' : c' < 32) (h : 32 * r + c = 32 * r' + c') : r = r' ∧ c = c' := by
  omega

theorem mem_updates {f : MatForm} {sa sb : SlotD} {caps : List Capture} {p : Nat × (Word → Word)} :
    p ∈ f.updates sa sb caps ↔ ∃ r ∈ caps, ∃ c ∈ caps, (32 * r.rank + c.rank, f.element (f.products sa sb r c)) = p := by
  simp only [MatForm.updates, List.mem_flatMap, List.mem_map]

/-- Present ranks are distinct and below 32, so no two updates meet. -/
theorem nodup_updates {f : MatForm} {sa sb : SlotD} {caps : List Capture} (distinct : (caps.map Capture.rank).Nodup)
    (small : ∀ c ∈ caps, c.rank < 32) : ((f.updates sa sb caps).map Prod.fst).Nodup := by
  have rows : caps.Nodup := distinct.of_map _
  have rank {r c : Capture} (hr : r ∈ caps) (hc : c ∈ caps) (h : r.rank = c.rank) : r = c :=
    List.inj_on_of_nodup_map distinct hr hc h
  simp only [MatForm.updates, List.map_flatMap, List.map_map]
  refine List.nodup_flatMap.2 ⟨fun r _ => ?_, rows.imp_of_mem fun {r r'} hr hr' hne => ?_⟩
  · refine rows.map_on fun c hc c' hc' h => rank hc hc' ?_
    exact (key_injective (small c hc) (small c' hc') h).2
  · intro k hk hk'
    obtain ⟨c, hc, rfl⟩ := List.mem_map.1 hk
    obtain ⟨c', hc', h⟩ := List.mem_map.1 hk'
    exact hne (rank hr hr' (key_injective (small c hc) (small c' hc') h.symm).1)

/-- Settles O30: the multiplication is one update for each pair of ranks, no two of which meet. -/
theorem matrixProduct : Obligations.MatrixProduct := by
  intro f sa sb caps t hs ha hb distinct small wf
  rw [apply_eq_foldl_updates hs ha hb]
  refine ⟨fun r hr c hc => ?_, fun k hk => ?_, Sparse.wf_foldl_update _ wf⟩
  · exact Sparse.read_foldl_update _ wf (nodup_updates distinct small) _ (mem_updates.2 ⟨r, hr, c, hc, rfl⟩)
  · refine Sparse.read_foldl_update_other _ wf fun p hp => ?_
    obtain ⟨r, hr, c, hc, rfl⟩ := mem_updates.1 hp
    exact hk r hr c hc

end Sys2Proof.Machine
end

section
/-!
PROOFS. Integers in registers: how an exact integer is wrapped or clamped into a type, and division in terms of numbers.
-/

namespace Sys2Proof.Machine

/-! ## Wrapping and reading back -/

theorem wrapTo_cast (w : Nat) (t : Int) : (wrapTo w t : Int) = t % 2 ^ w :=
  Int.toNat_of_nonneg (Int.emod_nonneg _ (by positivity))

theorem wrapTo_natCast {w x : Nat} (h : x < 2 ^ w) : wrapTo w (x : Int) = x := by
  have := wrapTo_cast w x
  rw [Int.emod_eq_of_lt (by positivity) (by exact_mod_cast h)] at this
  exact_mod_cast this

theorem wrapTo_add_modulus (w : Nat) (t : Int) : wrapTo w (t + 2 ^ w) = wrapTo w t := by
  simp [wrapTo]

theorem wrapTo_lt (w : Nat) (t : Int) : wrapTo w t < 2 ^ w := by
  have : (wrapTo w t : Int) < 2 ^ w := wrapTo_cast w t ▸ Int.emod_lt_of_pos _ (by positivity)
  exact_mod_cast this

/-! The range of a format by its sign (R93). -/

theorem intRange_true {w : Nat} {t : Int} :
    (intRange true w).1 ≤ t ∧ t ≤ (intRange true w).2 ↔ -2 ^ (w - 1) ≤ t ∧ t < 2 ^ (w - 1) := by
  simp only [intRange, if_true]; omega

theorem intRange_false {w : Nat} {t : Int} :
    (intRange false w).1 ≤ t ∧ t ≤ (intRange false w).2 ↔ 0 ≤ t ∧ t < 2 ^ w := by
  simp only [intRange, Bool.false_eq_true, if_false]; omega

/-- A number of the range of a format is what its wrapped encoding reads as. -/
theorem intVal_wrapTo {sgn : Bool} {w : Nat} (hw : 0 < w) {t : Int} (lo : (intRange sgn w).1 ≤ t) (hi : t ≤ (intRange sgn w).2) :
    intVal sgn w (wrapTo w t) = t := by
  have cast := wrapTo_cast w t
  have split : (2 : Int) ^ (w - 1) * 2 = 2 ^ w := by exact_mod_cast Nat.two_pow_pred_mul_two hw
  simp only [intVal, Nat.mod_eq_of_lt (wrapTo_lt w t)]
  cases sgn with
  | false =>
    obtain ⟨h0, h1⟩ := intRange_false.1 ⟨lo, hi⟩
    rw [Int.emod_eq_of_lt h0 h1] at cast
    simpa using cast
  | true =>
    obtain ⟨h0, h1⟩ := intRange_true.1 ⟨lo, hi⟩
    have half : (2 ^ (w - 1) ≤ wrapTo w t) ↔ (2 : Int) ^ (w - 1) ≤ wrapTo w t := by exact_mod_cast Iff.rfl
    simp only [Bool.true_and, decide_eq_true_eq, half]
    rcases Int.lt_or_le t 0 with neg | pos
    · rw [← Int.add_emod_right, Int.emod_eq_of_lt (by omega) (by omega)] at cast
      rw [if_pos (by omega)]; omega
    · rw [Int.emod_eq_of_lt pos (by omega)] at cast
      rw [if_neg (by omega)]; omega

/-- An encoding reads as a number of the range. -/
theorem intVal_mem_intRange (sgn : Bool) {w : Nat} (hw : 0 < w) (x : Nat) :
    (intRange sgn w).1 ≤ intVal sgn w x ∧ intVal sgn w x ≤ (intRange sgn w).2 := by
  have split := Nat.two_pow_pred_mul_two hw
  have small : x % 2 ^ w < 2 ^ w := Nat.mod_lt _ (by positivity)
  cases sgn with
  | false =>
    rw [intRange_false]
    simp only [intVal, Bool.false_and, Bool.false_eq_true, if_false]
    exact ⟨by positivity, by exact_mod_cast small⟩
  | true =>
    rw [intRange_true]
    simp only [intVal, Bool.true_and, decide_eq_true_eq]
    have above (v : Nat) : (v : Int) - 2 ^ w = v - (2 ^ w : Nat) := by push_cast; rfl
    have below : (2 : Int) ^ (w - 1) = (2 ^ (w - 1) : Nat) := by push_cast; rfl
    rw [above, below]
    split <;> omega

/-- An encoding is the wrapped form of the number that it reads as. -/
theorem wrapTo_intVal (sgn : Bool) {w x : Nat} (h : x < 2 ^ w) : wrapTo w (intVal sgn w x) = x := by
  simp only [intVal, Nat.mod_eq_of_lt h]
  split
  · rw [← wrapTo_add_modulus, Int.sub_add_cancel, wrapTo_natCast h]
  · exact wrapTo_natCast h

/-! ## The range of a type -/

theorem Ty.bits_pos {ty : Ty} (h : ty.int = true) : 0 < ty.bits := by
  revert h; cases ty <;> decide

theorem tyInt_wrapTo {ty : Ty} (h : ty.int = true) {t : Int} (lo : (intRange ty.signed ty.bits).1 ≤ t)
    (hi : t ≤ (intRange ty.signed ty.bits).2) : tyInt ty (wrapTo ty.bits t) = t :=
  intVal_wrapTo (Ty.bits_pos h) lo hi

/-- The bounds that the statement names are those of `intRange`. -/
theorem intRange_eq {w : Nat} (hw : 0 < w) (sgn : Bool) : intRange sgn w =
    (if sgn then -((2 : Int) ^ w / 2) else 0, if sgn then (2 : Int) ^ w / 2 - 1 else 2 ^ w - 1) := by
  have split : (2 : Int) ^ (w - 1) * 2 = 2 ^ w := by exact_mod_cast Nat.two_pow_pred_mul_two hw
  have half : (2 : Int) ^ w / 2 = 2 ^ (w - 1) := by omega
  cases sgn <;> simp [intRange, half]

theorem intRange_le {w : Nat} (sgn : Bool) : (intRange sgn w).1 ≤ (intRange sgn w).2 := by
  have half : (0 : Int) < 2 ^ (w - 1) := by positivity
  have full : (0 : Int) < 2 ^ w := by positivity
  cases sgn
  · simp only [intRange, Bool.false_eq_true, if_false]; omega
  · simp only [intRange, if_true]; omega

section Clamp
variable {ty : Ty} {t : Int}

theorem saturateInt_inside (lo : (intRange ty.signed ty.bits).1 ≤ t) (hi : t ≤ (intRange ty.signed ty.bits).2) :
    saturateInt ty t = (wrapTo ty.bits t, 0) := by
  simp only [saturateInt]
  rw [if_neg (by omega), if_neg (by omega)]

theorem saturateInt_below (h : t < (intRange ty.signed ty.bits).1) :
    saturateInt ty t = (wrapTo ty.bits (intRange ty.signed ty.bits).1, fSAT) := by
  simp only [saturateInt]
  rw [if_pos h]

theorem saturateInt_above (h : (intRange ty.signed ty.bits).2 < t) :
    saturateInt ty t = (wrapTo ty.bits (intRange ty.signed ty.bits).2, fSAT) := by
  have := intRange_le (w := ty.bits) ty.signed
  simp only [saturateInt]
  rw [if_neg (by omega), if_pos h]

end Clamp

/-! ## Division -/

section Division
variable {ty : Ty}

theorem intQuot_zero (ty : Ty) (sat : Bool) (a : Int) :
    intQuot ty sat a 0 = (if ty.signed = false ∨ a < 0 then 2 ^ ty.bits - 1 else 0, fDVZ) := by
  have ones : wrapTo ty.bits (-1) = 2 ^ ty.bits - 1 := by
    rw [← wrapTo_add_modulus]
    have pos : 0 < 2 ^ ty.bits := by positivity
    have : (-1 : Int) + 2 ^ ty.bits = ((2 ^ ty.bits - 1 : Nat) : Int) := by push_cast [pos]; ring
    rw [this, wrapTo_natCast (by omega)]
  cases hs : ty.signed
  · simp [intQuot, hs]
  · by_cases ha : a < 0
    · simp [intQuot, hs, ha, ones]
    · simp [intQuot, hs, ha, wrapTo]

theorem intQuot_min (sat : Bool) (hs : ty.signed = true) : intQuot ty sat (-(2 ^ (ty.bits - 1))) (-1) =
    if sat then (2 ^ (ty.bits - 1) - 1, fSAT) else (2 ^ (ty.bits - 1), fOVF) := by
  simp [intQuot, hs]

theorem intQuot_other (sat : Bool) {a b : Int} (hb : b ≠ 0) (h : ¬(ty.signed = true ∧ a = -(2 ^ (ty.bits - 1)) ∧ b = -1)) :
    intQuot ty sat a b = (wrapTo ty.bits (a.tdiv b), 0) := by
  simp only [intQuot, beq_iff_eq, hb, if_false]
  rw [if_neg]
  simpa [and_assoc] using h

theorem intRem_other {a b : Int} (hb : b ≠ 0) : intRem ty a b = (wrapTo ty.bits (a.tmod b), 0) := by
  simp [intRem, hb]

/-- A remainder lies between 0 and its dividend. -/
theorem tmod_mem_intRange {sgn : Bool} {w : Nat} {a b : Int} (ha : (intRange sgn w).1 ≤ a ∧ a ≤ (intRange sgn w).2) :
    (intRange sgn w).1 ≤ a.tmod b ∧ a.tmod b ≤ (intRange sgn w).2 := by
  have zero : (intRange sgn w).1 ≤ 0 ∧ 0 ≤ (intRange sgn w).2 := by
    have half : (0 : Int) < 2 ^ (w - 1) := by positivity
    have full : (0 : Int) < 2 ^ w := by positivity
    cases sgn
    · rw [intRange_false]; omega
    · rw [intRange_true]; omega
  have size : (a.tmod b).natAbs ≤ a.natAbs := Int.natAbs_tmod .. ▸ Nat.mod_le _ _
  rcases Int.le_total 0 a with pos | neg
  · have := Int.tmod_nonneg b pos; omega
  · have := Int.neg_tmod a b ▸ Int.tmod_nonneg b (a := -a) (by omega); omega

/-- A truncated quotient of two numbers of the range lies in it, but for the minimum by -1. -/
theorem tdiv_mem_intRange {sgn : Bool} {w : Nat} {a b : Int} (ha : (intRange sgn w).1 ≤ a ∧ a ≤ (intRange sgn w).2)
    (hb : (intRange sgn w).1 ≤ b ∧ b ≤ (intRange sgn w).2) (h : ¬(sgn = true ∧ a = -(2 ^ (w - 1)) ∧ b = -1)) :
    (intRange sgn w).1 ≤ a.tdiv b ∧ a.tdiv b ≤ (intRange sgn w).2 := by
  have size : (a.tdiv b).natAbs ≤ a.natAbs := Int.natAbs_tdiv .. ▸ Nat.div_le_self _ _
  cases sgn with
  | false =>
    rw [intRange_false] at *
    have := Int.tdiv_nonneg ha.1 hb.1
    omega
  | true =>
    rw [intRange_true] at *
    by_cases hmin : a = -2 ^ (w - 1)
    · have quotient : (a.tdiv b).natAbs = a.natAbs / b.natAbs := Int.natAbs_tdiv ..
      have one : b ≠ -1 := fun hb => h ⟨rfl, hmin, hb⟩
      rcases (by omega : b = 0 ∨ b = 1 ∨ 2 ≤ b.natAbs) with rfl | rfl | two
      · rw [Int.tdiv_zero]; omega
      · rw [Int.tdiv_one]; exact ha
      · have := quotient.trans_le (Nat.div_le_div_left two (by decide))
        omega
    · omega

end Division

/-- Settles O15: the writes by where the number lies in its range, and division by its three cases. -/
theorem integerArithmetic : Obligations.IntegerArithmetic := by
  constructor
  case left =>
    intro ty t hty m lo hi
    have range : intRange ty.signed ty.bits = (lo, hi) := intRange_eq (Ty.bits_pos hty) _
    have order := intRange_le (w := ty.bits) ty.signed
    have reads {z : Int} := tyInt_wrapTo hty (t := z)
    simp only [range] at order reads
    simp only [intWrite, if_true, Bool.false_eq_true, if_false]
    refine ⟨⟨wrapTo_cast _ _, trivial⟩, fun h0 h1 => ?inside, fun below => ?below, fun above => ?above⟩
    case inside =>
      rw [saturateInt_inside (by rwa [range]) (by rwa [range])]
      exact ⟨wrapTo_cast _ _, rfl, reads h0 h1⟩
    case below =>
      rw [saturateInt_below (by rwa [range]), range]
      exact ⟨reads le_rfl order, rfl⟩
    case above =>
      rw [saturateInt_above (by rwa [range]), range]
      exact ⟨reads order le_rfl, rfl⟩
  case right =>
    intro ty sat x y hty hx hy a b q r
    have ha := intVal_mem_intRange ty.signed (Ty.bits_pos hty) x
    have hb := intVal_mem_intRange ty.signed (Ty.bits_pos hty) y
    refine ⟨fun zero => ?zero, fun hs hmin minus => ?min, fun nonzero other => ?other⟩
    case zero =>
      simp only [q, r, zero]
      exact ⟨intQuot_zero ty sat a, congrArg (·, fDVZ) (wrapTo_intVal _ hx)⟩
    case min =>
      simp only [q, r, hmin, minus]
      refine ⟨intQuot_min sat hs, ?_⟩
      rw [intRem_other (by decide), Int.tmod_neg, Int.tmod_one]
      rfl
    case other =>
      obtain ⟨quotientLo, quotientHi⟩ := tdiv_mem_intRange ha hb other
      obtain ⟨remainderLo, remainderHi⟩ := tmod_mem_intRange (b := b) ha
      simp only [q, r, intQuot_other sat nonzero other, intRem_other nonzero]
      exact ⟨tyInt_wrapTo hty quotientLo quotientHi, trivial, tyInt_wrapTo hty remainderLo remainderHi, trivial⟩

end Sys2Proof.Machine
end

section
/-!
PROOFS. CVTQ: what a run that leaves the register file raises, and what a block that fits is written as.
-/

namespace Sys2Proof.Machine

/-- Settles O19: both outcomes of the body of CVTQ, by whether its two runs fit. -/
theorem quantiseResult : Obligations.QuantiseResult := by
  intro s th x t sty h r xv sat d b a runs sl l na nd e vs sc q
  refine ⟨fun hna hnd => ends_issue runs rfl rfl ?fits, fun leaves => ends_issue runs rfl rfl ?leaves⟩
  case fits =>
    simp only [beq_iff_eq]
    exact if_neg (by rw [hna, hnd]; decide)
  case leaves =>
    simp only [beq_iff_eq]
    refine if_pos ?_
    rwa [← Bool.not_and, Bool.not_eq_true', ← Bool.not_eq_true, Bool.and_eq_true]

end Sys2Proof.Machine
end

section
/-!
PROOFS. Rounding of an exact ratio: powers of two, the exponent of a ratio, and the integer that the rules of R100 and R102
give a magnitude, which is the one point that `RoundsTo` allows.
-/

namespace Sys2Proof.Machine

/-! ## Ratios and powers of two -/

theorem pow2_pos (k : Int) : 0 < (pow2 k).1 ∧ 0 < (pow2 k).2 := by
  cases k <;> simp [pow2]

theorem pow2_ratio (k : Int) : ((pow2 k).1 : ℚ) / (pow2 k).2 = 2 ^ k := by
  cases k with
  | ofNat n => simp [pow2]
  | negSucc n => simp [pow2, zpow_negSucc]

/-- n/d * 2^k as a numerator and a denominator. -/
def shiftRatio (n d : Nat) (k : Int) : Nat × Nat := (n * (pow2 k).1, d * (pow2 k).2)

theorem shiftRatio_ratio (n d : Nat) (k : Int) : ((shiftRatio n d k).1 : ℚ) / (shiftRatio n d k).2 = n / d * 2 ^ k := by
  simp only [shiftRatio, Nat.cast_mul, ← pow2_ratio k]
  exact mul_div_mul_comm ..

theorem shiftRatio_den_pos {n d : Nat} (hd : d ≠ 0) (k : Int) : 0 < (shiftRatio n d k).2 :=
  Nat.mul_pos (Nat.pos_of_ne_zero hd) (pow2_pos k).2

theorem exponent_unique {x : ℚ} {a b : Int} (ha : (2 : ℚ) ^ a ≤ x) (ha' : x < 2 ^ (a + 1)) (hb : (2 : ℚ) ^ b ≤ x)
    (hb' : x < 2 ^ (b + 1)) : a = b := by
  have one : (1 : ℚ) < 2 := by norm_num
  have := (zpow_lt_zpow_iff_right₀ one).1 (ha.trans_lt hb')
  have := (zpow_lt_zpow_iff_right₀ one).1 (hb.trans_lt ha')
  omega

theorem log2_bounds {n : Nat} (h : n ≠ 0) : (2 : ℚ) ^ (n.log2 : Int) ≤ n ∧ (n : ℚ) < 2 ^ ((n.log2 : Int) + 1) := by
  constructor
  · exact_mod_cast Nat.log2_self_le h
  · exact_mod_cast Nat.lt_log2_self (n := n)

/-- `log2Ratio` is the exponent of its ratio. -/
theorem log2Ratio_bounds {n d : Nat} (hn : n ≠ 0) (hd : d ≠ 0) :
    (2 : ℚ) ^ log2Ratio n d ≤ n / d ∧ (n / d : ℚ) < 2 ^ (log2Ratio n d + 1) := by
  obtain ⟨nLo, nHi⟩ := log2_bounds hn
  obtain ⟨dLo, dHi⟩ := log2_bounds hd
  have dPos : (0 : ℚ) < d := by positivity
  set k : Int := (n.log2 : Int) - d.log2 with hk
  have upper : (n / d : ℚ) < 2 ^ (k + 1) := by
    rw [div_lt_iff₀ dPos]
    calc (n : ℚ) < 2 ^ ((n.log2 : Int) + 1) := nHi
      _ = 2 ^ (k + 1) * 2 ^ (d.log2 : Int) := by rw [← zpow_add₀ two_ne_zero]; congr 1; omega
      _ ≤ 2 ^ (k + 1) * d := by gcongr
  have lower : (2 : ℚ) ^ (k - 1) ≤ n / d := by
    rw [le_div_iff₀ dPos]
    calc (2 : ℚ) ^ (k - 1) * d ≤ 2 ^ (k - 1) * 2 ^ ((d.log2 : Int) + 1) := by gcongr
      _ = 2 ^ (n.log2 : Int) := by rw [← zpow_add₀ two_ne_zero]; congr 1; omega
      _ ≤ n := nLo
  have test : n * (pow2 k).2 < d * (pow2 k).1 ↔ (n / d : ℚ) < 2 ^ k := by
    obtain ⟨-, qPos⟩ := pow2_pos k
    rw [← pow2_ratio k, div_lt_div_iff₀ dPos (by exact_mod_cast qPos), mul_comm ((pow2 k).1 : ℚ)]
    exact_mod_cast Iff.rfl
  have value : log2Ratio n d = if n * (pow2 k).2 < d * (pow2 k).1 then k - 1 else k := rfl
  rw [value]
  split
  · exact ⟨lower, by rw [sub_add_cancel]; exact test.1 ‹_›⟩
  · exact ⟨not_lt.1 (mt test.2 ‹_›), upper⟩

/-- The exponent that `roundRat` finds is the one that the value has. -/
theorem log2Ratio_add_eq {n d : Nat} {e lg : Int} (hn : n ≠ 0) (hd : d ≠ 0) (lo : (2 : ℚ) ^ lg ≤ n / d * 2 ^ e)
    (hi : (n / d * 2 ^ e : ℚ) < 2 ^ (lg + 1)) : log2Ratio n d + e = lg := by
  obtain ⟨lo', hi'⟩ := log2Ratio_bounds hn hd
  have pos : (0 : ℚ) < 2 ^ e := by positivity
  refine exponent_unique ?_ ?_ lo hi
  · rw [zpow_add₀ two_ne_zero]; gcongr
  · rw [add_right_comm, zpow_add₀ two_ne_zero]; gcongr

/-! ## Rounding a magnitude to an integer -/

/-- The sign of a value as a factor. -/
def signOf (neg : Bool) : ℚ := if neg then -1 else 1

theorem signOf_mul_self (neg : Bool) : signOf neg * signOf neg = 1 := by cases neg <;> norm_num [signOf]

theorem signOf_ne_zero (neg : Bool) : signOf neg ≠ 0 := by cases neg <;> norm_num [signOf]

theorem abs_signOf_mul (neg : Bool) (x : ℚ) : |signOf neg * x| = |x| := by cases neg <;> simp [signOf]

/-- The integer to which a ratio is rounded, as a magnitude (R100, R102). -/
def roundRatio (rnd : Rnd) (neg : Bool) (x : Nat × Nat) : Nat :=
  if roundsUp rnd neg (x.1 / x.2) (x.1 % x.2) x.2 then x.1 / x.2 + 1 else x.1 / x.2

/-- A ratio is its integer part and a fraction below 1. -/
theorem ratio_split {x : Nat × Nat} (h : 0 < x.2) : ∃ φ : ℚ,
    (x.1 : ℚ) / x.2 = (x.1 / x.2 : Nat) + φ ∧ φ = (x.1 % x.2 : Nat) / x.2 ∧ 0 ≤ φ ∧ φ < 1 := by
  have pos : (0 : ℚ) < x.2 := by exact_mod_cast h
  refine ⟨(x.1 % x.2 : Nat) / x.2, ?_, rfl, by positivity, ?_⟩
  · rw [eq_comm, ← sub_eq_zero]
    have : (x.1 : ℚ) = x.2 * (x.1 / x.2 : Nat) + (x.1 % x.2 : Nat) := by exact_mod_cast (Nat.div_add_mod ..).symm
    field_simp
    linarith
  · rw [div_lt_one pos]
    exact_mod_cast Nat.mod_lt _ h

theorem roundRatio_exact {rnd : Rnd} {neg : Bool} {x : Nat × Nat} (h : x.1 % x.2 = 0) : roundRatio rnd neg x = x.1 / x.2 := by
  simp [roundRatio, roundsUp, h]

/-- Rounding is exact just where the ratio is an integer. -/
theorem roundRatio_eq_iff {rnd : Rnd} {neg : Bool} {x : Nat × Nat} (hx : 0 < x.2) :
    (roundRatio rnd neg x : ℚ) = x.1 / x.2 ↔ x.1 % x.2 = 0 := by
  have den : (x.2 : ℚ) ≠ 0 := by exact_mod_cast hx.ne'
  rw [eq_div_iff den]
  constructor
  · intro eq
    have eq : roundRatio rnd neg x * x.2 = x.1 := by exact_mod_cast eq
    rw [← eq, Nat.mul_mod_left]
  · intro exact
    rw [roundRatio_exact exact]
    exact_mod_cast Nat.div_mul_cancel (Nat.dvd_of_mod_eq_zero exact)

/-- A rounded ratio is the integer part or the next integer. -/
theorem roundRatio_bounds (rnd : Rnd) (neg : Bool) (x : Nat × Nat) :
    x.1 / x.2 ≤ roundRatio rnd neg x ∧ roundRatio rnd neg x ≤ x.1 / x.2 + 1 := by
  unfold roundRatio; split <;> omega

/-- Rounding on a grid is rounding to integers of the value in units of the grid. -/
theorem RoundsTo.unit {rnd : Rnd} {v u w : ℚ} (hu : 0 < u) (h : RoundsTo rnd (v * u) u (w * u)) : RoundsTo rnd v 1 w := by
  obtain ⟨sign, ⟨j, hj⟩, rule⟩ := h
  have cancel {a b : ℚ} : a * u ≤ b * u ↔ a ≤ b := mul_le_mul_iff_left₀ hu
  have cancelLt {a b : ℚ} : a * u < b * u ↔ a < b := mul_lt_mul_iff_left₀ hu
  have cancelEq {a b : ℚ} : a * u = b * u ↔ a = b := mul_left_inj' hu.ne'
  have absMul (a : ℚ) : |a * u| = |a| * u := by rw [abs_mul, abs_of_pos hu]
  have wj : w = j := cancelEq.1 hj
  refine ⟨?_, ⟨j, by rw [mul_one, wj]⟩, ?_⟩
  · have : w * u * (v * u) = w * v * (u * u) := by ring
    exact nonneg_of_mul_nonneg_left (this ▸ sign) (mul_pos hu hu)
  · have unit {a : ℚ} : a * u = u ↔ a = 1 := by rw [← cancelEq (a := a), one_mul]
    have unitLe {a : ℚ} : a * u ≤ u ↔ a ≤ 1 := by rw [← cancel (a := a), one_mul]
    have unitLt {a : ℚ} : a * u < u ↔ a < 1 := by rw [← cancelLt (a := a), one_mul]
    cases rnd with
    | rm r =>
      cases r with
      | rn =>
        simpa only [← sub_mul, absMul, ← mul_assoc, unitLe, unit, cancelEq, mul_one] using rule
      | rz => simpa only [absMul, ← sub_mul, cancel, unitLt] using rule
      | rd => simpa only [← sub_mul, cancel, unitLt] using rule
      | ru => simpa only [← sub_mul, cancel, unitLt] using rule
    | stoch seed =>
      obtain ⟨hs, k, lo, hi, hw⟩ := rule
      rw [absMul] at lo hi hw
      rw [absMul, ← sub_mul, mul_div_cancel_right₀ _ hu.ne'] at hw
      exact ⟨hs, k, by simpa using cancel.1 lo, by simpa using cancelLt.1 hi, by simpa using cancelEq.1 hw⟩

/-- When the integer part `i` of a positive magnitude with the fraction `φ` is rounded up (R100, R102). -/
def Rnd.Up (rnd : Rnd) (i : Nat) (φ : ℚ) : Prop := match rnd with
  | .rm .rn => 1 / 2 < φ ∨ (φ = 1 / 2 ∧ i % 2 = 1)
  | .rm .ru => 0 < φ
  | .stoch s => s - 1 < ⌊φ * 2 ^ 32⌋₊
  | _ => False

theorem roundsUp_iff (rnd : Rnd) (i r : Nat) {d : Nat} (hd : 0 < d) :
    roundsUp rnd false i r d = true ↔ rnd.Up i ((r : ℚ) / d) := by
  have pos : (0 : ℚ) < d := by exact_mod_cast hd
  have positive : 0 < (r : ℚ) / d ↔ r ≠ 0 := by
    rw [div_pos_iff_of_pos_right pos, Nat.cast_pos, Nat.pos_iff_ne_zero]
  have above : 1 / 2 < (r : ℚ) / d ↔ d < 2 * r := by
    rw [div_lt_div_iff₀ two_pos pos, one_mul, mul_comm (r : ℚ)]; exact_mod_cast Iff.rfl
  have tie : (r : ℚ) / d = 1 / 2 ↔ 2 * r = d := by
    rw [div_eq_div_iff pos.ne' two_ne_zero, one_mul, mul_comm (r : ℚ)]; exact_mod_cast Iff.rfl
  have scaled : ⌊(r : ℚ) / d * 2 ^ 32⌋₊ = r * 2 ^ 32 / d := by
    rw [div_mul_eq_mul_div, ← Nat.floor_div_eq_div (K := ℚ)]; norm_cast
  cases rnd with
  | rm m =>
    cases m <;> simp only [roundsUp, Rnd.Up, beq_iff_eq, positive, above, tie]
    case rn => 
      split
      · simp only [Bool.false_eq_true, false_iff]; omega
      · split <;> simp only [beq_iff_eq, decide_eq_true_eq] <;> omega
    all_goals simp
  | stoch s =>
    simp only [roundsUp, Rnd.Up, scaled, beq_iff_eq]
    split
    case isTrue h => simp [h]
    case isFalse h => simp

section Near
variable {j : Int} {i : Nat}

theorem eq_of_near (lo : (i : ℚ) - 1 < j) (hi : (j : ℚ) < i + 1) : j = i := by
  have : (i : Int) - 1 < j := by exact_mod_cast lo
  have : j < (i : Int) + 1 := by exact_mod_cast hi
  omega

theorem eq_succ_of_near (lo : (i : ℚ) < j) (hi : (j : ℚ) < i + 2) : j = i + 1 := by
  have : (i : Int) < j := by exact_mod_cast lo
  have : j < (i : Int) + 2 := by exact_mod_cast hi
  omega

/-- The nearest integer, and the even one of two that are as near. -/
theorem eq_of_nearest {φ : ℚ} (φ0 : 0 ≤ φ) (φ1 : φ < 1) (near : 2 * |(j : ℚ) - (i + φ)| ≤ 1)
    (tie : 2 * |(j : ℚ) - (i + φ)| = 1 → ∃ k : Int, (j : ℚ) = 2 * k) :
    ((Rnd.rm .rn).Up i φ → j = i + 1) ∧ (¬(Rnd.rm .rn).Up i φ → j = i) := by
  obtain ⟨lo, hi⟩ := abs_le.1 (show |(j : ℚ) - (i + φ)| ≤ 1 / 2 by linarith)
  have even (half : φ = 1 / 2) : (j = i ∨ j = i + 1) ∧ j % 2 = 0 := by
    subst half
    have ends : j = i ∨ j = i + 1 := by
      have lower : (i : ℚ) ≤ j := by linarith
      have upper : (j : ℚ) ≤ i + 1 := by linarith
      have lower : (i : Int) ≤ j := by exact_mod_cast lower
      have upper : j ≤ (i : Int) + 1 := by exact_mod_cast upper
      omega
    obtain ⟨k, hk⟩ := tie (by rcases ends with rfl | rfl <;> push_cast <;> norm_num [abs_of_pos, abs_of_neg])
    have : j = 2 * k := by exact_mod_cast hk
    omega
  refine ⟨fun up => ?_, fun stay => ?_⟩
  · rcases up with above | ⟨half, odd⟩
    · exact eq_succ_of_near (by linarith) (by linarith)
    · obtain ⟨ends, parity⟩ := even half
      omega
  · obtain ⟨below, odd⟩ := not_or.1 stay
    rcases (not_lt.1 below).lt_or_eq with less | half
    · exact eq_of_near (by linarith) (by linarith)
    · obtain ⟨ends, parity⟩ := even half
      have : i % 2 ≠ 1 := fun h => odd ⟨half, h⟩
      omega

end Near

/-- The integer that a rounding of a magnitude allows. -/
theorem RoundsTo.eq_of_nonneg {rnd : Rnd} {i : Nat} {φ w : ℚ} (φ0 : 0 ≤ φ) (φ1 : φ < 1) (h : RoundsTo rnd (i + φ) 1 w) :
    (rnd.Up i φ → w = i + 1) ∧ (¬rnd.Up i φ → w = i) := by
  obtain ⟨sign, ⟨j, rfl⟩, rule⟩ := h
  simp only [mul_one] at *
  have i0 : (0 : ℚ) ≤ i := by positivity
  have magnitude : |(i : ℚ) + φ| = i + φ := abs_of_nonneg (by linarith)
  suffices integer : (rnd.Up i φ → j = i + 1) ∧ (¬rnd.Up i φ → j = i) by
    exact ⟨fun up => by exact_mod_cast integer.1 up, fun stay => by exact_mod_cast integer.2 stay⟩
  have negative (hj : (j : ℚ) < 0) : (i : ℚ) = 0 ∧ φ = 0 ∧ 1 ≤ |(j : ℚ)| := by
    have : (i : ℚ) + φ ≤ 0 := by
      by_contra! pos
      exact absurd sign (not_le.2 (mul_neg_of_neg_of_pos hj pos))
    refine ⟨by linarith, by linarith, ?_⟩
    exact_mod_cast Int.one_le_abs (z := j) (by rintro rfl; simp at hj)
  cases rnd with
  | rm m =>
    cases m with
    | rn => exact eq_of_nearest φ0 φ1 rule.1 rule.2
    | rz =>
      obtain ⟨le, gap⟩ := rule
      rw [magnitude] at le gap
      have pos : (0 : ℚ) ≤ j := by
        by_contra! hj
        obtain ⟨hi, hφ, one⟩ := negative hj
        linarith
      rw [abs_of_nonneg pos] at le gap
      exact ⟨False.elim, fun _ => eq_of_near (by linarith) (by linarith)⟩
    | rd => exact ⟨False.elim, fun _ => eq_of_near (by linarith [rule.2]) (by linarith [rule.1])⟩
    | ru =>
      obtain ⟨ge, gap⟩ := rule
      refine ⟨fun up => eq_succ_of_near (by have : 0 < φ := up; linarith) (by linarith), fun stay => ?_⟩
      have : φ ≤ 0 := not_lt.1 stay
      exact eq_of_near (by linarith) (by linarith)
  | stoch s =>
    obtain ⟨-, k, lo, hi, hw⟩ := rule
    rw [magnitude] at lo hi hw
    obtain rfl : k = i := by
      exact_mod_cast eq_of_near (j := (k : Int)) (i := i) (by push_cast; linarith) (by push_cast; linarith)
    rw [add_sub_cancel_left, div_one] at hw
    have pos : (0 : ℚ) ≤ j := by
      by_contra! hj
      obtain ⟨hi, hφ, one⟩ := negative hj
      rw [if_neg (by simp [hφ])] at hw
      linarith
    rw [abs_of_nonneg pos] at hw
    have hw : j = if s - 1 < ⌊φ * 2 ^ 32⌋₊ then (k : Int) + 1 else k := by exact_mod_cast hw
    exact ⟨fun (up : s - 1 < ⌊φ * 2 ^ 32⌋₊) => by rw [hw, if_pos up],
      fun (stay : ¬s - 1 < ⌊φ * 2 ^ 32⌋₊) => by rw [hw, if_neg stay]⟩

/-- The rounding of the negated value. -/
def Rnd.mirror : Rnd → Rnd
  | .rm .rd => .rm .ru
  | .rm .ru => .rm .rd
  | r => r

theorem roundRatio_true (rnd : Rnd) (x : Nat × Nat) : roundRatio rnd true x = roundRatio rnd.mirror false x := by
  cases rnd with
  | rm m => cases m <;> rfl
  | stoch s => rfl

theorem RoundsTo.mirror {rnd : Rnd} {v u w : ℚ} (h : RoundsTo rnd v u w) : RoundsTo rnd.mirror (-v) u (-w) := by
  obtain ⟨sign, ⟨j, hj⟩, rule⟩ := h
  refine ⟨by rwa [neg_mul_neg], ⟨-j, by rw [hj]; push_cast; ring⟩, ?_⟩
  have diff : -w - -v = -(w - v) := by ring
  cases rnd with
  | rm m =>
    cases m with
    | rn =>
      obtain ⟨near, tie⟩ := rule
      simp only [Rnd.mirror, diff, abs_neg]
      refine ⟨near, fun h => ?_⟩
      obtain ⟨k, hk⟩ := tie h
      exact ⟨-k, by rw [hk]; push_cast; ring⟩
    | rz => simpa only [Rnd.mirror, abs_neg] using rule
    | rd => exact ⟨neg_le_neg rule.1, by linarith [rule.2]⟩
    | ru => exact ⟨neg_le_neg rule.1, by linarith [rule.2]⟩
  | stoch s => simpa only [Rnd.mirror, abs_neg] using rule

/-- The integer that a rounding of a ratio with a sign allows is the one that `roundRatio` gives. -/
theorem RoundsTo.eq_roundRatio {rnd : Rnd} {neg : Bool} {x : Nat × Nat} {w : ℚ} (hx : 0 < x.2)
    (h : RoundsTo rnd (signOf neg * (x.1 / x.2)) 1 w) : w = signOf neg * roundRatio rnd neg x := by
  obtain ⟨φ, split, frac, φ0, φ1⟩ := ratio_split hx
  have magnitude {rnd : Rnd} {w : ℚ} (h : RoundsTo rnd (x.1 / x.2) 1 w) : w = roundRatio rnd false x := by
    obtain ⟨up, stay⟩ := (split ▸ h).eq_of_nonneg φ0 φ1
    unfold roundRatio
    by_cases hup : rnd.Up (x.1 / x.2) φ
    · rw [if_pos ((roundsUp_iff _ _ _ hx).2 (frac ▸ hup)), up hup]; push_cast; rfl
    · rw [if_neg (mt (roundsUp_iff _ _ _ hx).1 (frac ▸ hup)), stay hup]
  cases neg with
  | false => simpa [signOf] using magnitude (by simpa [signOf] using h)
  | true =>
    have := magnitude (by simpa [signOf] using h.mirror)
    rw [roundRatio_true, ← this]
    simp [signOf]

end Sys2Proof.Machine
end

section
/-!
PROOFS. RoundToFormat in numbers: the points of a format as natural multiples of its smallest one, the outcomes of `roundRat`,
and the values that come back unchanged.
-/

namespace Sys2Proof.Machine

/-! ## The points of a format -/

/-- The mantissa of the point that a magnitude encodes. -/
def FFmt.frac (f : FFmt) (mag : Nat) : Nat :=
  if mag / 2 ^ f.mant = 0 then mag % 2 ^ f.mant else 2 ^ f.mant + mag % 2 ^ f.mant
/-- The exponent of the point that a magnitude encodes, above that of the smallest point. -/
def FFmt.shift (f : FFmt) (mag : Nat) : Nat := mag / 2 ^ f.mant - 1
/-- The point that a magnitude encodes, in units of the smallest one. -/
def FFmt.steps (f : FFmt) (mag : Nat) : Nat := f.frac mag * 2 ^ f.shift mag
/-- The exponent of the smallest point. -/
def FFmt.unitExp (f : FFmt) : Int := f.emin - f.mant
/-- The magnitude that encodes the point m * 2^k. -/
def FFmt.pack (f : FFmt) (k m : Nat) : Nat := if m < 2 ^ f.mant then m else (k + 1) * 2 ^ f.mant + (m - 2 ^ f.mant)

section Points
variable (f : FFmt)

theorem FFmt.frac_shift_of_lt {mag : Nat} (h : mag < 2 ^ f.mant) : f.frac mag = mag ∧ f.shift mag = 0 := by
  simp [FFmt.frac, FFmt.shift, Nat.div_eq_of_lt h, Nat.mod_eq_of_lt h]

theorem FFmt.frac_shift_normal (E : Nat) {F : Nat} (h : F < 2 ^ f.mant) :
    f.frac ((E + 1) * 2 ^ f.mant + F) = 2 ^ f.mant + F ∧ f.shift ((E + 1) * 2 ^ f.mant + F) = E := by
  have pos : 0 < 2 ^ f.mant := by positivity
  have exp : ((E + 1) * 2 ^ f.mant + F) / 2 ^ f.mant = E + 1 := by
    rw [mul_comm, Nat.mul_add_div pos, Nat.div_eq_of_lt h, add_zero]
  have low : ((E + 1) * 2 ^ f.mant + F) % 2 ^ f.mant = F := by
    rw [mul_comm, Nat.mul_add_mod, Nat.mod_eq_of_lt h]
  simp [FFmt.frac, FFmt.shift, exp, low]

/-- A magnitude is below the normal ones, or an exponent and a fraction. -/
theorem FFmt.mag_cases (mag : Nat) : mag < 2 ^ f.mant ∨ ∃ E F, F < 2 ^ f.mant ∧ mag = (E + 1) * 2 ^ f.mant + F := by
  have pos : 0 < 2 ^ f.mant := by positivity
  rcases lt_or_ge mag (2 ^ f.mant) with low | high
  · exact .inl low
  · refine .inr ⟨mag / 2 ^ f.mant - 1, mag % 2 ^ f.mant, Nat.mod_lt _ pos, ?_⟩
    rw [Nat.sub_add_cancel (Nat.div_pos high pos), mul_comm, Nat.div_add_mod]

theorem FFmt.pack_frac_shift (mag : Nat) : f.pack (f.shift mag) (f.frac mag) = mag := by
  rcases f.mag_cases mag with low | ⟨E, F, hF, rfl⟩
  · obtain ⟨hfrac, hshift⟩ := f.frac_shift_of_lt low
    rw [FFmt.pack, hfrac, if_pos low]
  · obtain ⟨hfrac, hshift⟩ := f.frac_shift_normal E hF
    rw [FFmt.pack, hfrac, hshift, if_neg (by omega)]
    omega

/-- Packing a mantissa on a grid encodes its point. -/
theorem FFmt.steps_pack {k m : Nat} (low : m < 2 ^ f.mant → k = 0) (high : m ≤ 2 ^ (f.mant + 1)) :
    f.steps (f.pack k m) = m * 2 ^ k := by
  unfold FFmt.pack FFmt.steps
  rw [Nat.pow_succ] at high
  split
  case isTrue h =>
    obtain ⟨hfrac, hshift⟩ := f.frac_shift_of_lt h
    rw [hfrac, hshift, low h]
  case isFalse h =>
    rcases lt_or_ge (m - 2 ^ f.mant) (2 ^ f.mant) with fits | carries
    · obtain ⟨hfrac, hshift⟩ := f.frac_shift_normal k fits
      rw [hfrac, hshift, Nat.add_sub_cancel' (not_lt.1 h)]
    · obtain rfl : m = 2 ^ f.mant + 2 ^ f.mant := by omega
      obtain ⟨hfrac, hshift⟩ := f.frac_shift_normal (k + 1) (F := 0) (by positivity)
      rw [show (k + 1) * 2 ^ f.mant + (2 ^ f.mant + 2 ^ f.mant - 2 ^ f.mant) = (k + 1 + 1) * 2 ^ f.mant + 0 by
        rw [Nat.add_sub_cancel]; ring, hfrac, hshift]
      ring

theorem FFmt.steps_strictMono : StrictMono f.steps := by
  refine strictMono_nat_of_lt_succ fun mag => ?_
  have pos : 0 < 2 ^ f.mant := by positivity
  rcases f.mag_cases mag with low | ⟨E, F, hF, rfl⟩
  · obtain ⟨hfrac, hshift⟩ := f.frac_shift_of_lt low
    have value : f.steps mag = mag := by rw [FFmt.steps, hfrac, hshift, pow_zero, mul_one]
    rw [value]
    rcases (Nat.succ_le_of_lt low).lt_or_eq with low' | top
    · obtain ⟨hfrac', hshift'⟩ := f.frac_shift_of_lt low'
      rw [FFmt.steps, hfrac', hshift']; omega
    · obtain ⟨hfrac', hshift'⟩ := f.frac_shift_normal 0 (F := 0) pos
      rw [FFmt.steps, show mag + 1 = (0 + 1) * 2 ^ f.mant + 0 by omega, hfrac', hshift']
      omega
  · obtain ⟨hfrac, hshift⟩ := f.frac_shift_normal E hF
    have grow : 0 < 2 ^ E := by positivity
    rw [FFmt.steps, hfrac, hshift]
    rcases (Nat.succ_le_of_lt hF).lt_or_eq with hF' | top
    · obtain ⟨hfrac', hshift'⟩ := f.frac_shift_normal E hF'
      rw [FFmt.steps, add_assoc, hfrac', hshift']
      exact Nat.mul_lt_mul_of_pos_right (by omega) grow
    · obtain ⟨hfrac', hshift'⟩ := f.frac_shift_normal (E + 1) (F := 0) pos
      rw [FFmt.steps, show (E + 1) * 2 ^ f.mant + F + 1 = (E + 1 + 1) * 2 ^ f.mant + 0 by
        rw [add_assoc, Nat.add_one F, top]; ring, hfrac', hshift', Nat.pow_succ, ← mul_assoc, mul_right_comm]
      exact Nat.mul_lt_mul_of_pos_right (by omega) grow

end Points

/-! ## The formats of R87 -/

/-- The floating-point formats of R87. -/
def floatTypes : List Ty := [Ty.f64, .f32, .f16, .bf16, .e4m3, .e5m2, .e2m1]

/-- The magnitudes of a format that encode neither an infinity nor a NaN are those up to the largest finite one. -/
theorem finite_iff {t : Ty} (ht : t ∈ floatTypes) {mag : Nat} (h : mag < (ffmt t).signBit) :
    mag ≤ (ffmt t).maxFin ↔ ¬((ffmt t).ieee = true ∧ mag / 2 ^ (ffmt t).mant = (ffmt t).emax) ∧
      ¬((ffmt t).ieee = false ∧ (ffmt t).mant = 3 ∧ mag / 2 ^ (ffmt t).mant = 15 ∧ mag % 2 ^ (ffmt t).mant = 7) := by
  simp only [floatTypes, List.mem_cons, List.not_mem_nil, or_false] at ht
  rcases ht with rfl | rfl | rfl | rfl | rfl | rfl | rfl <;>
    simp [ffmt, FFmt.maxFin, FFmt.emax, FFmt.signBit] at h ⊢ <;> omega

theorem maxFin_lt {t : Ty} (ht : t ∈ floatTypes) : (ffmt t).maxFin < (ffmt t).signBit := by
  revert t; decide

theorem width_eq (f : FFmt) : 2 ^ f.width = 2 * f.signBit := by
  rw [FFmt.width, FFmt.signBit, add_assoc, pow_add, pow_one]

section Decode
variable {t : Ty} (ht : t ∈ floatTypes) {mag : Nat}

theorem signed_lt {f : FFmt} (neg : Bool) (h : mag < f.signBit) : f.signed neg mag < 2 ^ f.width := by
  rw [width_eq, FFmt.signed]; split <;> omega

/-- Sign, exponent and fraction of an encoding. -/
theorem signed_fields {f : FFmt} (neg : Bool) (h : mag < f.signBit) : (f.signed neg mag / f.signBit % 2 == 1) = neg ∧
    f.signed neg mag / 2 ^ f.mant % 2 ^ f.ebits = mag / 2 ^ f.mant ∧ f.signed neg mag % 2 ^ f.mant = mag % 2 ^ f.mant := by
  have pos : 0 < 2 ^ f.mant := by positivity
  have sign : f.signBit = 2 ^ f.mant * 2 ^ f.ebits := by rw [FFmt.signBit, add_comm, pow_add]
  have exp : mag / 2 ^ f.mant < 2 ^ f.ebits := Nat.div_lt_of_lt_mul (sign ▸ h)
  cases neg with
  | false =>
    simp only [FFmt.signed, Bool.false_eq_true, if_false]
    exact ⟨by rw [Nat.div_eq_of_lt h]; rfl, Nat.mod_eq_of_lt exp, trivial⟩
  | true =>
    simp only [FFmt.signed, if_true]
    refine ⟨?_, ?_, ?_⟩
    · rw [Nat.add_div_left _ (by omega), Nat.div_eq_of_lt h]; rfl
    · rw [sign, Nat.mul_add_div pos, Nat.add_mod_left, Nat.mod_eq_of_lt exp]
    · rw [sign, Nat.mul_add_mod]

/-- An encoding of a format is a sign with a magnitude. -/
theorem exists_signed {f : FFmt} {b : Nat} (h : b < 2 ^ f.width) : ∃ neg mag, mag < f.signBit ∧ b = f.signed neg mag := by
  rw [width_eq] at h
  rcases lt_or_ge b f.signBit with pos | neg
  · exact ⟨false, b, pos, rfl⟩
  · exact ⟨true, b - f.signBit, by omega, by simp only [FFmt.signed, if_true]; omega⟩

include ht

theorem decode_signed (neg : Bool) (h : mag ≤ (ffmt t).maxFin) :
    (ffmt t).decode ((ffmt t).signed neg mag) = .fin neg ((ffmt t).frac mag) ((ffmt t).shift mag + (ffmt t).unitExp) := by
  have small := h.trans_lt (maxFin_lt ht)
  obtain ⟨sign, exp, low⟩ := signed_fields neg small
  obtain ⟨noSpecial, noNan⟩ := (finite_iff ht small).1 h
  simp only [FFmt.decode, sign, exp, low]
  rw [if_neg (by simpa using noSpecial), if_neg (by simpa [and_assoc] using noNan)]
  by_cases zero : mag / 2 ^ (ffmt t).mant = 0
  · simp [zero, FFmt.frac, FFmt.shift, FFmt.unitExp]
  · have : mag / 2 ^ (ffmt t).mant = (mag / 2 ^ (ffmt t).mant - 1) + 1 := by omega
    rw [if_neg (by simpa using zero), FFmt.frac, if_neg zero]
    congr 1
    simp only [FFmt.shift, FFmt.unitExp, FFmt.emin]
    omega

/-- An encoding that decodes to a finite value is a sign with a magnitude of a point. -/
theorem exists_mag_of_decode {b : Nat} {neg : Bool} {m : Nat} {e : Int} (h : (ffmt t).decode b = .fin neg m e)
    (hb : b < 2 ^ (ffmt t).width) : ∃ mag, mag ≤ (ffmt t).maxFin ∧ b = (ffmt t).signed neg mag ∧ m = (ffmt t).frac mag ∧
      e = (ffmt t).shift mag + (ffmt t).unitExp := by
  obtain ⟨neg', mag, small, rfl⟩ := exists_signed hb
  obtain ⟨sign, exp, low⟩ := signed_fields neg' small
  have fits : mag ≤ (ffmt t).maxFin := by
    rw [finite_iff ht small]
    simp only [FFmt.decode, sign, exp, low] at h
    refine ⟨fun special => ?_, fun nan => ?_⟩
    · rw [if_pos (by simpa using special)] at h
      split at h <;> cases h
    · obtain ⟨hieee, rest⟩ := nan
      rw [if_neg (by simp [hieee]), if_pos (by simpa [hieee, and_assoc] using rest)] at h
      cases h
  rw [decode_signed ht _ fits] at h
  cases h
  exact ⟨mag, fits, rfl, rfl, rfl⟩

theorem value_signed (neg : Bool) (h : mag ≤ (ffmt t).maxFin) :
    ((ffmt t).decode ((ffmt t).signed neg mag)).value = signOf neg * ((ffmt t).steps mag * 2 ^ (ffmt t).unitExp) := by
  rw [decode_signed ht neg h, FVal.value, zpow_add₀ two_ne_zero, zpow_natCast]
  simp only [signOf, FFmt.steps]
  push_cast
  ring

end Decode

/-! ## RoundToFormat -/

/-- How far the grid of a value with the exponent `lg` lies above the smallest point, in powers of two. -/
def FFmt.gridShift (f : FFmt) (lg : Int) : Nat := (lg - f.emin).toNat
/-- The exponent of the spacing of that grid (R99). -/
def FFmt.gridExp (f : FFmt) (lg : Int) : Int := max lg f.emin - f.mant
/-- A ratio in units of its grid. -/
def FFmt.onGrid (f : FFmt) (lg : Int) (n d : Nat) (e : Int) : Nat × Nat := shiftRatio n d (e - f.gridExp lg)
/-- The magnitude that a ratio is rounded to. -/
def FFmt.rounded (f : FFmt) (lg : Int) (rnd : Rnd) (neg : Bool) (n d : Nat) (e : Int) : Nat :=
  f.pack (f.gridShift lg) (roundRatio rnd neg (f.onGrid lg n d e))

theorem FFmt.gridExp_eq (f : FFmt) (lg : Int) : f.gridExp lg = f.gridShift lg + f.unitExp := by
  simp only [FFmt.gridExp, FFmt.gridShift, FFmt.unitExp]; omega

/-- The magnitude of the point m * 2^q of a grid, as RoundToFormat counts it. -/
def FFmt.packInt (f : FFmt) (q : Int) (m : Nat) : Int :=
  if m < 2 ^ f.mant then (m : Int) else (q - (f.emin - f.mant) + 1) * 2 ^ f.mant + ((m : Int) - 2 ^ f.mant)

theorem FFmt.packInt_gridExp (f : FFmt) (lg : Int) (m : Nat) : f.packInt (f.gridExp lg) m = f.pack (f.gridShift lg) m := by
  have shift : f.gridExp lg - (f.emin - f.mant) = f.gridShift lg := by rw [f.gridExp_eq, FFmt.unitExp]; omega
  rw [FFmt.packInt, shift, FFmt.pack]
  split
  · rfl
  · push_cast [Nat.cast_sub (not_lt.1 ‹_›)]; rfl

theorem FFmt.rounded_eq_toNat (f : FFmt) (lg : Int) (rnd : Rnd) (neg : Bool) (n d : Nat) (e : Int) :
    f.rounded lg rnd neg n d e = (f.packInt (f.gridExp lg) (roundRatio rnd neg (f.onGrid lg n d e))).toNat := by
  rw [FFmt.rounded, f.packInt_gridExp, Int.toNat_natCast]

/-- The outcomes of RoundToFormat: flushed, overflowed, or a point with the flags of its rounding. -/
theorem roundRat_eq {f : FFmt} {rnd : Rnd} {sat fz neg : Bool} {n d : Nat} {e lg : Int} (hlg : log2Ratio n d + e = lg) :
    roundRat f rnd sat fz neg n d e =
      if lg < f.emin ∧ fz = true then (f.signed neg 0, fUFL + fINX)
      else if f.maxFin < f.rounded lg rnd neg n d e then overflowTo f rnd sat neg
      else (if f.mant = 1 ∧ f.rounded lg rnd neg n d e = 0 then 0 else f.signed neg (f.rounded lg rnd neg n d e),
        if (f.onGrid lg n d e).1 % (f.onGrid lg n d e).2 = 0 then 0 else fINX + if lg < f.emin then fUFL else 0) := by
  rw [f.rounded_eq_toNat]
  simp only [roundRat, hlg, Bool.and_eq_true, decide_eq_true_eq, beq_iff_eq, Int.lt_toNat]
  rfl

section Bounds
variable {f : FFmt} {n d : Nat} {e lg : Int}

theorem onGrid_den_pos (hd : d ≠ 0) : 0 < (f.onGrid lg n d e).2 := shiftRatio_den_pos hd _

/-- A value is its ratio on the grid in units of the grid. -/
theorem onGrid_ratio : ((f.onGrid lg n d e).1 / (f.onGrid lg n d e).2 : ℚ) * 2 ^ f.gridExp lg = n / d * 2 ^ e := by
  rw [FFmt.onGrid, shiftRatio_ratio, mul_assoc, ← zpow_add₀ two_ne_zero, sub_add_cancel]

variable (hd : d ≠ 0)
include hd

theorem onGrid_lt (hi : (n / d * 2 ^ e : ℚ) < 2 ^ (lg + 1)) :
    (f.onGrid lg n d e).1 / (f.onGrid lg n d e).2 < 2 ^ (f.mant + 1) := by
  have pos : (0 : ℚ) < 2 ^ f.gridExp lg := by positivity
  refine Nat.div_lt_of_lt_mul ?_
  have ratio : ((f.onGrid lg n d e).1 : ℚ) / (f.onGrid lg n d e).2 < 2 ^ (f.mant + 1) := by
    rw [← mul_lt_mul_iff_left₀ pos, onGrid_ratio, ← zpow_natCast, ← zpow_add₀ two_ne_zero]
    refine hi.trans_le (zpow_le_zpow_right₀ one_le_two ?_)
    simp only [FFmt.gridExp]; push_cast; omega
  rw [div_lt_iff₀ (by exact_mod_cast onGrid_den_pos hd), mul_comm] at ratio
  exact_mod_cast ratio

theorem le_onGrid (lo : (2 : ℚ) ^ lg ≤ n / d * 2 ^ e) (normal : f.emin ≤ lg) :
    2 ^ f.mant ≤ (f.onGrid lg n d e).1 / (f.onGrid lg n d e).2 := by
  have pos : (0 : ℚ) < 2 ^ f.gridExp lg := by positivity
  rw [Nat.le_div_iff_mul_le (onGrid_den_pos hd)]
  have ratio : (2 : ℚ) ^ f.mant ≤ (f.onGrid lg n d e).1 / (f.onGrid lg n d e).2 := by
    rw [← mul_le_mul_iff_left₀ pos, onGrid_ratio, ← zpow_natCast, ← zpow_add₀ two_ne_zero]
    refine le_trans (zpow_le_zpow_right₀ one_le_two ?_) lo
    simp only [FFmt.gridExp]; omega
  rw [le_div_iff₀ (by exact_mod_cast onGrid_den_pos hd)] at ratio
  exact_mod_cast ratio

/-- The magnitude that a value is rounded to encodes its rounded multiple of the grid. -/
theorem steps_rounded (lo : (2 : ℚ) ^ lg ≤ n / d * 2 ^ e) (hi : (n / d * 2 ^ e : ℚ) < 2 ^ (lg + 1)) (rnd : Rnd) (neg : Bool) :
    f.steps (f.rounded lg rnd neg n d e) = roundRatio rnd neg (f.onGrid lg n d e) * 2 ^ f.gridShift lg := by
  obtain ⟨down, up⟩ := roundRatio_bounds rnd neg (f.onGrid lg n d e)
  refine f.steps_pack (fun small => ?_) ?_
  · by_contra above
    have := le_onGrid (f := f) hd lo (by have := above; simp only [FFmt.gridShift] at this; omega)
    omega
  · have := onGrid_lt (f := f) hd hi
    omega

end Bounds

/-- The grid of a point is the one on which its encoding puts it. -/
theorem gridShift_of_steps {f : FFmt} {lg : Int} {mag : Nat} (nonzero : mag ≠ 0)
    (lo : (2 : ℚ) ^ lg ≤ f.steps mag * 2 ^ f.unitExp) (hi : (f.steps mag * 2 ^ f.unitExp : ℚ) < 2 ^ (lg + 1)) :
    f.gridShift lg = f.shift mag ∧ (lg < f.emin ↔ mag < 2 ^ f.mant) := by
  have one : (1 : ℚ) < 2 := by norm_num
  rcases f.mag_cases mag with low | ⟨E, F, hF, rfl⟩
  · obtain ⟨hfrac, hshift⟩ := f.frac_shift_of_lt low
    have below : lg < f.emin := by
      rw [← zpow_lt_zpow_iff_right₀ one]
      refine lo.trans_lt ?_
      rw [FFmt.steps, hfrac, hshift, pow_zero, mul_one, show f.emin = f.mant + f.unitExp by rw [FFmt.unitExp]; omega,
        zpow_add₀ two_ne_zero, zpow_natCast]
      gcongr
      exact_mod_cast low
    rw [hshift, FFmt.gridShift]
    exact ⟨by omega, iff_of_true below low⟩
  · obtain ⟨hfrac, hshift⟩ := f.frac_shift_normal E hF
    have exponent : lg = E + f.emin := by
      have value : (f.steps ((E + 1) * 2 ^ f.mant + F) * 2 ^ f.unitExp : ℚ) = (2 ^ f.mant + F : Nat) * 2 ^ (E + f.unitExp) := by
        rw [FFmt.steps, hfrac, hshift, zpow_add₀ two_ne_zero, zpow_natCast]; push_cast; ring
      have split : (E + f.emin : Int) = f.mant + (E + f.unitExp) := by rw [FFmt.unitExp]; omega
      have pos : (0 : ℚ) < 2 ^ (E + f.unitExp) := by positivity
      refine exponent_unique lo hi ?_ ?_
      · rw [value, split, zpow_add₀ two_ne_zero, zpow_natCast]
        gcongr
        push_cast; linarith [(Nat.cast_nonneg F : (0 : ℚ) ≤ F)]
      · rw [value, split, add_right_comm, zpow_add₀ two_ne_zero _ (_ + _)]
        gcongr
        have : 2 ^ f.mant + F < 2 ^ (f.mant + 1) := by rw [Nat.pow_succ]; omega
        exact_mod_cast this
    rw [hshift, FFmt.gridShift, exponent]
    have : 1 * 2 ^ f.mant ≤ (E + 1) * 2 ^ f.mant := Nat.mul_le_mul_right _ (by omega)
    exact ⟨by omega, iff_of_false (by omega) (by omega)⟩

/-- A value of the format is its own rounding (R99); a subnormal one where no flush is in force. -/
theorem roundRat_exact {f : FFmt} {rnd : Rnd} {sat fz neg : Bool} {n d : Nat} {e : Int} (hn : n ≠ 0)
    (hd : d ≠ 0) {mag : Nat} (fits : mag ≤ f.maxFin) (nonzero : mag ≠ 0)
    (kept : fz = true → 2 ^ f.mant ≤ mag)
    (value : (n / d * 2 ^ e : ℚ) = f.steps mag * 2 ^ f.unitExp) :
    roundRat f rnd sat fz neg n d e = (f.signed neg mag, 0) := by
  obtain ⟨lg, hlg⟩ : ∃ lg, log2Ratio n d + e = lg := ⟨_, rfl⟩
  obtain ⟨lo, hi⟩ : (2 : ℚ) ^ lg ≤ n / d * 2 ^ e ∧ (n / d * 2 ^ e : ℚ) < 2 ^ (lg + 1) := by
    obtain ⟨lo, hi⟩ := log2Ratio_bounds hn hd
    rw [← hlg, add_right_comm, zpow_add₀ two_ne_zero, zpow_add₀ two_ne_zero]
    constructor <;> gcongr
  obtain ⟨grid, tiny⟩ := gridShift_of_steps nonzero (value ▸ lo) (value ▸ hi)
  have pos := onGrid_den_pos (f := f) (n := n) (e := e) (lg := lg) hd
  have ratio : (f.onGrid lg n d e).1 = f.frac mag * (f.onGrid lg n d e).2 := by
    have unit : (0 : ℚ) < 2 ^ f.gridExp lg := by positivity
    have : ((f.onGrid lg n d e).1 / (f.onGrid lg n d e).2 : ℚ) * 2 ^ f.gridExp lg = f.frac mag * 2 ^ f.gridExp lg := by
      rw [onGrid_ratio, value, f.gridExp_eq, grid, FFmt.steps, zpow_add₀ two_ne_zero, zpow_natCast]; push_cast; ring
    have := mul_right_cancel₀ unit.ne' this
    rw [div_eq_iff (by exact_mod_cast pos.ne')] at this
    exact_mod_cast this
  have exact : (f.onGrid lg n d e).1 % (f.onGrid lg n d e).2 = 0 := by rw [ratio, Nat.mul_mod_left]
  have rounded : f.rounded lg rnd neg n d e = mag := by
    rw [FFmt.rounded, roundRatio_exact exact, ratio, Nat.mul_div_cancel _ pos, grid, f.pack_frac_shift]
  rw [roundRat_eq hlg, rounded, if_neg (by rintro ⟨h, hfz⟩; have := kept hfz; have := tiny.1 h; omega), if_neg (by omega),
    if_neg (by simp [nonzero]), if_pos exact]

/-! ## The rounded value -/

theorem FFmt.steps_zero (f : FFmt) : f.steps 0 = 0 := by
  simp [FFmt.steps, FFmt.frac]

theorem FFmt.steps_eq_zero (f : FFmt) {mag : Nat} : f.steps mag = 0 ↔ mag = 0 := by
  conv_lhs => rw [← f.steps_zero, f.steps_strictMono.injective.eq_iff]

section Rounded
variable {f : FFmt} {rnd : Rnd} {neg : Bool} {n d : Nat} {e lg : Int} {v w : ℚ} (hd : d ≠ 0)
  (hv : v = signOf neg * (n / d * 2 ^ e)) (h : RoundsTo rnd v (2 ^ f.gridExp lg) w)
include hd hv h

/-- The point that a rounding allows, in units of the grid. -/
theorem RoundsTo.eq_onGrid : w = signOf neg * roundRatio rnd neg (f.onGrid lg n d e) * 2 ^ f.gridExp lg := by
  have pos : (0 : ℚ) < 2 ^ f.gridExp lg := by positivity
  have unit : RoundsTo rnd (signOf neg * ((f.onGrid lg n d e).1 / (f.onGrid lg n d e).2)) 1 (w / 2 ^ f.gridExp lg) := by
    refine RoundsTo.unit pos ?_
    rwa [mul_assoc, onGrid_ratio, ← hv, div_mul_cancel₀ _ pos.ne']
  rw [← unit.eq_roundRatio (onGrid_den_pos hd), div_mul_cancel₀ _ pos.ne']

/-- The rounding is exact just where the ratio on the grid is an integer. -/
theorem RoundsTo.eq_iff_mod : w = v ↔ (f.onGrid lg n d e).1 % (f.onGrid lg n d e).2 = 0 := by
  have pos : (0 : ℚ) < 2 ^ f.gridExp lg := by positivity
  rw [h.eq_onGrid hd hv, hv, ← onGrid_ratio (f := f) (lg := lg), ← mul_assoc, mul_left_inj' pos.ne',
    mul_right_inj' (signOf_ne_zero neg), roundRatio_eq_iff (onGrid_den_pos hd)]

variable (lo : (2 : ℚ) ^ lg ≤ n / d * 2 ^ e) (hi : (n / d * 2 ^ e : ℚ) < 2 ^ (lg + 1))
include lo hi

/-- The point that a rounding allows is the one whose magnitude RoundToFormat computes. -/
theorem RoundsTo.eq_steps : w = signOf neg * (f.steps (f.rounded lg rnd neg n d e) * 2 ^ f.unitExp) := by
  rw [h.eq_onGrid hd hv, steps_rounded hd lo hi, f.gridExp_eq, zpow_add₀ two_ne_zero, zpow_natCast]
  push_cast
  ring

theorem RoundsTo.abs_eq_steps : |w| = f.steps (f.rounded lg rnd neg n d e) * 2 ^ f.unitExp := by
  rw [h.eq_steps hd hv lo hi, abs_signOf_mul, abs_of_nonneg (by positivity)]

end Rounded

/-! ## The three outcomes (R99 to R101) -/

section Format
variable {t : Ty} (ht : t ∈ floatTypes)
include ht

theorem value_maxFin : ((ffmt t).decode (ffmt t).maxFin).value = (ffmt t).steps (ffmt t).maxFin * 2 ^ (ffmt t).unitExp := by
  simpa [FFmt.signed, signOf] using value_signed ht false le_rfl

theorem mant_eq_one : (ffmt t).mant = 1 ↔ t = .e2m1 := by
  revert t; decide

/-- A point beyond the largest finite value overflows by R100's table. -/
theorem overflowTo_eq (rnd : Rnd) (sat neg : Bool) : overflowTo (ffmt t) rnd sat neg =
    if sat then ((ffmt t).signed neg (ffmt t).maxFin, 4 + 16 + 32)
    else if t = .e4m3 then (0x7F, 4 + 16)
    else if t = .e2m1 then ((ffmt t).signed neg 7, 4 + 16)
    else ((ffmt t).signed neg (match rnd with
      | .rm .rz => (ffmt t).maxFin
      | .rm .rd => if neg then (ffmt t).infBits else (ffmt t).maxFin
      | .rm .ru => if neg then (ffmt t).maxFin else (ffmt t).infBits
      | _ => (ffmt t).infBits), 4 + 16) := by
  have ieee : (ffmt t).ieee = false ↔ t = .e4m3 ∨ t = .e2m1 := by revert t; decide
  cases sat with
  | true => rfl
  | false =>
    by_cases h4 : t = .e4m3
    · subst h4; rfl
    by_cases h2 : t = .e2m1
    · subst h2; rfl
    have : (ffmt t).ieee = true := by simpa [h4, h2] using ieee
    simp only [overflowTo, this, h4, h2, Bool.false_eq_true, if_false, Bool.not_true]
    cases rnd with
    | rm m => cases m <;> cases neg <;> rfl
    | stoch s => rfl

variable {rnd : Rnd} {sat fz neg : Bool} {n d : Nat} {e lg : Int} {v w : ℚ} (hn : n ≠ 0) (hd : d ≠ 0)
  (hv : v = signOf neg * (n / d * 2 ^ e)) (lo : (2 : ℚ) ^ lg ≤ n / d * 2 ^ e) (hi : (n / d * 2 ^ e : ℚ) < 2 ^ (lg + 1))
  (h : RoundsTo rnd v (2 ^ (ffmt t).gridExp lg) w) (kept : ¬(lg < (ffmt t).emin ∧ fz = true))
include hn hd hv lo hi h kept

theorem roundRat_overflow (big : ((ffmt t).decode (ffmt t).maxFin).value < |w|) :
    roundRat (ffmt t) rnd sat fz neg n d e = overflowTo (ffmt t) rnd sat neg := by
  have pos : (0 : ℚ) < 2 ^ (ffmt t).unitExp := by positivity
  rw [value_maxFin ht, h.abs_eq_steps hd hv lo hi, mul_lt_mul_iff_left₀ pos, Nat.cast_lt,
    (ffmt t).steps_strictMono.lt_iff_lt] at big
  rw [roundRat_eq (log2Ratio_add_eq hn hd lo hi), if_neg kept, if_pos big]

theorem roundRat_point (fits : |w| ≤ ((ffmt t).decode (ffmt t).maxFin).value) :
    let r := roundRat (ffmt t) rnd sat fz neg n d e
    (∃ m k, (ffmt t).decode r.1 = .fin (neg && !(decide (t = .e2m1 ∧ w = 0))) m k) ∧ ((ffmt t).decode r.1).value = w ∧
      r.1 < 2 ^ (ffmt t).width ∧ r.2 = if w = v then 0 else 16 + if lg < (ffmt t).emin then 8 else 0 := by
  intro r
  have pos : (0 : ℚ) < 2 ^ (ffmt t).unitExp := by positivity
  have exact := h.eq_iff_mod hd hv
  have value := h.eq_steps hd hv lo hi
  have size := h.abs_eq_steps hd hv lo hi
  have model := roundRat_eq (f := ffmt t) (rnd := rnd) (sat := sat) (fz := fz) (neg := neg) (log2Ratio_add_eq hn hd lo hi)
  generalize (ffmt t).rounded lg rnd neg n d e = mag at value size model
  rw [value_maxFin ht, size, mul_le_mul_iff_left₀ pos, Nat.cast_le,
    (ffmt t).steps_strictMono.le_iff_le] at fits
  have zero : w = 0 ↔ mag = 0 := by
    rw [← abs_eq_zero, size, mul_eq_zero, or_iff_left pos.ne', Nat.cast_eq_zero, (ffmt t).steps_eq_zero]
  have out : r = (if t = .e2m1 ∧ mag = 0 then 0 else (ffmt t).signed neg mag,
      if w = v then 0 else 16 + if lg < (ffmt t).emin then 8 else 0) := by
    simp only [r, model, if_neg kept, if_neg (not_lt.2 fits), mant_eq_one ht, exact]
    rfl
  have code : r.1 = (ffmt t).signed (neg && !(decide (t = .e2m1 ∧ w = 0))) mag := by
    rw [out]
    by_cases plain : t = .e2m1 ∧ mag = 0
    · simp [plain, zero, FFmt.signed]
    · simp [plain, zero]
  refine ⟨⟨_, _, code ▸ decode_signed ht _ fits⟩, ?_, code ▸ signed_lt _ (fits.trans_lt (maxFin_lt ht)), by rw [out]⟩
  rw [code, value_signed ht _ fits]
  by_cases nothing : mag = 0
  · rw [value, nothing, (ffmt t).steps_zero]; simp
  · simp only [mt zero.1 nothing, and_false, decide_false, Bool.not_false, Bool.and_true]
    exact value.symm

end Format

/-! ## Values of the format -/

theorem roundTo_fin {t : Ty} {rnd : Rnd} {sat fz neg : Bool} {m : Nat} {e : Int} (h : m ≠ 0) :
    roundTo t rnd sat fz (.fin neg m e) = roundRat (ffmt t) rnd sat fz neg m 1 e := by
  simp only [roundTo]
  rw [if_neg (by simpa using h)]

theorem roundTo_zero {t : Ty} {rnd : Rnd} {sat fz neg : Bool} {e : Int} :
    roundTo t rnd sat fz (.fin neg 0 e) = (if t = .e2m1 then 0 else (ffmt t).signed neg 0, 0) := by
  simp only [roundTo, beq_self_eq_true, if_true, beq_iff_eq]

theorem FFmt.frac_eq_zero (f : FFmt) {mag : Nat} : f.frac mag = 0 ↔ mag = 0 := by
  conv_rhs => rw [← f.steps_eq_zero, FFmt.steps, mul_eq_zero, or_iff_left (by positivity)]

/-- A magnitude that is not subnormal is 0 or normal (R101). -/
theorem le_of_not_subnormal {f : FFmt} {neg : Bool} {mag : Nat} (small : mag < f.signBit) (nonzero : mag ≠ 0)
    (h : f.subnormal (f.signed neg mag) = false) : 2 ^ f.mant ≤ mag := by
  obtain ⟨-, exp, low⟩ := signed_fields neg small
  by_contra! below
  simp [FFmt.subnormal, exp, low, Nat.div_eq_of_lt below, Nat.mod_eq_of_lt below, nonzero] at h

/-- A value of the format comes back unchanged with no flag (R99). -/
theorem roundTo_decode {t : Ty} (ht : t ∈ floatTypes) (rnd : Rnd) (sat : Bool) {fz neg : Bool} {b m : Nat} {e : Int}
    (hb : (ffmt t).decode b = .fin neg m e) (width : b < 2 ^ (ffmt t).width) (kept : fz = false ∨ (ffmt t).subnormal b = false)
    (code : ¬(t = .e2m1 ∧ b = 8)) : roundTo t rnd sat fz (.fin neg m e) = (b, 0) := by
  obtain ⟨mag, fits, rfl, rfl, rfl⟩ := exists_mag_of_decode ht hb width
  by_cases nothing : mag = 0
  · rw [(ffmt t).frac_eq_zero.2 nothing, roundTo_zero, nothing]
    rw [nothing] at code
    by_cases h2 : t = .e2m1
    · subst h2
      cases neg
      · rfl
      · exact absurd ⟨rfl, rfl⟩ code
    · rw [if_neg h2]
  · have mantissa : (ffmt t).frac mag ≠ 0 := mt (ffmt t).frac_eq_zero.1 nothing
    rw [roundTo_fin mantissa]
    refine roundRat_exact mantissa one_ne_zero fits nothing (fun hfz => ?_) ?_
    · exact le_of_not_subnormal (fits.trans_lt (maxFin_lt ht)) nothing (kept.resolve_left (by simp [hfz]))
    · rw [FFmt.steps, zpow_add₀ two_ne_zero, zpow_natCast]; push_cast; ring

end Sys2Proof.Machine
end

section
/-!
PROOFS. Exact sums and products of values, and the operations FADD to PFMA2, which round them once.
-/

namespace Sys2Proof.Machine

/-! ## Rounding a result -/

theorem Arith.raise_zero (a : Arith) : a.raise 0 = a := by simp [Arith.raise]

/-- A result rounded in an environment: stochastically, with the next seed, where `stoch` and SR say so (R99, R102). -/
def Arith.rounding (a : Arith) (t : Ty) (sat stoch : Bool) (v : FVal) : Nat × Arith :=
  let sr := stoch && a.sr
  let seed := if sr then xorshiftStep a.seed else a.seed
  let r := roundTo t (if sr then .stoch seed.toNat else .rm a.rm) sat (a.fz t) v
  (r.1, { a with seed := seed, flags := a.flags ||| r.2 })

theorem rounding_eq (a : Arith) (t : Ty) (sat stoch : Bool) (v : FVal) :
    (if stoch then a.roundS t sat v else a.round t sat v) = a.rounding t sat stoch v := by
  cases stoch with
  | false => rfl
  | true => cases h : a.sr <;> simp [Arith.roundS, Arith.round, Arith.rounding, Arith.raise, Arith.fz, h]

/-! ## Sums and products of values -/

theorem value_eq_signOf (neg : Bool) (m : Nat) (e : Int) : (FVal.fin neg m e).value = signOf neg * m * 2 ^ e := rfl

theorem value_eq_zero {neg : Bool} {m : Nat} {e : Int} : (FVal.fin neg m e).value = 0 ↔ m = 0 := by
  have pos : (2 : ℚ) ^ e ≠ 0 := by positivity
  simp [value_eq_signOf, signOf_ne_zero neg, pos]

theorem abs_value (neg : Bool) (m : Nat) (e : Int) : |(FVal.fin neg m e).value| = m * 2 ^ e := by
  rw [value_eq_signOf, mul_assoc, abs_signOf_mul, abs_of_nonneg (by positivity)]

/-- The sign of a value other than 0. -/
theorem decide_value_neg {neg : Bool} {m : Nat} {e : Int} (h : m ≠ 0) : decide ((FVal.fin neg m e).value < 0) = neg := by
  have pos : (0 : ℚ) < m * 2 ^ e := by positivity
  rw [value_eq_signOf, mul_assoc]
  cases neg
  · simpa [signOf] using pos.le
  · simpa [signOf] using pos

/-- A value is its multiple of any power of two at or below its exponent. -/
theorem scaled_mul {neg : Bool} {m : Nat} {e lo : Int} (h : lo ≤ e) :
    ((FVal.fin neg m e).scaled lo : ℚ) * 2 ^ lo = (FVal.fin neg m e).value := by
  have split : (2 : ℚ) ^ e = 2 ^ (e - lo).toNat * 2 ^ lo := by
    rw [← zpow_natCast, ← zpow_add₀ two_ne_zero]; congr 1; omega
  rw [value_eq_signOf, split]
  cases neg <;> simp [FVal.scaled, signOf] <;> ring

/-- An integer multiple of a power of two as a value with its sign. -/
theorem value_natAbs {s : Int} {q : Int} {v : ℚ} (h : (s : ℚ) * 2 ^ q = v) :
    (FVal.fin (decide (v < 0)) s.natAbs q).value = v ∧ decide (v < 0) = decide (s < 0) ∧ (v = 0 ↔ s = 0) := by
  have pos : (0 : ℚ) < 2 ^ q := by positivity
  subst h
  have sign : (s : ℚ) * 2 ^ q < 0 ↔ s < 0 := by
    rw [← zero_mul ((2 : ℚ) ^ q), mul_lt_mul_iff_left₀ pos]; exact_mod_cast Iff.rfl
  refine ⟨?_, by simp only [sign], by simp [pos.ne']⟩
  simp only [value_eq_signOf, sign, signOf]
  rcases lt_or_ge s 0 with neg | nonneg
  · have : (s.natAbs : ℚ) = -s := by rw [Nat.cast_natAbs, abs_of_neg neg, Int.cast_neg]
    rw [this]; simp [neg]
  · have : (s.natAbs : ℚ) = s := by rw [Nat.cast_natAbs, abs_of_nonneg nonneg]
    rw [this]; simp [not_lt.2 nonneg]

theorem add_fin (rd a b : Bool) (m n : Nat) (e k : Int) {v : ℚ} (hv : v = (FVal.fin a m e).value + (FVal.fin b n k).value) :
    ∃ M E, (FVal.fin (decide (v < 0)) M E).value = v ∧
      (FVal.fin a m e).add rd (.fin b n k) = (.fin (if v = 0 then if a = b then a else rd else decide (v < 0)) M E, false) := by
  simp only [FVal.add]
  by_cases zeros : m = 0 ∧ n = 0
  · obtain ⟨rfl, rfl⟩ := zeros
    have : v = 0 := by rw [hv, value_eq_zero.2 rfl, value_eq_zero.2 rfl, add_zero]
    exact ⟨0, 0, by simp [this, FVal.value], by simp [this]⟩
  · rw [if_neg (by simpa using zeros)]
    have exact : (((FVal.fin a m e).scaled (min e k) + (FVal.fin b n k).scaled (min e k) : Int) : ℚ) * 2 ^ min e k = v := by
      push_cast
      rw [add_mul, scaled_mul (min_le_left _ _), scaled_mul (min_le_right _ _), hv]
    generalize (FVal.fin a m e).scaled (min e k) + (FVal.fin b n k).scaled (min e k) = s at exact ⊢
    obtain ⟨value, sign, zero⟩ := value_natAbs exact
    by_cases hs : s = 0
    · have cancels : a ≠ b := by
        rintro rfl
        rw [zero.2 hs, value_eq_signOf, value_eq_signOf, mul_assoc, mul_assoc, ← mul_add] at hv
        have mPos : (0 : ℚ) ≤ m * 2 ^ e := by positivity
        have nPos : (0 : ℚ) ≤ n * 2 ^ k := by positivity
        have : (m * 2 ^ e + n * 2 ^ k : ℚ) = 0 := by
          rw [← one_mul (_ + _), ← signOf_mul_self a, mul_assoc, ← hv, mul_zero]
        obtain ⟨hm, hn⟩ := (add_eq_zero_iff_of_nonneg mPos nPos).1 this
        exact zeros ⟨by exact_mod_cast (mul_eq_zero.1 hm).resolve_right (by positivity),
          by exact_mod_cast (mul_eq_zero.1 hn).resolve_right (by positivity)⟩
      rw [if_pos (by simpa using hs), if_pos (zero.2 hs), if_neg cancels]
      exact ⟨0, 0, by rw [zero.2 hs]; exact value_eq_zero.2 rfl, rfl⟩
    · exact ⟨_, _, value, by rw [if_neg (by simpa using hs), if_neg (mt zero.1 hs), sign]⟩

theorem value_mul (a b : Bool) (m n : Nat) (e k : Int) :
    (FVal.fin (a != b) (m * n) (e + k)).value = (FVal.fin a m e).value * (FVal.fin b n k).value := by
  rw [value_eq_signOf, value_eq_signOf, value_eq_signOf, zpow_add₀ two_ne_zero]
  cases a <;> cases b <;> simp [signOf] <;> ring

theorem mul_fin (a b : Bool) (m n : Nat) (e k : Int) {v : ℚ} (hv : v = (FVal.fin a m e).value * (FVal.fin b n k).value) :
    ∃ M E, (FVal.fin (decide (v < 0)) M E).value = v ∧
      (FVal.fin a m e).mul (.fin b n k) = (.fin (if v = 0 then a != b else decide (v < 0)) M E, false) := by
  rw [← value_mul] at hv
  refine ⟨m * n, e + k, ?_, ?_⟩ <;> by_cases nothing : m * n = 0
  · rw [hv, value_eq_zero.2 nothing, value_eq_zero.2 nothing]
  · rw [hv, decide_value_neg nothing]
  · rw [if_pos (hv.trans (value_eq_zero.2 nothing))]; rfl
  · rw [hv, if_neg (mt value_eq_zero.1 nothing), decide_value_neg nothing]; rfl

/-! ## FADD to PFMA2 (R133) -/

/-- The third operand of an operation; only the fused one has it. -/
def Fop.third (a : Arith) (op : Fop) (t : Ty) (z : Nat) : FVal := if op == .mad then a.input t z else .fin false 0 0

/-- The exact result of an operation on values, and whether it is invalid. -/
def Fop.exact (op : Fop) (rd : Bool) (fx fy fc : FVal) : FVal × Bool := match op with
  | .add => fx.add rd fy
  | .sub => fx.add rd fy.negate
  | .mul => fx.mul fy
  | .mad => if fc.isNan && !(fx.isNan || fy.isNan) && (fx.mul fy).2 then (.nan false, false)
      else if (fx.mul fy).2 then (.nan false, true) else (fx.mul fy).1.add rd fc

theorem fopExact_eq (a : Arith) (op : Fop) (t : Ty) (stoch : Bool) (x y z : Nat) : fopExact a op t stoch x y z =
    let fx := a.input t x
    let fy := a.input t y
    let fc := op.third a t z
    let r := op.exact (a.rm == .rd && !(stoch && a.sr)) fx fy fc
    (r.1, a.raise (if r.2 || (fx.isSnan || fy.isSnan || fc.isSnan) then fINV else 0)) := by
  cases op <;> rfl

theorem fop_eq_rounding (a : Arith) (op : Fop) (t : Ty) (sat stoch : Bool) (x y z : Nat) : fop a op t sat stoch x y z =
    (fopExact a op t stoch x y z).2.rounding t sat stoch (match (fopExact a op t stoch x y z).1 with
      | .nan _ => .nan false
      | v => v) := by
  rw [← rounding_eq]; rfl

/-- An operation whose exact result is finite rounds it once. -/
theorem fop_of_finite {a : Arith} {op : Fop} {t : Ty} {stoch neg : Bool} {x y z m : Nat} {e : Int} (sat : Bool)
    (snan : ((a.input t x).isSnan || (a.input t y).isSnan || (op.third a t z).isSnan) = false)
    (h : op.exact (a.rm == .rd && !(stoch && a.sr)) (a.input t x) (a.input t y) (op.third a t z) = (.fin neg m e, false)) :
    fop a op t sat stoch x y z = a.rounding t sat stoch (.fin neg m e) := by
  have exact : fopExact a op t stoch x y z = (.fin neg m e, a) := by
    rw [fopExact_eq]
    simp only [h, snan, Bool.or_self, Bool.false_eq_true, if_false, a.raise_zero]
  rw [fop_eq_rounding, exact]

/-! ### NaN operands (R88) -/

theorem add_nan (rd : Bool) {x y : FVal} (h : (x.isNan || y.isNan) = true) : ∃ s, x.add rd y = (.nan s, false) := by
  cases x <;> cases y <;> simp_all [FVal.isNan, FVal.add]

theorem mul_nan {x y : FVal} (h : (x.isNan || y.isNan) = true) : ∃ s, x.mul y = (.nan s, false) := by
  cases x <;> cases y <;> simp_all [FVal.isNan, FVal.mul]

theorem isNan_negate (x : FVal) : x.negate.isNan = x.isNan := by cases x <;> rfl

/-- A result with a NaN operand is a NaN, and no operation on it is invalid. -/
theorem exact_nan {op : Fop} (rd : Bool) {fx fy fc : FVal} (h : (fx.isNan || fy.isNan || (op == .mad && fc.isNan)) = true) :
    ∃ s, op.exact rd fx fy fc = (.nan s, false) := by
  cases op with
  | add => exact add_nan rd (by simpa using h)
  | sub => exact add_nan rd (by simpa [isNan_negate] using h)
  | mul => exact mul_nan (by simpa using h)
  | mad =>
    by_cases factor : (fx.isNan || fy.isNan) = true
    · obtain ⟨s, hs⟩ := mul_nan factor
      have := add_nan rd (x := .nan s) (y := fc) rfl
      simpa [Fop.exact, hs] using this
    · have third : fc.isNan = true := by simpa [factor] using h
      have sum := add_nan rd (x := (fx.mul fy).1) (y := fc) (by rw [third, Bool.or_true])
      have operands : (fx.isNan || fy.isNan) = false := by simpa using factor
      simp only [Fop.exact, third, operands, Bool.not_false, Bool.and_true, Bool.true_and]
      cases (fx.mul fy).2 with
      | true => exact ⟨false, rfl⟩
      | false => simpa using sum

theorem nanBits_eq {ty : Ty} (h : ty = .f32 ∨ ty = .f64) :
    (ffmt ty).nanBits = if ty = .f64 then 0x7FF8000000000000 else 0x7FC00000 := by
  rcases h with rfl | rfl <;> rfl

/-- A NaN operand gives the canonical NaN, and INV where an operand is signalling. -/
theorem fop_nan (a : Arith) (op : Fop) {ty : Ty} (sat : Bool) (x y z : Nat) (hty : ty = .f32 ∨ ty = .f64)
    (h : ((a.input ty x).isNan || (a.input ty y).isNan || (op == .mad && (a.input ty z).isNan)) = true) :
    fop a op ty sat false x y z = (if ty = .f64 then 0x7FF8000000000000 else 0x7FC00000,
      a.raise (if ((a.input ty x).isSnan || (a.input ty y).isSnan || (op == .mad && (a.input ty z).isSnan)) = true
        then 1 else 0)) := by
  have third : (op == .mad && (op.third a ty z).isNan) = (op == .mad && (a.input ty z).isNan) := by
    cases op <;> rfl
  have thirdS : (op.third a ty z).isSnan = (op == .mad && (a.input ty z).isSnan) := by
    cases op <;> rfl
  obtain ⟨s, hs⟩ := exact_nan (a.rm == .rd && !(false && a.sr)) (third.symm ▸ h)
  have quiet : roundTo ty (.rm a.rm) sat (a.fz ty) (.nan false) = ((ffmt ty).nanBits, 0) := by
    rcases hty with rfl | rfl <;> rfl
  have exact : fopExact a op ty false x y z = (.nan s, a.raise (if ((a.input ty x).isSnan || (a.input ty y).isSnan ||
      (op == .mad && (a.input ty z).isSnan)) = true then 1 else 0)) := by
    rw [fopExact_eq]
    simp only [hs, thirdS, Bool.false_or]
    rfl
  rw [fop_eq_rounding, exact, ← nanBits_eq hty]
  simp only [Arith.rounding, Arith.raise, Arith.fz, Bool.false_and, Bool.false_eq_true, if_false] at quiet ⊢
  rw [quiet]
  simp

/-! ### Finite operands -/

/-- The exact result of an operation on finite values, as a number. -/
def Fop.number (op : Fop) (vx vy vz : ℚ) : ℚ := match op with
  | .add => vx + vy
  | .sub => vx - vy
  | .mul => vx * vy
  | .mad => vx * vy + vz

/-- The sign of a zero result (R99): that of its terms where they agree, else minus only when rounding down. -/
def Fop.zeroSign (op : Fop) (down nx ny nz : Bool) : Bool :=
  let zero := fun (p q : Bool) => if p = q then p else down
  match op with
  | .add => zero nx ny
  | .sub => zero nx !ny
  | .mul => nx != ny
  | .mad => zero (nx != ny) nz

theorem value_not (neg : Bool) (m : Nat) (e : Int) : (FVal.fin (!neg) m e).value = -(FVal.fin neg m e).value := by
  cases neg <;> simp [FVal.value]

theorem exact_fin (op : Fop) (rd nx ny nz : Bool) (mx my mz : Nat) (ex ey ez : Int) {v : ℚ}
    (hv : v = op.number (FVal.fin nx mx ex).value (FVal.fin ny my ey).value (FVal.fin nz mz ez).value) :
    ∃ m e, (FVal.fin (decide (v < 0)) m e).value = v ∧ op.exact rd (.fin nx mx ex) (.fin ny my ey) (.fin nz mz ez) =
      (.fin (if v = 0 then op.zeroSign rd nx ny nz else decide (v < 0)) m e, false) := by
  cases op with
  | add => exact add_fin rd nx ny mx my ex ey hv
  | sub => exact add_fin rd nx (!ny) mx my ex ey (by rw [value_not, ← sub_eq_add_neg]; exact hv)
  | mul => exact mul_fin nx ny mx my ex ey hv
  | mad => exact add_fin rd (nx != ny) nz (mx * my) mz (ex + ey) ez (by rw [value_mul]; exact hv)

/-- An operation on finite values rounds its exact result once, with the sign of R99 where that is 0. -/
theorem fop_fin {a : Arith} {op : Fop} {t : Ty} {stoch nx ny nz : Bool} {x y z mx my mz : Nat} {ex ey ez : Int}
    (sat : Bool) {v : ℚ} (hx : a.input t x = .fin nx mx ex) (hy : a.input t y = .fin ny my ey)
    (hz : op.third a t z = .fin nz mz ez)
    (hv : v = op.number (FVal.fin nx mx ex).value (FVal.fin ny my ey).value (FVal.fin nz mz ez).value) :
    ∃ m e, (FVal.fin (decide (v < 0)) m e).value = v ∧ fop a op t sat stoch x y z = a.rounding t sat stoch
      (.fin (if v = 0 then op.zeroSign (a.rm == .rd && !(stoch && a.sr)) nx ny nz else decide (v < 0)) m e) := by
  obtain ⟨m, e, value, exact⟩ := exact_fin op (a.rm == .rd && !(stoch && a.sr)) nx ny nz mx my mz ex ey ez hv
  exact ⟨m, e, value, fop_of_finite sat (by rw [hx, hy, hz]; rfl) (by rw [hx, hy, hz, exact])⟩

end Sys2Proof.Machine
end

section
/-!
PROOFS. Conversions to a floating-point format, to an integer and by a block scale, and the sums of the matrix engine.
-/

namespace Sys2Proof.Machine

/-! ## Conversions (R103, R135, R136) -/

theorem stochTo_eq (t : Ty) : stochTo t = decide (t ∈ [Ty.f16, .bf16, .e4m3, .e5m2, .e2m1]) := by
  cases t <;> rfl

/-- The value of a source that CVT reads, an e2m1 zero with a sign apart (R90). -/
theorem cvtSource_eq {a : Arith} {sty : Ty} {x : Nat} (h : sty = .e2m1 → x ≠ 8) : cvtSource a sty x = a.input sty x := by
  rw [cvtSource, if_neg]
  simpa using h

/-- A conversion of a finite value into a floating-point format rounds it once. -/
theorem cvtElem_of_finite {a : Arith} {t sty : Ty} {x : Nat} {n : Bool} {m : Nat} {e : Int} (sat : Bool) (ht : t.isInt = false)
    (hv : (if sty.isInt then .fin (tyInt sty x < 0) (tyInt sty x).natAbs 0 else cvtSource a sty x) = FVal.fin n m e) :
    cvtElem a t sty sat x = a.rounding t sat (stochTo t) (.fin n m e) := by
  simp only [cvtElem, ht, hv, Bool.false_and, Bool.false_eq_true, if_false, FVal.isSnan, FVal.isNan, Arith.raise_zero,
    rounding_eq]

/-- A quotient by a block scale is rounded once (R136). -/
theorem quantElem_of_finite (a : Arith) {t : Ty} (sl : SlotD) (sat stoch : Bool) {n : Bool} {k m : Nat} {e j : Int}
    (ht : t.isInt = false) (hc : t ≠ .cb4) : quantElem a t sl sat stoch (.fin n k e) m j =
      let sr := stoch && a.sr
      let seed := if sr then xorshiftStep a.seed else a.seed
      let r := if k = 0 then (if t = .e2m1 then 0 else (ffmt t).signed n 0, 0)
        else roundRat (ffmt t) (if sr then .stoch seed.toNat else .rm a.rm) sat (a.fz t) n k m (e - j)
      (r.1, { a with seed := seed, flags := a.flags ||| r.2 }) := by
  have codes : t ≠ .i4 ∧ t ≠ .i8 := by constructor <;> rintro rfl <;> cases ht
  simp only [quantElem, beq_iff_eq, hc, codes, if_false, Bool.or_eq_true, or_self]
  rfl

/-- A value is its magnitude as a ratio, with its sign. -/
theorem value_eq_ratio (n : Bool) (m : Nat) (e : Int) :
    (FVal.fin n m e).value = signOf n * ((shiftRatio m 1 e).1 / (shiftRatio m 1 e).2) := by
  rw [shiftRatio_ratio, value_eq_signOf, Nat.cast_one, div_one, mul_assoc]

/-- A value rounded to an integer and clamped into the format (R103). -/
theorem cvtElem_int {a : Arith} {t sty : Ty} {x : Nat} {n : Bool} {m : Nat} {e k : Int} (sat : Bool) (ht : t.isInt = true)
    (hs : sty.isInt = false) (hx : sty = .e2m1 → x ≠ 8) (hv : a.input sty x = .fin n m e)
    (h : RoundsTo (.rm a.rm) (FVal.fin n m e).value 1 k) :
    cvtElem a t sty sat x =
      let r := intRange t.signed t.bits
      if k < r.1 then (wrapTo t.bits r.1, a.raise (1 + if sat then 32 else 0))
      else if r.2 < k then (wrapTo t.bits r.2, a.raise (1 + if sat then 32 else 0))
      else (wrapTo t.bits k, a.raise (if (k : ℚ) = (FVal.fin n m e).value then 0 else 16)) := by
  have den := shiftRatio_den_pos (n := m) one_ne_zero e
  rw [value_eq_ratio] at h ⊢
  have rounds := h.eq_roundRatio den
  have exact : (k : ℚ) = signOf n * ((shiftRatio m 1 e).1 / (shiftRatio m 1 e).2) ↔
      (shiftRatio m 1 e).1 % (shiftRatio m 1 e).2 = 0 := by
    rw [rounds, mul_right_inj' (signOf_ne_zero n), roundRatio_eq_iff den]
  have integer : k = if n then -(roundRatio (.rm a.rm) n (shiftRatio m 1 e) : Int)
      else roundRatio (.rm a.rm) n (shiftRatio m 1 e) := by
    cases n
    · have : (k : ℚ) = roundRatio (.rm a.rm) false (shiftRatio m 1 e) := by simpa [signOf] using rounds
      exact_mod_cast this
    · have : (k : ℚ) = ((-(roundRatio (.rm a.rm) true (shiftRatio m 1 e) : Int) : Int) : ℚ) := by simpa [signOf] using rounds
      exact_mod_cast this
  have model : convertToInt t a.rm sat (.fin n m e) =
      let r := intRange t.signed t.bits
      if k < r.1 then (wrapTo t.bits r.1, fINV + if sat then fSAT else 0)
      else if r.2 < k then (wrapTo t.bits r.2, fINV + if sat then fSAT else 0)
      else (wrapTo t.bits k, if (shiftRatio m 1 e).1 % (shiftRatio m 1 e).2 != 0 then fINX else 0) := by
    rw [integer]; rfl
  simp only [cvtElem, ht, hs, Bool.and_false, Bool.false_eq_true, if_false, if_true, cvtSource_eq hx, hv, model, exact]
  split
  · rfl
  · split
    · rfl
    · simp only [bne_iff_ne, ne_eq, ite_not]; rfl

/-! ## Matrix sums (R106) -/

/-- A value truncated toward zero to an integer. -/
def towardZero (v : ℚ) : Int := if 0 ≤ v then ⌊v⌋ else ⌈v⌉

theorem towardZero_div_mul (v : ℚ) {u : ℚ} (hu : 0 < u) :
    (if 0 ≤ v then (⌊v / u⌋ : ℚ) * u else (⌈v / u⌉ : ℚ) * u) = towardZero (v / u) * u := by
  rw [towardZero]
  simp only [le_div_iff₀ hu, zero_mul]
  split <;> rfl

theorem truncAt_fin (neg : Bool) (m : Nat) (e q : Int) :
    truncAt (.fin neg m e) q = towardZero ((FVal.fin neg m e).value / 2 ^ q) := by
  have magnitude : ⌊(m * 2 ^ (e - q) : ℚ)⌋ = (m * (pow2 (e - q)).1 / (pow2 (e - q)).2 : Nat) := by
    rw [← pow2_ratio, ← mul_div_assoc, ← Nat.cast_mul, Rat.floor_natCast_div_natCast, Int.natCast_div]
  have model : truncAt (.fin neg m e) q = if neg then -⌊(m * 2 ^ (e - q) : ℚ)⌋ else ⌊(m * 2 ^ (e - q) : ℚ)⌋ := by
    rw [magnitude]; rfl
  have quotient : (FVal.fin neg m e).value / 2 ^ q = signOf neg * (m * 2 ^ (e - q)) := by
    rw [value_eq_signOf, mul_assoc, mul_div_assoc, mul_div_assoc, zpow_sub₀ two_ne_zero]
  have nonneg : (0 : ℚ) ≤ m * 2 ^ (e - q) := by positivity
  rw [model, quotient, towardZero]
  cases neg with
  | false => simp [signOf, nonneg]
  | true =>
    rcases nonneg.eq_or_lt with zero | pos
    · simp [signOf, ← zero]
    · rw [if_pos rfl, if_neg (by simpa [signOf] using pos), signOf, if_pos rfl, neg_one_mul, Int.ceil_neg]

/-- The exponent of the highest bit of a value. -/
def FVal.topExp : FVal → Int
  | .fin _ m e => (m.log2 : Int) + e
  | _ => 0

theorem topExp_bounds {neg : Bool} {m : Nat} (e : Int) (h : m ≠ 0) :
    (2 : ℚ) ^ (FVal.fin neg m e).topExp ≤ |(FVal.fin neg m e).value| ∧
    |(FVal.fin neg m e).value| < 2 ^ ((FVal.fin neg m e).topExp + 1) := by
  obtain ⟨lo, hi⟩ := log2_bounds h
  rw [abs_value, FVal.topExp, add_right_comm, zpow_add₀ two_ne_zero, zpow_add₀ two_ne_zero]
  constructor <;> gcongr

theorem foldl_max_eq (l : List Int) : ∀ {a k : Int}, (∀ x ∈ a :: l, x ≤ k) → k ∈ a :: l → l.foldl max a = k := by
  induction l with
  | nil => intro a k _ mem; exact (List.mem_singleton.1 mem).symm
  | cons b l ih =>
    intro a k le mem
    have ha := le a (by simp)
    have hb := le b (by simp)
    refine ih (fun x hx => ?_) ?_
    · rcases List.mem_cons.1 hx with rfl | hx
      · exact max_le ha hb
      · exact le x (by simp [hx])
    · rcases List.mem_cons.1 mem with rfl | mem
      · rw [max_eq_left hb]; exact List.mem_cons_self
      · rcases List.mem_cons.1 mem with rfl | mem
        · rw [max_eq_right ha]; exact List.mem_cons_self
        · exact List.mem_cons_of_mem _ mem

theorem foldl_filter_add {α : Type} (p : α → Bool) (f : α → Int) (l : List α) : ∀ {a : Int}, (∀ x ∈ l, p x = false → f x = 0) →
    (l.filter p).foldl (fun z x => z + f x) a = a + (l.map f).sum := by
  induction l with
  | nil => intro a _; simp
  | cons b l ih =>
    intro a h
    rw [List.forall_mem_cons] at h
    rw [List.map_cons, List.sum_cons, ← add_assoc]
    by_cases hb : p b = true
    · rw [List.filter_cons_of_pos hb, List.foldl_cons, ih h.2]
    · rw [List.filter_cons_of_neg hb, ih h.2, h.1 (by simpa using hb), add_zero]

/-- The values of a matrix sum that are not 0. -/
def nonzeros (c : FVal) (terms : List (FVal × Bool)) : List FVal := (c :: terms.map (·.1)).filter fun x => !x.isZero

/-- A sum of finite terms, one of them not 0, truncates each at the exponent of the largest and rounds once. -/
theorem mmaSum_of_finite {c : FVal} {terms : List (FVal × Bool)} (valid : ∀ p ∈ terms, p.2 = false)
    (finite : ∀ x ∈ c :: terms.map (·.1), ∃ n m e, x = .fin n m e) {lg : Int}
    (le : ∀ k ∈ (nonzeros c terms).map FVal.topExp, k ≤ lg) (top : lg ∈ (nonzeros c terms).map FVal.topExp) :
    mmaSum c terms =
      let s := ((c :: terms.map (·.1)).map fun x => truncAt x (lg - 48)).sum
      (roundTo .f32 (.rm .rn) false false (.fin (s < 0) s.natAbs (lg - 48))).1 := by
  have noNan : (c :: terms.map (·.1)).any FVal.isNan = false := by
    refine List.any_eq_false.2 fun x hx => ?_
    obtain ⟨n, m, e, rfl⟩ := finite x hx
    exact Bool.false_ne_true
  have noInf (neg : Bool) : (c :: terms.map (·.1)).contains (.inf neg) = false := by
    rw [← Bool.not_eq_true, List.contains_iff_mem]
    intro h
    obtain ⟨n, m, e, h⟩ := finite _ h
    cases h
  have noInvalid : terms.any (·.2) = false := List.any_eq_false.2 fun p hp => by rw [valid p hp]; exact Bool.false_ne_true
  have zeros (q : Int) : ∀ x ∈ c :: terms.map (·.1), (!x.isZero) = false → truncAt x q = 0 := by
    intro x hx hz
    obtain ⟨n, m, e, rfl⟩ := finite x hx
    obtain rfl : m = 0 := by simpa [FVal.isZero] using hz
    rw [truncAt_fin, value_eq_zero.2 rfl, zero_div]
    simp [towardZero]
  simp only [mmaSum, noNan, noInf, noInvalid, Bool.or_self, Bool.and_self, Bool.false_eq_true, if_false]
  split
  next none =>
    have none : (nonzeros c terms).map FVal.topExp = [] := none
    rw [none] at top
    cases top
  next e0 es some =>
    have some : (nonzeros c terms).map FVal.topExp = e0 :: es := some
    rw [foldl_max_eq es (some ▸ le) (some ▸ top), foldl_filter_add _ (fun x => truncAt x (lg - 48)) _ (zeros _), zero_add]

/-- MmaSum in numbers: each term is cut toward zero to a multiple of 2^(lg - 48), and their sum is rounded. -/
theorem mmaSum_value {c : FVal} {terms : List (FVal × Bool)} (valid : ∀ p ∈ terms, p.2 = false)
    (finite : ∀ x ∈ c :: terms.map (·.1), ∃ n m e, x = .fin n m e) {lg : Int}
    (below : ∀ x ∈ c :: terms.map (·.1), |x.value| < 2 ^ (lg + 1))
    (reached : ∃ x ∈ c :: terms.map (·.1), (2 : ℚ) ^ lg ≤ |x.value|) {sum : ℚ}
    (hsum : sum = ((c :: terms.map (·.1)).map fun x => (towardZero (x.value / 2 ^ (lg - 48)) : ℚ) * 2 ^ (lg - 48)).sum) :
    ∃ m e, (FVal.fin (decide (sum < 0)) m e).value = sum ∧
      mmaSum c terms = (roundTo .f32 (.rm .rn) false false (.fin (decide (sum < 0)) m e)).1 := by
  have one : (1 : ℚ) < 2 := by norm_num
  have le : ∀ k ∈ (nonzeros c terms).map FVal.topExp, k ≤ lg := by
    intro k hk
    obtain ⟨x, hx, rfl⟩ := List.mem_map.1 hk
    obtain ⟨hx, hz⟩ := List.mem_filter.1 hx
    obtain ⟨n, m, e, rfl⟩ := finite x hx
    obtain ⟨tlo, -⟩ := topExp_bounds (neg := n) e (by simpa [FVal.isZero] using hz)
    have := (zpow_lt_zpow_iff_right₀ one).1 (tlo.trans_lt (below _ hx))
    omega
  have top : lg ∈ (nonzeros c terms).map FVal.topExp := by
    obtain ⟨x, hx, lo⟩ := reached
    obtain ⟨n, m, e, rfl⟩ := finite x hx
    have hm : m ≠ 0 := by
      rintro rfl
      rw [value_eq_zero.2 rfl, abs_zero] at lo
      exact absurd lo (not_le.2 (by positivity))
    obtain ⟨tlo, thi⟩ := topExp_bounds (neg := n) e hm
    exact List.mem_map.2 ⟨_, List.mem_filter.2 ⟨hx, by simpa [FVal.isZero] using hm⟩, exponent_unique tlo thi lo (below _ hx)⟩
  have exact : ((((c :: terms.map (·.1)).map fun x => truncAt x (lg - 48)).sum : Int) : ℚ) * 2 ^ (lg - 48) = sum := by
    have cut : (c :: terms.map (·.1)).map (fun x => truncAt x (lg - 48)) =
        (c :: terms.map (·.1)).map fun x => towardZero (x.value / 2 ^ (lg - 48)) := by
      refine List.map_congr_left fun x hx => ?_
      obtain ⟨n, m, e, rfl⟩ := finite x hx
      exact truncAt_fin n m e _
    rw [hsum, List.sum_map_mul_right, cut, Int.cast_list_sum, List.map_map]
    rfl
  obtain ⟨value, sign, -⟩ := value_natAbs exact
  exact ⟨_, _, value, by rw [mmaSum_of_finite valid finite le top, sign]⟩

end Sys2Proof.Machine
end

section
/-!
PROOFS. The special functions: their exact cases, and INX for every other finite input; then the statement on floats.
-/

namespace Sys2Proof.Machine

/-! ## Special functions (R109, R110) -/

theorem overflowTo_inexact (f : FFmt) (rnd : Rnd) (neg : Bool) : (overflowTo f rnd false neg).2 = fOVF + fINX := by
  unfold overflowTo
  cases f.ieee <;> rfl

theorem testBit_or_inexact (fl : Nat) : (fINX ||| fl).testBit 4 = true := by
  rw [Nat.testBit_or, show fINX.testBit 4 = true by decide, Bool.true_or]

/-- A flush or an overflow sets INX. -/
theorem roundRat_inexact {f : FFmt} {rnd : Rnd} {fz neg : Bool} {n d : Nat} {e : Int}
    (h : (decide (log2Ratio n d + e < f.emin) && fz || (roundRat f rnd false fz neg n d e).2 &&& fOVF != 0) = true) :
    (roundRat f rnd false fz neg n d e).2.testBit 4 = true := by
  rw [roundRat_eq rfl] at h ⊢
  split
  case isTrue => exact (by decide : (fUFL + fINX).testBit 4 = true)
  case isFalse kept =>
    rw [if_neg kept] at h
    have kept : (decide (log2Ratio n d + e < f.emin) && fz) = false := by simpa using kept
    rw [kept, Bool.false_or] at h
    split
    case isTrue => rw [overflowTo_inexact]; decide
    case isFalse fits =>
      rw [if_neg fits] at h
      revert h
      dsimp only
      split
      · simp
      · intro _; split <;> decide

/-- Every result within the bounds of R109 sets INX. -/
theorem boundedResult_inexact (t : Ty) (fz : Bool) (w bound : Nat) (absTol neg : Bool) (n d : Nat) (e : Int) :
    (boundedResult t fz w bound absTol neg n d e).2.testBit 4 = true := by
  unfold boundedResult
  dsimp only
  split
  · decide
  · split
    case isTrue h => exact roundRat_inexact h
    case isFalse => exact testBit_or_inexact _

theorem boundedFix_inexact (fn : Nat) (fz : Bool) (input : Word) (bound : Nat) (absTol : Bool) (y e : Int) :
    (boundedFix fn fz input bound absTol y e).2.testBit 4 = true :=
  boundedResult_inexact ..

/-- `intOf?` finds the integer that a value is. -/
theorem intOf?_eq_some {neg : Bool} {m : Nat} {e k : Int} : intOf? neg m e = some k ↔ (FVal.fin neg m e).value = k := by
  have den := shiftRatio_den_pos (n := m) one_ne_zero e
  have model : intOf? neg m e = if (shiftRatio m 1 e).1 % (shiftRatio m 1 e).2 = 0
      then some ((if neg then -1 else 1 : Int) * (((shiftRatio m 1 e).1 / (shiftRatio m 1 e).2 : Nat) : Int)) else none := by
    simp only [intOf?, shiftRatio, one_mul, beq_iff_eq]
  have sign : ((if neg then -1 else 1 : Int) : ℚ) = signOf neg := by cases neg <;> simp [signOf]
  rw [model, value_eq_ratio]
  generalize shiftRatio m 1 e = x at den ⊢
  have den' : (x.2 : ℚ) ≠ 0 := by exact_mod_cast den.ne'
  constructor
  · intro h
    split at h
    case isTrue exact =>
      rw [← Option.some.inj h, Int.cast_mul, sign, Int.cast_natCast, Nat.cast_div (Nat.dvd_of_mod_eq_zero exact) den']
    case isFalse => cases h
  · intro h
    have product : (x.1 : ℚ) = signOf neg * k * x.2 := by
      rw [← h, ← mul_assoc, signOf_mul_self, one_mul, div_mul_cancel₀ _ den']
    have divides : (x.2 : Int) ∣ x.1 := ⟨(if neg then -1 else 1) * k, by
      rw [mul_comm]; rw [← sign] at product; exact_mod_cast product⟩
    have divides : x.2 ∣ x.1 := Int.natCast_dvd_natCast.1 divides
    rw [if_pos (Nat.mod_eq_zero_of_dvd divides)]
    congr 1
    have : (((if neg then -1 else 1) * ((x.1 / x.2 : Nat) : Int) : Int) : ℚ) = k := by
      rw [Int.cast_mul, sign, Int.cast_natCast, Nat.cast_div divides den', h]
    exact_mod_cast this

/-- EX2 of an integer is a point of f32, which FZ flushes below 2^-126. -/
theorem roundTo_two_pow {k : Int} (fz : Bool) (lo : -149 ≤ k) (hi : k ≤ 127) : roundTo .f32 (.rm .rn) false fz (.fin false 1 k) =
    if -126 ≤ k then (((k + 127) * 2 ^ 23).toNat, 0) else if fz then (0, 8 + 16) else (2 ^ (k + 149).toNat, 0) := by
  have unit : (ffmt .f32).unitExp = -149 := by decide
  rw [roundTo_fin one_ne_zero]
  split
  case isTrue normal =>
    obtain ⟨E, rfl⟩ : ∃ E : Nat, k = E - 126 := ⟨(k + 126).toNat, by omega⟩
    have code : (((E : Int) - 126 + 127) * 2 ^ 23).toNat = (E + 1) * 2 ^ (ffmt .f32).mant + 0 := by
      show _ = (E + 1) * 2 ^ 23 + 0
      omega
    obtain ⟨frac, shift⟩ := (ffmt .f32).frac_shift_normal E (F := 0) (by decide)
    rw [code]
    refine roundRat_exact one_ne_zero one_ne_zero ?_ ?_ (fun _ => ?_) ?_
    · show (E + 1) * 2 ^ 23 + 0 ≤ 0x7F7FFFFF
      omega
    · show (E + 1) * 2 ^ 23 + 0 ≠ 0
      omega
    · show 2 ^ 23 ≤ (E + 1) * 2 ^ 23 + 0
      omega
    · rw [FFmt.steps, frac, shift, unit]
      rw [show (E : Int) - 126 = 23 + E + -149 by ring, zpow_add₀ two_ne_zero, zpow_add₀ two_ne_zero, zpow_natCast]
      push_cast
      rw [div_one, one_mul, show (ffmt .f32).mant = 23 from rfl]
      norm_num
  case isFalse tiny =>
    cases fz with
    | true =>
      have : log2Ratio 1 1 + k = k := log2Ratio_add_eq one_ne_zero one_ne_zero (by simp) (by
        simp)
      rw [roundRat_eq this, if_pos ⟨by show k < -126; omega, rfl⟩]
      rfl
    | false =>
      obtain ⟨j, rfl⟩ : ∃ j : Nat, k = j - 149 := ⟨(k + 149).toNat, by omega⟩
      have small : 2 ^ j < 2 ^ (ffmt .f32).mant := Nat.pow_lt_pow_right (by decide) (by show j < 23; omega)
      obtain ⟨frac, shift⟩ := (ffmt .f32).frac_shift_of_lt small
      rw [if_neg (by decide), sub_add_cancel, Int.toNat_natCast]
      refine roundRat_exact one_ne_zero one_ne_zero ?_ (by positivity) (fun h => nomatch h) ?_
      · exact small.le.trans (by decide)
      · rw [FFmt.steps, frac, shift, unit]
        rw [sub_eq_add_neg, zpow_add₀ two_ne_zero, zpow_natCast]
        push_cast
        rw [div_one, one_mul, mul_one]

/-- A flushed input is the input or a zero (R101). -/
theorem flushIn_eq_one {fz : Bool} {b : Nat} (h : flushIn fz .f32 b = 0x3F800000) : b = 0x3F800000 := by
  unfold flushIn at h
  dsimp only at h
  split at h
  · split at h <;> cases h
  · exact h

/-! ### The exact cases of R110 -/

section Special
variable {fz : Bool} {b : Nat}

theorem special32_nan {sg : Bool} (hx : (ffmt .f32).decode (flushIn fz .f32 b) = .nan sg) (fn : SpFn) :
    special32 fn fz b = (0x7FC00000, if sg then 1 else 0) := by
  simp only [special32, hx, fINV]

theorem special32_inf {neg : Bool} (hx : (ffmt .f32).decode (flushIn fz .f32 b) = .inf neg) :
    special32 .ex2 fz b = (if neg then 0 else 0x7F800000, 0) ∧
      special32 .lg2 fz b = (if neg then (0x7FC00000, 1) else (0x7F800000, 0)) ∧
      special32 .sin fz b = (0x7FC00000, 1) ∧ special32 .cos fz b = (0x7FC00000, 1) ∧
      special32 .tanh fz b = ((if neg then 0x80000000 else 0) + 0x3F800000, 0) := by
  simp only [special32, hx, fINV]
  cases neg <;> decide

theorem special32_zero {neg : Bool} {e : Int} (hx : (ffmt .f32).decode (flushIn fz .f32 b) = .fin neg 0 e) :
    special32 .ex2 fz b = (0x3F800000, 0) ∧ special32 .lg2 fz b = (0xFF800000, 2) ∧
      special32 .sin fz b = (if neg then 0x80000000 else 0, 0) ∧ special32 .cos fz b = (0x3F800000, 0) ∧
      special32 .tanh fz b = (if neg then 0x80000000 else 0, 0) := by
  simp only [special32, hx]
  cases neg <;> exact ⟨rfl, rfl, rfl, rfl, rfl⟩

theorem special32_lg2_negative {m : Nat} {e : Int} (hx : (ffmt .f32).decode (flushIn fz .f32 b) = .fin true m e) (hm : m ≠ 0) :
    special32 .lg2 fz b = (0x7FC00000, 1) := by
  simp only [special32, hx, beq_iff_eq, hm, if_false, if_true, fINV]

theorem special32_lg2_one (fz : Bool) : special32 .lg2 fz 0x3F800000 = (0, 0) := by
  cases fz <;> rfl

variable {neg : Bool} {m : Nat} {e : Int} (hx : (ffmt .f32).decode (flushIn fz .f32 b) = .fin neg m e)
include hx

theorem special32_ex2_integer {k : Int} (value : (FVal.fin neg m e).value = k) (lo : -149 ≤ k) (hi : k ≤ 127) :
    special32 .ex2 fz b = if -126 ≤ k then (((k + 127) * 2 ^ 23).toNat, 0)
      else if fz then (0, 8 + 16) else (2 ^ (k + 149).toNat, 0) := by
  simp only [special32, hx, beq_iff_eq]
  by_cases nothing : m = 0
  · obtain rfl : k = 0 := by
      rw [value_eq_zero.2 nothing] at value
      exact_mod_cast value.symm
    rw [if_pos nothing]; rfl
  · rw [if_neg nothing, intOf?_eq_some.2 value]
    simp only [lo, hi, decide_true, Bool.and_self, if_true]
    exact roundTo_two_pow fz lo hi

/-- Every finite input but the exact ones sets INX (R110). -/
theorem special32_inexact {fn : SpFn} (hfn : fn ∈ [SpFn.ex2, .lg2, .sin, .cos, .tanh]) (hm : m ≠ 0)
    (log : fn = .lg2 → neg = false ∧ b ≠ 0x3F800000)
    (power : fn = .ex2 → ∀ k : Int, (FVal.fin neg m e).value = k → k < -149 ∨ 127 < k) :
    (special32 fn fz b).2.testBit 4 = true := by
  have overflow : (overflowTo (ffmt .f32) (.rm .rn) false false).2.testBit 4 = true := by
    rw [overflowTo_inexact]; decide
  simp only [special32, hx, beq_iff_eq, hm, if_false]
  cases fn with
  | rcp | rsq => simp at hfn
  | ex2 =>
    dsimp only
    split
    next k some =>
      have outside := power rfl k (intOf?_eq_some.1 some)
      rw [if_neg (by simp; omega)]
      split
      · exact overflow
      · exact boundedFix_inexact ..
    next =>
      split
      · exact overflow
      · exact boundedFix_inexact ..
  | lg2 =>
    obtain ⟨positive, other⟩ := log rfl
    simp only [positive, Bool.false_eq_true, if_false, mt flushIn_eq_one other]
    exact boundedFix_inexact ..
  | sin | cos | tanh => exact boundedFix_inexact ..

end Special

/-! ### Reciprocals and roots (R139) -/

section Reciprocal
variable {ty : Ty} (hty : ty = .f32 ∨ ty = .f64)
include hty

theorem infBits_eq : (ffmt ty).infBits = if ty = .f64 then 0x7FF0000000000000 else 0x7F800000 := by
  rcases hty with rfl | rfl <;> rfl

theorem signed_eq (neg : Bool) (mag : Nat) :
    (ffmt ty).signed neg mag = (if neg then (if ty = .f64 then 0x8000000000000000 else 0x80000000) else 0) + mag := by
  rcases hty with rfl | rfl <;> cases neg <;> simp [FFmt.signed, FFmt.signBit, ffmt]

variable {fz neg : Bool} {b m : Nat} {e : Int}

theorem rcpRsq_nan {sg : Bool} (hx : (ffmt ty).decode (flushIn fz ty b) = .nan sg) (fn : SpFn) :
    rcpRsq fn ty fz b = (if ty = .f64 then 0x7FF8000000000000 else 0x7FC00000, if sg then 1 else 0) := by
  simp only [rcpRsq, hx, nanBits_eq hty, fINV]

theorem rcpRsq_inf (hx : (ffmt ty).decode (flushIn fz ty b) = .inf neg) :
    rcpRsq .rcp ty fz b = (if neg then (if ty = .f64 then 0x8000000000000000 else 0x80000000) else 0, 0) ∧
      rcpRsq .rsq ty fz b = if neg then (if ty = .f64 then 0x7FF8000000000000 else 0x7FC00000, 1) else (0, 0) := by
  simp only [rcpRsq, hx, nanBits_eq hty, signed_eq hty]
  exact ⟨rfl, rfl⟩

theorem rcpRsq_zero (hx : (ffmt ty).decode (flushIn fz ty b) = .fin neg 0 e) (fn : SpFn) :
    rcpRsq fn ty fz b = ((if neg then (if ty = .f64 then 0x8000000000000000 else 0x80000000) else 0) +
      if ty = .f64 then 0x7FF0000000000000 else 0x7F800000, 2) := by
  simp only [rcpRsq, hx, signed_eq hty, infBits_eq hty]
  rfl

theorem rsq_negative (hx : (ffmt ty).decode (flushIn fz ty b) = .fin true m e) (hm : m ≠ 0) :
    rcpRsq .rsq ty fz b = (if ty = .f64 then 0x7FF8000000000000 else 0x7FC00000, 1) := by
  simp only [rcpRsq, hx, beq_iff_eq, hm, if_false, if_true, nanBits_eq hty]
  rfl

omit hty in
theorem rcp_inexact (hx : (ffmt ty).decode (flushIn fz ty b) = .fin neg m e) (hm : m ≠ 0) :
    (rcpRsq .rcp ty fz b).2.testBit 4 = true := by
  simp only [rcpRsq, hx, beq_iff_eq, hm, if_false, if_true]
  exact boundedResult_inexact ..

omit hty in
theorem rsq_inexact (hx : (ffmt ty).decode (flushIn fz ty b) = .fin false m e) (hm : m ≠ 0) :
    (rcpRsq .rsq ty fz b).2.testBit 4 = true := by
  obtain ⟨r, k, root⟩ : ∃ r k, sqrtVal m e = .fin false r k := ⟨_, _, rfl⟩
  simp only [rcpRsq, hx, beq_iff_eq, hm, if_false, root, Bool.false_eq_true, reduceCtorEq]
  exact boundedResult_inexact ..

variable {a : Arith}

theorem sqrtOp_nan {sg : Bool} (hx : a.input ty b = .nan sg) :
    sqrtOp a ty b = (if ty = .f64 then 0x7FF8000000000000 else 0x7FC00000, a.raise (if sg then 1 else 0)) := by
  simp only [sqrtOp, hx, nanBits_eq hty, fINV]

theorem sqrtOp_inf (hx : a.input ty b = .inf neg) : sqrtOp a ty b =
    if neg then (if ty = .f64 then 0x7FF8000000000000 else 0x7FC00000, a.raise 1)
    else (if ty = .f64 then 0x7FF0000000000000 else 0x7F800000, a) := by
  simp only [sqrtOp, hx, nanBits_eq hty, infBits_eq hty, fINV]

theorem sqrtOp_zero (hx : a.input ty b = .fin neg 0 e) :
    sqrtOp a ty b = (if neg then (if ty = .f64 then 0x8000000000000000 else 0x80000000) else 0, a) := by
  simp only [sqrtOp, hx, signed_eq hty, beq_self_eq_true, if_true, add_zero]

theorem sqrtOp_negative (hx : a.input ty b = .fin true m e) (hm : m ≠ 0) :
    sqrtOp a ty b = (if ty = .f64 then 0x7FF8000000000000 else 0x7FC00000, a.raise 1) := by
  simp only [sqrtOp, hx, beq_iff_eq, hm, if_false, if_true, nanBits_eq hty, fINV]

end Reciprocal

/-- Settles O18: NaN operands; the three outcomes of RoundToFormat; one rounding for each operation, conversion and matrix sum;
and the exact cases of the special functions, each by its lemma above. -/
theorem floatCases : Obligations.FloatCases := by
  refine ⟨fun a op ty sat x y z hty h => fop_nan a op sat x y z hty h, ?format, ?operations, ?matrix, ?special, ?reciprocal⟩
  case format =>
    intro t ht rnd sat fz neg
    refine ⟨fun b m e hb width kept code => roundTo_decode ht rnd sat hb width kept code, fun m e hm => roundTo_fin hm, ?_⟩
    intro n d e lg v u w hn hd hv lo hi hu h r top tiny
    subst hu
    rw [mul_assoc] at hv
    have size : |v| = n / d * 2 ^ e := by rw [hv]; exact (abs_signOf_mul ..).trans (abs_of_nonneg (by positivity))
    rw [size] at lo hi
    refine ⟨fun below flush => ?_, fun kept fits => roundRat_point ht hn hd hv lo hi h kept fits, fun kept big => ?_⟩
    · exact (roundRat_eq (log2Ratio_add_eq hn hd lo hi)).trans (if_pos ⟨below, flush⟩)
    · exact (roundRat_overflow ht hn hd hv lo hi h kept big).trans (overflowTo_eq ht rnd sat neg)
  case operations =>
    intro a t sat rounded
    refine ⟨?exact, ?float, ?integer⟩
    case exact =>
      intro stoch op x y z nx mx ex ny my ey nz mz ez hx hy hz
      cases op with
      | add | sub | mul => exact fop_fin sat hx hy rfl rfl
      | mad => exact fop_fin sat hx hy (hz rfl) rfl
    case float =>
      intro ht sty x stoch
      refine ⟨fun hs => ?_, fun hs hx n m e hv => ?_, fun sl n k m e hc hm => ?_⟩
      · exact (cvtElem_of_finite sat ht (by rw [if_pos hs])).trans (by rw [stochTo_eq]; rfl)
      · exact (cvtElem_of_finite sat ht (by rw [hs, cvtSource_eq hx, hv]; rfl)).trans (by rw [stochTo_eq]; rfl)
      · refine ⟨fun hk j => ?_, fun hk j => ?_⟩
        · exact (quantElem_of_finite a sl sat _ ht hc).trans (by simp only [hk, if_false])
        · exact (quantElem_of_finite a sl sat _ ht hc).trans (by simp only [hk, if_true, Nat.or_zero])
    case integer =>
      exact fun ht sty x n m e k hs hx hv h => cvtElem_int sat ht hs hx hv h
  case matrix =>
    intro c terms valid all finite _ lg below reached unit sum
    refine mmaSum_value valid finite below reached (congrArg List.sum (List.map_congr_left fun x _ => ?_))
    exact towardZero_div_mul x.value (by positivity)
  case special =>
    intro fz neg b x sign
    refine ⟨fun fn sg hx => special32_nan hx fn, fun hx => special32_inf hx, fun e hx => special32_zero hx,
      fun m e hx hm => special32_lg2_negative hx hm, special32_lg2_one fz, fun m e k hx value lo hi => ?_,
      fun fn m e hfn hx hm log power => ?_⟩
    · exact special32_ex2_integer hx (by rwa [hx] at value) lo hi
    · exact special32_inexact hx hfn hm log (by rwa [hx] at power)
  case reciprocal =>
    intro ty hty fz neg b x nan inf sign
    refine ⟨fun fn sg hx => rcpRsq_nan hty hx fn, fun hx => rcpRsq_inf hty hx,
      fun e hx => ⟨rcpRsq_zero hty hx _, rcpRsq_zero hty hx _⟩, fun m e hx hm => rsq_negative hty hx hm,
      fun m e hx hm => ⟨rcp_inexact hx hm, fun positive => rsq_inexact (positive ▸ hx) hm⟩, ?_⟩
    rintro a rfl
    exact ⟨fun sg hx => sqrtOp_nan hty hx, fun hx => sqrtOp_inf hty hx, fun e hx => sqrtOp_zero hty hx,
      fun m e hx hm => sqrtOp_negative hty hx hm⟩

end Sys2Proof.Machine
end

section
/-!
PROOF. The register-only instructions: one lemma for each way in which a meaning writes its result, then each instruction by
the way that it uses (R126 to R139).
-/

namespace Sys2Proof.Machine

/-! ## The ways to write a result -/

section Results
variable {s : State} {i : Instr} {th : Thread} {x : X} {f : State → Thread → State × Next} {ty : Ty} {d : Opd} {e : Effect}

theorem floatResult_eq (h : s.thread? th.id = some th) (ty : Ty) (d : Opd) (r : Nat × Arith) : s.floatResult th ty d r =
    ((s.modTh th.id (⟨d, resultWords ty r.1, r.2.flags, some r.2.seed⟩ : Effect).pre).write th d (resultWords ty r.1), .next) := by
  unfold State.floatResult
  rw [wr_pre s th h (fun u => u.arithDone r.2) (fun _ => ⟨rfl, rfl⟩)]
  rfl

theorem words_pairOf (a b : Word) : loWord (pairOf a b) = a ∧ hiWord (pairOf a b) = b := by
  constructor
  · exact BitVec.extractLsb'_append_eq_right
  · exact BitVec.extractLsb'_append_eq_left

theorem sticky_pair_eq (h : s.thread? th.id = some th) (d : Opd) (a b : Word) (fl : Nat) :
    (s.modTh th.id fun u => u.sticky fl).wr64 th.id d (pairOf a b) =
      (s.modTh th.id (⟨d, [a, b], fl, none⟩ : Effect).pre).write th d [a, b] := by
  obtain ⟨lo, hi⟩ := words_pairOf a b
  rw [wr64_pre s th h (fun u => u.sticky fl) (fun _ => ⟨rfl, rfl⟩), lo, hi]
  rfl

theorem wrRun_plain (s : State) (th : Thread) (n : Fin 1024) (ws : List Word) :
    s.wrRun th.id (.v n) ws = (s.modTh th.id (⟨.v n, ws, 0, none⟩ : Effect).pre).write th (.v n) ws := by
  rw [pre_plain]
  simp only [sticky_zero, modTh_id]
  rfl

/-- A result of type `ty` with its flags (R127, R139). -/
theorem hasEffect_result {r : Nat × Nat} (h : s.Runs th i) (he : giving ty d r = some e) (hx : i.x = some x)
    (run : exec i s = .next (s.issue i x f)) (hf : f s th = ((s.modTh th.id fun u => u.sticky r.2).wr th.id ty d r.1, .next)) :
    s.HasEffect i th e := by
  obtain rfl := Option.some.inj he
  exact hasEffect h hx run (hf.trans (plain_id s th (cur_thread h.cur) ty d r.1 r.2))

/-- A result of type `ty` that sets no flag (R114). -/
theorem hasEffect_plain {y : Nat} (h : s.Runs th i) (he : giving ty d (y, 0) = some e) (hx : i.x = some x)
    (run : exec i s = .next (s.issue i x f)) (hf : f s th = s.plain th ty d y) : s.HasEffect i th e := by
  obtain rfl := Option.some.inj he
  exact hasEffect h hx run (hf.trans (plain_eq s th (cur_thread h.cur) ty d y))

/-- One 32-bit word. -/
theorem hasEffect_word {w : Word} (h : s.Runs th i) (he : giving32 d w = some e) (hx : i.x = some x)
    (run : exec i s = .next (s.issue i x f)) (hf : f s th = (s.wr32 th.id d w, .next)) : s.HasEffect i th e := by
  obtain rfl := Option.some.inj he
  exact hasEffect h hx run (hf.trans (congrArg (·, Next.next) (wr32_plain s th (cur_thread h.cur) d w)))

/-- A pair (R19). -/
theorem hasEffect_pair {v : DWord} (h : s.Runs th i) (he : giving64 d v 0 = some e) (hx : i.x = some x)
    (run : exec i s = .next (s.issue i x f)) (hf : f s th = (s.wr64 th.id d v, .next)) : s.HasEffect i th e := by
  obtain rfl := Option.some.inj he
  exact hasEffect h hx run (hf.trans (congrArg (·, Next.next) (wr64_plain s th (cur_thread h.cur) d v)))

/-- A floating-point result with what its arithmetic raised (R23, R26). -/
theorem hasEffect_float {r : Nat × Arith} (h : s.Runs th i) (he : givingF ty d r = some e) (hx : i.x = some x)
    (run : exec i s = .next (s.issue i x f)) (hf : f s th = s.floatResult th ty d r) : s.HasEffect i th e := by
  obtain rfl := Option.some.inj he
  exact hasEffect h hx run (hf.trans (floatResult_eq (cur_thread h.cur) ty d r))

end Results

/-! ## Integers (R126 to R128) -/

theorem intVal_immediate (sgn : Bool) (imm : Word) : intVal sgn 32 imm.toNat = if sgn then imm.toInt else imm.toNat := by
  have := imm.isLt
  cases sgn <;> simp only [intVal, BitVec.toInt] <;> grind

/-- The upper half of a product (R126, IMULH). -/
theorem wrapTo_upper (w : Nat) (p : Int) : wrapTo (2 * w) p / 2 ^ w = wrapTo w (p / 2 ^ w) := by
  have pos : (0 : Int) < 2 ^ w := by positivity
  have nonneg : 0 ≤ p % (2 ^ w * 2 ^ w) := Int.emod_nonneg _ (by positivity)
  unfold wrapTo
  rw [two_mul, pow_add]
  apply Int.natCast_inj.1
  rw [Int.natCast_ediv, Int.toNat_of_nonneg nonneg, Int.toNat_of_nonneg (Int.emod_nonneg _ pos.ne')]
  push_cast
  rw [Int.emod_def, Int.emod_def, mul_assoc, Int.sub_mul_ediv_left _ _ pos.ne', Int.ediv_ediv_of_nonneg pos.le]

/-- The four byte products of IDOT4 one by one (R126). -/
theorem dot4_eq (ty : Ty) (a b : Nat) :
    let e := fun (v i : Nat) => tyInt (dotTy ty) (bitsAt v (8 * i) 8)
    dot4 ty a b = e a 0 * e b 0 + (e a 1 * e b 1 + (e a 2 * e b 2 + e a 3 * e b 3)) := by
  simp only [dot4, upto, List.range_succ, List.range_zero, List.map_cons, List.map_nil, List.nil_append,
    List.cons_append, List.sum_cons, List.sum_nil, add_zero]

theorem integerEffect_holds {s : State} {th : Thread} {i : Instr} {e : Effect} (h : s.Runs th i) (he : integerEffect s th i = some e) :
    s.HasEffect i th e := by
  cases i
  case iadd | isub | imul | imad | idiv | irem | iabs | ineg => exact hasEffect_result h he rfl rfl rfl
  case iaddImm x ty sat d a imm =>
    refine hasEffect_result h he rfl rfl ?_
    rw [← intVal_immediate]
    rfl
  case imulh x ty d a b => exact hasEffect_plain h he rfl rfl (congrArg (s.plain th ty d) (wrapTo_upper ..))
  case imin x ty d a b =>
    refine hasEffect_plain h he rfl rfl (congrArg (s.plain th ty d) ?_)
    simp only [← Int.not_le, ite_not]
  case imax x ty d a b =>
    refine hasEffect_plain h he rfl rfl (congrArg (s.plain th ty d) ?_)
    simp only [← Int.not_le, ite_not]
  case idot4 x ty sat d a b c =>
    refine hasEffect_result h he rfl rfl (congrArg (s.intResult th ty sat d) ?_)
    rw [dot4_eq]
    ring
  case lea | leaImm => exact hasEffect_pair h he rfl rfl rfl
  all_goals exact nomatch he

/-! ## Logic, selection and moves (R129, R130, R132) -/

theorem logicEffect_holds {s : State} {th : Thread} {i : Instr} {e : Effect} (h : s.Runs th i) (he : logicEffect s th i = some e) :
    s.HasEffect i th e := by
  cases i
  case and | or | xor | andImm | orImm | xorImm | not | lut3 | shl | shr | sar | rot | brev | mov =>
    exact hasEffect_plain h he rfl rfl rfl
  case bfx x ty sgn d a b =>
    refine hasEffect_plain h he rfl rfl (congrArg (s.plain th ty d) ?_)
    simp only [beq_iff_eq]
  case bfi x ty d a b c =>
    refine hasEffect_plain h he rfl rfl (congrArg (s.plain th ty d) ?_)
    simp only [beq_iff_eq]
  case popc | clz | permb => exact hasEffect_word h he rfl rfl rfl
  case sel x ty d a b c => exact hasEffect_plain h he rfl rfl (congrArg (s.plain th ty d) (apply_ite ..))
  case movi x ty d imm =>
    refine hasEffect_plain h he rfl rfl (congrArg (s.plain th ty d) ?_)
    simp only [logicImm, beq_iff_eq]
  all_goals exact nomatch he

/-! ## Floating point (R133, R134) -/

theorem constBits_zero (t : Ty) : constBits t 0 = 0 := by cases t <;> rfl

theorem replicateBits_zero (w n : Nat) : replicateBits w 0 n = 0 := by
  induction n with
  | zero => rfl
  | succ n ih => rw [replicateBits, ih, Nat.mul_zero]

theorem constPacked_zero (t : Ty) : constPacked t 0 = 0 := by
  unfold constPacked
  rw [constBits_zero, replicateBits_zero, ite_self]

/-- The byte 0x00 that stands for an absent C reads 0. -/
theorem rd_noOpd (s : State) (th : Thread) (t : Ty) : s.rd th t noOpd = 0 := by
  unfold State.rd
  split
  · show (dword (constBits t 0)).toNat = 0
    rw [constBits_zero]
    rfl
  · show (if t.bits < 32 then (word (constBits t 0)).toNat % 2 ^ t.bits else (word (constBits t 0)).toNat) = 0
    rw [constBits_zero]
    show (if t.bits < 32 then 0 % 2 ^ t.bits else 0) = 0
    rw [Nat.zero_mod, ite_self]

theorem rdP_noOpd (s : State) (th : Thread) (t : Ty) : s.rdP th t noOpd = 0 := by
  show (word (constPacked t 0)).toNat = 0
  rw [constPacked_zero]
  rfl

theorem fopOp_noOpd (s : State) (th : Thread) (op : Fop) (ty : Ty) (r : Option Rm) (sat : Bool) (d a b : Opd) :
    s.fopOp th op ty r sat d a b noOpd =
      s.floatResult th ty d (fop (th.arith r) op ty sat false (s.rd th ty a) (s.rd th ty b) 0) := by
  rw [State.fopOp, rd_noOpd]

/-- A packed operation writes one word (R133). -/
theorem hasEffect_packed {s : State} {i : Instr} {th : Thread} {x : X} {f : State → Thread → State × Next} {e : Effect} {op : Fop}
    {ty : Ty} {r : Option Rm} {sat : Bool} {d a b c : Opd} (h : s.Runs th i)
    (he : floatEffect.packed ty (th.arith r) op sat d (s.rdP th ty a) (s.rdP th ty b) (s.rdP th ty c) = some e) (hx : i.x = some x)
    (run : exec i s = .next (s.issue i x f)) (hf : f s th = s.packedOp th op ty r sat d a b c) : s.HasEffect i th e := by
  refine hasEffect_float (ty := .b32) h ?_ hx run hf
  exact he

theorem floatEffect_holds {s : State} {th : Thread} {i : Instr} {e : Effect} (h : s.Runs th i) (he : floatEffect s th i = some e) :
    s.HasEffect i th e := by
  cases i
  case fmad | dmad | fmin | fmax => exact hasEffect_float h he rfl rfl rfl
  case fadd | fsub | fmul | dadd | dmul => exact hasEffect_float h he rfl rfl (fopOp_noOpd ..)
  case padd2 x ty r sat d a b => exact hasEffect_packed (c := noOpd) h (by rw [rdP_noOpd]; exact he) rfl rfl rfl
  case pmul2 x ty r sat d a b => exact hasEffect_packed (c := noOpd) h (by rw [rdP_noOpd]; exact he) rfl rfl rfl
  case pfma2 => exact hasEffect_packed h he rfl rfl rfl
  all_goals exact nomatch he

/-! ## Conversions and nonzero analysis (R135, R137, R138) -/

theorem convertEffect_holds {s : State} {th : Thread} {i : Instr} {e : Effect} (h : s.Runs th i) (he : convertEffect s th i = some e) :
    s.HasEffect i th e := by
  cases i
  case cvt x t sty di si r sat d a =>
    by_cases narrow : t.bits < 32
    · simp only [convertEffect, narrow, if_true, Option.some.injEq] at he
      subst he
      refine hasEffect h rfl rfl ?_
      simp only [narrow, if_true, beq_iff_eq]
      exact floatResult_eq (cur_thread h.cur) .b32 d (_, _)
    · simp only [convertEffect, narrow, if_false] at he
      refine hasEffect_float h he rfl rfl ?_
      simp only [narrow, if_false, beq_iff_eq]
  case cvtd x t sty slot nosc d a b =>
    cases d with
    | v n =>
      obtain rfl := Option.some.inj he
      exact hasEffect h rfl rfl (congrArg (·, Next.next) (wrRun_plain s th n _))
    | s | k | r => exact nomatch he
  case nzcnt | nzmap => exact hasEffect_word h he rfl rfl rfl
  all_goals exact nomatch he

/-! ## Special functions (R139) -/
theorem specialEffect_holds {s : State} {th : Thread} {i : Instr} {e : Effect} (h : s.Runs th i) (he : specialEffect s th i = some e) :
    s.HasEffect i th e := by
  cases i
  case rcp | rsq | ex2 | lg2 | sin | cos | tanh => exact hasEffect_result h he rfl rfl rfl
  case sqrt => exact hasEffect_float h he rfl rfl rfl
  case sincos x d a =>
    obtain rfl := Option.some.inj he
    refine hasEffect h rfl rfl (congrArg (·, Next.next) ?_)
    rw [← sticky_pair_eq (cur_thread h.cur)]
  all_goals exact nomatch he

/-- Settles O14: each class of instructions by the ways in which they write their results. -/
theorem registerResults : Obligations.RegisterResults :=
  ⟨fun _ _ _ _ => integerEffect_holds, fun _ _ _ _ => logicEffect_holds, fun _ _ _ _ => floatEffect_holds,
    fun _ _ _ _ => convertEffect_holds, fun _ _ _ _ => specialEffect_holds⟩

end Sys2Proof.Machine
end

section
/-!
PROOFS. The bits of shifts, rotations, LUT3, counts and bit fields (R129, R130), for every width.
-/

namespace Sys2Proof.Machine

/-! ## Shifts and rotation -/

section Shifts
variable {w x k i : Nat}

theorem testBit_shlBits (hi : i < w) : (shlBits w x k).testBit i = (decide (k ≤ i) && x.testBit (i - k)) := by
  unfold shlBits
  split
  · have : ¬k ≤ i := by omega
    simp [this]
  · rw [Nat.testBit_mod_two_pow, decide_eq_true hi, Bool.true_and, Nat.testBit_mul_two_pow]

theorem testBit_shrBits (hx : x < 2 ^ w) : (shrBits w x k).testBit i = (decide (i + k < w) && x.testBit (i + k)) := by
  have above : w ≤ i + k → x.testBit (i + k) = false := fun h =>
    Nat.testBit_lt_two_pow (hx.trans_le (Nat.pow_le_pow_right (by decide) h))
  unfold shrBits
  split
  · have : ¬i + k < w := by omega
    simp [this]
  · rw [Nat.testBit_div_two_pow]
    by_cases h : i + k < w
    · simp [h]
    · rw [above (by omega), Bool.and_false]

/-- SAR is the arithmetic shift of a bit vector by at most `w - 1`. -/
theorem sarBits_eq (w x k : Nat) : sarBits w x k = ((BitVec.ofNat w x).sshiftRight (min k (w - 1))).toNat := by
  have value : intVal true w x = (BitVec.ofNat w x).toInt := by
    rw [BitVec.toInt_eq_toNat_cond, BitVec.toNat_ofNat]
    cases w with
    | zero => simp [intVal, Nat.mod_one]
    | succ n =>
      simp only [intVal, Bool.true_and, decide_eq_true_eq, Nat.add_sub_cancel, pow_succ]
      grind
  rw [sarBits, value, BitVec.sshiftRight, Int.shiftRight_eq_div_pow, BitVec.toNat_ofInt]
  rfl

theorem testBit_sarBits (hx : x < 2 ^ w) (hi : i < w) :
    (sarBits w x k).testBit i = x.testBit (if i + k < w then i + k else w - 1) := by
  have bit : ∀ j, (BitVec.ofNat w x).getLsbD j = x.testBit j := fun j => by
    rw [BitVec.getLsbD, BitVec.toNat_ofNat, Nat.mod_eq_of_lt hx]
  rw [sarBits_eq, ← BitVec.getLsbD, BitVec.getLsbD_sshiftRight, bit, BitVec.msb_eq_getLsbD_last, bit]
  grind

theorem testBit_rotBits (hx : x < 2 ^ w) (hi : i < w) : (rotBits w x k).testBit i = x.testBit ((i + w - k % w) % w) := by
  have hr : k % w < w := Nat.mod_lt _ (by omega)
  unfold rotBits
  generalize k % w = r at hr
  have small : x / 2 ^ (w - r) < 2 ^ r := by
    rw [Nat.div_lt_iff_lt_mul (by positivity), ← pow_add, Nat.add_sub_cancel' hr.le]
    exact hx
  rw [Nat.testBit_mod_two_pow, decide_eq_true hi, Bool.true_and, mul_comm, Nat.testBit_two_pow_mul_add _ small]
  split
  · rw [Nat.testBit_div_two_pow, Nat.mod_eq_of_lt (by omega)]
    congr 1
    omega
  · rw [show i + w - r = i - r + w by omega, Nat.add_mod_right, Nat.mod_eq_of_lt (by omega)]

theorem shifts_lt (hx : x < 2 ^ w) :
    shlBits w x k < 2 ^ w ∧ shrBits w x k < 2 ^ w ∧ sarBits w x k < 2 ^ w ∧ rotBits w x k < 2 ^ w := by
  have pos : 0 < 2 ^ w := by positivity
  refine ⟨?_, ?_, ?_, Nat.mod_lt _ pos⟩
  · unfold shlBits
    split
    · exact pos
    · exact Nat.mod_lt _ pos
  · unfold shrBits
    split
    · exact pos
    · exact (Nat.div_le_self ..).trans_lt hx
  · rw [sarBits_eq]
    exact BitVec.isLt _

end Shifts

/-! ## NOT, BREV, LUT3 and the counts -/

theorem testBit_bitNot {w x i : Nat} (hx : x < 2 ^ w) (hi : i < w) : (bitNot w x).testBit i = !x.testBit i := by
  rw [bitNot, Nat.mod_eq_of_lt hx, Nat.sub_sub, Nat.add_comm 1, Nat.testBit_two_pow_sub_succ hx, decide_eq_true hi, Bool.true_and]

theorem mod_two_eq_toNat (x : Nat) : x % 2 = (x.testBit 0).toNat := by
  rw [Nat.testBit_zero]
  rcases Nat.mod_two_eq_zero_or_one x with h | h <;> simp [h]

theorem revBits_lt (w : Nat) : ∀ x, revBits w x < 2 ^ w := by
  induction w with
  | zero => exact fun _ => Nat.one_pos
  | succ w ih =>
    intro x
    have low := ih (x / 2)
    have top : x % 2 * 2 ^ w ≤ 1 * 2 ^ w := Nat.mul_le_mul_right _ (by omega)
    rw [revBits, pow_succ]
    omega

theorem testBit_revBits (w : Nat) : ∀ x i, i < w → (revBits w x).testBit i = x.testBit (w - 1 - i) := by
  induction w with
  | zero => exact fun _ _ h => absurd h (Nat.not_lt_zero _)
  | succ w ih =>
    intro x i hi
    rw [revBits, mul_comm, Nat.testBit_two_pow_mul_add _ (revBits_lt w _)]
    split
    case isTrue low =>
      rw [ih _ _ low, ← Nat.testBit_succ]
      congr 1
      omega
    case isFalse top =>
      obtain rfl : i = w := by omega
      rw [Nat.sub_self, Nat.add_sub_cancel, Nat.sub_self, Nat.testBit_zero, Nat.testBit_zero, Nat.mod_mod]

theorem testBit_lut3 (lut : Byte) (w : Nat) : ∀ x y z i, i < w → (lut3 lut x y z w).testBit i =
    lut.getLsbD (4 * (x.testBit i).toNat + 2 * (y.testBit i).toNat + (z.testBit i).toNat) := by
  induction w with
  | zero => exact fun _ _ _ _ h => absurd h (Nat.not_lt_zero _)
  | succ w ih =>
    intro x y z i hi
    have step : ∀ (b : Bool) (r : Nat), ((if b then 1 else 0) + 2 * r).testBit 0 = b ∧ ((if b then 1 else 0) + 2 * r) / 2 = r := by
      intro b r
      rw [Nat.testBit_zero]
      cases b <;> grind
    rw [lut3]
    cases i with
    | zero => rw [(step ..).1, mod_two_eq_toNat, mod_two_eq_toNat, mod_two_eq_toNat]
    | succ i => rw [Nat.testBit_succ, (step ..).2, ih _ _ _ _ (by omega), Nat.testBit_succ, Nat.testBit_succ, Nat.testBit_succ]

theorem popBits_eq (w : Nat) : ∀ x, popBits w x = ((List.range w).filter fun i => x.testBit i).length := by
  induction w with
  | zero => exact fun _ => rfl
  | succ w ih =>
    intro x
    have shifted : (fun i => x.testBit i) ∘ Nat.succ = fun i => (x / 2).testBit i := funext fun i => Nat.testBit_succ x i
    rw [popBits, ih, List.range_succ_eq_map, List.filter_cons, List.filter_map, shifted, mod_two_eq_toNat]
    cases x.testBit 0 <;> simp [Nat.add_comm]

theorem clzBits_zero (w : Nat) : clzBits w 0 = w := by simp [clzBits]

theorem clzBits_spec {w x : Nat} (hx : x < 2 ^ w) (h : x ≠ 0) :
    clzBits w x < w ∧ x.testBit (w - 1 - clzBits w x) = true ∧ x < 2 ^ (w - clzBits w x) := by
  have top : x.log2 < w := (Nat.log2_lt h).2 hx
  have value : clzBits w x = w - 1 - x.log2 := by simp [clzBits, Nat.mod_eq_of_lt hx, h]
  rw [value]
  refine ⟨by omega, ?_, ?_⟩
  · rw [show w - 1 - (w - 1 - x.log2) = x.log2 by omega]
    exact Nat.testBit_log2 h
  · rw [show w - (w - 1 - x.log2) = x.log2 + 1 by omega]
    exact Nat.lt_log2_self

/-! ## Bit fields -/

theorem testBit_bitsAt (a p l i : Nat) : (bitsAt a p l).testBit i = (decide (i < l) && a.testBit (p + i)) := by
  rw [bitsAt, Nat.testBit_mod_two_pow, Nat.testBit_div_two_pow, Nat.add_comm]

/-- A field of `l` bits laid over bit `p` of `v` (R130, BFI). -/
theorem testBit_insert (a v p l i : Nat) : (v % 2 ^ p + bitsAt a 0 l * 2 ^ p + v / 2 ^ (p + l) * 2 ^ (p + l)).testBit i =
    if p ≤ i ∧ i < p + l then a.testBit (i - p) else v.testBit i := by
  have low : v % 2 ^ p < 2 ^ p := Nat.mod_lt _ (by positivity)
  have field : bitsAt a 0 l < 2 ^ l := Nat.mod_lt _ (by positivity)
  have parts : v % 2 ^ p + bitsAt a 0 l * 2 ^ p + v / 2 ^ (p + l) * 2 ^ (p + l) =
      2 ^ p * (2 ^ l * (v / 2 ^ (p + l)) + bitsAt a 0 l) + v % 2 ^ p := by ring
  rw [parts, Nat.testBit_two_pow_mul_add _ low]
  by_cases below : i < p
  · rw [if_pos below, if_neg (by omega), Nat.testBit_mod_two_pow, decide_eq_true below, Bool.true_and]
  · rw [if_neg below, Nat.testBit_two_pow_mul_add _ field]
    by_cases inside : i - p < l
    · rw [if_pos inside, if_pos (by omega), testBit_bitsAt, decide_eq_true inside, Bool.true_and, Nat.zero_add]
    · rw [if_neg inside, if_neg (by omega), Nat.testBit_div_two_pow]
      congr 1
      omega

theorem fieldLen_eq (w c : Nat) : fieldLen w c = if w ≤ c % 256 then 0 else min (c / 256 % 256) (w - c % 256) := rfl

/-- Settles O16: each operation by its own lemma, which holds for every width. -/
theorem logicBits : Obligations.LogicBits := by
  refine ⟨fun w x k i _ hx hi => ?_, fun w x y z lut _ hx => ?_, fun w c i _ _ => ?_⟩
  · exact ⟨testBit_shlBits hi, testBit_shrBits hx, testBit_sarBits hx hi, testBit_rotBits hx hi, shifts_lt hx⟩
  · exact ⟨fun i hi => ⟨testBit_bitNot hx hi, testBit_revBits w x i hi, testBit_lut3 lut w x y z i hi⟩, popBits_eq w x,
      clzBits_zero w, clzBits_spec hx⟩
  · exact ⟨fieldLen_eq w c, fun a => testBit_bitsAt a _ _ i, fun a v _ _ => testBit_insert a v _ _ i⟩

end Sys2Proof.Machine
end

section
/-!
PROOFS. Predicates: what a write of one predicate leaves of the others, and the three instructions that write one (R18, R131,
R132).
-/

namespace Sys2Proof.Machine

/-- The bits of the predicates after a write of predicate `p`. -/
theorem setPred_preds {th : Thread} {p : Fin 8} (hp : p ≠ 7) (v : Bool) (q : Fin 8) (hq : q ≠ 7) :
    (th.setPred p v).preds.getLsbD q.val = if q = p then v else th.preds.getLsbD q.val := by
  have p7 : (p == 7) = false := by simpa using hp
  have below : q.val < 7 := by omega
  simp only [Thread.setPred, p7, Bool.false_eq_true, if_false]
  cases v <;> by_cases h : q = p <;> grind

theorem setPred_seven (th : Thread) (v : Bool) : th.setPred 7 v = th := rfl

theorem pred_setPred_same {th : Thread} {p : Fin 8} (hp : p ≠ 7) (v : Bool) : (th.setPred p v).pred p = v := by
  have p7 : (p == 7) = false := by simpa using hp
  rw [Thread.pred, setPred_preds hp v p hp, p7, if_pos rfl, Bool.false_or]

theorem pred_setPred_other {th : Thread} {p q : Fin 8} (v : Bool) (h : q ≠ p) : (th.setPred p v).pred q = th.pred q := by
  by_cases hp : p = 7
  · rw [hp, setPred_seven]
  by_cases hq : q = 7
  · rw [hq]; rfl
  · rw [Thread.pred, setPred_preds hp v q hq, if_neg h]; rfl

theorem setPred_keeps (u : Thread) (p : Fin 8) (v : Bool) :
    (u.setPred p v).id = u.id ∧ (u.setPred p v).hold = u.hold ∧ (u.setPred p v).pend = u.pend := by
  unfold Thread.setPred
  split <;> exact ⟨rfl, rfl, rfl⟩

/-- An instruction whose body sets flags and one predicate. -/
theorem becomes_setPred {s : State} {i : Instr} {th : Thread} {x : X} {f : State → Thread → State × Next} {d : Fin 8} {v : Bool}
    {fl : Nat} (h : s.Runs th i) (hx : i.x = some x) (run : exec i s = .next (s.issue i x f))
    (hf : f s th = (s.modTh th.id fun u => (u.sticky fl).setPred d v, .next)) :
    s.Becomes i th { ((th.sticky fl).setPred d v).advance with ovf := [] } s :=
  becomes_modTh h hx run hf fun u => setPred_keeps (u.sticky fl) d v

theorem predEffect_holds {s : State} {th : Thread} {i : Instr} {d : Fin 8} {v : Bool} {fl : Nat} (h : s.Runs th i)
    (he : predEffect s th i = some (d, v, fl)) : s.Becomes i th { ((th.sticky fl).setPred d v).advance with ovf := [] } s := by
  cases i
  case pcmpi x cmp ty bop d a b c =>
    cases he
    refine becomes_setPred h rfl rfl ?_
    simp only [sticky_zero]
  case pcmpf x cmp ty bop d a b c =>
    cases he
    exact becomes_setPred h rfl rfl rfl
  case plut x lut d a b c =>
    cases he
    refine becomes_setPred h rfl rfl ?_
    simp only [sticky_zero, Bool.toNat, Bool.cond_eq_ite]
  all_goals exact nomatch he

/-- Settles O17: the three instructions by the predicate and the flags that their bodies set. -/
theorem predicateResults : Obligations.PredicateResults := by
  intro s th i d v fl h he
  exact ⟨predEffect_holds h he, fun hd => hd ▸ setPred_seven th v, fun hd => pred_setPred_same hd v,
    fun q hq => pred_setPred_other v hq⟩

end Sys2Proof.Machine
end

section
/-!
PROOFS. The L1 form of the statement on memory admits a line of another core that holds no valid byte and that no PREF has
brought. `State.setL1` never keeps such a line, and a write-back of another core's line drops it (`State.dropClean`), so that a
publish can change which line another core holds.
-/

namespace Sys2Proof.Machine

/-- Core 0 holds line 0 with one dirty byte, and core 1 holds it with no valid byte. -/
def emptyLineState : State :=
  { State.reset with l1 := [{ L1Line.fresh 0 0 with valid := 1, dirty := 1 }, L1Line.fresh 1 0] }

theorem emptyLineState_l1Form : emptyLineState.L1Form := by
  refine ⟨fun l hl => ?_, ?_⟩
  · simp only [emptyLineState, List.mem_cons, List.not_mem_nil, or_false] at hl
    rcases hl with rfl | rfl <;> decide
  · simp [emptyLineState, L1Line.fresh]

theorem emptyLineState_line : emptyLineState.l1Line? 1 0 = some (L1Line.fresh 1 0) := rfl

/-- The publish of core 0 performs its dirty byte at home; the line of core 1 goes. -/
theorem publishCore_drops_emptyLine : (emptyLineState.publishCore 0 0xFF#8).l1Line? 1 0 = none := rfl

/-- Refutes O33: a publish of core 0 drops the line of core 1 that holds no valid byte, where the statement keeps every line of
another core. -/
theorem not_coreMemory : ¬ Obligations.CoreMemory := by
  rintro ⟨-, -, -, publish⟩
  obtain ⟨-, -, -, others, -⟩ := publish emptyLineState 0 0xFF#8 emptyLineState_l1Form (by decide)
  have kept := others 1 0 (by decide) (by decide)
  rw [publishCore_drops_emptyLine, emptyLineState_line] at kept
  exact nomatch kept

end Sys2Proof.Machine
end

section
/-!
PROOFS. What an access to memory leaves as it is: the clock, the selected bundles, the instruction caches, the launches and the
contexts of teams.
-/

namespace Sys2Proof.Machine

/-- The part of the state that no access to memory changes. -/
def State.steady (s : State) : Nat × List Issue × List (Nat × DWord) × List Launch × (Nat → Nat) :=
  (s.cycle, s.issues, s.icache, s.launches, fun k => (s.team k).ctx)

/-- A fold of steps that leave a view of the state as it is. -/
theorem foldl_view {σ α β : Type} {π : σ → β} {f : σ → α → σ} (h : ∀ s a, π (f s a) = π s) (l : List α) :
    ∀ s, π (l.foldl f s) = π s := by
  induction l with
  | nil => exact fun _ => rfl
  | cons a l ih => exact fun s => (ih (f s a)).trans (h s a)

/-- A team keeps a field that an update of one team keeps. -/
theorem team_modTeam_view {β : Type} (p : Team → β) (s : State) (t k : Nat) {f : Team → Team} (hid : ∀ m, (f m).id = m.id)
    (h : ∀ m, p (f m) = p m) : p ((s.modTeam t f).team k) = p (s.team k) := by
  by_cases hk : k = t
  · subst hk
    have found : (s.modTeam k f).teams.find? (fun x => x.id == k) = (s.teams.find? fun x => x.id == k).map f :=
      find_updBy_self Team.id f k (fun m hm => (hid m).trans hm) s.teams
    unfold State.team
    rw [found]
    cases s.teams.find? fun x => x.id == k with
    | none => rfl
    | some m => exact h m
  · have found : (s.modTeam t f).teams.find? (fun x => x.id == k) = s.teams.find? fun x => x.id == k :=
      find_updBy_ne Team.id f t k (fun m hm => (hid m).trans hm) hk s.teams
    unfold State.team
    rw [found]

section Access
variable (s : State)

/-! ## Home slices and read sets -/

theorem homeWrite_steady (pa : Nat) (bs : List Byte) : (s.homeWrite pa bs).steady = s.steady := by
  unfold State.homeWrite
  split <;> rfl

theorem once_steady (i : Instr) : (s.once i).steady = s.steady := by
  unfold State.once
  split <;> rfl

theorem doom_steady (team off g : Nat) : (s.doom team off g).steady = s.steady := by
  have ctx : (fun k => ((s.doom team off g).team k).ctx) = fun k => (s.team k).ctx :=
    funext fun k => team_modTeam_view Team.ctx s team k (fun _ => rfl) (fun _ => rfl)
  show (_, _, _, _, fun k => ((s.doom team off g).team k).ctx) = _
  rw [ctx]
  rfl

theorem checkedWrite_steady (team tag : Nat) (colour : Option (Fin 8)) : (s.checkedWrite team tag colour).steady = s.steady := by
  unfold State.checkedWrite
  refine foldl_view (fun s o => ?_) _ s
  have all := foldl_view (f := fun s g => (s.doom team o.off g).once (.rollback g))
    (fun s g => (once_steady ..).trans (doom_steady s team o.off g)) (o.implicated tag) s
  cases colour with
  | none => exact all
  | some c => exact ite_ind (P := fun t : State => t.steady = s.steady) _ all rfl

/-! ## L1s -/

theorem passOn_steady (core : Nat) (teams : List Nat) : (s.passOn core teams).steady = s.steady := by
  unfold State.passOn
  split <;> rfl

theorem writeBack_steady (l : L1Line) (p : Nat → Bool) : (s.writeBack l p).1.steady = s.steady := by
  unfold State.writeBack
  dsimp only
  refine (foldl_view (fun s k => ?_) _ _).trans ((foldl_view (fun s r => homeWrite_steady s _ _) _ _).trans ?_)
  · split
    · split
      · exact checkedWrite_steady ..
      · rfl
    · rfl
  · split
    · rfl
    · exact passOn_steady _ _ _

theorem setL1_steady (l : L1Line) : (s.setL1 l).steady = s.steady := rfl

theorem publishCore_steady (core : Nat) (colours : Byte) : (s.publishCore core colours).steady = s.steady := by
  unfold State.publishCore
  refine foldl_view (fun s l => ?_) _ s
  exact (setL1_steady ..).trans (writeBack_steady ..)

theorem settlePubs_steady (core : Nat) : (s.settlePubs core).steady = s.steady :=
  foldl_view (fun s _ => publishCore_steady s _ _) _ s

theorem dropLine_steady (l : L1Line) : (s.dropLine l).steady = s.steady :=
  (setL1_steady ..).trans ((writeBack_steady ..).trans (settlePubs_steady ..))

theorem makeRoom_steady (core line : Nat) : (s.makeRoom core line).steady = s.steady := by
  unfold State.makeRoom
  split
  · rfl
  · split
    · exact dropLine_steady ..
    · rfl

theorem l1WriteLine_steady (core pa : Nat) (colour : Fin 8) (own : Nat × Option Nat) (bs : List Byte) :
    (s.l1WriteLine core pa colour own bs).steady = s.steady := by
  unfold State.l1WriteLine
  dsimp only
  refine (setL1_steady ..).trans ((writeBack_steady ..).trans ?_)
  split
  · exact makeRoom_steady ..
  · exact (settlePubs_steady ..).trans (makeRoom_steady ..)

theorem l1Write_steady (core pa va : Nat) (colour : Fin 8) (team : Nat) (checked : Bool) (bs : List Byte) :
    (s.l1Write core pa va colour team checked bs).steady = s.steady :=
  foldl_view (fun s _ => l1WriteLine_steady s _ _ _ _ _) _ s

end Access

end Sys2Proof.Machine
end

section
/-!
PROOFS. ST (R142, R283, R285): its three outcomes, the flagged store in flight, and a store to a window byte by byte.
-/

namespace Sys2Proof.Machine

/-! ## Writes to windows -/

/-- `t` is `s` but for what a write to a window changes: teams, completed phases and events to come. -/
def State.Windows (s t : State) : Prop := t = { s with teams := t.teams, phases := t.phases, agenda := t.agenda }

theorem State.Windows.refl (s : State) : s.Windows s := rfl

theorem State.Windows.trans {a b c : State} (h : a.Windows b) (g : b.Windows c) : a.Windows c := by
  unfold State.Windows at *
  rw [g, h]

theorem State.Windows.foldl {α : Type} {f : State → α → State} (h : ∀ (s : State) a, s.Windows (f s a)) (l : List α) :
    ∀ s : State, s.Windows (l.foldl f s) := by
  induction l with
  | nil => exact State.Windows.refl
  | cons a l ih => exact fun s => (h s a).trans (ih _)

theorem modTeam_windows (s : State) (t : Nat) (f : Team → Team) : s.Windows (s.modTeam t f) := rfl

theorem spadPut_windows (s : State) (t q : Nat) (bs : List Byte) : s.Windows (s.spadPut t q bs) := rfl

theorem objSet_windows (s : State) (t o f v : Nat) : s.Windows (s.objSet t o f v) := rfl

theorem once_windows (s : State) (i : Instr) : s.Windows (s.once i) := by
  unfold State.once
  split <;> exact State.Windows.refl _

theorem setMap_windows (s : State) (t o k : Nat) (v : Bool) : s.Windows (s.setMap t o k v) := spadPut_windows ..

theorem objComplete_windows (s : State) (t o : Nat) : s.Windows (s.objComplete t o) := by
  unfold State.objComplete
  dsimp only
  have sets := (((objSet_windows s t o oEXPA (s.obj t o oEXPA + 2 ^ 32 - s.obj t o oXC)).trans (objSet_windows _ t o oXC 0)).trans
    (objSet_windows _ t o oARRV 0)).trans (objSet_windows _ t o oLAND 0)
  generalize State.objSet _ t o oLAND 0 = z at sets ⊢
  by_cases cex : z.objCex t o = true
  · rw [if_pos cex]
    exact (sets.trans (State.Windows.foldl (fun (s : State) k => setMap_windows s t o (2 * k) false) _ _)).trans rfl
  · rw [if_neg cex]
    exact sets.trans rfl

theorem objError_windows (s : State) (t o code addr : Nat) : s.Windows (s.objError t o code addr) := by
  unfold State.objError
  refine ite_ind (P := s.Windows) _ (State.Windows.refl s) ?_
  exact ((objSet_windows s t o oFLAGS _).trans (spadPut_windows _ t _ _)).trans (objComplete_windows _ t o)

theorem checkedWrite_windows (s : State) (team tag : Nat) (colour : Option (Fin 8)) : s.Windows (s.checkedWrite team tag colour) := by
  unfold State.checkedWrite
  refine State.Windows.foldl (fun s o => ?_) _ s
  have all : s.Windows ((o.implicated tag).foldl (fun s g => (s.doom team o.off g).once (.rollback g)) s) :=
    State.Windows.foldl (fun (s : State) g => (modTeam_windows s team _).trans (once_windows (s.doom team o.off g) _)) _ s
  cases colour with
  | none => exact all
  | some c => exact ite_ind (P := s.Windows) _ all (State.Windows.refl s)

theorem spadWrite_windows (s : State) (w : Option Nat) (t q : Nat) (bs : List Byte) : s.Windows (s.spadWrite w t q bs) := by
  unfold State.spadWrite
  have marked := (spadPut_windows s t q bs).trans
    (State.Windows.foldl (fun (s : State) (h : Nat × Nat) => objError_windows s t h.1 3 h.2)
      ((s.team t).objs.filterMap fun o => (s.guarded t o q bs.length).map fun e => (o, e)) _)
  cases w with
  | none => exact marked
  | some w => exact marked.trans (State.Windows.foldl (fun (s : State) l => checkedWrite_windows s w (tagT t l) none) _ _)

/-! ## The record of the storing thread -/

section Stored
variable {s : State} {th : Thread} (h : s.thread? th.id = some th)
include h

theorem specStore_thread (r : SpecRec) (x : SpecStore) : ∃ sp, (s.specStore th r x).1.thread? th.id = some { th with spec := sp } := by
  unfold State.specStore
  split
  · exact ⟨_, thread_modTh h⟩
  · exact ⟨th.spec, h⟩

theorem storeG_thread (priv : Bool) (va : Nat) (colour : Fin 8) (bs : List Byte) :
    ∃ sp, (s.storeG th priv va colour bs).1.thread? th.id = some { th with spec := sp } := by
  have threads := checkCore_threads s th priv .write va bs.length
  unfold State.storeG
  generalize s.checkCore th priv .write va bs.length = m at threads
  obtain ⟨q, e | l⟩ := m
  · exact ⟨th.spec, (thread_threads threads _).trans h⟩
  · have hq : q.thread? th.id = some th := (thread_threads threads _).trans h
    dsimp only
    cases th.spec with
    | some r => exact specStore_thread hq r _
    | none =>
      refine ⟨th.spec, (thread_threads (threads_of_onThreads (g := fun q : State =>
        (q.l1Write (q.hostOf th) l.pa va colour th.team true bs).afterStore th) (fun q f => ?_) q) _).trans hq⟩
      rw [show (q.onThreads f).hostOf = q.hostOf from rfl, onThreads_l1Write, onThreads_afterStore]

theorem storeW_thread (sp : Space) (o : Int) (bs : List Byte) :
    ∃ z, (s.storeW th sp o bs).1.thread? th.id = some { th with spec := z } := by
  unfold State.storeW
  split
  · exact ⟨th.spec, h⟩
  split
  · exact ⟨th.spec, h⟩
  split
  · exact specStore_thread h _ _
  · rw [spadWrite_windows s (some th.team) _ _ bs]
    exact ⟨th.spec, h⟩

theorem storeSp_thread (sp : Space) (a : Opd) (off : BitVec 24) (colour : Fin 8) (raw : Bool) (bs : List Byte) :
    ∃ z, (s.storeSp th sp a off colour raw bs).1.thread? th.id = some { th with spec := z } := by
  unfold State.storeSp
  split
  · dsimp only
    have threads := checkCore_threads s th th.privileged .write (s.addrG th a off) bs.length
    generalize s.checkCore th th.privileged .write (s.addrG th a off) bs.length = m at threads
    obtain ⟨q, e | l⟩ := m
    · exact ⟨th.spec, (thread_threads threads _).trans h⟩
    · dsimp only
      split
      · exact ⟨th.spec, (thread_threads threads _).trans h⟩
      · exact storeG_thread ((thread_threads threads _).trans h) ..
  · exact storeW_thread h ..

end Stored

/-! ## The instruction -/

section Store
variable {s r : State} {th : Thread} {x : X} {ty : Ty} {n : Fin 16} {sp : Space} {colour : Fin 8} {b a : Opd} {off : BitVec 24}

theorem rawTy_eq (ty : Ty) : rawTy ty = decide (ty ∈ [Ty.b8, .b16, .b32, .b64, .b128]) := by cases ty <;> rfl

/-- The store of ST. -/
def State.stStore (s : State) (th : Thread) (ty : Ty) (n : Fin 16) (sp : Space) (colour : Fin 8) (b a : Opd) (off : BitVec 24) :
    State × Except Stop Unit :=
  s.storeSp th sp a off colour (rawTy ty) (storedBytes ty (s.rdRun th ty b ((n.val + 1) * Wf.regsOf ty)))

variable (h : s.Runs th (.st x ty n sp colour b a off))
include h

theorem st_full (full : s.flagFull th (th.flagOf x.sb) = true) :
    s.Ends (.st x ty n sp colour b a off) th s (.stall (.flag (th.flagOf x.sb))) :=
  ends_issue h rfl rfl (if_pos full)

variable (full : s.flagFull th (th.flagOf x.sb) = false)
include full

theorem st_stop {e : Stop} (hs : s.stStore th ty n sp colour b a off = (r, .error e)) :
    s.Ends (.st x ty n sp colour b a off) th r e.next := by
  unfold State.stStore at hs
  exact ends_issue h rfl rfl (by simp only [full, hs]; rfl)

theorem st_stores (hs : s.stStore th ty n sp colour b a off = (r, .ok ())) (hf : th.flagOf x.sb = none) :
    s.Ends (.st x ty n sp colour b a off) th r .next := by
  unfold State.stStore at hs
  rw [hf] at full
  exact ends_issue h rfl rfl (by simp only [full, hs, hf]; rfl)

theorem st_flies {f : Fin 12} (hs : s.stStore th ty n sp colour b a off = (r, .ok ())) (hf : th.flagOf x.sb = some f) :
    ∃ (o : Op) (q : State), s.Flies (.st x ty n sp colour b a off) th f o .storePerformed q ∧
      q.mem = r.mem ∧ q.l1 = r.l1 ∧ q.teams = r.teams := by
  obtain ⟨z, hz⟩ := storeSp_thread (cur_thread h.cur) sp a off colour (rawTy ty)
    (storedBytes ty (s.rdRun th ty b ((n.val + 1) * Wf.regsOf ty)))
  unfold State.stStore at hs
  rw [hs] at hz
  rw [hf] at full
  have raised : (r.modTh th.id fun u => u.flagUp f).thread? th.id = some (({ th with spec := z } : Thread).flagUp f) := thread_modTh hz
  have ends := ends_issue h rfl rfl (r := r.flown th (.st x ty n sp colour b a off) f [] none
    (if sp == .g then [s.addrG th a off, (n.val + 1) * (ty.bits / 8)] else []) 0 .storePerformed) (n := .next)
    (by simp only [full, hs, hf]; rfl)
  exact ⟨_, _, ⟨ends, ⟨_, raised, rfl, flagCount_flagUp th f⟩, List.mem_append_right _ (List.mem_singleton.2 rfl),
    rfl, rfl, rfl, rfl, rfl, List.mem_append_right _ (List.mem_singleton.2 rfl)⟩, rfl, rfl, rfl⟩

end Store

/-! ## Stores to global addresses -/

section Global
variable {s q : State} {th : Thread} {priv : Bool} {va : Nat} {colour : Fin 8} {bs : List Byte} {l : Leaf}

theorem storeSp_formatted {a : Opd} {off : BitVec 24} (hc : s.checkCore th th.privileged .write (s.addrG th a off) bs.length = (q, .ok l))
    (hf : q.formatted (q.hostOf th) (q.team th.team).ctx l = true) :
    s.storeSp th .g a off colour false bs = (q, .error (.fault .reservedField (s.addrG th a off))) := by
  simp only [State.storeSp, hc, hf]; rfl

theorem storeSp_plain {a : Opd} {off : BitVec 24} {raw : Bool}
    (hc : s.checkCore th th.privileged .write (s.addrG th a off) bs.length = (q, .ok l))
    (hf : q.formatted (q.hostOf th) (q.team th.team).ctx l = false ∨ raw = true) :
    s.storeSp th .g a off colour raw bs = q.storeG th th.privileged (s.addrG th a off) colour bs := by
  have plain : (q.formatted (q.hostOf th) (q.team th.team).ctx l && !raw) = false := by
    rcases hf with hf | hf <;> simp [hf]
  simp only [State.storeSp, hc, plain]; rfl

/-- A view of the state that is a part of what accesses leave as it is. -/
theorem strong_of_steady {s t : State} (h : t.steady = s.steady) (th : Thread) :
    t.strong (t.team th.team).ctx = s.strong (s.team th.team).ctx := by
  have launches := congrArg (fun v => v.2.2.2.1) h
  have ctx := congrFun (congrArg (fun v => v.2.2.2.2) h) th.team
  simp only [State.steady] at launches ctx
  rw [State.strong, State.strong, launches, ctx]

theorem storeG_stores (hc : s.checkCore th priv .write va bs.length = (q, .ok l)) (hs : th.spec = none)
    (weak : q.strong (q.team th.team).ctx = false) :
    s.storeG th priv va colour bs = (q.l1Write (q.hostOf th) l.pa va colour th.team true bs, .ok ()) := by
  have still : (q.l1Write (q.hostOf th) l.pa va colour th.team true bs).afterStore th =
      q.l1Write (q.hostOf th) l.pa va colour th.team true bs := by
    rw [State.afterStore, strong_of_steady (l1Write_steady ..), weak]; rfl
  simp only [State.storeG, hc, hs, still]

end Global

/-! ## Completion -/

theorem storePerformed_waits {s : State} {o : Op} (ho : s.op? o.id = some o) (h : s.specStoreOp o = true) :
    exec (.storePerformed o.id) s = .next s := by
  show execStorePerformed o.id s = _
  simp only [execStorePerformed, ho, h]; rfl

theorem storePerformed_lands {s : State} {o : Op} (ho : s.op? o.id = some o) (h : s.specStoreOp o = false) :
    exec (.storePerformed o.id) s = .next (s.storeLands o) := by
  show execStorePerformed o.id s = _
  simp only [execStorePerformed, ho, h]; rfl

theorem storeLands_eq (s : State) (o : Op) : ∃ q : State, s.storeLands o = q.opDone o ∧ (o.data = [] → q = s) ∧
    ∀ v m z l, o.data = [v, m] → s.translate o.core o.ctx v = (z, .ok l) → q = z.settle o.core l.pa m := by
  refine ⟨_, rfl, fun hd => by rw [hd], fun v m z l hd ht => ?_⟩
  rw [hd]
  simp only [ht]

/-! ## Stores to windows -/

/-- The record with a key is the one found under it, where no two records share their key. -/
theorem find_of_mem_nodup {α : Type} {key : α → Nat} {l : List α} {m : α} (one : (l.map key).Nodup) (hm : m ∈ l) :
    l.find? (fun x => key x == key m) = some m := by
  induction l with
  | nil => exact absurd hm List.not_mem_nil
  | cons a l ih =>
    rw [List.map_cons, List.nodup_cons] at one
    rcases List.mem_cons.1 hm with rfl | hm
    · exact List.find?_cons_of_pos (beq_self_eq_true _)
    · have other : key a ≠ key m := fun e => one.1 (e ▸ List.mem_map_of_mem hm)
      rw [List.find?_cons_of_neg (by simpa using other), ih one.2 hm]

/-- Each byte after a run was written. -/
theorem Sparse.read_writeN {w : Nat} {t : Sparse w} (wf : Sparse.wf t = true) (q k : Nat) (l : List (BitVec w)) :
    Sparse.read (Sparse.writeN t q l) k = if q ≤ k ∧ k < q + l.length then l.getD (k - q) 0 else Sparse.read t k := by
  by_cases inside : q ≤ k ∧ k < q + l.length
  · have small : k - q < l.length := by omega
    have here := Sparse.read_writeN_in l t q (k - q) small wf
    rw [Nat.add_sub_cancel' inside.1] at here
    rw [if_pos inside, here, List.getD_eq_getElem _ _ small]
  · rw [if_neg inside, Sparse.read_writeN_other l t q k wf (by omega)]

section Window
variable {s : State} {th : Thread} {t q : Nat} {bs : List Byte}

theorem checkedWrite_spad (s : State) (team tag : Nat) (colour : Option (Fin 8)) (k : Nat) :
    ((s.checkedWrite team tag colour).team k).spad = (s.team k).spad := by
  unfold State.checkedWrite
  refine foldl_view (π := fun s : State => (s.team k).spad) (fun s o => ?_) _ s
  have once (s : State) (i : Instr) : ((s.once i).team k).spad = (s.team k).spad := by
    unfold State.once
    split <;> rfl
  have all := foldl_view (π := fun s : State => (s.team k).spad) (f := fun s g => (s.doom team o.off g).once (.rollback g))
    (fun s g => (once ..).trans (team_modTeam_view Team.spad s team k (fun _ => rfl) (fun _ => rfl))) (o.implicated tag) s
  cases colour with
  | none => exact all
  | some c => exact ite_ind (P := fun z : State => (z.team k).spad = (s.team k).spad) _ all rfl

theorem spadPut_spad {m : Team} (hm : m ∈ s.teams) (one : (s.teams.map Team.id).Nodup) (q : Nat) (bs : List Byte) :
    ((s.spadPut m.id q bs).team m.id).spad = Sparse.writeN (w := 8) m.spad q bs := by
  have found := find_updBy_self Team.id (fun u => { u with spad := Sparse.writeN (w := 8) u.spad q bs }) m.id (fun _ h => h) s.teams
  rw [find_of_mem_nodup one hm] at found
  exact congrArg (fun u : Option Team => (u.getD default).spad) found

/-- A write to a window in which no object guards a byte. -/
theorem spadWrite_spad (free : ∀ o ∈ (s.team t).objs, s.guarded t o q bs.length = none) (by_ : Option Nat) (k : Nat) :
    ((s.spadWrite by_ t q bs).team k).spad = ((s.spadPut t q bs).team k).spad := by
  have none_hit : ((s.team t).objs.filterMap fun o => (s.guarded t o q bs.length).map fun e => (o, e)) = [] :=
    List.filterMap_eq_nil_iff.2 fun o ho => by rw [free o ho, Option.map_none]
  unfold State.spadWrite
  rw [none_hit]
  cases by_ with
  | none => rfl
  | some w => exact foldl_view (π := fun s : State => (s.team k).spad) (fun s l => checkedWrite_spad s w _ none k) _ _

theorem storeSp_window {sp : Space} {a : Opd} {off : BitVec 24} (colour : Fin 8) (raw : Bool) (plain : th.spec = none)
    (hsp : sp = .t ∨ sp = .c) (hw : s.windowAligned th sp (s.offT th a off) bs.length = .ok (t, q))
    (idle : s.rangeBusy t q bs.length = false) :
    s.storeSp th sp a off colour raw bs = (s.spadWrite (some th.team) t q bs, .ok ()) := by
  have w : s.storeW th sp (s.offT th a off) bs = (s.spadWrite (some th.team) t q bs, .ok ()) := by
    simp only [State.storeW, hw, idle, plain]
    rfl
  rcases hsp with rfl | rfl <;> exact w

end Window

/-! ## The statement -/

/-- Settles O35: ST goes through `storeSp`, whose outcomes are its stall, its trap or its store; a flagged store leaves its operation
in flight. -/
theorem stores : Obligations.Stores := by
  intro s th x ty n sp colour b a off i flag bs va raw
  have hraw : rawTy ty = raw := rawTy_eq ty
  refine ⟨fun h => ⟨st_full h, fun full => ?_⟩, fun q l hc => ⟨fun hf hr => ?_, fun hf => storeSp_plain hc hf, fun hs weak =>
    storeG_stores hc hs weak⟩, fun o ho => ⟨fun hs => ?_, storePerformed_waits ho⟩, fun t q k plain hsp hw idle free =>
    ⟨_, storeSp_window colour raw plain hsp hw idle, ?_, ?_, ?_⟩⟩
  · have eqn : s.stStore th ty n sp colour b a off = s.storeSp th sp a off colour raw bs := by rw [State.stStore, hraw]
    exact ⟨fun r c ad e => st_stop h full (eqn.trans e), fun r w e => st_stop h full (eqn.trans e), fun r e =>
      ⟨st_stores h full (eqn.trans e), fun f => st_flies h full (eqn.trans e)⟩⟩
  · rw [hr]
    exact storeSp_formatted hc hf
  · obtain ⟨q, done, empty, settled⟩ := storeLands_eq s o
    exact ⟨q, (storePerformed_lands ho hs).trans (congrArg _ done), empty, settled⟩
  · rw [spadWrite_windows s (some th.team) t q bs]
  · rw [spadWrite_windows s (some th.team) t q bs]
  · rintro m hm rfl wf one
    rw [spadWrite_spad free, spadPut_spad hm one, Sparse.read_writeN wf]

end Sys2Proof.Machine
end

section
/-!
PROOFS. The instructions that only steer their thread: NOP to TFENCE (R55, R120 to R122), the gate of EXIT and GEXIT (R119, R184,
R402), and the rejoin registers (R182, R183).
-/

namespace Sys2Proof.Machine

/-! ## NOP, YIELD, SLEEP, TRAP, TFENCE -/

/-- An instruction that ends with the next slot in the state that it found only goes on. -/
theorem becomes_of_ends_same {s : State} {th : Thread} {i : Instr} (h : s.Issues th i) (ends : s.Ends i th s .next) :
    s.Becomes i th { th.advance with ovf := [] } s :=
  becomes_of_ends ends (cur_thread h.cur) h.free (fun _ _ => rfl) h.calm rfl

section Simple
variable {s : State} {th : Thread} {x : X}

theorem nop_goesOn (h : s.Issues th (.nop x)) : s.Becomes (.nop x) th { th.advance with ovf := [] } s :=
  becomes_of_ends_same h (ends_issueG h rfl rfl)

theorem yield_skipsPass (h : s.Runs th (.yield x)) :
    s.Becomes (.yield x) th { th.advance with ovf := [], skipPass := true } s :=
  becomes_modTh (g := fun u => { u with skipPass := true }) h rfl rfl rfl fun _ => ⟨rfl, rfl, rfl⟩

theorem pendArith_handler (h : th.handler ≠ none) : th.pendArith = 0 :=
  if_pos (Option.isSome_iff_ne_none.2 h)

theorem pendArith_noHandler (h : th.handler = none) : th.pendArith = (th.fstat &&& (th.fmode >>> 8)).toNat % 64 := by
  rw [Thread.pendArith, h, BitVec.toNat_and]
  exact Nat.and_two_pow_sub_one_eq_mod _ 6

theorem tfence_traps (h : s.Runs th (.tfence x)) (pending : th.pendArith ≠ 0) :
    s.Ends (.tfence x) th s (.trap .arithmetic (dword th.pendArith)) :=
  ends_issue h rfl rfl (if_pos (by simpa using pending))

theorem tfence_goesOn (h : s.Runs th (.tfence x)) (clear : th.pendArith = 0) :
    s.Becomes (.tfence x) th { th.advance with ovf := [] } s :=
  becomes_of_ends_same h.toIssues (ends_issue h rfl rfl (if_neg (by simpa using clear)))

end Simple

/-! ## EXIT and GEXIT -/

section Gate
variable {s : State} {th : Thread}

theorem exitGate_pending (h : th.pendArith ≠ 0) : s.exitGate th = some (s, .trap .arithmetic (dword th.pendArith)) :=
  if_pos (by simpa using h)

variable (clear : th.pendArith = 0)
include clear

theorem exitGate_flags (h : th.flagBits ≠ 0) : s.exitGate th = some (s, .wait .flags) := by
  rw [State.exitGate, if_neg (by simpa using clear), if_pos (by simpa using h)]

variable (done : th.flagBits = 0)
include done

theorem exitGate_held {f : FaultRec} {l : List FaultRec} (hf : th.faults = f :: l) :
    s.exitGate th = some (s.deliver th.id f s.trapStamp, .gone) := by
  simp [State.exitGate, clear, done, hf]

theorem exitGate_counted (hf : th.faults = []) : s.exitGate th = (s.exitStall th).map fun w => (s, .stall w) := by
  simp [State.exitGate, clear, done, hf]

end Gate

/-- EXIT, and GEXIT outside the handler of 0x50, pass the gate of R119 and then act. -/
theorem gated_ends {s : State} {th : Thread} {i : Instr} {x : X} (h : s.Runs th i)
    (hi : i = .exit x ∨ i = .gexit x ∧ ∀ h, th.handler = some h → h.cause ≠ .preemption) {r : State} {n : Next}
    (e : (s.exitGate th).getD (if i = .exit x then s.exitOp th else s.meet th i true) = (r, n)) : s.Ends i th r n := by
  rcases hi with rfl | ⟨rfl, plain⟩
  · rw [if_pos rfl] at e
    exact ends_issue h rfl rfl e
  · rw [if_neg (by rintro ⟨⟩)] at e
    refine ends_issue h rfl rfl ?_
    cases hh : th.handler with
    | none =>
      exact e
    | some hd =>
      simp only [beq_eq_false_iff_ne.2 (plain hd hh)]
      exact e

section Save
variable {s : State} {th : Thread} {x : X} {hd : HandlerRec} (h : s.Runs th (.gexit x)) (hh : th.handler = some hd)
  (hc : hd.cause = .preemption)
include h hh hc

theorem gexit_saves (clear : th.engineFault = none) :
    s.Ends (.gexit x) th (s.meet th (.gexit x) true).1 .gone :=
  ends_issue h rfl rfl (by simp only [hh, hc, clear, beq_self_eq_true, if_true]; rfl)

theorem gexit_delivers {f : FaultRec} (held : th.engineFault = some f) :
    s.Ends (.gexit x) th (s.deliver th.id f s.trapStamp) .gone :=
  ends_issue h rfl rfl (by simp only [hh, hc, held, beq_self_eq_true, if_true])

end Save

/-- The record of a thread that ends. -/
theorem exitThread_thread {s : State} {t : Nat} {v : Thread} (h : (s.countExit (s.th t)).thread? t = some v) :
    (s.exitThread t).thread? t =
      some { v with status := .exited, hold := .none, pend := none, clause := none, hidden := [], late := [] } := thread_modTh h

/-! ## The rejoin registers -/

theorem getLsbD_rankMask (l : List Nat) (k : Nat) : (rankMask l).getLsbD k = decide (k < 32 ∧ k ∈ l) := by
  suffices ∀ m : Word, (l.foldl (fun m r => m ||| (1#32 <<< r)) m).getLsbD k = (m.getLsbD k || decide (k < 32 ∧ k ∈ l)) by
    simpa [rankMask] using this 0#32
  induction l with
  | nil => simp
  | cons a l ih =>
    intro m
    rw [List.foldl_cons, ih]
    have bit : (1#32 <<< a).getLsbD k = decide (k < 32 ∧ k = a) := by
      rw [BitVec.getLsbD_shiftLeft, BitVec.getLsbD_one]
      grind
    rw [BitVec.getLsbD_or, bit]
    grind

section Rejoin
variable {s : State} {g : Nat} {n : Fin 16}

/-- The threads of a group that wait at a rejoin register. -/
def State.parkedAt (s : State) (g : Nat) (n : Fin 16) : List Thread := (s.liveOf g).filter fun u => u.hold == Hold.waitj n

/-- The ranks of a rejoin register that neither wait at it nor have exited. -/
def State.missingAt (s : State) (g : Nat) (n : Fin 16) : Word :=
  (s.group g).j.getD n.val 0 &&& ~~~(rankMask ((s.parkedAt g n).map Thread.rank) ||| s.exitedMask g)

theorem rejoinTest_missing (h : s.missingAt g n ≠ 0) : s.rejoinTest g n = s :=
  if_pos (bne_iff_ne.2 h)

theorem rejoinTest_satisfied (h : s.missingAt g n = 0) : s.rejoinTest g n =
    let r := (s.parkedAt g n).foldl (fun s u => s.release u.id) s
    if (s.group g).j.getD n.val 0 = 0 then r else r.modGroup g fun x => { x with j := x.j.setIfInBounds n.val 0 } := by
  refine (if_neg fun c => bne_iff_ne.1 c h).trans ?_
  simp only [beq_iff_eq]
  rfl

theorem getLsbD_missingAt (k : Nat) : (s.missingAt g n).getLsbD k = true ↔ ((s.group g).j.getD n.val 0).getLsbD k = true ∧
    (∀ u ∈ s.parkedAt g n, u.rank ≠ k) ∧ (s.exitedMask g).getLsbD k = false := by
  have small : ((s.group g).j.getD n.val 0).getLsbD k = true → k < 32 := fun h => BitVec.lt_of_getLsbD h
  simp only [State.missingAt, BitVec.getLsbD_and, BitVec.getLsbD_not, BitVec.getLsbD_or, getLsbD_rankMask, List.mem_map]
  grind

theorem missingAt_eq_zero (h : ∀ k, k < 32 → ((s.group g).j.getD n.val 0).getLsbD k = true →
    (∃ u ∈ s.parkedAt g n, u.rank = k) ∨ (s.exitedMask g).getLsbD k = true) : s.missingAt g n = 0 := by
  refine BitVec.eq_of_getLsbD_eq fun k hk => ?_
  refine Eq.trans (Bool.eq_false_iff.2 fun b => ?_) BitVec.getLsbD_zero.symm
  revert b
  rw [getLsbD_missingAt]
  rintro ⟨bit, away, live⟩
  rcases h k hk bit with ⟨u, hu, rank⟩ | gone
  · exact away u hu rank
  · rw [live] at gone
    exact nomatch gone

/-- Threads that are released one after the other. -/
theorem foldl_release (l : List Thread) (one : (l.map Thread.id).Nodup) : ∀ s : State, (∀ u ∈ l, s.thread? u.id = some u) →
    let r := l.foldl (fun s u => s.release u.id) s
    (∀ u ∈ l, r.thread? u.id = some { u.advance with hold := .none }) ∧
      ∀ k, (∀ u ∈ l, u.id ≠ k) → r.thread? k = s.thread? k := by
  induction l with
  | nil => exact fun s _ => ⟨fun _ h => absurd h List.not_mem_nil, fun _ _ => rfl⟩
  | cons a l ih =>
    intro s stand
    rw [List.map_cons, List.nodup_cons] at one
    have other : ∀ u ∈ l, u.id ≠ a.id := fun u hu e => one.1 (e ▸ List.mem_map_of_mem hu)
    have away {k : Nat} (hk : k ≠ a.id) : (s.release a.id).thread? k = s.thread? k := thread_modTh_other hk
    obtain ⟨released, kept⟩ := ih one.2 (s.release a.id) fun u hu => (away (other u hu)).trans (stand u (List.mem_cons_of_mem _ hu))
    refine ⟨fun u hu => ?_, fun k hk => (kept k fun u hu => hk u (List.mem_cons_of_mem _ hu)).trans
      (away (hk a List.mem_cons_self).symm)⟩
    rcases List.mem_cons.1 hu with rfl | hu
    · exact (kept _ other).trans (thread_modTh (stand _ List.mem_cons_self))
    · exact released u hu

theorem parkedAt_released (distinct : s.threads.Pairwise fun u v => u.id ≠ v.id) :
    let r := (s.parkedAt g n).foldl (fun s u => s.release u.id) s
    (∀ u ∈ s.parkedAt g n, r.thread? u.id = some { u.advance with hold := .none }) ∧
      ∀ k, (∀ u ∈ s.parkedAt g n, u.id ≠ k) → r.thread? k = s.thread? k := by
  have one : (s.threads.map Thread.id).Nodup := List.pairwise_map.2 distinct
  have sub : (s.parkedAt g n).Sublist s.threads := List.filter_sublist.trans List.filter_sublist
  exact foldl_release _ (one.sublist (sub.map _)) s fun u hu => find_of_mem_nodup one (sub.subset hu)

end Rejoin

/-- The ranks of a bundle that execute its JOIN. -/
def State.joinRanks (s : State) (th : Thread) (x : X) (q : Issue) : Word :=
  rankMask ((((q.done ++ q.todo).map s.th).filter fun u => u.pc == th.pc && u.psel x.g || u.id == th.id).map Thread.rank)

section Join
variable {s : State} {th : Thread} {x : X} {n : Fin 16}

theorem waitj_goesOn (h : s.Runs th (.waitj x n)) (hb : hasBit ((s.group th.group).j.getD n.val 0) th.rank = false) :
    s.Becomes (.waitj x n) th { th.advance with ovf := [] } s :=
  becomes_of_ends_same h.toIssues (ends_issue h rfl rfl (if_pos (by rw [hb]; rfl)))

theorem waitj_parks (h : s.Runs th (.waitj x n)) (hb : hasBit ((s.group th.group).j.getD n.val 0) th.rank = true) :
    s.Ends (.waitj x n) th ((s.modTh th.id fun u => { u with hold := .waitj n }).rejoinTest th.group n) .gone :=
  ends_issue h rfl rfl (if_neg (by rw [hb]; exact Bool.false_ne_true))

variable {or : Bool} {q : Issue} {l : List Issue} (hq : s.issues = q :: l) (h : s.Runs th (.join x or n))
include hq h

theorem join_later (later : (q.done.any fun t => (s.th t).psel x.g) = true) :
    s.Becomes (.join x or n) th { th.advance with ovf := [] } s := by
  refine becomes_of_ends_same h.toIssues (ends_issue h rfl rfl ?_)
  have notFirst : (q.done.all fun t => !(s.th t).psel x.g) = false := by
    rw [← List.not_any_eq_all_not, later]; rfl
  simp only [hq, notFirst]
  rfl

theorem join_first (first : (q.done.any fun t => (s.th t).psel x.g) = false) :
    s.Ends (.join x or n) th ((s.modGroup th.group fun g => { g with
      j := g.j.setIfInBounds n.val (if or then (s.group th.group).j.getD n.val 0 ||| s.joinRanks th x q else s.joinRanks th x q)
    }).rejoinTest th.group n) .next := by
  refine ends_issue h rfl rfl ?_
  have isFirst : (q.done.all fun t => !(s.th t).psel x.g) = true := by
    rw [← List.not_any_eq_all_not, first]; rfl
  simp only [hq, isFirst]
  rfl

end Join

/-! ## The statement -/

/-- Settles O22: each instruction by its outcomes, and the rejoin test by the ranks that are missing. -/
theorem threadControl : Obligations.ThreadControl := by
  refine ⟨fun s th x imm => ⟨nop_goesOn, yield_skipsPass, fun h => ends_issue h rfl rfl rfl, fun h => ends_issue h rfl rfl rfl,
    fun h hh => ?_, fun h hh => tfence_goesOn h (pendArith_handler hh)⟩, fun s th x or n => ⟨fun i h hi => ?gate, ?save,
    fun v hv => ⟨_, exitThread_thread hv, rfl, rfl, rfl, fun k hk => thread_modTh_other hk⟩,
    fun q l hq h => ⟨join_later hq h, join_first hq h⟩, fun h => ⟨waitj_goesOn h, waitj_parks h⟩, fun g => ?rejoin⟩⟩
  · rw [← pendArith_noHandler hh]
    exact ⟨tfence_traps h, tfence_goesOn h⟩
  case gate =>
    refine ⟨fun pending => gated_ends h hi (by rw [exitGate_pending pending]; rfl), fun clear =>
      ⟨fun flags => gated_ends h hi (by rw [exitGate_flags clear flags]; rfl), fun done => ?_⟩⟩
    refine ⟨fun f l hf => gated_ends h hi (by rw [exitGate_held clear done hf]; rfl), fun hf => ?_⟩
    have gate := exitGate_counted (s := s) clear done hf
    refine ⟨fun w hw => gated_ends h hi (by rw [gate, hw]; rfl), fun free => ?_⟩
    rw [free] at gate
    constructor
    · rintro rfl
      exact gated_ends h hi (by rw [gate, if_pos rfl]; rfl)
    · rintro rfl
      exact gated_ends h hi (by rw [gate, if_neg (by rintro ⟨⟩)]; rfl)
  case save =>
    exact fun hd hh hc h => ⟨gexit_saves h hh hc, fun _ => gexit_delivers h hh hc⟩
  case rejoin =>
    refine ⟨fun ⟨k, bit, away, live⟩ _ => rejoinTest_missing fun zero => ?_, fun empty => ?_, fun some ranks => ?_,
      parkedAt_released⟩
    · have missing := (getLsbD_missingAt k).2 ⟨bit, away, live⟩
      rw [zero] at missing
      exact nomatch missing.symm.trans BitVec.getLsbD_zero
    · rw [rejoinTest_satisfied (by rw [State.missingAt, empty]; exact BitVec.zero_and), if_pos empty]
      rfl
    · rw [rejoinTest_satisfied (missingAt_eq_zero ranks), if_neg some]
      rfl

end Sys2Proof.Machine
end

section
/-!
PROOFS. What a load, a fetch and a walk leave as they are (R141, R158, R238 to R247).
-/

namespace Sys2Proof.Machine

section Walk
variable (s : State)

theorem tlbPut_steady (e : TlbEnt) : (s.tlbPut e).steady = s.steady := by
  unfold State.tlbPut
  split <;> rfl

theorem sealLeaf_steady (l : Leaf) : (s.sealLeaf l).1.steady = s.steady := by
  unfold State.sealLeaf
  dsimp only
  split
  · exact ite_ind (P := fun t : State => t.steady = s.steady) _ rfl (homeWrite_steady ..)
  · rfl

theorem translate_steady (tlb ctx va : Nat) : (s.translate tlb ctx va).1.steady = s.steady := by
  unfold State.translate
  split
  · rfl
  split
  · exact tlbPut_steady ..
  split
  · rfl
  next l used _ =>
    have leaf := sealLeaf_steady s l
    generalize s.sealLeaf l = m at leaf ⊢
    exact (tlbPut_steady ..).trans ((tlbPut_steady ..).trans ((foldl_view (fun s _ => tlbPut_steady s _) _ _).trans leaf))

theorem checkVa_steady (tlb ctx : Nat) (priv : Bool) (acc : Acc) (va size : Nat) :
    (s.checkVa tlb ctx priv acc va size).1.steady = s.steady := by
  unfold State.checkVa
  split
  · rfl
  split
  · rfl
  have walk := translate_steady s tlb ctx va
  generalize s.translate tlb ctx va = m at walk ⊢
  obtain ⟨q, c | l⟩ := m
  · exact walk
  · dsimp only at walk ⊢
    split
    · exact walk
    · exact (apply_ite (fun r : State × Except (Cause × Nat) Leaf => r.1.steady) ..).trans (by split <;> exact walk)

theorem checkCore_steady (th : Thread) (priv : Bool) (acc : Acc) (va size : Nat) :
    (s.checkCore th priv acc va size).1.steady = s.steady := by
  unfold State.checkCore
  have check := checkVa_steady s (s.hostOf th) (s.team th.team).ctx priv acc va size
  generalize s.checkVa (s.hostOf th) (s.team th.team).ctx priv acc va size = m at check ⊢
  obtain ⟨q, c | l⟩ := m <;> exact check

end Walk

section Load
variable (s : State)

theorem l1ReadLine_steady (core pa n : Nat) : (s.l1ReadLine core pa n).1.steady = s.steady := by
  unfold State.l1ReadLine
  extract_lets line o l m
  split
  · rfl
  split
  · rfl
  · exact makeRoom_steady s core line

theorem l1ReadPieces_steady (host : Nat) (via : Nat → Nat) (ps : List (Nat × Nat)) : ∀ s : State,
    (s.l1ReadPieces host via ps).1.steady = s.steady := by
  induction ps with
  | nil => exact fun _ => rfl
  | cons p ps ih =>
    intro s
    have line := l1ReadLine_steady s (via p.1) p.1 p.2
    rw [State.l1ReadPieces]
    generalize s.l1ReadLine (via p.1) p.1 p.2 = m at line ⊢
    obtain ⟨q, e | b⟩ := m
    · exact line
    · have rest := ih q
      dsimp only
      generalize q.l1ReadPieces host via ps = m at rest ⊢
      obtain ⟨r, e | c⟩ := m <;> exact rest.trans line

theorem l1Read_steady (th : Thread) (pa n : Nat) : (s.l1Read th pa n).1.steady = s.steady :=
  (l1ReadPieces_steady _ _ _ _).trans (passOn_steady ..)

theorem settle_steady (core pa n : Nat) : (s.settle core pa n).steady = s.steady := by
  unfold State.settle
  refine foldl_view (fun s p => ?_) _ s
  have pubs : ((s.settlePubs core).freshen core (p.1 / 64 * 64)).steady = s.steady := settlePubs_steady s core
  dsimp only
  split
  · exact pubs
  · exact (setL1_steady ..).trans ((writeBack_steady ..).trans pubs)

theorem noteRead_steady (th : Thread) (tags : List Nat) : (s.noteRead th tags).steady = s.steady := by
  unfold State.noteRead
  split
  · rfl
  · next r _ =>
    exact congrArg (fun ctx : Nat → Nat => (s.cycle, s.issues, s.icache, s.launches, ctx))
      (funext fun k => team_modTeam_view Team.ctx s r.team k (fun _ => rfl) (fun _ => rfl))

theorem afterLoad_steady (th : Thread) : (s.afterLoad th).steady = s.steady := by
  unfold State.afterLoad
  split <;> rfl

theorem readLeaf_steady (th : Thread) (va n : Nat) (l : Leaf) : (s.readLeaf th va n l).1.steady = s.steady := by
  unfold State.readLeaf
  split
  · have load := l1Read_steady s th l.pa n
    generalize s.l1Read th l.pa n = m at load ⊢
    obtain ⟨q, e | b⟩ := m
    · exact load
    · exact (afterLoad_steady ..).trans load
  · have settled := settle_steady s (s.hostOf th) l.pa n
    dsimp only
    split
    · exact settled
    · exact (noteRead_steady ..).trans settled

theorem loadG_steady (th : Thread) (priv : Bool) (va n : Nat) : (s.loadG th priv va n).1.steady = s.steady := by
  unfold State.loadG
  have check := checkCore_steady s th priv .read va n
  generalize s.checkCore th priv .read va n = m at check ⊢
  obtain ⟨q, e | l⟩ := m
  · exact check
  · exact (readLeaf_steady ..).trans check

theorem codeRead_steady (th : Thread) (pa n : Nat) : (s.codeRead th pa n).1.steady = s.steady := l1ReadPieces_steady ..

theorem fetchLine_steady (th : Thread) : (s.fetchLine th).1.steady = s.steady := by
  unfold State.fetchLine
  dsimp only
  split
  · have code := codeRead_steady s th (th.pc.toNat / 64 * 64) 64
    generalize s.codeRead th (th.pc.toNat / 64 * 64) 64 = m at code ⊢
    obtain ⟨q, e | b⟩ := m <;> exact code
  · have check := checkCore_steady s th th.privileged .fetch (th.pc.toNat / 64 * 64) 64
    generalize s.checkCore th th.privileged .fetch (th.pc.toNat / 64 * 64) 64 = m at check ⊢
    obtain ⟨q, e | l⟩ := m
    · cases e <;> exact check
    · have code := codeRead_steady q th l.pa 64
      dsimp only
      generalize q.codeRead th l.pa 64 = m at code ⊢
      obtain ⟨r, e | b⟩ := m <;> exact code.trans check

end Load

end Sys2Proof.Machine
end

section
/-!
PROOFS. The clock: only BUNDLER_PASS moves it. What a pass polls before it selects bundles (R155, R165 to R171, R402, R412, R450)
leaves it as it is, function by function in the order of the model.
-/

namespace Sys2Proof.Machine

theorem cycle_of_steady {s t : State} (h : t.steady = s.steady) : t.cycle = s.cycle := congrArg Prod.fst h

theorem foldl_cycle {α : Type} {f : State → α → State} (h : ∀ s a, (f s a).cycle = s.cycle) (l : List α) (s : State) :
    (l.foldl f s).cycle = s.cycle := foldl_view h l s

section Records
variable (s : State)

theorem once_cycle (i : Instr) : (s.once i).cycle = s.cycle := cycle_of_steady (once_steady ..)

theorem modTh_cycle (t : Nat) (f : Thread → Thread) : (s.modTh t f).cycle = s.cycle := rfl

theorem modTeam_cycle (t : Nat) (f : Team → Team) : (s.modTeam t f).cycle = s.cycle := rfl

theorem modCtx_cycle (c : Nat) (f : Context → Context) : (s.modCtx c f).cycle = s.cycle := rfl

/-! ## Reports and logs -/

theorem admitAll_cycle : s.admitAll.cycle = s.cycle := foldl_cycle (fun s _ => once_cycle s _) _ s

theorem modItem_cycle (x q n : Nat) (f : ItemRec → ItemRec) : (s.modItem x q n f).cycle = s.cycle := by
  unfold State.modItem
  split <;> rfl

theorem pump_cycle (x q : Nat) : (s.pump x q).cycle = s.cycle := by
  unfold State.pump
  split
  · exact modItem_cycle ..
  · rfl

theorem toHost_cycle (x q type n : Nat) (body : List Byte) : (s.toHost x q type n body).cycle = s.cycle := by
  unfold State.toHost
  split <;> rfl

theorem sendReport_cycle (x q : Nat) (r : ItemRec) : (s.sendReport x q r).cycle = s.cycle :=
  (modItem_cycle ..).trans (toHost_cycle ..)

theorem itemEnd_cycle (x q n cause : Nat) (result : List Byte) : (s.itemEnd x q n cause result).cycle = s.cycle := by
  unfold State.itemEnd
  refine ite_ind (P := fun t : State => t.cycle = s.cycle) _ rfl ?_
  exact (pump_cycle ..).trans ((foldl_cycle (fun s r => sendReport_cycle s x q r) _ _).trans (modItem_cycle ..))

theorem ladderSaved_cycle (c : Nat) : (s.ladderSaved c).cycle = s.cycle := by
  refine (once_cycle ..).trans ((admitAll_cycle _).trans ?_)
  unfold State.ladderReport
  split
  · exact itemEnd_cycle ..
  · rfl

theorem freezeCtx_cycle (c : Nat) (a : DWord) : (s.freezeCtx c a).cycle = s.cycle := by
  have again (old addr : Nat) : (s.freezeAgain c old addr).cycle = s.cycle := by
    unfold State.freezeAgain
    exact ite_ind (P := fun t : State => t.cycle = s.cycle) _ (toHost_cycle ..) rfl
  unfold State.freezeCtx
  dsimp only
  split
  · exact toHost_cycle ..
  split
  · exact again ..
  · rfl

theorem freeze_cycle (c t : Nat) (p : PendTrap) : (s.freeze c t p).cycle = s.cycle := freezeCtx_cycle ..

theorem ctxError_cycle (c kind cause addr : Nat) (launch : DWord) (detail : Nat) :
    (s.ctxError c kind cause addr launch detail).cycle = s.cycle := toHost_cycle ..

/-! ## Traps -/

theorem failLaunch_cycle (o : Owner) (c : Cause) : (s.failLaunch o c).cycle = s.cycle := by cases o <;> rfl

theorem failTeam_cycle (t : Nat) (c : Cause) : (s.failTeam t c).cycle = s.cycle := by
  unfold State.failTeam
  dsimp only
  split
  · exact (failLaunch_cycle ..).trans (ctxError_cycle ..)
  · exact failLaunch_cycle ..

theorem failHandler_cycle (g : Nat) (c : Cause) : (s.failHandler g c).cycle = s.cycle := by
  refine (once_cycle ..).trans ?_
  exact (foldl_cycle (fun s t => failTeam_cycle s t c) _ _).trans (foldl_cycle (fun s _ => modTh_cycle s _ _) _ _)

theorem raise_cycle (t : Nat) (p : PendTrap) : (s.raise t p).cycle = s.cycle := by
  unfold State.raise
  dsimp only
  split
  · rfl
  split
  · exact freeze_cycle ..
  split
  · exact failHandler_cycle ..
  · rfl

end Records

/-! ## Landing results and spilling -/

section Spill
variable (s : State)

theorem afterStore_cycle (th : Thread) : (s.afterStore th).cycle = s.cycle := by
  unfold State.afterStore
  exact ite_ind (P := fun t : State => t.cycle = s.cycle) _ (cycle_of_steady (publishCore_steady ..)) rfl

theorem specStore_cycle (th : Thread) (r : SpecRec) (x : SpecStore) : (s.specStore th r x).1.cycle = s.cycle := by
  unfold State.specStore
  split <;> rfl

theorem storeG_cycle (th : Thread) (priv : Bool) (va : Nat) (colour : Fin 8) (bs : List Byte) :
    (s.storeG th priv va colour bs).1.cycle = s.cycle := by
  have check := cycle_of_steady (checkCore_steady s th priv .write va bs.length)
  unfold State.storeG
  generalize s.checkCore th priv .write va bs.length = m at check ⊢
  obtain ⟨q, e | l⟩ := m
  · exact check
  · dsimp only
    split
    · exact (specStore_cycle ..).trans check
    · exact (afterStore_cycle ..).trans ((cycle_of_steady (l1Write_steady ..)).trans check)

theorem land_cycle (t : Nat) (base : Int) (n : Nat) (w : Word) : (s.land t base n w).1.cycle = s.cycle := by
  grind [State.land, modTh_cycle, modTeam_cycle, storeG_cycle]

theorem landAll_cycle (t : Nat) (base : Int) (ws : List (Nat × Word)) : ∀ s : State, (s.landAll t base ws).1.cycle = s.cycle := by
  induction ws with
  | nil => exact fun _ => rfl
  | cons w ws ih =>
    intro s
    have first := land_cycle s t base w.1 w.2
    rw [State.landAll]
    generalize s.land t base w.1 w.2 = m at first ⊢
    obtain ⟨q, _ | e⟩ := m
    · exact (ih q).trans first
    · exact first

theorem spillLines_cycle (t : Nat) (k : Nat) : ∀ (s : State) (va : Nat) (bs : List Byte), (s.spillLines t va k bs).1.cycle = s.cycle := by
  induction k with
  | zero => exact fun _ _ _ => rfl
  | succ k ih =>
    intro s va bs
    have first := storeG_cycle s (s.th t) (s.th t).privileged va 0 (bs.take 64)
    rw [State.spillLines]
    generalize s.storeG (s.th t) (s.th t).privileged va 0 (bs.take 64) = m at first ⊢
    obtain ⟨q, e | _⟩ := m
    · exact first
    · exact (ih ..).trans first

theorem spillPush_cycle (t : Nat) (bs : List Byte) : (s.spillPush t bs).1.cycle = s.cycle := by
  grind [State.spillPush, spillLines_cycle, modTh_cycle]

theorem spillOld_cycle (t room : Nat) (k : Nat) : ∀ s : State, (s.spillOld t room k).1.cycle = s.cycle := by
  induction k with
  | zero => exact fun _ => rfl
  | succ k ih =>
    intro s
    grind [State.spillOld, spillPush_cycle, modTh_cycle]

theorem slideWindow_cycle (t n : Nat) (ret : DWord) (frame : Nat) : (s.slideWindow t n ret frame).1.cycle = s.cycle := by
  grind [State.slideWindow, State.setTh, spillOld_cycle, spillPush_cycle, modTh_cycle]

end Spill

/-! ## Handlers -/

section Handlers
variable (s : State)

theorem readVector_cycle (t : Nat) (c : Cause) : (s.readVector t c).1.cycle = s.cycle := by
  have load (th : Thread) (priv : Bool) (va n : Nat) := cycle_of_steady (loadG_steady s th priv va n)
  grind [State.readVector]

theorem takeTrap_cycle (t : Nat) (p : PendTrap) : (s.takeTrap t p).1.cycle = s.cycle := by
  grind [State.takeTrap, readVector_cycle, slideWindow_cycle, modTh_cycle]

theorem takeOrFail_cycle (t : Nat) (p : PendTrap) : (s.takeOrFail t p).1.cycle = s.cycle := by
  grind [State.takeOrFail, takeTrap_cycle, freeze_cycle, modTh_cycle]

theorem enterSet_cycle (g : Nat) (ts : List (Nat × PendTrap)) : (s.enterSet g ts).cycle = s.cycle := by
  have taken := foldl_view (π := fun a : State × Option Cause => a.1.cycle)
    (f := fun (acc : State × Option Cause) (tp : Nat × PendTrap) =>
    let (s, e) := acc.1.takeOrFail tp.1 tp.2
    (s, acc.2.orElse fun _ => e)) (fun a tp => takeOrFail_cycle a.1 tp.1 tp.2) ts (s, none)
  unfold State.enterSet
  generalize ts.foldl _ (s, none) = m at taken ⊢
  obtain ⟨q, _ | c⟩ := m
  · cases ts with
    | nil => exact taken
    | cons tp ts => exact Eq.trans (by dsimp only; split <;> rfl) taken
  · exact (failHandler_cycle ..).trans taken

theorem enterHandlers_cycle (g : Nat) : (s.enterHandlers g).cycle = s.cycle := by
  grind [State.enterHandlers, enterSet_cycle]

theorem enterFor_cycle (t : Nat) : (s.enterFor t).cycle = s.cycle := by
  grind [State.enterFor, enterHandlers_cycle]

end Handlers

/-! ## Operations that complete -/

section Operations
variable (s : State)

theorem opFault_cycle (o : Op) (c : Cause) (a : DWord) : (s.opFault o c a).cycle = s.cycle := by
  grind [State.opFault, State.holdFault, raise_cycle, freezeCtx_cycle, modTh_cycle]

theorem flagDone_cycle (t : Nat) (f : Option (Fin 12)) : (s.flagDone t f).cycle = s.cycle := by cases f <;> rfl

theorem opDone_cycle (o : Op) : (s.opDone o).cycle = s.cycle := by
  grind [State.opDone, State.opDoneWith, State.release, once_cycle, freezeCtx_cycle, landAll_cycle, opFault_cycle, flagDone_cycle,
    enterFor_cycle, modTh_cycle]

theorem applyBatch_cycle (b : Batch) : (s.applyBatch b).1.cycle = s.cycle := by
  have settled : (s.settleBatch b).cycle = s.cycle := by
    unfold State.settleBatch
    have pass : ((s.settle b.core (b.entry.pa / 8 * 8) 8).passOn b.core [(s.th b.thread).team]).cycle = s.cycle :=
      cycle_of_steady ((passOn_steady ..).trans (settle_steady ..))
    exact ite_ind (P := fun t : State => t.cycle = s.cycle) _ ((cycle_of_steady (settle_steady ..)).trans pass) pass
  have atom (s : State) (pa : Nat) (op : Aop) (ty : Ty) (b c : Nat) : (s.atomHome pa op ty b c).1.cycle = s.cycle := by
    have home (bs : List Byte) := cycle_of_steady (homeWrite_steady s pa bs)
    grind [State.atomHome, State.send]
  have checked (s : State) (team tag : Nat) (c : Option (Fin 8)) := cycle_of_steady (checkedWrite_steady s team tag c)
  grind [State.applyBatch, State.sendFar, State.send, freezeCtx_cycle]

theorem closePoints_cycle (ids : List Nat) : (s.closePoints ids).1.cycle = s.cycle := by
  unfold State.closePoints
  refine foldl_view (π := fun a : State × List (Nat × Nat × Cause × Nat) => a.1.cycle) (fun a b => ?_) _ _
  have applied := applyBatch_cycle a.1 b
  generalize a.1.applyBatch b = m at applied ⊢
  obtain ⟨q, _ | c⟩ := m
  · exact applied
  · exact Eq.trans (by dsimp only; split <;> rfl) applied

theorem closeSilently_cycle (ids : List Nat) : (s.closeSilently ids).cycle = s.cycle :=
  (foldl_cycle (fun s _ => ctxError_cycle s _ _ _ _ _ _) _ _).trans (closePoints_cycle s ids)

theorem withdrawReorder_cycle (t : Nat) : (s.withdrawReorder t).cycle = s.cycle := by
  unfold State.withdrawReorder
  split
  · rfl
  · exact closeSilently_cycle ..

theorem sendBatch_cycle (th : Thread) (e : RedEntry) (point : Nat) : (s.sendBatch th e point).cycle = s.cycle := rfl

theorem flushPoint_cycle (t : Nat) (held : Bool) (flag : Option (Fin 12)) (object : Option (Nat × Nat)) :
    (s.flushPoint t held flag object).1.cycle = s.cycle :=
  foldl_cycle (fun s e => sendBatch_cycle s _ e _) _ _

end Operations

/-! ## Speculation that is rolled back (R274 to R279) -/

section Rollback
variable (s : State)

theorem objSet_cycle (t o f v : Nat) : (s.objSet t o f v).cycle = s.cycle := rfl

theorem observe_cycle (th : Thread) (t q : Nat) (o : DWord) : (s.observe th t q o).1.cycle = s.cycle := by
  unfold State.observe State.acquire
  dsimp only
  exact ite_ind (P := fun t : State => t.cycle = s.cycle) _ rfl rfl

theorem wake_cycle (u : Thread) (t q o : Nat) (dst : Option Opd) : (s.wake u t q o dst).cycle = s.cycle := by
  grind [State.wake, State.release, once_cycle, modTeam_cycle, modTh_cycle, objSet_cycle, raise_cycle, enterFor_cycle, landAll_cycle,
    observe_cycle]

theorem freed_cycle (core : Nat) : (s.freed core).cycle = s.cycle :=
  (once_cycle ..).trans ((foldl_cycle (fun s _ => once_cycle s _) _ _).trans (foldl_cycle (fun s _ => once_cycle s _) _ _))

theorem rollbackNow_cycle (g : Nat) : (s.rollbackNow g).cycle = s.cycle := by
  refine (freed_cycle ..).trans ?_
  refine (foldl_cycle (fun s u => ?_) _ _).trans ?_
  · split
    · exact ite_ind (P := fun t : State => t.cycle = s.cycle) _ (wake_cycle ..) rfl
    · rfl
  refine (foldl_cycle (fun s _ => modTeam_cycle s _ _) _ _).trans ?_
  refine (foldl_cycle (fun s o => modTeam_cycle (s.objSet ..) _ _) _ _).trans ?_
  refine (foldl_cycle (fun s _ => modTh_cycle s _ _) _ _).trans ?_
  refine Eq.trans (foldl_cycle (fun s u => ?_) _ _) rfl
  split <;> rfl

theorem rollbackGroup_cycle (g : Nat) : (s.rollbackGroup g).cycle = s.cycle := by
  have drained (ts : List Thread) : (s.specDrain ts).cycle = s.cycle := foldl_cycle (fun s o => opDone_cycle s o) _ s
  unfold State.rollbackGroup
  dsimp only
  split
  · rfl
  split
  · exact (foldl_cycle (fun s _ => modTh_cycle s _ _) _ _).trans (drained _)
  · exact (rollbackNow_cycle ..).trans (drained _)

end Rollback

/-! ## What a pass polls -/

section Poll
variable (s : State)

theorem unhold_cycle {u : Thread} {t : State} (h : s.unhold u = some t) : t.cycle = s.cycle := by
  grind [State.unhold, State.modGroup, objSet_cycle, withdrawReorder_cycle]

theorem take50_cycle (t : Nat) : (s.take50 t).cycle = s.cycle := by
  unfold State.take50
  dsimp only
  split
  · rfl
  split
  · rfl
  next z hz =>
    refine Eq.trans ?_ (unhold_cycle s hz)
    exact (modTh_cycle ..).trans (ite_ind (P := fun t : State => t.cycle = z.cycle) _ rfl (flushPoint_cycle z t false none none))

theorem sweepGroup_cycle (g : Nat) :
    (((s.rollbackGroup g).liveOf g).foldl (fun s u => s.take50 u.id) (s.rollbackGroup g)).cycle = s.cycle := by
  have taken := foldl_cycle (f := fun (s : State) (u : Thread) => s.take50 u.id) (fun s u => take50_cycle s u.id)
    ((s.rollbackGroup g).liveOf g) (s.rollbackGroup g)
  exact taken.trans (rollbackGroup_cycle s g)

theorem sweep50_cycle (c : Nat) : (s.sweep50 c).cycle = s.cycle := by
  unfold State.sweep50
  dsimp only
  split
  · rfl
  refine foldl_cycle (fun s g => ?_) _ _
  split
  · rfl
  have swept := sweepGroup_cycle s g
  generalize ((s.rollbackGroup g).liveOf g).foldl (fun s u => s.take50 u.id) (s.rollbackGroup g) = z at swept ⊢
  split
  · exact (enterHandlers_cycle z g).trans swept
  · exact swept

theorem ladderPoll_cycle (c : Nat) : (s.ladderPoll c).cycle = s.cycle := by
  have saved (s : State) : (s.savedCheck c).cycle = s.cycle := by
    unfold State.savedCheck
    exact ite_ind (P := fun t : State => t.cycle = s.cycle) _ (ladderSaved_cycle ..) rfl
  unfold State.ladderPoll
  dsimp only
  split
  · rfl
  split
  · exact ite_ind (P := fun t : State => t.cycle = s.cycle) _ (ladderSaved_cycle ..) rfl
  split
  · exact (saved _).trans ((foldl_cycle (fun s _ => once_cycle s _) _ _).trans (sweep50_cycle ..))
  · rfl

theorem teamClock_cycle (t : Team) : (s.teamClock t).cycle = s.cycle := by
  unfold State.teamClock
  extract_lets b c z w
  have clocked : w.cycle = s.cycle := by
    refine ite_ind (P := fun t : State => t.cycle = s.cycle) _ rfl (foldl_cycle (fun s c => ?_) _ _)
    exact ite_ind (P := fun t : State => t.cycle = s.cycle) _ rfl (once_cycle ..)
  cases c with
  | none => exact clocked
  | some n => exact ite_ind (P := fun t : State => t.cycle = s.cycle) _ ((once_cycle ..).trans clocked) clocked

theorem windowEnds_cycle : s.windowEnds.cycle = s.cycle := by
  refine foldl_cycle (fun s c => ?_) _ _
  exact ite_ind (P := fun t : State => t.cycle = s.cycle) _ (once_cycle ..) rfl

end Poll

end Sys2Proof.Machine
end

section
/-!
PROOFS. The selection of a bundler pass (R158 to R160).
-/

namespace Sys2Proof.Machine

/-! ## Sorting -/

theorem insertKey_perm {α : Type} (x : Nat × α) (l : List (Nat × α)) : (insertKey x l).Perm (x :: l) := by
  induction l with
  | nil => exact List.Perm.refl _
  | cons y l ih =>
    rw [insertKey]
    split
    · exact List.Perm.refl _
    · exact (ih.cons y).trans (List.Perm.swap x y l)

theorem sortKey_perm {α : Type} (l : List (Nat × α)) : (sortKey l).Perm l := by
  have sorted (l : List (Nat × α)) : ∀ acc, (l.foldl (fun acc x => insertKey x acc) acc).Perm (l ++ acc) := by
    induction l with
    | nil => exact fun _ => List.Perm.refl _
    | cons x l ih => exact fun acc => (ih _).trans (((insertKey_perm x acc).append_left l).trans List.perm_middle)
  exact (sorted l []).trans (by rw [List.append_nil])

/-- A list that is sorted under keys keeps its entries. -/
theorem mem_sortKey {α β : Type} {l : List β} {key : β → Nat} {f : β → α} {x : α}
    (h : x ∈ (sortKey (l.map fun b => (key b, f b))).map (·.2)) : ∃ b ∈ l, f b = x := by
  simpa [(sortKey_perm _).mem_iff] using h

/-! ## The two selected bundles -/

/-- A selected bundle issues from now on. -/
def State.pick (core : Nat) (s : State) (b : Bundle × Nat) : State :=
  let ts := (sortKey (b.1.threads.map fun u => (u.rank, u.id))).map (·.2)
  let (st, s) := s.fresh
  let i : Issue := { begun := false, core := core, port := b.2, todo := ts, done := [], all := ts, ends := false, left := 4, stamp := st }
  { s with issues := s.issues ++ [i] }

/-- An issue that a pass of `core` has made of one of the bundles `bs`. -/
def Issue.From (i : Issue) (core : Nat) (bs : List Bundle) : Prop :=
  i.core = core ∧ i.left = 4 ∧ i.done = [] ∧ ∃ b ∈ bs, ∀ t ∈ i.todo, ∃ u ∈ b.threads, u.id = t

theorem pick_issues (core : Nat) (s : State) (b : Bundle × Nat) :
    ∃ i, (State.pick core s b).issues = s.issues ++ [i] ∧ i.From core [b.1] :=
  ⟨_, rfl, rfl, rfl, rfl, b.1, List.mem_singleton_self _, fun _ ht => mem_sortKey ht⟩

theorem pick_cycle (core : Nat) (s : State) (b : Bundle × Nat) : (State.pick core s b).cycle = s.cycle := rfl

theorem picks_issues (core : Nat) (bs : List (Bundle × Nat)) : ∀ s : State,
    (bs.foldl (State.pick core) s).issues.length = s.issues.length + bs.length ∧
      ∀ i ∈ (bs.foldl (State.pick core) s).issues, i ∈ s.issues ∨ i.From core (bs.map Prod.fst) := by
  induction bs with
  | nil => exact fun s => ⟨rfl, fun i h => .inl h⟩
  | cons b bs ih =>
    intro s
    obtain ⟨j, issues, hcore', left, done, c, hc, todo⟩ := pick_issues core s b
    obtain ⟨length, sources⟩ := ih (State.pick core s b)
    rw [issues] at length sources
    rw [List.mem_singleton] at hc
    subst hc
    have grown : s.issues.length + 1 + bs.length = s.issues.length + (b :: bs).length := by rw [List.length_cons]; omega
    rw [List.length_append, List.length_singleton, grown] at length
    refine ⟨length, fun i hi => ?_⟩
    rcases sources i hi with old | ⟨hcore, hleft, hdone, c, hc, htodo⟩
    · rcases List.mem_append.1 old with old | new
      · exact .inl old
      · rw [List.mem_singleton] at new
        exact .inr ⟨new ▸ hcore', new ▸ left, new ▸ done, b.1, List.mem_cons_self, new ▸ todo⟩
    · exact .inr ⟨hcore, hleft, hdone, c, List.mem_cons_of_mem _ hc, htodo⟩

/-- A bundle is of threads of one group at one PC. -/
theorem bundles_uniform {s : State} {elig : List Thread} {b : Bundle} (h : b ∈ s.bundles elig) :
    ∃ g pc, ∀ u ∈ b.threads, u ∈ elig ∧ u.group = g ∧ u.pc = pc := by
  obtain ⟨p, -, rfl⟩ := List.mem_map.1 h
  refine ⟨p.1, p.2, fun u hu => ?_⟩
  obtain ⟨mem, key⟩ := List.mem_filter.1 hu
  simpa [mem] using key

/-! ## The start of a core's pass -/

/-- Whether a thread's group is resident on a core. -/
def State.onCore (s : State) (core : Nat) (u : Thread) : Bool := (s.hosted core).any fun g => g.id == u.group

/-- The state after the ends of stalls (R158) and the holds at clause starts (R33) of a core's pass. -/
def State.passStart (s : State) (core : Nat) : State :=
  let e := (s.threads.filter (s.onCore core)).foldl State.endStall s
  (e.threads.filter (s.onCore core)).foldl (fun z u => z.holdAtStart core u) e

/-- The threads of a core that may issue and whose line is in its instruction cache. -/
def State.eligible (s : State) (core : Nat) (on : Thread → Bool) : List Thread :=
  ((s.threads.filter on).filter s.ready).filter fun u => s.icache.contains (core, u.line)

theorem modGroup_steady (s : State) (g : Nat) (f : Group → Group) : (s.modGroup g f).steady = s.steady := rfl

/-- A pass selects at most two of the bundles of its core's eligible threads, and nothing else of it selects any. -/
theorem corePass_picks (s : State) (core : Nat) : ∃ (w z : State) (bs : List (Bundle × Nat)),
    s.corePass core = bs.foldl (State.pick core) w ∧ w.steady = (s.passStart core).steady ∧ bs.length ≤ 2 ∧
      ∀ b ∈ bs.map Prod.fst, b ∈ z.bundles ((s.passStart core).eligible core (s.onCore core)) := by
  unfold State.corePass
  extract_lets gs on e r here can elig missing asked order picked chosen ids mine counted booked
  have asked_steady : asked.steady = r.steady := foldl_view (fun s l => by
    split
    · rfl
    · exact once_steady ..) missing r
  have counted_steady : counted.steady = asked.steady := foldl_view (fun s g => modGroup_steady s g.id _) gs asked
  refine ⟨booked, asked, picked.zipIdx, rfl, counted_steady.trans asked_steady, ?_, fun b hb => ?_⟩
  · rw [List.length_zipIdx, List.length_take]
    exact Nat.min_le_left ..
  · rw [List.zipIdx_map_fst] at hb
    obtain ⟨c, hc, rfl⟩ := mem_sortKey (List.mem_of_mem_take hb)
    exact hc

/-! ## What the start of a pass leaves as it is -/

theorem endStall_steady (s : State) (u : Thread) : (s.endStall u).steady = s.steady := by
  unfold State.endStall
  split
  · exact ite_ind (P := fun t : State => t.steady = s.steady) _ rfl rfl
  · rfl

theorem clauseLine_steady (s : State) (u : Thread) : (s.clauseLine u).1.steady = s.steady := by
  have fetched := fetchLine_steady s u
  grind [State.clauseLine]

theorem holdAtStart_steady (s : State) (core : Nat) (u : Thread) : (s.holdAtStart core u).steady = s.steady := by
  have line := clauseLine_steady s u
  unfold State.holdAtStart
  split
  · rfl
  generalize s.clauseLine u = m at line ⊢
  obtain ⟨q, e | b⟩ := m
  · rfl
  · exact ite_ind (P := fun t : State => t.steady = s.steady) _ line rfl

theorem passStart_steady (s : State) (core : Nat) : (s.passStart core).steady = s.steady :=
  (foldl_view (fun s u => holdAtStart_steady s core u) _ _).trans (foldl_view endStall_steady _ _)

/-- The PC of each thread. -/
def State.pcs (s : State) (n : Nat) : Option DWord := (s.thread? n).map Thread.pc

theorem modTh_pcs (s : State) (t : Nat) {f : Thread → Thread} (hid : ∀ u, (f u).id = u.id) (hpc : ∀ u, (f u).pc = u.pc) :
    (s.modTh t f).pcs = s.pcs := by
  funext n
  unfold State.pcs
  by_cases hn : n = t
  · subst hn
    rw [thread_modTh_self _ _ _ fun u hu => (hid u).trans hu, Option.map_map]
    exact congrArg (fun g => (s.thread? n).map g) (funext hpc)
  · rw [thread_modTh_ne _ _ _ _ (fun u hu => (hid u).trans hu) hn]

theorem pcs_of_threads {s t : State} (h : t.threads = s.threads) : t.pcs = s.pcs :=
  funext fun n => congrArg (Option.map Thread.pc) (thread_threads h n)

theorem endStall_pcs (s : State) (u : Thread) : (s.endStall u).pcs = s.pcs := by
  unfold State.endStall
  split
  · exact ite_ind (P := fun t : State => t.pcs = s.pcs) _ (modTh_pcs s _ (fun _ => rfl) fun _ => rfl) rfl
  · rfl

theorem fetchLine_threads (s : State) (th : Thread) : (s.fetchLine th).1.threads = s.threads := by
  have code (s : State) (pa n : Nat) : (s.codeRead th pa n).1.threads = s.threads := l1ReadPieces_threads ..
  have check := checkCore_threads s th th.privileged .fetch
  grind [State.fetchLine]

theorem clauseLine_threads (s : State) (u : Thread) : (s.clauseLine u).1.threads = s.threads := by
  have fetched := fetchLine_threads s u
  grind [State.clauseLine]

theorem holdAtStart_pcs (s : State) (core : Nat) (u : Thread) : (s.holdAtStart core u).pcs = s.pcs := by
  have line := clauseLine_threads s u
  unfold State.holdAtStart
  split
  · rfl
  generalize s.clauseLine u = m at line ⊢
  obtain ⟨q, e | b⟩ := m
  · rfl
  · have kept : (q.keepLine u.id b).pcs = q.pcs := modTh_pcs q _ (fun _ => rfl) fun _ => rfl
    exact ite_ind (P := fun t : State => t.pcs = s.pcs) _ (kept.trans (pcs_of_threads line)) rfl

theorem passStart_pcs (s : State) (core : Nat) : (s.passStart core).pcs = s.pcs :=
  (foldl_view (fun s u => holdAtStart_pcs s core u) _ _).trans (foldl_view endStall_pcs _ _)

/-! ## The pass -/

theorem corePass_issues (s : State) (core : Nat) : (s.corePass core).issues.length ≤ s.issues.length + 2 ∧
    ∀ i ∈ (s.corePass core).issues, i ∉ s.issues → i.core = core ∧ i.left = 4 ∧ i.done = [] ∧
      ∃ g pc, ∀ t ∈ i.todo, ∃ u ∈ (s.passStart core).threads, u.id = t ∧ u.group = g ∧ u.pc = pc ∧
        (s.passStart core).ready u = true ∧ (core, u.line) ∈ s.icache := by
  obtain ⟨w, z, bs, eqn, start, few, sources⟩ := corePass_picks s core
  have same := start.trans (passStart_steady s core)
  have issues : w.issues = s.issues := congrArg (fun v => v.2.1) same
  have icache : (s.passStart core).icache = s.icache := congrArg (fun v => v.2.2.1) (passStart_steady s core)
  obtain ⟨length, picked⟩ := picks_issues core bs w
  rw [← eqn, issues] at length picked
  refine ⟨by omega, fun i hi new => ?_⟩
  obtain ⟨hcore, hleft, hdone, b, hb, todo⟩ := (picked i hi).resolve_left new
  obtain ⟨g, pc, uniform⟩ := bundles_uniform (sources b hb)
  refine ⟨hcore, hleft, hdone, g, pc, fun t ht => ?_⟩
  obtain ⟨u, hu, id⟩ := todo t ht
  obtain ⟨elig, hg, hpc⟩ := uniform u hu
  obtain ⟨can, cached⟩ := List.mem_filter.1 elig
  obtain ⟨here, ready⟩ := List.mem_filter.1 can
  rw [icache] at cached
  exact ⟨u, (List.mem_filter.1 here).1, id, hg, hpc, ready, List.contains_iff_mem.1 cached⟩

theorem corePass_cycle (s : State) (core : Nat) : (s.corePass core).cycle = s.cycle := by
  obtain ⟨w, z, bs, eqn, start, -⟩ := corePass_picks s core
  rw [eqn]
  exact (foldl_cycle (pick_cycle core) _ _).trans (cycle_of_steady (start.trans (passStart_steady s core)))

/-- A pass ends at the next multiple of 4 cycles. -/
theorem bundlerPass_cycle (s : State) : ∃ t, exec .bundlerPass s = .next t ∧ t.cycle = (s.cycle / 4 + 1) * 4 := by
  refine ⟨_, rfl, ?_⟩
  refine (foldl_cycle corePass_cycle _ _).trans ((windowEnds_cycle _).trans ?_)
  refine (foldl_cycle teamClock_cycle _ _).trans ((foldl_cycle (fun s c => ladderPoll_cycle s _) _ _).trans ?_)
  exact (foldl_cycle (fun s _ => once_cycle s _) _ _).trans rfl

end Sys2Proof.Machine
end

section
/-!
PROOFS. The other events of scheduling: the end of a SLEEP, instruction cache fills, admission, residency, parking, the handler
watchdog and team stalls (R120, R151 to R156, R164, R168, R169, R394, R395).
-/

namespace Sys2Proof.Machine

/-! ## Sleep, cache lines, clusters -/

section Events
variable {s q : State} {th : Thread} {core die g t w : Nat} {line : DWord} {b : Bool}

theorem sleepEnd_wakes (h : s.thread? th.id = some th) (hold : th.hold = .sleep w) :
    exec (.sleepEnd th.id) s = .next (if w ≤ s.nowCycle then s.modTh th.id fun u => { u with hold := .none } else s) := by
  show execSleepEnd th.id s = _
  simp only [execSleepEnd, h, hold]
  rfl

theorem sleepEnd_gone (h : s.thread? t = none) : exec (.sleepEnd t) s = .next s := by
  show execSleepEnd t s = _
  simp only [execSleepEnd, h]

theorem cacheFill_unasked (h : (core, line) ∉ s.icacheMiss) : exec (.instructionCacheFill core line) s = .next s := by
  have absent : s.icacheMiss.contains (core, line) = false := by simpa using h
  show execInstructionCacheFill core line s = _
  rw [execInstructionCacheFill, absent]
  rfl

theorem cacheFill_asked (h : (core, line) ∈ s.icacheMiss) : exec (.instructionCacheFill core line) s = .next { s with
    icacheMiss := s.icacheMiss.filter (· != (core, line))
    icache := if (core, line) ∈ s.icache then s.icache else s.icache ++ [(core, line)] } := by
  show execInstructionCacheFill core line s = _
  simp only [execInstructionCacheFill, List.contains_iff_mem.2 h, List.contains_iff_mem, Bool.not_true, Bool.false_eq_true, if_false]

theorem clusterAdmit_empty (h : s.pending die = []) : exec (.clusterAdmit die) s = .next s := by
  show execClusterAdmit die s = _
  simp only [execClusterAdmit, h]

theorem clusterAdmit_fresh {l : Launch} {r : List Pending} (h : s.pending die = .fresh l :: r) (hl : s.admitLaunch l = (q, b)) :
    exec (.clusterAdmit die) s = .next (if b then q.once (.clusterAdmit die) else q) := by
  show execClusterAdmit die s = _
  simp only [execClusterAdmit, h, hl]
  cases b <;> rfl

theorem clusterAdmit_back {c : Cluster} {r : List Pending} (h : s.pending die = .back c :: r)
    (hc : s.restoreCluster c (s.restoreStart c) = (q, b)) :
    exec (.clusterAdmit die) s = .next (if b then q.once (.clusterAdmit die) else q) := by
  show execClusterAdmit die s = _
  simp only [execClusterAdmit, h, hc]
  cases b <;> rfl

/-! ## Handlers -/

theorem handlerWatchdog_noHandler (h : ∀ u ∈ s.liveOf g, u.handler = none) : exec (.handlerWatchdog g) s = .next s := by
  have noneRuns : ((s.liveOf g).find? fun u => u.handler.isSome) = none :=
    List.find?_eq_none.2 fun u hu => by rw [h u hu]; exact Bool.false_ne_true
  show execHandlerWatchdog g s = _
  simp only [execHandlerWatchdog, noneRuns]

section Running
variable {u : Thread} {h : HandlerRec} (found : ((s.liveOf g).find? fun u => u.handler.isSome) = some u) (hh : u.handler = some h)
include found hh

theorem handlerWatchdog_unlimited (unlimited : (s.ctxOf u).watchdog = none) : exec (.handlerWatchdog g) s = .next s := by
  show execHandlerWatchdog g s = _
  simp only [execHandlerWatchdog, found, hh, unlimited]

theorem handlerWatchdog_limit {n : Nat} (limit : (s.ctxOf u).watchdog = some n) :
    exec (.handlerWatchdog g) s = .next (if (s.ctxOf u).frozen = true ∨
      ((s.group g).saved = true ∧ (s.group g).resident = false) ∨ s.nowCycle < h.since + n then s
      else s.failHandler g .watchdog) := by
  show execHandlerWatchdog g s = _
  simp only [execHandlerWatchdog, found, hh, limit, Bool.or_eq_true, Bool.and_eq_true, Bool.not_eq_true', decide_eq_true_eq, or_assoc]

end Running

end Events

/-! ## Parked teams (R155, R156) -/

/-- A group keeps a field that an update of one group keeps. -/
theorem group_modGroup_view {β : Type} (p : Group → β) (s : State) (g k : Nat) {f : Group → Group} (hid : ∀ x, (f x).id = x.id)
    (h : ∀ x, p (f x) = p x) : p ((s.modGroup g f).group k) = p (s.group k) := by
  by_cases hk : k = g
  · subst hk
    have found : (s.modGroup k f).groups.find? (fun x => x.id == k) = (s.groups.find? fun x => x.id == k).map f :=
      find_updBy_self Group.id f k (fun x hx => (hid x).trans hx) s.groups
    unfold State.group
    rw [found]
    cases s.groups.find? fun x => x.id == k with
    | none => rfl
    | some x => exact h x
  · have found : (s.modGroup g f).groups.find? (fun x => x.id == k) = s.groups.find? fun x => x.id == k :=
      find_updBy_ne Group.id f g k (fun x hx => (hid x).trans hx) hk s.groups
    unfold State.group
    rw [found]

/-- `t` is `s` but for the events to come. -/
def State.Scheduled (s t : State) : Prop := t = { s with agenda := t.agenda }

theorem foldl_scheduled {α : Type} {f : State → α → State} (h : ∀ (s : State) a, s.Scheduled (f s a)) (l : List α) :
    ∀ s : State, s.Scheduled (l.foldl f s) := by
  induction l with
  | nil => exact fun _ => rfl
  | cons a l ih =>
    intro s
    have rest := ih (f s a)
    have first := h s a
    unfold State.Scheduled at *
    rw [List.foldl_cons, rest, first]

theorem once_scheduled (s : State) (i : Instr) : s.Scheduled (s.once i) := by
  unfold State.once
  split <;> rfl

theorem freed_scheduled (s : State) (core : Nat) : s.Scheduled (s.freed core) := by
  have rods := foldl_scheduled (fun s g => once_scheduled s (.reorderGroupPlace g)) (s.waitingRods (gladeOf core)) s
  generalize hz : (s.waitingRods (gladeOf core)).foldl (fun s g => s.once (.reorderGroupPlace g)) s = z at rods
  have moves : z.Scheduled (z.movesAgain core) := foldl_scheduled (fun s g => once_scheduled s _) _ z
  have last := once_scheduled (z.movesAgain core) (.teamResident core)
  unfold State.Scheduled at *
  rw [State.freed, hz, last, moves, rods]

/-- The groups of a list leave their places. -/
def State.unplace (s : State) (gs : List Nat) : State := gs.foldl (fun s g => s.modGroup g fun x => { x with resident := false }) s

theorem unplace_eq (gs : List Nat) : ∀ s : State, s.unplace gs =
    { s with groups := s.groups.map fun x => if x.id ∈ gs then { x with resident := false } else x } := by
  induction gs with
  | nil => intro s; simp [State.unplace]
  | cons g gs ih =>
    intro s
    refine (ih _).trans ?_
    simp only [State.modGroup, updBy, List.map_map]
    congr 1
    refine List.map_congr_left fun x _ => ?_
    by_cases hg : x.id = g <;> by_cases hgs : x.id ∈ gs <;> simp [hg, hgs]

/-- A group of the list has no place any more. -/
theorem unplace_resident {gs : List Nat} {s : State} {x : Group} (hx : x ∈ (s.unplace gs).groups) (hid : x.id ∈ gs) :
    x.resident = false := by
  rw [unplace_eq] at hx
  obtain ⟨y, -, rfl⟩ := List.mem_map.1 hx
  by_cases hy : y.id ∈ gs
  · rw [if_pos hy]
  · rw [if_neg hy] at hid
    exact absurd hid hy

section Parking
variable {s : State} {t : Nat} {m : Team}

theorem parkImageWritten_other (h : (s.team t).state ≠ .parking) (h' : (s.team t).state ≠ .parkingReady) :
    exec (.parkImageWritten t) s = .next s := by
  show execParkImageWritten t s = _
  rw [execParkImageWritten, if_pos (by simp [h, h'])]

theorem parkImageWritten_frees (found : s.teams.find? (fun x => x.id == t) = some m)
    (h : m.state = .parking ∨ m.state = .parkingReady) : ∃ z : State, exec (.parkImageWritten t) s = .next z ∧
      (z.team t).state = (if m.state = .parking then .parked else .readyParked) ∧
      (∀ x ∈ z.groups, x.id ∈ s.teamGroups t → x.resident = false) ∧ z.threads = s.threads ∧ z.mem = s.mem := by
  have team : s.team t = m := by rw [State.team, found]; rfl
  have parking : ((s.team t).state != .parking && (s.team t).state != .parkingReady) = false := by
    rw [team]
    rcases h with h | h <;> rw [h] <;> rfl
  let parked := s.modTeam t fun x => { x with state := if x.state == .parking then .parked else .readyParked }
  let placed := parked.unplace (s.teamGroups t)
  have freed := foldl_scheduled freed_scheduled ((s.teamGroups t).map fun g => (placed.group g).core).eraseDups placed
  refine ⟨((s.teamGroups t).map fun g => (placed.group g).core).eraseDups.foldl State.freed placed, ?_, ?_⟩
  · show execParkImageWritten t s = _
    rw [execParkImageWritten, if_neg (by rw [parking]; exact Bool.false_ne_true)]
    rfl
  generalize ((s.teamGroups t).map fun g => (placed.group g).core).eraseDups.foldl State.freed placed = z at freed
  unfold State.Scheduled at freed
  have placed_eq : placed = { parked with groups := placed.groups } := by
    rw [show placed = _ from unplace_eq (s.teamGroups t) parked]
  refine ⟨?_, ?_, ?_, ?_⟩
  · have stands := find_updBy_self Team.id
      (fun x => { x with state := if x.state == .parking then .parked else .readyParked }) t (fun _ h => h) s.teams
    rw [found] at stands
    have record : z.team t = { m with state := if m.state == .parking then .parked else .readyParked } := by
      rw [freed, placed_eq]
      exact congrArg (fun x : Option Team => x.getD default) stands
    rw [record]
    simp only [beq_iff_eq]
  · rw [freed]
    exact fun x hx => unplace_resident hx
  · rw [freed, placed_eq]
    rfl
  · rw [freed, placed_eq]
    rfl

end Parking

/-! ## Residency (R153, R154, R192, R353) -/

/-- A park for the first candidate, where it stands as it stood and does not fit. -/
def State.parkFirst (core : Nat) (cands : List Team) (r : State) : State := match cands with
  | t :: _ => if (r.team t.id).state = t.state ∧ r.candFits (r.team t.id) = false then r.parkFor core t else r
  | [] => r

/-- The end of a residency check: records that wait in task queues are offered again. -/
def State.offerTasks (r : State) : State := if r.taskHeads = [] then r else r.once .taskDispatch

/-- The candidates of a core and one task that fits, tried in their order. -/
def State.tryHere (q : State) (core : Nat) : State :=
  let cands := q.candidates core
  match firstHead (q.taskHeads.filter fun h => q.taskFits h.2.2.bytes core) with
  | none => q.tryTeams cands
  | some h =>
    let first := q.tryTeams (cands.filter fun t => taskPrio h.2.2.bytes ≤ t.prio)
    let task := if first.taskFits h.2.2.bytes core = true then first.dispatchHead h else first
    task.tryTeams (cands.filter fun t => t.prio < taskPrio h.2.2.bytes)

section Here
variable {q : State} {core : Nat}

theorem tryHere_idle (h : firstHead (q.taskHeads.filter fun h => q.taskFits h.2.2.bytes core) = none) :
    q.tryHere core = q.tryTeams (q.candidates core) := by
  unfold State.tryHere
  rw [h]

theorem tryHere_task {h : Nat × Nat × TaskRec} (hh : firstHead (q.taskHeads.filter fun h => q.taskFits h.2.2.bytes core) = some h) :
    q.tryHere core =
      let first := q.tryTeams ((q.candidates core).filter fun t => taskPrio h.2.2.bytes ≤ t.prio)
      let task := if first.taskFits h.2.2.bytes core = true then first.dispatchHead h else first
      task.tryTeams ((q.candidates core).filter fun t => t.prio < taskPrio h.2.2.bytes) := by
  unfold State.tryHere
  rw [hh]

end Here

theorem teamResident_eq (s : State) (core : Nat) : exec (.teamResident core) s = .next (
    (((s.offerRods (gladeOf core)).tryHere core).parkFirst core ((s.offerRods (gladeOf core)).candidates core)).offerTasks) := by
  have parks (cands : List Team) (r : State) : (match cands with
      | t :: _ => if (r.team t.id).state == t.state && !r.candFits (r.team t.id) then r.parkFor core t else r
      | [] => r) = r.parkFirst core cands := by
    cases cands with
    | nil => rfl
    | cons t l => simp only [State.parkFirst, Bool.and_eq_true, beq_iff_eq, Bool.not_eq_true']
  have offers (r : State) : (if r.taskHeads.isEmpty then r else r.once .taskDispatch) = r.offerTasks := by
    simp only [State.offerTasks, List.isEmpty_iff]
  exact congrArg Host.Outcome.next ((offers _).trans (congrArg State.offerTasks (parks _ _)))

theorem teamResident_of_tries {s z : State} {core : Nat} (h : (s.offerRods (gladeOf core)).tryHere core = z) :
    exec (.teamResident core) s =
      .next (State.parkFirst core ((s.offerRods (gladeOf core)).candidates core) z).offerTasks := by
  rw [teamResident_eq, h]

/-! ## Team stalls (R168, R169) -/

theorem longWait_eq : Config.longWait = 2 ^ 20 := rfl

section Stall
variable {s : State} {t c : Nat}

theorem teamStall_still (h : s.stalling t = false ∨ (s.team t).stallAt = none) : exec (.teamStall t) s = .next s := by
  refine congrArg Host.Outcome.next (if_pos ?_)
  rcases h with h | h <;> simp [h]

variable (h : (s.team t).stallAt = some c)
include h

theorem stallAt_any : ((s.team t).stallAt.any fun c => c + Config.longWait ≤ s.nowCycle) =
    decide (c + Config.longWait ≤ s.nowCycle) := by
  rw [h, Option.any_some]

theorem teamStall_early (early : s.nowCycle < c + Config.longWait) : exec (.teamStall t) s = .next s := by
  refine congrArg Host.Outcome.next (if_pos ?_)
  rw [stallAt_any h, decide_eq_false (Nat.not_le.2 early), Bool.not_false, Bool.or_true]

omit h

/-- The end of a team's stall counter: a parked team becomes ready. -/
def Team.unstalled (m : Team) : Team := { m with
  stallAt := none
  blockedAt := none
  state := match m.state with
    | .parked => .readyParked
    | .parking => .parkingReady
    | y => y }

/-- What a thread that takes a team stall no longer waits for. -/
def State.leaves (q : State) (u : Thread) : State := match u.hold with
  | .waitObj o k _ _ _ => q.objSet o k oWCNT (q.obj o k oWCNT + 2 ^ 32 - 1)
  | .reorder => q.withdrawReorder u.id
  | _ => q

/-- A thread takes a team stall where it stands. -/
def State.takesStall (stamp : Nat) (q : State) (u : Thread) : State :=
  ((q.leaves u).modTh u.id fun x => { x with hold := .none }).raise u.id (plainTrap .teamStall (dword u.stallAddr) u.pc true stamp)

/-- The handlers of the groups that have taken a team stall, or the placement of those that are not resident. -/
def State.afterStall (q : State) (g : Nat) : State :=
  if (q.group g).resident = true then q.enterHandlers g else q.once (.teamResident (q.group g).core)

include h in
theorem teamStall_traps (late : c + Config.longWait ≤ s.nowCycle) (stalling : s.stalling t = true) :
    exec (.teamStall t) s = .next (
      let r := ((s.liveTeam t).map Thread.group).eraseDups.foldl State.rollbackGroup s
      ((r.liveTeam t).map Thread.group).eraseDups.foldl State.afterStall
        ((r.liveTeam t).foldl (State.takesStall (r.nextId * 8)) (r.modTeam t Team.unstalled))) := by
  have counts : (!s.stalling t || !((s.team t).stallAt.any fun c => c + Config.longWait ≤ s.nowCycle)) = false := by
    rw [stallAt_any h, decide_eq_true late, stalling]; rfl
  refine congrArg Host.Outcome.next ((if_neg (by rw [counts]; exact Bool.false_ne_true)).trans ?_)
  rfl

end Stall

/-! ### The stall of one parked thread -/

/-- Where each group stands. -/
def State.places (s : State) : Nat → Bool × Nat := fun k => ((s.group k).resident, (s.group k).core)

section Places
variable (s : State)

theorem modGroup_places (g : Nat) {f : Group → Group} (hid : ∀ x, (f x).id = x.id)
    (h : ∀ x, ((f x).resident, (f x).core) = (x.resident, x.core)) : (s.modGroup g f).places = s.places :=
  funext fun k => group_modGroup_view (fun x => (x.resident, x.core)) s g k hid h

theorem modTh_places (t : Nat) (f : Thread → Thread) : (s.modTh t f).places = s.places := rfl

theorem toHost_places (x q type n : Nat) (body : List Byte) : (s.toHost x q type n body).places = s.places := by
  unfold State.toHost
  split <;> rfl

theorem failLaunch_places (o : Owner) (c : Cause) : (s.failLaunch o c).places = s.places := by cases o <;> rfl

theorem failTeam_places (t : Nat) (c : Cause) : (s.failTeam t c).places = s.places := by
  unfold State.failTeam
  dsimp only
  split
  · exact (failLaunch_places ..).trans (toHost_places ..)
  · exact failLaunch_places ..

theorem once_places (i : Instr) : (s.once i).places = s.places := by
  unfold State.once
  split <;> rfl

theorem failHandler_places (g : Nat) (c : Cause) : (s.failHandler g c).places = s.places := by
  refine (once_places ..).trans ?_
  refine (foldl_view (fun s t => failTeam_places s t c) _ _).trans ?_
  have dropped (s : State) (ts : List Nat) : (s.dropArrivals g ts).places = s.places := modGroup_places s g (fun _ => rfl) fun _ => rfl
  exact (dropped _ _).trans (foldl_view (fun s u => modTh_places s (Thread.id u) _) _ s)

/-- A team stall moves no group. -/
theorem raise_teamStall_places (t : Nat) (a : DWord) (pc : DWord) (stamp : Nat) :
    (s.raise t (plainTrap .teamStall a pc true stamp)).places = s.places := by
  unfold State.raise
  refine ite_ind (P := fun z : State => z.places = s.places) _ rfl ?_
  refine (congrArg State.places (if_neg Bool.false_ne_true)).trans ?_
  exact ite_ind (P := fun z : State => z.places = s.places) _ (failHandler_places ..) rfl

end Places

/-- A group that does not speculate has nothing to roll back. -/
theorem rollbackGroup_none {s : State} {g : Nat} (h : ∀ v ∈ s.threads, v.group = g → v.spec = none) : s.rollbackGroup g = s := by
  have idle : s.specThreads g = [] := List.filter_eq_nil_iff.2 fun v hv => by
    by_cases hg : v.group = g
    · simp [h v hv hg]
    · simp [hg]
  exact if_pos (by rw [idle]; rfl)

/-- A team keeps a field that does not show its scratchpad when a field of an object is set. -/
theorem team_objSet_view {β : Type} (p : Team → β) (hp : ∀ (m : Team) w, p { m with spad := w } = p m) (s : State) (t o f v k : Nat) :
    p ((s.objSet t o f v).team k) = p (s.team k) := by
  unfold State.objSet State.spadPut
  exact team_modTeam_view p s t k (fun _ => rfl) fun m => hp m _

section Single
variable {s : State} {t c : Nat} {u : Thread} (h : (s.team t).stallAt = some c)
include h

theorem unstalled_team : (s.modTeam t Team.unstalled).team t = (s.team t).unstalled := by
  have stands := find_updBy_self Team.id Team.unstalled t (fun _ h => h) s.teams
  unfold State.team at h ⊢
  cases found : s.teams.find? fun x => x.id == t with
  | none =>
    rw [found] at h
    exact nomatch h
  | some m =>
    rw [found] at stands
    exact congrArg (fun x : Option Team => x.getD default) stands

theorem teamStall_one (late : c + Config.longWait ≤ s.nowCycle) (stalling : s.stalling t = true) (one : s.liveTeam t = [u])
    (away : (s.group u.group).resident = false) (plain : ∀ v ∈ s.threads, v.group = u.group → v.spec = none)
    (stay : ((s.modTeam t Team.unstalled).leaves u).places = s.places) : exec (.teamStall t) s = .next
      ((State.takesStall (s.nextId * 8) (s.modTeam t Team.unstalled) u).once (.teamResident (s.group u.group).core)) := by
  have trapped : (State.takesStall (s.nextId * 8) (s.modTeam t Team.unstalled) u).places = s.places :=
    (raise_teamStall_places ..).trans stay
  have place := congrFun trapped u.group
  simp only [State.places, Prod.mk.injEq] at place
  obtain ⟨resident, core⟩ := place
  have rolled : ((s.liveTeam t).map Thread.group).eraseDups.foldl State.rollbackGroup s = s := by
    rw [one]
    exact rollbackGroup_none plain
  rw [teamStall_traps h late stalling]
  dsimp only
  rw [rolled, one]
  show Host.Outcome.next (State.afterStall (State.takesStall (s.nextId * 8) (s.modTeam t Team.unstalled) u) u.group) = _
  rw [State.afterStall, resident, away, core]
  rfl

theorem teamStall_parked (late : c + Config.longWait ≤ s.nowCycle) (stalling : s.stalling t = true) (one : s.liveTeam t = [u])
    (away : (s.group u.group).resident = false) (plain : ∀ v ∈ s.threads, v.group = u.group → v.spec = none) {a : Nat}
    (hold : (∃ n, u.hold = .waitj n ∧ a = n.val) ∨ ∃ o q y v d, u.hold = .waitObj o q y v d ∧ a = y) :
    ∃ r : State, exec (.teamStall t) s = .next (((r.modTh u.id fun x => { x with hold := .none }).raise u.id
        (plainTrap .teamStall (dword a) u.pc true (s.nextId * 8))).once (.teamResident (s.group u.group).core)) ∧
      r.threads = s.threads ∧ (r.team t).stallAt = none ∧ (r.team t).state = (s.team t).unstalled.state := by
  have stall := teamStall_one h late stalling one away plain
  have record := unstalled_team h
  rcases hold with ⟨n, hold, rfl⟩ | ⟨o, q, y, v, d, hold, rfl⟩
  · have kept : (s.modTeam t Team.unstalled).leaves u = s.modTeam t Team.unstalled := by rw [State.leaves, hold]
    have addr : u.stallAddr = n.val := by rw [Thread.stallAddr, hold]
    rw [State.takesStall, kept, addr] at stall
    exact ⟨_, stall rfl, rfl, by rw [record]; rfl, by rw [record]⟩
  · have left : (s.modTeam t Team.unstalled).leaves u = (s.modTeam t Team.unstalled).objSet o q oWCNT
        ((s.modTeam t Team.unstalled).obj o q oWCNT + 2 ^ 32 - 1) := by rw [State.leaves, hold]
    have addr : u.stallAddr = a := by rw [Thread.stallAddr, hold]
    rw [State.takesStall, left, addr] at stall
    have field {β : Type} (p : Team → β) (hp : ∀ (m : Team) w, p { m with spad := w } = p m) :=
      (team_objSet_view p hp (s.modTeam t Team.unstalled) o q oWCNT
        ((s.modTeam t Team.unstalled).obj o q oWCNT + 2 ^ 32 - 1) t).trans (congrArg p record)
    exact ⟨_, stall rfl, rfl, field Team.stallAt fun _ _ => rfl, field Team.state fun _ _ => rfl⟩

end Single

/-! ## The statement -/

/-- Settles O52: the pass by the clock layer and the bundles it selects, the other events by their branches, and the team stall by
its traps. -/
theorem schedulingEvents : Obligations.SchedulingEvents := by
  refine ⟨fun s => ⟨bundlerPass_cycle s, fun core => ?pass⟩, fun s th core die g t line => ?events, fun s t => ?stall⟩
  case pass =>
    obtain ⟨few, new⟩ := corePass_issues s core
    exact ⟨few, congrArg (fun v => v.2.1) (passStart_steady s core), congrArg (fun v => v.2.2.1) (passStart_steady s core),
      congrFun (passStart_pcs s core), new⟩
  case events =>
    refine ⟨fun w => sleepEnd_wakes, sleepEnd_gone, cacheFill_unasked, cacheFill_asked, clusterAdmit_empty,
      fun l r q b => clusterAdmit_fresh, fun c r q b => clusterAdmit_back, ⟨fun fits => ?_, fun h fits => ?_⟩, parkImageWritten_other,
      fun m => parkImageWritten_frees, rfl, handlerWatchdog_noHandler, fun u h found hh =>
        ⟨handlerWatchdog_unlimited found hh, fun n => handlerWatchdog_limit found hh⟩⟩
    · exact teamResident_of_tries (tryHere_idle fits)
    · exact teamResident_of_tries (tryHere_task fits)
  case stall =>
    refine ⟨teamStall_still, fun c h => ?_⟩
    have limit : c + 2 ^ 20 = c + Config.longWait := congrArg (c + ·) longWait_eq.symm
    rw [limit]
    exact ⟨teamStall_early h, teamStall_traps h, fun late stalling u a one away plain =>
      teamStall_parked h late stalling one away plain⟩

end Sys2Proof.Machine
end

section
/-!
PROOFS. MIGRATE and the moves of groups (R195 to R198), the places of waiting groups (R192), and the end of a measurement window
(R170, R171).
-/

namespace Sys2Proof.Machine

/-! ## MIGRATE (R195, R196) -/

section Migrate
variable {s : State} {g : Nat} {kind : CoreKind} {now : Bool} {rs : List Arrival}

/-- A completed MIGRATE whose guards all pass has set the group's target and freed its threads of their hold. -/
def State.retarget (s : State) (g : Nat) (kind : CoreKind) (rs : List Arrival) : State :=
  rs.foldl (fun z r => z.modTh r.thread fun u => { u with hold := .none }) (s.modGroup g fun y =>
    { y with target := if kind = kindOf (s.group g).core then none else some ⟨kind, true⟩ })

theorem tryMove_ok {c : Nat} (dest : s.moveDest g = .ok c) : s.tryMove g now = (s.moveGroup g c, true) := by
  rw [State.tryMove, dest]

/-- A group that need not wait for room stays where it is when it cannot move. -/
theorem tryMove_stays {e : NoMove} (dest : s.moveDest g = .error e) (goes : e = .cond ∨ now = false) :
    s.tryMove g now = (s, false) := by
  rw [State.tryMove, dest]
  cases e with
  | cond => rfl
  | room => rw [goes.resolve_left (fun h => nomatch h)]; rfl

theorem migrateMeet_absent (absent : rs.filter Arrival.guard = []) :
    s.migrateMeet g kind now rs = rs.foldl (fun z r => z.release r.thread) s := by
  rw [State.migrateMeet, absent]
  rfl

theorem migrateMeet_mixed (present : rs.filter Arrival.guard ≠ []) (mixed : rs.filter Arrival.guard ≠ rs) :
    s.migrateMeet g kind now rs = (((rs.filter fun r => !r.guard).foldl (fun z r => z.release r.thread) s).laneTrap
      (rs.filter Arrival.guard) Arrival.mask).enterHandlers g := by
  have fewer : (rs.filter Arrival.guard).length ≠ rs.length := fun h => mixed (List.filter_sublist.eq_of_length h)
  rw [State.migrateMeet, if_neg (by simpa only [List.isEmpty_iff] using present), if_pos (bne_iff_ne.2 fewer)]

theorem migrateMeet_present (all : rs.filter Arrival.guard = rs) (arrived : rs ≠ []) {z : State} {moved : Bool}
    (tried : (s.retarget g kind rs).tryMove g now = (z, moved)) :
    s.migrateMeet g kind now rs = if moved then z else rs.foldl (fun z r => z.advance r.thread) z := by
  simp only [State.retarget] at tried
  rw [State.migrateMeet, all, if_neg (by simpa only [List.isEmpty_iff] using arrived), if_neg (by simp)]
  simp only [beq_iff_eq, tried]

end Migrate

/-! ## The destination of a move, and held moves (R197, R198) -/

section Moves
variable {s : State} {g c : Nat}

theorem moveDestOf_ok {kind : CoreKind} (dest : s.moveDestOf g kind = .ok c) :
    kindOf c = kind ∧ s.fits c (s.group g).slices (s.groupB g) = true ∧ (∀ u ∈ s.liveOf g, u.depth = 0) ∧
      ∀ k ∈ (s.group g).g.toList, k.signed = 0 := by
  unfold State.moveDestOf at dest
  dsimp only at dest
  split at dest
  case isTrue => exact nomatch dest
  case isFalse still =>
    simp only [Bool.or_eq_true, not_or, List.any_eq_true, not_exists, not_and, bne_iff_ne, ne_eq, not_not] at still
    split at dest
    case h_2 => exact nomatch dest
    case h_1 d found =>
      obtain rfl : d = c := Except.ok.inj dest
      have takes := List.find?_some found
      have ofKind := (List.mem_filter.1 (List.mem_of_find?_eq_some found)).2
      exact ⟨beq_iff_eq.1 ofKind, (Bool.and_eq_true_iff.1 takes).1, still⟩

theorem moveDest_ok (dest : s.moveDest g = .ok c) : ∃ t, (s.group g).target = some t ∧ kindOf c = t.kind ∧
    t.kind ≠ kindOf (s.group g).core ∧ s.fits c (s.group g).slices (s.groupB g) = true ∧ (∀ u ∈ s.liveOf g, u.depth = 0) ∧
    ∀ k ∈ (s.group g).g.toList, k.signed = 0 := by
  unfold State.moveDest at dest
  split at dest
  case h_1 => exact nomatch dest
  case h_2 t target =>
    split at dest
    case isTrue => exact nomatch dest
    case isFalse away =>
      obtain ⟨ofKind, room⟩ := moveDestOf_ok dest
      exact ⟨t, target, ofKind, fun same => away (beq_iff_eq.2 same), room⟩

theorem groupMove_idle (idle : (s.group g).moveHold = false) : exec (.groupMove g) s = .next s := by
  show execGroupMove g s = _
  rw [execGroupMove, idle]
  rfl

section Held
variable (held : (s.group g).moveHold = true)
include held

theorem groupMove_ok (dest : s.moveDest g = .ok c) : exec (.groupMove g) s = .next (s.moveGroup g c) := by
  show execGroupMove g s = _
  rw [execGroupMove, held, dest]
  rfl

theorem groupMove_room (dest : s.moveDest g = .error .room) : exec (.groupMove g) s = .next s := by
  show execGroupMove g s = _
  rw [execGroupMove, held, dest]
  rfl

theorem groupMove_cond (dest : s.moveDest g = .error .cond) : exec (.groupMove g) s = .next ((s.liveOf g).foldl
    (fun z u => if u.hold = Hold.move then z.release u.id else z) (s.modGroup g fun y => { y with moveHold := false })) := by
  show execGroupMove g s = _
  rw [execGroupMove, held, dest]
  simp only [beq_iff_eq]
  rfl

end Held

/-! ## Waiting groups (R192) -/

theorem reorderGroupPlace_settled (settled : (s.group g).beadCores = []) : exec (.reorderGroupPlace g) s = .next s := by
  show execReorderGroupPlace g s = _
  rw [execReorderGroupPlace, settled]
  rfl

theorem reorderGroupPlace_waiting (waits : (s.group g).beadCores ≠ []) :
    exec (.reorderGroupPlace g) s = .next (s.placeRod g) := by
  show execReorderGroupPlace g s = _
  rw [execReorderGroupPlace, if_neg (by simpa only [List.isEmpty_iff] using waits)]

/-- The search for a place, from index j mod C on, stays within the core list. -/
theorem mem_of_mem_rotation {l : List Nat} {j c : Nat} (h : c ∈ (upto l.length).map fun i => l.getD ((j + i) % l.length) 0) :
    c ∈ l := by
  obtain ⟨i, hi, rfl⟩ := List.mem_map.1 h
  have pos : 0 < l.length := (Nat.zero_le i).trans_lt (List.mem_range.1 hi)
  have inside : (j + i) % l.length < l.length := Nat.mod_lt _ pos
  rw [List.getD_eq_getElem _ _ inside]
  exact List.getElem_mem inside

theorem placeRod_waits (full : ∀ c ∈ (s.group g).beadCores, s.fits c (s.group g).slices (s.groupB g) = false) :
    s.placeRod g = s := by
  have none_fits : ((upto (s.group g).beadCores.length).map fun i => (s.group g).beadCores.getD
      (((s.group g).beadNo + i) % (s.group g).beadCores.length) 0).find? (fun c => s.fits c (s.group g).slices (s.groupB g)) = none :=
    List.find?_eq_none.2 fun c hc => by rw [full c (mem_of_mem_rotation hc)]; exact Bool.false_ne_true
  unfold State.placeRod
  dsimp only
  rw [none_fits]

end Moves

/-! ## The end of a window (R170, R171) -/

/-- What a core's record holds after an update of that core. -/
theorem core_modCore (s : State) (c : Nat) {f : Core → Core} (hid : ∀ x, (f x).id = x.id) : (s.modCore c f).core c = f (s.core c) := by
  unfold State.core State.modCore
  dsimp only
  cases found : s.cores.find? fun x => x.id == c with
  | some x =>
    have present : (s.cores.any fun x => x.id == c) = true :=
      List.any_eq_true.2 ⟨x, List.mem_of_find?_eq_some found, List.find?_some (p := fun x : Core => x.id == c) found⟩
    rw [if_pos present, find_updBy_self Core.id f c (fun x hx => (hid x).trans hx), found]
    rfl
  | none =>
    have absent : ¬ (s.cores.any fun x => x.id == c) = true := by simpa using found
    have fresh : ((f (Core.fresh c)).id == c) = true := beq_iff_eq.2 (hid _)
    rw [if_neg absent, List.find?_append, found, Option.none_or, List.find?_cons_of_pos (p := fun x : Core => x.id == c) fresh]
    rfl

theorem modGroup_modGroup (s : State) (g : Nat) {f : Group → Group} (hid : ∀ x, (f x).id = x.id) (h : Group → Group) :
    (s.modGroup g f).modGroup g h = s.modGroup g fun x => h (f x) := by
  simp only [State.modGroup, updBy, List.map_map]
  congr 1
  refine List.map_congr_left fun x _ => ?_
  by_cases hx : x.id = g <;> simp [hx, hid]

/-- What the end of a core's window does with one of its groups: its target, then its counts. -/
def State.endWindow (core pol : Nat) (s : State) (g : Group) : State :=
  let inH := (s.liveOf g.id).any fun u => u.handler.isSome
  let own := match g.target with
    | some t => t.program
    | none => false
  let s := if bitAt pol 31 && g.statP != 0 && !inH && !own then
      s.modGroup g.id fun x => { x with target := s.windowTarget core pol g } else s
  s.modGroup g.id fun x => { x with statS := 0, statP := 0 }

/-- A written policy takes effect. -/
def Core.takePolicy (c : Core) : Core := { c with migPolicy := c.migNext.getD c.migPolicy, migNext := none }

theorem migrationWindowEnd_eq (s : State) (core : Nat) : exec (.migrationWindowEnd core) s =
    .next (((s.hosted core).foldl (State.endWindow core (s.core core).migPolicy.toNat) s).modCore core Core.takePolicy) := rfl

/-- A group with the target that its window's end gives it, whose counts start again. -/
def Group.restart (target : Option MigTarget → Option MigTarget) (x : Group) : Group :=
  { x with target := target x.target, statS := 0, statP := 0 }

section Window
variable (core pol : Nat)

theorem endWindow_eq (s : State) (g : Group) : ∃ target, State.endWindow core pol s g = s.modGroup g.id (Group.restart target) :=
  ite_ind (P := fun z : State => ∃ target, (z.modGroup g.id fun x => { x with statS := 0, statP := 0 }) =
    s.modGroup g.id (Group.restart target)) _ 
    ⟨fun _ => s.windowTarget core pol g, modGroup_modGroup s g.id (by intro; rfl) _⟩ ⟨id, rfl⟩

/-- A group stays where it is. Its counts are 0 once its turn has come, and then stay 0. -/
theorem endWindows_groups (l : List Group) : ∀ {s : State} {y : Group}, y ∈ (l.foldl (State.endWindow core pol) s).groups →
    ∃ x ∈ s.groups, (y.id, y.core, y.resident) = (x.id, x.core, x.resident) ∧
      (x.id ∈ l.map Group.id ∨ (x.statS = 0 ∧ x.statP = 0) → y.statS = 0 ∧ y.statP = 0) := by
  induction l with
  | nil => exact fun {s y} h => ⟨y, h, rfl, fun zero => zero.resolve_left List.not_mem_nil⟩
  | cons g l ih =>
    intro s y h
    obtain ⟨w, hw, place, zero⟩ := ih h
    obtain ⟨target, turn⟩ := endWindow_eq core pol s g
    rw [turn] at hw
    obtain ⟨x, hx, rfl⟩ := List.mem_map.1 hw
    by_cases hg : x.id = g.id
    · rw [if_pos (beq_iff_eq.2 hg)] at place zero
      exact ⟨x, hx, place, fun _ => zero (.inr ⟨rfl, rfl⟩)⟩
    · rw [if_neg fun same => hg (beq_iff_eq.1 same)] at place zero
      exact ⟨x, hx, place, fun old => zero (old.imp_left fun turn => (List.mem_cons.1 turn).resolve_left hg)⟩

/-- Every group with a place on the core counts from 0. -/
theorem hosted_recounted {s : State} {y : Group} (h : y ∈ ((s.hosted core).foldl (State.endWindow core pol) s).groups)
    (hc : y.core = core) (hr : y.resident = true) : y.statS = 0 ∧ y.statP = 0 := by
  obtain ⟨x, hx, place, zero⟩ := endWindows_groups core pol _ h
  obtain ⟨-, sameCore, sameRes⟩ : y.id = x.id ∧ y.core = x.core ∧ y.resident = x.resident := by simpa only [Prod.mk.injEq] using place
  have here : (x.core == core && x.resident) = true := by simp [← sameCore, ← sameRes, hc, hr]
  exact zero (.inl (List.mem_map_of_mem (List.mem_filter.2 ⟨hx, here⟩)))

theorem endWindows_rest (l : List Group) (s : State) : let z := l.foldl (State.endWindow core pol) s
    (z.cores, z.threads, z.mem) = (s.cores, s.threads, s.mem) := by
  refine foldl_view (π := fun z : State => (z.cores, z.threads, z.mem)) (fun s g => ?_) l s
  obtain ⟨target, turn⟩ := endWindow_eq core pol s g
  rw [turn]
  rfl

end Window

theorem migrationWindowEnd_recounts (s : State) (core : Nat) : ∃ t, exec (.migrationWindowEnd core) s = .next t ∧
    (t.core core).migNext = none ∧ (t.core core).migPolicy = ((s.core core).migNext).getD (s.core core).migPolicy ∧
    t.threads = s.threads ∧ t.mem = s.mem ∧
    ∀ y ∈ t.groups, y.core = core → y.resident = true → y.statS = 0 ∧ y.statP = 0 := by
  refine ⟨_, migrationWindowEnd_eq s core, ?_⟩
  have zero := fun y => hosted_recounted core (s.core core).migPolicy.toNat (s := s) (y := y)
  have rest := endWindows_rest core (s.core core).migPolicy.toNat (s.hosted core) s
  generalize (s.hosted core).foldl (State.endWindow core (s.core core).migPolicy.toNat) s = q at zero rest ⊢
  obtain ⟨cores, threads, mem⟩ : q.cores = s.cores ∧ q.threads = s.threads ∧ q.mem = s.mem := by simpa only [Prod.mk.injEq] using rest
  have record : q.core core = s.core core := by rw [State.core, cores, State.core]
  rw [core_modCore q core (f := Core.takePolicy) fun _ => rfl, record]
  exact ⟨rfl, rfl, threads, mem, zero⟩

/-! ## The statement -/

/-- Settles O26: MIGRATE by the guards of its arrivals, a move by its destination, and the window's end group by group. -/
theorem groupMoves : Obligations.GroupMoves := by
  intro s th x kind now g rs
  refine ⟨fun issues => ends_issueG issues rfl rfl, ⟨migrateMeet_absent, migrateMeet_mixed, fun all arrived => ⟨fun c dest => ?moves,
    fun e dest goes => ?stays⟩⟩, fun c => moveDest_ok, groupMove_idle, fun held => ⟨fun c => groupMove_ok held, groupMove_room held,
    groupMove_cond held⟩, reorderGroupPlace_settled, fun waits => ⟨reorderGroupPlace_waiting waits, placeRod_waits⟩,
    migrationWindowEnd_recounts s⟩
  case moves => exact migrateMeet_present all arrived (tryMove_ok dest)
  case stays => exact migrateMeet_present all arrived (tryMove_stays dest goes)

end Sys2Proof.Machine
end

section
/-!
PROOFS. Dispatch of tasks (R353 to R355), and the end of teams, tasks and launches (R165, R356, R357).
-/

namespace Sys2Proof.Machine

/-! ## The order of heads (R353) -/

theorem headBefore_iff (a b : Nat × Nat × TaskRec) : headBefore a b = true ↔ taskPrio b.2.2.bytes < taskPrio a.2.2.bytes ∨
    (taskPrio a.2.2.bytes = taskPrio b.2.2.bytes ∧ a.2.1 < b.2.1) := by
  simp [headBefore]

theorem headBefore_irrefl (a : Nat × Nat × TaskRec) : headBefore a a = false := by
  rw [← Bool.not_eq_true, headBefore_iff]
  omega

theorem headBefore_asymm {a b : Nat × Nat × TaskRec} (h : headBefore a b = true) : headBefore b a = false := by
  rw [headBefore_iff] at h
  rw [← Bool.not_eq_true, headBefore_iff]
  omega

/-- What is not before one head, which is not before another, is not before that one either. -/
theorem headBefore_negTrans {a b c : Nat × Nat × TaskRec} (hab : headBefore a b = false) (hbc : headBefore b c = false) :
    headBefore a c = false := by
  rw [← Bool.not_eq_true, headBefore_iff] at *
  omega

theorem firstHead_eq_none {l : List (Nat × Nat × TaskRec)} (h : firstHead l = none) : l = [] := by
  cases l with
  | nil => rfl
  | cons a l =>
    unfold firstHead at h
    split at h
    · split at h <;> exact nomatch h
    · exact nomatch h

/-- The first head is one of them, and none is before it. -/
theorem firstHead_first (l : List (Nat × Nat × TaskRec)) : ∀ h, firstHead l = some h →
    h ∈ l ∧ ∀ y ∈ l, headBefore y h = false := by
  induction l with
  | nil => exact fun h none => nomatch none
  | cons a l ih =>
    intro h first
    unfold firstHead at first
    split at first
    case h_1 x found =>
      obtain ⟨hx, least⟩ := ih x found
      split at first
      case isTrue before =>
        obtain rfl := Option.some.inj first
        exact ⟨List.mem_cons_of_mem a hx, List.forall_mem_cons.2 ⟨headBefore_asymm before, least⟩⟩
      case isFalse after =>
        obtain rfl := Option.some.inj first
        exact ⟨List.mem_cons_self, List.forall_mem_cons.2 ⟨headBefore_irrefl a, fun y hy =>
          headBefore_negTrans (least y hy) (Bool.not_eq_true _ ▸ after)⟩⟩
    case h_2 none =>
      obtain rfl := Option.some.inj first
      obtain rfl := firstHead_eq_none none
      exact ⟨List.mem_cons_self, List.forall_mem_cons.2 ⟨headBefore_irrefl a, fun y hy => absurd hy List.not_mem_nil⟩⟩

/-! ## What a walk and a lookup of translated code leave as it is (R238 to R247, R449) -/

section Walk
variable (s : State)

theorem tlbPut_holdings (e : TlbEnt) : (s.tlbPut e).holdings = s.holdings := by
  unfold State.tlbPut
  split <;> rfl

theorem sealLeaf_holdings (l : Leaf) : (s.sealLeaf l).1.holdings = s.holdings := by
  unfold State.sealLeaf
  dsimp only
  split
  · exact ite_ind (P := fun t : State => t.holdings = s.holdings) _ rfl (homeWrite_holdings ..)
  · rfl

theorem translate_holdings (tlb ctx va : Nat) : (s.translate tlb ctx va).1.holdings = s.holdings := by
  unfold State.translate
  split
  · rfl
  split
  · exact tlbPut_holdings ..
  split
  · rfl
  next l used _ =>
    exact (tlbPut_holdings ..).trans ((tlbPut_holdings ..).trans
      ((foldl_keeps (fun s _ => tlbPut_holdings s _) _ _).trans (sealLeaf_holdings s l)))

theorem checkVa_holdings (tlb ctx : Nat) (priv : Bool) (acc : Acc) (va size : Nat) :
    (s.checkVa tlb ctx priv acc va size).1.holdings = s.holdings := by
  have walk := translate_holdings s tlb ctx va
  unfold State.checkVa
  split
  · rfl
  split
  · rfl
  generalize s.translate tlb ctx va = m at walk ⊢
  obtain ⟨q, c | l⟩ := m
  · exact walk
  dsimp only
  split
  · exact walk
  split <;> exact walk

theorem engPiece_holdings (tlb ctx : Nat) (priv : Bool) (acc : Acc) (va n : Nat) :
    (s.engPiece tlb ctx priv acc va n).1.holdings = s.holdings := by
  have check := checkVa_holdings s tlb ctx priv acc va 1
  unfold State.engPiece
  generalize s.checkVa tlb ctx priv acc va 1 = m at check ⊢
  obtain ⟨q, f | l⟩ := m
  · exact check
  dsimp only
  split <;> exact check

theorem engPieces_holdings (tlb ctx : Nat) (priv : Bool) (acc : Acc) (ps : List (Nat × Nat)) : ∀ s : State,
    (s.engPieces tlb ctx priv acc ps).1.holdings = s.holdings := by
  induction ps with
  | nil => exact fun _ => rfl
  | cons p ps ih =>
    intro s
    have first := engPiece_holdings s tlb ctx priv acc p.1 p.2
    unfold State.engPieces
    generalize s.engPiece tlb ctx priv acc p.1 p.2 = m at first ⊢
    obtain ⟨q, f | b⟩ := m
    · exact first
    have rest := ih q
    dsimp only
    generalize q.engPieces tlb ctx priv acc ps = m at rest ⊢
    obtain ⟨r, f | c⟩ := m <;> exact rest.trans first

theorem homePut_holdings (pa : Nat) (bs : List Byte) : (s.homePut pa bs).holdings = s.holdings :=
  ite_ind (P := fun t : State => t.holdings = s.holdings) _ rfl (homeWrite_holdings ..)

theorem xlateLookup_holdings (ctx core : Nat) (pc : DWord) : (s.xlateLookup ctx core pc).holdings = s.holdings := by
  unfold State.xlateLookup
  split
  · rfl
  split
  · rfl
  next o im _ =>
    dsimp only
    split
    · rfl
    next k f _ =>
      split
      · rfl
      have code := engPieces_holdings core ctx true .fetch (piecesOf f.portable (o.fnExtent im f.portable)) s
      generalize s.engPieces core ctx true .fetch (piecesOf f.portable (o.fnExtent im f.portable)) = m at code ⊢
      obtain ⟨q, e | b⟩ := m
      · exact code
      dsimp only
      split
      · exact code
      split
      · exact (homePut_holdings ..).trans code
      · exact code
      · exact (once_holdings ..).trans code
      · exact code

end Walk

/-! ## The start of a task (R354, R355) -/

/-- What a team was admitted with: its number, its task, its home core and the threads of a full team. -/
def Team.post (m : Team) : Nat × Option TaskRec × Nat × Nat := (m.id, m.task, m.home, m.tsize)

/-- The posts of all teams. -/
def State.posts (s : State) : List (Nat × Option TaskRec × Nat × Nat) := s.teams.map Team.post

theorem modTeam_posts (s : State) (t : Nat) {f : Team → Team} (keeps : ∀ m, (f m).post = m.post) : (s.modTeam t f).posts = s.posts := by
  simp only [State.posts, State.modTeam, updBy, List.map_map]
  refine List.map_congr_left fun m _ => ?_
  by_cases hm : m.id = t <;> simp [hm, keeps]

theorem spadPut_posts (s : State) (t q : Nat) (bs : List Byte) : (s.spadPut t q bs).posts = s.posts :=
  modTeam_posts s t fun _ => rfl

theorem objSet_posts (s : State) (t o f v : Nat) : (s.objSet t o f v).posts = s.posts := spadPut_posts ..

theorem setMap_posts (s : State) (t o k : Nat) (v : Bool) : (s.setMap t o k v).posts = s.posts := spadPut_posts ..

theorem objInit_posts (s : State) (t q : Nat) (clu cex spec : Bool) (b c : Nat) : (s.objInit t q clu cex spec b c).posts = s.posts := by
  have objs (z : State) : (z.modTeam t fun m => { m with objs := if m.objs.contains q then m.objs else m.objs ++ [q] }).posts = z.posts :=
    modTeam_posts z t fun _ => rfl
  unfold State.objInit
  refine ite_ind (P := fun z : State => z.posts = s.posts) _ ?_ ?_
  · refine (foldl_view (fun z k => ?_) _ _).trans ?_
    · exact ite_ind (P := fun y : State => y.posts = z.posts) _ rfl (setMap_posts ..)
    · simp only [objs, spadPut_posts, objSet_posts]
  · simp only [objs, spadPut_posts, objSet_posts]

theorem teamBarrier_posts (s : State) (t : Nat) : (s.teamBarrier t).posts = s.posts :=
  ite_ind (P := fun z : State => z.posts = s.posts) _ rfl (objInit_posts ..)

theorem addThreads_posts (s : State) (t : Nat) (d : TeamDecl) (tid : Nat → DWord) (spill : Nat → Nat) :
    (s.addThreads t d tid spill).posts = s.posts := by
  unfold State.addThreads
  refine foldl_view (fun z q => ?_) _ s
  exact foldl_view (π := State.posts) (fun _ _ => by rfl) _ _

theorem seat_teams (s : State) (g : Nat) (slices : BitVec 4) : (s.seat g slices).teams = s.teams := rfl

/-- The start of a team changes no record of a team but its own, which says that it is resident. -/
theorem startTeam_teams (s : State) (t : Nat) :
    (s.startTeam t).teams = updBy Team.id s.teams t fun m => { m with state := .resident } := by
  have seated := foldl_view (π := State.teams) (f := fun s g => s.seat g (slicesOf ((s.liveOf g).map Thread.rank)))
    (fun _ _ => seat_teams ..) (s.teamGroups t) s
  unfold State.startTeam
  dsimp only
  generalize (s.teamGroups t).foldl (fun s g => s.seat g (slicesOf ((s.liveOf g).map Thread.rank))) s = q at seated ⊢
  have resident : ((q.acquireCore (s.team t).home).modTeam t fun m => { m with state := .resident }).teams =
      updBy Team.id s.teams t fun m => { m with state := .resident } := by rw [← seated]; rfl
  generalize (q.acquireCore (s.team t).home).modTeam t _ = r at resident ⊢
  split
  · exact resident
  · next f _ =>
    have stands := foldl_view (π := State.holdings) (f := fun z u => z.startThread u f (kindOf (s.team t).home)) (fun _ _ => rfl)
      (r.liveTeam t) r
    refine .trans (congrArg Holdings.teams (a₂ := r.holdings) ((admitAll_holdings _).trans ?_)) resident
    exact ite_ind (P := fun z : State => z.holdings = r.holdings) _ ((xlateLookup_holdings ..).trans stands) stands

theorem startTeam_post {s : State} {t core : Nat} {r : Option TaskRec} (h : (t, r, core, 32) ∈ s.posts) :
    ∃ m ∈ (s.startTeam t).teams, m.task = r ∧ m.home = core ∧ m.tsize = 32 ∧ m.state = .resident := by
  obtain ⟨m, hm, post⟩ := List.mem_map.1 h
  obtain ⟨id, task, home, tsize⟩ : m.id = t ∧ m.task = r ∧ m.home = core ∧ m.tsize = 32 := by
    simpa only [Team.post, Prod.mk.injEq] using post
  rw [startTeam_teams]
  exact ⟨{ m with state := .resident }, List.mem_map.2 ⟨m, hm, if_pos (beq_iff_eq.2 id)⟩, task, home, tsize, rfl⟩

theorem startTask_team (s : State) (ctx : Nat) (r : TaskRec) (core : Nat) :
    ∃ t ∈ (s.startTask ctx r core).teams, t.task = some r ∧ t.home = core ∧ t.tsize = 32 ∧ t.state = .resident := by
  unfold State.startTask
  dsimp only
  refine startTeam_post ?_
  rw [teamBarrier_posts, addThreads_posts]
  exact List.mem_map_of_mem (f := Team.post) (List.mem_append_right _ List.mem_cons_self)

section Dispatch
variable {s : State}

/-- The heads that some core takes now. -/
def State.placeable (s : State) : List (Nat × Nat × TaskRec) :=
  s.taskHeads.filter fun h => (s.taskCores h.1 h.2.2).any fun c => s.taskFits h.2.2.bytes c

theorem taskDispatch_idle (alive : s.dropDead = s) (idle : s.placeable = []) : exec .taskDispatch s = .next s := by
  have first : firstHead s.placeable = none := by rw [idle]; rfl
  rw [State.placeable] at first
  show execTaskDispatch s = _
  simp only [execTaskDispatch, alive, first]

theorem taskDispatch_starts (alive : s.dropDead = s) {h : Nat × Nat × TaskRec} {core : Nat} (first : firstHead s.placeable = some h)
    (place : (s.taskCores h.1 h.2.2).find? (fun c => s.taskFits h.2.2.bytes c) = some core) :
    exec .taskDispatch s = .next (((s.startTask h.1 h.2.2 core).dequeue h.1 h.2.1).once .taskDispatch) := by
  rw [State.placeable] at first
  show execTaskDispatch s = _
  simp only [execTaskDispatch, alive, first, State.dispatchHead, place]

end Dispatch

/-! ## The end of a team (R165, R356, R357) -/

section TeamEnd
variable {s : State} {t : Nat}

theorem teamEnd_early (early : s.teamOver t = false) : exec (.teamEnd t) s = .next s := by
  show execTeamEnd t s = _
  rw [execTeamEnd, early]
  rfl

theorem teamEnd_plain (ended : s.teamOver t = true) (plain : (s.team t).task = none) :
    exec (.teamEnd t) s = .next ((s.dropTeam t).clusterOver (s.team t).cluster) := by
  show execTeamEnd t s = _
  rw [execTeamEnd, ended, plain]
  rfl

theorem teamEnd_task (ended : s.teamOver t = true) (task : (s.team t).task ≠ none) :
    exec (.teamEnd t) s = .next (s.once (.taskComplete t)) := by
  show execTeamEnd t s = _
  rw [execTeamEnd, ended, if_neg (by simp), if_pos (Option.isSome_iff_ne_none.2 task)]

/-- Only the moves that wait are changed by another look at the admission queues. -/
theorem admitAll_scheduled (s : State) : s.Scheduled s.admitAll := foldl_scheduled (fun s _ => once_scheduled s _) _ s

theorem offered_records (s : State) (i : Instr) : (s.once i).admitAll.threads = s.threads ∧ (s.once i).admitAll.teams = s.teams := by
  rw [show (s.once i).admitAll = _ from admitAll_scheduled _, show s.once i = _ from once_scheduled s i]
  exact ⟨rfl, rfl⟩

/-- Nothing of a team that is dropped is left. -/
theorem dropTeam_gone (s : State) (t : Nat) : (∀ u ∈ (s.dropTeam t).threads, u.team ≠ t) ∧ ∀ m ∈ (s.dropTeam t).teams, m.id ≠ t := by
  unfold State.dropTeam
  dsimp only
  rw [(offered_records _ _).1, (offered_records _ _).2]
  exact ⟨fun u hu => bne_iff_ne.1 (List.mem_filter.1 hu).2, fun m hm => bne_iff_ne.1 (List.mem_filter.1 hm).2⟩

theorem taskComplete_plain (plain : (s.team t).task = none) : exec (.taskComplete t) s = .next s := by
  show execTaskComplete t s = _
  rw [execTaskComplete, plain]

/-- The publish of a task's end, and the decrement of its join, that a failed task does not make (R356, R357, log 45). -/
def State.taskJoined (s : State) (t : Nat) (r : TaskRec) : State :=
  let m := s.team t
  let p := (s.writeBackTeam t).publishPassed m.lastCore
  if (∃ u ∈ s.threads, u.team = t ∧ u.status = .failed) ∨ taskJoin r.bytes = 0 then p
  else p.joinStep m.ctx m.launch m.number m.lastCore (taskJoin r.bytes) r.q

section Task
variable {r : TaskRec} (task : (s.team t).task = some r)
include task

theorem taskComplete_early (early : s.teamOver t = false) : exec (.taskComplete t) s = .next s := by
  show execTaskComplete t s = _
  rw [execTaskComplete, task, early]
  rfl

theorem taskComplete_over (ended : s.teamOver t = true) : exec (.taskComplete t) s =
    let m := s.team t
    let y := (s.taskJoined t r).dropTeam t
    .next ((({ y with clusters := y.clusters.filter fun c => c.id != m.cluster } : State).countTask m.launch false).once
      .taskDispatch) := by
  show execTaskComplete t s = _
  rw [execTaskComplete, task, ended]
  simp only [Bool.not_true, Bool.false_eq_true, if_false, Bool.or_eq_true, List.any_eq_true, Bool.and_eq_true, beq_iff_eq]
  rfl

end Task

end TeamEnd

/-! ## The end of a launch (R165, R262, R357) -/

section GridEnd
variable {s : State}

theorem gridEnd_unknown {n : Nat} (gone : s.launches.find? (fun l => l.id == n) = none) : exec (.gridEnd n) s = .next s := by
  show execGridEnd n s = _
  rw [execGridEnd, gone]

section Known
variable {l : Launch} (known : s.launches.find? (fun y => y.id == l.id) = some l)
include known

theorem gridEnd_early (early : l.done = true ∨ l.left ≠ 0 ∨ l.tasks ≠ 0) : exec (.gridEnd l.id) s = .next s := by
  show execGridEnd l.id s = _
  simp only [execGridEnd, known]
  rw [if_pos (by simpa [or_assoc] using early)]

theorem gridEnd_over (running : l.done = false) (clusters : l.left = 0) (tasks : l.tasks = 0) : exec (.gridEnd l.id) s =
    .next ((((s.l1.map L1Line.core).eraseDups.foldl (fun z c => z.publishCore c 0xFF) s).modLaunch l.id fun y =>
      { y with done := true }).itemEnd l.session l.queue l.seq (match l.failed with | some c => causeCode c | none => 0)
        (leBytes 8 l.number.toNat)) := by
  show execGridEnd l.id s = _
  simp only [execGridEnd, known]
  exact congrArg Host.Outcome.next (if_neg (by simp [running, clusters, tasks]))

end Known

end GridEnd

/-! ## The statement -/

/-- Settles O47: the order of heads, the one team that a start adds, and the ends of teams, tasks and launches by their branches. -/
theorem taskEvents : Obligations.TaskEvents := by
  refine ⟨firstHead_first, fun s => ⟨fun alive => ⟨taskDispatch_idle alive, fun h core first place =>
    ⟨taskDispatch_starts alive first place, startTask_team s h.1 h.2.2 core⟩⟩, fun t => ?team, fun n => gridEnd_unknown,
    fun l known => ⟨gridEnd_early known, gridEnd_over known⟩⟩⟩
  obtain ⟨threads, teams⟩ := dropTeam_gone s t
  exact ⟨teamEnd_early, teamEnd_plain, teamEnd_task, threads, teams, taskComplete_plain, fun r task =>
    ⟨taskComplete_early task, taskComplete_over task⟩⟩

end Sys2Proof.Machine
end

section
/-!
PROOFS. The rendezvous of the lane instructions (R172 to R176).
-/

namespace Sys2Proof.Machine

/-! ## Arrival (R172) -/

theorem exec_lane {i : Instr} (lane : i.lane = true) {x : X} (hx : i.x = some x) (s : State) :
    exec i s = .next (s.issueG i x fun g s th => s.meet th i g) := by
  cases i
  case shfl | vote | ballot | matchv | compact | scan | gred =>
    obtain rfl := Option.some.inj hx
    rfl
  all_goals exact nomatch lane

/-! ## The rendezvous (R173 to R175) -/

section Meet
variable {s : State} {g : Nat} {pc : DWord} {h : Bool} {r : Arrival} {l : List Arrival}

/-- The threads that arrived with a failed guard go on. -/
def State.goAbsent (s : State) (rs : List Arrival) : State :=
  (rs.filter fun a => !a.guard).foldl (fun z a => z.release a.thread) s

theorem laneMeet_bad {i : Instr} {rs : List Arrival} (bad : maskBad (rs.filter Arrival.guard) = true) :
    s.laneMeet g i rs = ((s.goAbsent rs).laneTrap (rs.filter Arrival.guard) Arrival.mask).enterHandlers g := if_pos bad

theorem laneMeet_good {i : Instr} {rs : List Arrival} (good : maskBad (rs.filter Arrival.guard) = false) :
    let ps := (rs.filter Arrival.guard).map fun a => { (s.goAbsent rs).th a.thread with ovf := a.ovf }
    s.laneMeet g i rs = (ps.map fun u => (u.id, (s.goAbsent rs).laneOut i ps u)).foldl (fun z o => z.laneGive o.1 o.2)
      (s.goAbsent rs) := if_neg (by rw [good]; exact Bool.false_ne_true)

/-- The arrivals of a rendezvous that completes are cleared, and its timer is dropped. -/
def State.metAt (s : State) (g : Nat) (pc : DWord) (h : Bool) (rs : List Arrival) : State :=
  (s.clearArrivals g rs).unTimer fun j => j == .convergenceMismatchTimeout g pc h

variable (arrived : s.arrivalsAt g pc h = r :: l)
include arrived

theorem tryMeet_waits (missing : s.missing g (r :: l) ≠ 0) : s.tryMeet g pc h = s := by
  simp only [State.tryMeet, arrived]
  exact if_pos (bne_iff_ne.2 missing)

theorem tryMeet_lane (lane : r.instr.lane = true) (complete : s.missing g (r :: l) = 0) :
    s.tryMeet g pc h = (s.metAt g pc h (r :: l)).laneMeet g r.instr (r :: l) := by
  simp only [State.tryMeet, arrived]
  refine (if_neg (by rw [complete]; exact Bool.false_ne_true)).trans ?_
  unfold State.metAt
  generalize r.instr = i at lane
  cases i
  case shfl | vote | ballot | matchv | compact | scan | gred => rfl
  all_goals exact nomatch lane

/-! ## The limit of a wait (R176) -/

theorem mismatchTimeout_eq : exec (.convergenceMismatchTimeout g pc h) s = .next (
    if (s.ctxOf (s.th r.thread)).halted = true ∨ ∀ a ∈ r :: l, s.nowCycle ≤ a.since + 2 ^ 20 then s
    else (((s.clearArrivals g (r :: l)).goAbsent (r :: l)).laneTrap ((r :: l).filter Arrival.guard)
      fun _ => s.missing g (r :: l)).enterHandlers g) := by
  show execConvergenceMismatchTimeout g pc h s = _
  simp only [execConvergenceMismatchTimeout, arrived]
  refine congrArg Host.Outcome.next (if_congr ?_ rfl rfl)
  rw [Bool.or_eq_true, Bool.not_eq_true', List.any_eq_false, longWait_eq]
  simp only [decide_eq_true_iff, Nat.not_lt]

end Meet

/-! ## The statement -/

/-- Settles O23: an arrival by the shared issue, a rendezvous by the ranks that are missing and the masks, its limit by the event. -/
theorem laneInstructions : Obligations.LaneInstructions := by
  intro s th i x hx
  refine ⟨fun lane issues => ends_issueG issues (exec_lane lane hx s) rfl, fun g pc h r l arrived hi =>
    ⟨tryMeet_waits arrived, fun lane complete => ?_, mismatchTimeout_eq arrived⟩⟩
  subst hi
  have met := tryMeet_lane arrived lane complete
  exact ⟨fun bad => met.trans (laneMeet_bad bad), fun good => met.trans (laneMeet_good good)⟩

end Sys2Proof.Machine
end

section
/-!
PROOFS. The tree over the ranks of a group (R104, R105): what each of its nodes sums up, and what the operations on 32-bit integers
make of two lists of values.
-/

namespace Sys2Proof.Machine

/-! ## What a node of the tree sums up (R104, R105) -/

section Tree
variable {a : Arith} {op : Aop} {t : Ty} {P : List Nat → Nat → Prop}

theorem combine_none (n : Node) : combine a op t n none = n := by cases n <;> rfl

/-- A node and the values below it: it is absent when there are none; else its value is one that `P` gives them, without a flag. -/
def Node.SumsUp (P : List Nat → Nat → Prop) (n : Node) (l : List Nat) : Prop := match n with
  | none => l = []
  | some (v, f) => f = 0 ∧ P l v

/-- What the operation makes of the results of two lists is a result of both, without a flag. -/
def Joins (a : Arith) (op : Aop) (t : Ty) (P : List Nat → Nat → Prop) : Prop :=
  ∀ l m x y, P l x → P m y → P (l ++ m) (laneOp a op t x y).1 ∧ (laneOp a op t x y).2 = 0

theorem combine_sumsUp (joins : Joins a op t P) {m n : Node} {k l : List Nat} (hm : Node.SumsUp P m k)
    (hn : Node.SumsUp P n l) : Node.SumsUp P (combine a op t m n) (k ++ l) := by
  cases n with
  | none =>
    obtain rfl : l = [] := hn
    rw [combine_none, List.append_nil]
    exact hm
  | some y =>
    cases m with
    | none =>
      obtain rfl : k = [] := hm
      exact hn
    | some x =>
      obtain ⟨x, f⟩ := x
      obtain ⟨y, g⟩ := y
      obtain ⟨rfl, hx⟩ := hm
      obtain ⟨rfl, hy⟩ := hn
      obtain ⟨value, flags⟩ := joins k l x y hx hy
      refine ⟨?_, value⟩
      show 0 ||| 0 ||| (laneOp a op t x y).2 = 0
      rw [flags]
      rfl

theorem treeLevel_getD : ∀ (l : List Node) (j : Nat), (treeLevel a op t l).getD j none =
    combine a op t (l.getD (2 * j) none) (l.getD (2 * j + 1) none)
  | [], _ => rfl
  | [n], 0 => (combine_none n).symm
  | [_], _ + 1 => rfl
  | _ :: _ :: _, 0 => rfl
  | _ :: _ :: l, j + 1 => treeLevel_getD l j

theorem treeLevels_getD (n : Nat) : ∀ {k : Nat} (l : List Node), k ≤ n →
    (treeLevels a op t n l).getD k [] = (treeLevel a op t)^[k] l := by
  induction n with
  | zero =>
    intro k l hk
    obtain rfl := Nat.le_zero.1 hk
    rfl
  | succ n ih =>
    intro k l hk
    cases k with
    | zero => rfl
    | succ k => exact ih (treeLevel a op t l) (Nat.le_of_succ_le_succ hk)

/-- The values of the ranks from `start` on, `n` of them, those of absent ones left out. -/
def valuesIn (val : Nat → Option Nat) (start n : Nat) : List Nat := (List.range' start n).filterMap val

theorem valuesIn_append (val : Nat → Option Nat) (start m n : Nat) :
    valuesIn val start m ++ valuesIn val (start + m) n = valuesIn val start (m + n) := by
  rw [valuesIn, valuesIn, ← List.filterMap_append, List.range'_append_1, valuesIn]

variable {val : Nat → Option Nat} {l : List Node} (joins : Joins a op t P)
  (leaves : ∀ r, Node.SumsUp P (l.getD r none) (val r).toList)
include joins leaves

/-- Node `j` of level `k` sums up the ranks of its block. -/
theorem level_sumsUp (k : Nat) : ∀ j,
    Node.SumsUp P (((treeLevel a op t)^[k] l).getD j none) (valuesIn val (j * 2 ^ k) (2 ^ k)) := by
  induction k with
  | zero =>
    intro j
    have one : valuesIn val (j * 2 ^ 0) (2 ^ 0) = (val j).toList := by
      cases h : val j <;> simp [valuesIn, h]
    rw [one]
    exact leaves j
  | succ k ih =>
    intro j
    have halves : valuesIn val (j * 2 ^ (k + 1)) (2 ^ (k + 1)) =
        valuesIn val (2 * j * 2 ^ k) (2 ^ k) ++ valuesIn val ((2 * j + 1) * 2 ^ k) (2 ^ k) := by
      rw [show (2 * j + 1) * 2 ^ k = 2 * j * 2 ^ k + 2 ^ k by ring, valuesIn_append]
      congr 1 <;> ring
    rw [Function.iterate_succ_apply', treeLevel_getD, halves]
    exact combine_sumsUp joins (ih (2 * j)) (ih (2 * j + 1))

theorem treeReduce_sumsUp : Node.SumsUp P (treeReduce a op t l) (valuesIn val 0 32) := by
  have root := level_sumsUp joins leaves 5 0
  rw [← treeLevels_getD 5 l (Nat.le_refl 5)] at root
  unfold treeReduce
  generalize (treeLevels a op t 5 l).getD 5 [] = m at root ⊢
  cases m <;> exact root

/-- The blocks that a scan adds in turn, largest first, begin where the one before ended. -/
theorem scanFrom_sumsUp (fuel : Nat) : ∀ {start n m : Nat} {acc : Node}, m ≤ fuel → m ≤ 6 → n < 2 ^ m → 2 ^ m ∣ start →
    Node.SumsUp P acc (valuesIn val 0 start) →
    Node.SumsUp P (scanFrom a op t (treeLevels a op t 5 l) fuel start n acc) (valuesIn val 0 (start + n)) := by
  induction fuel with
  | zero =>
    intro start n m acc hm _ hn _ hacc
    obtain rfl : n = 0 := by
      rw [Nat.le_zero.1 hm] at hn
      exact Nat.lt_one_iff.1 hn
    exact hacc
  | succ fuel ih =>
    intro start n m acc hm six hn aligned hacc
    rw [scanFrom]
    by_cases zero : n = 0
    · subst zero
      exact hacc
    rw [if_neg (by simpa using zero)]
    have below : n.log2 < m := (Nat.log2_lt zero).2 hn
    have least : 2 ^ n.log2 ≤ n := Nat.log2_self_le zero
    have rest : n - 2 ^ n.log2 < 2 ^ n.log2 := by
      have := Nat.lt_log2_self (n := n)
      omega
    obtain ⟨j, hj⟩ : 2 ^ n.log2 ∣ start := (Nat.pow_dvd_pow 2 below.le).trans aligned
    have block := level_sumsUp joins leaves n.log2 j
    rw [← treeLevels_getD 5 l (by omega), Nat.mul_comm, ← hj] at block
    have index : start / 2 ^ n.log2 = j := by rw [hj, Nat.mul_div_cancel_left _ (Nat.two_pow_pos _)]
    have next := combine_sumsUp joins hacc block
    rw [show valuesIn val start (2 ^ n.log2) = valuesIn val (0 + start) (2 ^ n.log2) by rw [Nat.zero_add], valuesIn_append] at next
    dsimp only
    rw [index, show start + n = start + 2 ^ n.log2 + (n - 2 ^ n.log2) by omega]
    exact ih (m := n.log2) (by omega) (by omega) rest (hj ▸ ⟨j + 1, by ring⟩) next

theorem treeScan_sumsUp {k : Nat} (small : k < 32) (excl : Bool) :
    Node.SumsUp P (treeScan a op t l k excl) (valuesIn val 0 (if excl then k else k + 1)) := by
  have scanned := scanFrom_sumsUp joins leaves 6 (start := 0) (n := if excl then k else k + 1) (m := 6) (acc := none)
    (Nat.le_refl 6) (Nat.le_refl 6) (by split <;> omega) ⟨0, rfl⟩ rfl
  rw [Nat.zero_add] at scanned
  exact scanned

end Tree

/-! ## The operations on 32-bit integers -/

section Operations
variable {t : Ty} (ht : t = .s32 ∨ t = .n32) (a : Arith)
include ht

theorem tyInt_mod (x : Nat) : tyInt t x % 2 ^ 32 = x % 2 ^ 32 := by
  have bits : t.bits = 32 := by rcases ht with rfl | rfl <;> rfl
  rw [tyInt, intVal, bits]
  exact ite_ind (P := fun z : Int => z % 2 ^ 32 = x % 2 ^ 32) _ (by omega) (by omega)

theorem joins_add : Joins a .add t fun l v => v = l.sum % 2 ^ 32 := by
  rintro l m x y rfl rfl
  have op : laneOp a .add t (l.sum % 2 ^ 32) (m.sum % 2 ^ 32) =
      (wrapTo 32 (tyInt t (l.sum % 2 ^ 32) + tyInt t (m.sum % 2 ^ 32)), 0) := by
    rcases ht with rfl | rfl <;> rfl
  have hx := tyInt_mod ht (l.sum % 2 ^ 32)
  have hy := tyInt_mod ht (m.sum % 2 ^ 32)
  rw [op]
  refine ⟨?_, rfl⟩
  show ((tyInt t (l.sum % 2 ^ 32) + tyInt t (m.sum % 2 ^ 32)) % 2 ^ 32).toNat = (l ++ m).sum % 2 ^ 32
  rw [List.sum_append]
  omega

theorem joins_min : Joins a .min t fun l v => v ∈ l ∧ ∀ x ∈ l, tyInt t v ≤ tyInt t x := by
  rintro l m x y ⟨hx, leastX⟩ ⟨hy, leastY⟩
  have op : laneOp a .min t x y = (if tyInt t x ≤ tyInt t y then x else y, 0) := by rcases ht with rfl | rfl <;> rfl
  rw [op]
  refine ⟨?_, rfl⟩
  simp only [List.mem_append]
  split
  · exact ⟨.inl hx, fun z hz => hz.elim (leastX z) fun h => le_trans ‹_› (leastY z h)⟩
  · exact ⟨.inr hy, fun z hz => hz.elim (fun h => le_trans (le_of_not_ge ‹_›) (leastX z h)) (leastY z)⟩

theorem joins_max : Joins a .max t fun l v => v ∈ l ∧ ∀ x ∈ l, tyInt t x ≤ tyInt t v := by
  rintro l m x y ⟨hx, greatestX⟩ ⟨hy, greatestY⟩
  have op : laneOp a .max t x y = (if tyInt t x ≤ tyInt t y then y else x, 0) := by rcases ht with rfl | rfl <;> rfl
  rw [op]
  refine ⟨?_, rfl⟩
  simp only [List.mem_append]
  split
  · exact ⟨.inr hy, fun z hz => hz.elim (fun h => le_trans (greatestX z h) ‹_›) (greatestY z)⟩
  · exact ⟨.inl hx, fun z hz => hz.elim (greatestX z) fun h => le_trans (greatestY z h) (le_of_not_ge ‹_›)⟩

theorem joins_and : Joins a .and t fun l v => ∀ k, v.testBit k = (l.map fun x => x.testBit k).all id := by
  intro l m x y hx hy
  have op : laneOp a .and t x y = (x &&& y, 0) := by rcases ht with rfl | rfl <;> rfl
  rw [op]
  exact ⟨fun k => by rw [Nat.testBit_and, hx, hy, List.map_append, List.all_append], rfl⟩

theorem joins_or : Joins a .or t fun l v => ∀ k, v.testBit k = (l.map fun x => x.testBit k).any id := by
  intro l m x y hx hy
  have op : laneOp a .or t x y = (x ||| y, 0) := by rcases ht with rfl | rfl <;> rfl
  rw [op]
  exact ⟨fun k => by rw [Nat.testBit_or, hx, hy, List.map_append, List.any_append], rfl⟩

theorem joins_xor : Joins a .xor t fun l v => ∀ k, v.testBit k = ((l.map fun x => x.testBit k).countP id % 2 == 1) := by
  intro l m x y hx hy
  have op : laneOp a .xor t x y = (x ^^^ y, 0) := by rcases ht with rfl | rfl <;> rfl
  rw [op]
  refine ⟨fun k => ?_, rfl⟩
  rw [Nat.testBit_xor, hx, hy, List.map_append, List.countP_append]
  generalize (l.map fun x => x.testBit k).countP id = p
  generalize (m.map fun x => x.testBit k).countP id = q
  rcases Nat.mod_two_eq_zero_or_one p with e | e <;> rcases Nat.mod_two_eq_zero_or_one q with f | f <;> simp [Nat.add_mod, e, f]

end Operations
end Sys2Proof.Machine
end

section
/-!
PROOFS. The results of the lane instructions, thread by thread: the integers that GRED and SCAN combine (R180), the thread from
which SHFL reads (R178), and what the others count (R179).
-/

namespace Sys2Proof.Machine

/-! ## The values of the present threads -/

section Ranks
variable {ps : List Thread} (one : (ps.map Thread.rank).Nodup)
include one

theorem find_rank {u : Thread} (hu : u ∈ ps) : (ps.find? fun v => v.rank == u.rank) = some u := find_of_mem_nodup one hu

theorem filter_rank (r : Nat) : (ps.filter fun u => u.rank == r) = (ps.find? fun u => u.rank == r).toList := by
  induction ps with
  | nil => rfl
  | cons u ps ih =>
    obtain ⟨new, one⟩ := List.nodup_cons.1 one
    by_cases h : u.rank = r
    · have away : (ps.filter fun v => v.rank == r) = [] := List.filter_eq_nil_iff.2 fun v hv e =>
        new (h ▸ beq_iff_eq.1 e ▸ List.mem_map_of_mem hv)
      rw [List.filter_cons_of_pos (by simpa using h), List.find?_cons_of_pos (by simpa using h), away]
      rfl
    · rw [List.filter_cons_of_neg (by simpa using h), List.find?_cons_of_neg (by simpa using h), ih one]

/-- The value that the thread of a rank gives, if it is present. -/
def laneVal (ps : List Thread) (f : Thread → Nat) (r : Nat) : Option Nat := (ps.find? fun u => u.rank == r).map f

theorem valuesIn_perm (f : Thread → Nat) (n : Nat) :
    (valuesIn (laneVal ps f) 0 n).Perm ((ps.filter fun u => decide (u.rank < n)).map f) := by
  induction n with
  | zero => simp [valuesIn]
  | succ n ih =>
    have last : valuesIn (laneVal ps f) (0 + n) 1 = (ps.filter fun u => u.rank == n).map f := by
      rw [filter_rank one]
      cases h : ps.find? fun u => u.rank == n <;> simp [valuesIn, laneVal, h]
    have cut := List.filter_append_perm (fun u : Thread => decide (u.rank < n)) (ps.filter fun u => decide (u.rank < n + 1))
    rw [List.filter_filter, List.filter_filter] at cut
    have lower : (fun u : Thread => decide (u.rank < n) && decide (u.rank < n + 1)) = fun u => decide (u.rank < n) := by
      funext u; grind
    have at_n : (fun u : Thread => !decide (u.rank < n) && decide (u.rank < n + 1)) = fun u => u.rank == n := by
      funext u; grind
    rw [lower, at_n] at cut
    rw [← valuesIn_append, last]
    exact (ih.append_right _).trans ((List.map_append ▸ cut.map f))

variable (below : ∀ u ∈ ps, u.rank < 32)
include below

theorem valuesIn_all (f : Thread → Nat) : (valuesIn (laneVal ps f) 0 32).Perm (ps.map f) := by
  have all : (ps.filter fun u => decide (u.rank < 32)) = ps := List.filter_eq_self.2 fun u hu => decide_eq_true (below u hu)
  exact (valuesIn_perm one f 32).trans (by rw [all])

end Ranks

/-! ## GRED and SCAN of integers (R180) -/

theorem word_mod (n : Nat) : word (n % 2 ^ 32) = word n := BitVec.eq_of_toNat_eq (by simp [word])

/-- The leaves of the tree that a GRED or SCAN of integers forms. -/
def State.laneLeaves (s : State) (ps : List Thread) (ty : Ty) (a : Opd) : List Node :=
  (upto 32).map fun r => (ps.find? fun u => u.rank == r).map fun u => (s.rd u ty a, 0)

section Collective
variable {s : State} {ps : List Thread} {th : Thread} {x : X} {ty : Ty} (ht : ty = .s32 ∨ ty = .n32) {op : Aop} {a d c : Opd}

theorem laneLeaves_sumsUp {P : List Nat → Nat → Prop} (below : ∀ u ∈ ps, u.rank < 32)
    (single : ∀ u ∈ ps, P [s.rd u ty a] (s.rd u ty a)) (r : Nat) :
    Node.SumsUp P ((s.laneLeaves ps ty a).getD r none) (laneVal ps (fun u => s.rd u ty a) r).toList := by
  have leaf : (s.laneLeaves ps ty a).getD r none = (ps.find? fun u => u.rank == r).map fun u => (s.rd u ty a, 0) := by
    rcases Nat.lt_or_ge r 32 with h | h
    · exact getD_map_upto _ h none
    · have absent : (ps.find? fun u => u.rank == r) = none := List.find?_eq_none.2 fun u hu e => by
        have := below u hu
        have := beq_iff_eq.1 e
        omega
      rw [absent, State.laneLeaves, List.getD_eq_default _ _ (by simpa [upto] using h)]
      rfl
  rw [leaf, laneVal]
  cases h : ps.find? fun u => u.rank == r with
  | none => rfl
  | some u => exact ⟨rfl, single u (List.mem_of_find?_eq_some h)⟩

include ht

theorem rd_lt (u : Thread) : s.rd u ty a < 2 ^ 32 := by
  rcases ht with rfl | rfl <;> exact (s.rd32k u _ a).isLt

/-- The result that a tree's value gives a thread; `o` where no thread stands below it. -/
def laneResult (d : Opd) (o : LaneOut) : Node → LaneOut
  | some (v, f) => { laneRegs d [word v] with flags := f }
  | none => o

theorem laneOut_gred : ∃ ar, s.laneOut (.gred x op ty d a c) ps th =
    laneResult d (laneRegs d []) (treeReduce ar op ty (s.laneLeaves ps ty a)) := by
  rcases ht with rfl | rfl <;> exact ⟨_, rfl⟩

theorem laneOut_scan (excl : Bool) : ∃ ar, s.laneOut (.scan x op ty excl d a c) ps th =
    laneResult d (laneRegs d [word (laneIdentity op ty)]) (treeScan ar op ty (s.laneLeaves ps ty a) th.rank excl) := by
  rcases ht with rfl | rfl <;> exact ⟨_, rfl⟩

variable (one : (ps.map Thread.rank).Nodup) (below : ∀ u ∈ ps, u.rank < 32)
include one below

section Reduce
variable (present : th ∈ ps)
include present

theorem gred_gives {P : List Nat → Nat → Prop} (joins : ∀ ar, Joins ar op ty P) (single : ∀ u ∈ ps, P [s.rd u ty a] (s.rd u ty a)) :
    ∃ l v, l.Perm (ps.map fun u => s.rd u ty a) ∧ P l v ∧ s.laneOut (.gred x op ty d a c) ps th = laneRegs d [word v] := by
  obtain ⟨ar, result⟩ := laneOut_gred (s := s) (ps := ps) (th := th) (x := x) (a := a) (d := d) (c := c) (op := op) ht
  have root := treeReduce_sumsUp (joins ar) (laneLeaves_sumsUp below single)
  have values := valuesIn_all one below fun u => s.rd u ty a
  rw [result]
  generalize treeReduce ar op ty (s.laneLeaves ps ty a) = n at root ⊢
  cases n with
  | none =>
    rw [show valuesIn _ 0 32 = [] from root, List.nil_perm, List.map_eq_nil_iff] at values
    rw [values] at present
    exact absurd present List.not_mem_nil
  | some r =>
    obtain ⟨v, f⟩ := r
    obtain ⟨rfl, sums⟩ := root
    exact ⟨_, v, values, sums, rfl⟩

theorem gred_add : s.laneOut (.gred x .add ty d a c) ps th = laneRegs d [word ((ps.map fun u => s.rd u ty a).sum)] := by
  have single (u : Thread) : s.rd u ty a = [s.rd u ty a].sum % 2 ^ 32 := by
    rw [List.sum_singleton, Nat.mod_eq_of_lt (rd_lt ht u)]
  obtain ⟨l, v, perm, rfl, result⟩ :=
    gred_gives (x := x) (d := d) (c := c) ht one below present (joins_add ht) fun u _ => single u
  rw [result, word_mod, perm.sum_eq]

/-- What GRED picks by an order is one thread's value, which stands in that order to every other one's. -/
theorem gred_extreme {R : Int → Int → Prop} (refl : ∀ z, R z z)
    (joins : ∀ ar, Joins ar op ty fun l v => v ∈ l ∧ ∀ y ∈ l, R (tyInt ty v) (tyInt ty y)) :
    ∃ u ∈ ps, s.laneOut (.gred x op ty d a c) ps th = laneRegs d [word (s.rd u ty a)] ∧
      ∀ v ∈ ps, R (tyInt ty (s.rd u ty a)) (tyInt ty (s.rd v ty a)) := by
  obtain ⟨l, v, perm, ⟨mem, extreme⟩, result⟩ :=
    gred_gives (s := s) (x := x) (a := a) (d := d) (c := c) ht one below present joins fun u _ =>
      ⟨List.mem_singleton_self _, fun y hy => by rw [List.mem_singleton.1 hy]; exact refl _⟩
  obtain ⟨u, hu, rfl⟩ := List.mem_map.1 (perm.mem_iff.1 mem)
  exact ⟨u, hu, result, fun v hv => extreme _ (perm.mem_iff.2 (List.mem_map_of_mem hv))⟩

theorem gred_bits {f : List Bool → Bool} (perm : ∀ {l m : List Bool}, l.Perm m → f l = f m) (id : ∀ b, f [b] = b)
    (joins : ∀ ar, Joins ar op ty fun l v => ∀ k, v.testBit k = f (l.map fun y => y.testBit k)) :
    ∃ w, s.laneOut (.gred x op ty d a c) ps th = laneRegs d [w] ∧
      ∀ k, k < 32 → w.getLsbD k = f (ps.map fun u => (s.rd u ty a).testBit k) := by
  obtain ⟨l, v, same, bits, result⟩ :=
    gred_gives (s := s) (x := x) (a := a) (d := d) (c := c) ht one below present joins fun u _ k => (id _).symm
  refine ⟨word v, result, fun k hk => ?_⟩
  have values := perm (same.map fun y => y.testBit k)
  rw [List.map_map] at values
  rw [word, BitVec.getLsbD_ofNat, decide_eq_true hk, Bool.true_and, bits, values]
  rfl

end Reduce

theorem scan_add (small : th.rank < 32) (excl : Bool) : s.laneOut (.scan x .add ty excl d a c) ps th =
    laneRegs d [word (((ps.filter fun u => decide (u.rank < th.rank) || (!excl && u.rank == th.rank)).map fun u =>
      s.rd u ty a).sum)] := by
  obtain ⟨ar, result⟩ := laneOut_scan (s := s) (ps := ps) (th := th) (x := x) (a := a) (d := d) (c := c) (op := .add) ht excl
  have sums := treeScan_sumsUp (joins_add ht ar) (laneLeaves_sumsUp (s := s) (ty := ty) (a := a) below fun u _ => by
    rw [List.sum_singleton, Nat.mod_eq_of_lt (rd_lt ht u)]) small excl
  have values := valuesIn_perm one (fun u => s.rd u ty a) (if excl then th.rank else th.rank + 1)
  have which : (fun u : Thread => decide (u.rank < if excl then th.rank else th.rank + 1)) =
      fun u => decide (u.rank < th.rank) || (!excl && u.rank == th.rank) := by
    funext u
    cases excl <;> grind
  rw [which] at values
  rw [result, ← values.sum_eq]
  generalize treeScan ar .add ty (s.laneLeaves ps ty a) th.rank excl = n at sums ⊢
  cases n with
  | none =>
    rw [show valuesIn _ 0 _ = [] from sums]
    rfl
  | some r =>
    obtain ⟨v, f⟩ := r
    obtain ⟨rfl, rfl⟩ := sums
    exact congrArg (fun w => laneRegs d [w]) (word_mod _)

end Collective

/-! ## SHFL (R178) -/

/-- The rank that SHFL names in segments of `w` ranks. -/
def shflSource (m : ShflMode) (w rank k : Nat) : Option Nat := match m with
  | .idx => some (rank / w * w + k % w)
  | .up => if k ≤ rank % w then some (rank - k) else none
  | .down => if rank % w + k < w then some (rank + k) else none
  | .xor => if k < w then some (rank ^^^ k) else none

theorem shflFrom_source (m : ShflMode) {seg : Fin 8} (rank k : Nat) :
    (if (shflFrom m seg rank k).2 then some (shflFrom m seg rank k).1 else none) = shflSource m (32 / 2 ^ seg.val) rank k := by
  generalize hw : 32 / 2 ^ seg.val = w
  have base : rank - rank % w = rank / w * w := by
    have := Nat.div_add_mod' rank w
    omega
  have split := Nat.div_add_mod' rank w
  cases m <;> simp only [shflFrom, shflSource, hw, base, decide_eq_true_eq]
  · rfl
  · exact if_congr (by omega) rfl rfl
  · exact if_congr (by omega) rfl rfl

section Shuffle
variable {s : State} {ps : List Thread} {th : Thread} {x : X} {m : ShflMode} {seg : Fin 8} {ty : Ty} {d a c e : Opd}

/-- SHFL reads from the thread that its mode names, if that is present, and else from the thread itself. -/
theorem laneOut_shfl : s.laneOut (.shfl x m seg ty d c a e) ps th = laneRegs d (s.rdRun
    (((shflSource m (32 / 2 ^ seg.val) th.rank (s.rd32 th a).toNat).bind fun r => ps.find? fun u => u.rank == r).getD th) ty c
    (opLen ty)) := by
  rw [← shflFrom_source]
  show laneRegs d (s.rdRun (if (shflFrom m seg th.rank (s.rd32 th a).toNat).2 then
    (ps.find? fun u => u.rank == (shflFrom m seg th.rank (s.rd32 th a).toNat).1).getD th else th) ty c (opLen ty)) = _
  split <;> rfl

end Shuffle

/-! ## VOTE, BALLOT, MATCH and COMPACT (R179) -/

section Counts
variable {s : State} {ps : List Thread} {th : Thread} {x : X} {p : Fin 8} {b : Psel} {d c : Opd}

theorem laneOut_compact : s.laneOut (.compact x d b c) ps th =
    laneRegs d [word (ps.countP fun u => u.psel b && decide (u.rank < th.rank)), word (ps.countP fun u => u.psel b)] := by
  have lower : (ps.filter fun u => u.psel b).filter (fun u => decide (u.rank < th.rank)) =
      ps.filter fun u => u.psel b && decide (u.rank < th.rank) := by
    rw [List.filter_filter]
    exact List.filter_congr fun u _ => Bool.and_comm ..
  rw [List.countP_eq_length_filter, List.countP_eq_length_filter, ← lower]
  rfl

/-- A mask of ranks has the bits of the ranks of the threads that `f` selects. -/
theorem getLsbD_ranksWhere (below : ∀ u ∈ ps, u.rank < 32) (f : Thread → Bool) (k : Nat) :
    (rankMask ((ps.filter f).map Thread.rank)).getLsbD k = ps.any fun u => u.rank == k && f u := by
  rw [getLsbD_rankMask, Bool.eq_iff_iff, decide_eq_true_iff, List.any_eq_true]
  simp only [List.mem_map, List.mem_filter, Bool.and_eq_true, beq_iff_eq]
  constructor
  · rintro ⟨-, u, ⟨hu, hf⟩, rank⟩
    exact ⟨u, hu, rank, hf⟩
  · rintro ⟨u, hu, rank, hf⟩
    exact ⟨rank ▸ below u hu, u, ⟨hu, hf⟩, rank⟩

end Counts

/-! ## The statement -/

/-- Settles O24: SHFL by the rank it names, the counts and masks by their threads, GRED and SCAN by what their tree sums up. -/
theorem laneResults : Obligations.LaneResults := by
  intro s ps th x a b c d e p present below one
  refine ⟨fun m seg _ k hk => ?shfl, fun n hn => ?counts, ⟨_, rfl, getLsbD_ranksWhere below _⟩,
    fun ty => ⟨_, rfl, getLsbD_ranksWhere below _⟩, fun ty ht => ⟨gred_add ht one below present,
      scan_add ht one below (below th present), fun op hop => ?extreme, fun op hop => ?bits⟩⟩
  case shfl =>
    intro w src ty len type
    have out : s.laneOut (.shfl x m seg ty d c a e) ps th =
        laneRegs d (s.rdRun ((src.bind fun r => ps.find? fun u => u.rank == r).getD th) ty c len) := by
      have length : opLen ty = len := by
        simp only [List.mem_cons, Prod.mk.injEq, List.not_mem_nil, or_false] at type
        rcases type with ⟨rfl, rfl⟩ | ⟨rfl, rfl⟩ <;> rfl
      rw [laneOut_shfl, hk, length]
      cases m <;> rfl
    refine ⟨fun u hu named => ?_, fun away => ?_⟩
    · rw [out, named, Option.bind_some, find_rank one hu]
      rfl
    · have absent : (src.bind fun r => ps.find? fun u => u.rank == r) = none :=
        Option.bind_eq_none_iff.2 fun r hr => List.find?_eq_none.2 fun u hu e =>
          away u hu (hr.trans (congrArg some (beq_iff_eq.1 e).symm))
      rw [out, absent]
      rfl
  case counts =>
    subst hn
    refine ⟨?_, ?_, ?_, laneOut_compact⟩ <;> rw [List.countP_eq_length_filter]
    · rfl
    · rfl
    · exact congrArg (fun v => some (p, v)) (Bool.decide_or _ _).symm
  case extreme =>
    rcases hop with rfl | rfl
    · exact gred_extreme (R := fun y z => y ≤ z) ht one below present le_refl (joins_min ht)
    · exact gred_extreme (R := fun y z => z ≤ y) ht one below present le_refl (joins_max ht)
  case bits =>
    rcases hop with rfl | rfl | rfl
    · obtain ⟨w, out, bits⟩ := gred_bits (x := x) (d := d) (c := c) (f := fun l => l.all id) ht one below present List.Perm.all_eq
        (fun b => Bool.and_true b) (joins_and ht)
      exact ⟨w, out, fun k hk => (bits k hk).trans List.all_map⟩
    · obtain ⟨w, out, bits⟩ := gred_bits (x := x) (d := d) (c := c) (f := fun l => l.any id) ht one below present List.Perm.any_eq
        (fun b => Bool.or_false b) (joins_or ht)
      exact ⟨w, out, fun k hk => (bits k hk).trans List.any_map⟩
    · obtain ⟨w, out, bits⟩ := gred_bits (x := x) (d := d) (c := c) (f := fun l => l.countP id % 2 == 1) ht one below present
        (fun h => by rw [h.countP_eq]) (fun b => by cases b <;> rfl) (joins_xor ht)
      exact ⟨w, out, fun k hk => (bits k hk).trans (by rw [List.countP_map]; rfl)⟩

end Sys2Proof.Machine
end

section
/-!
PROOFS. The order of a REORDER's participants and the groups they form (R189, R191).
-/

namespace Sys2Proof.Machine

/-! ## Sorting -/

theorem insertKey_sorted {α : Type} (x : Nat × α) {l : List (Nat × α)} (h : l.Pairwise fun a b => a.1 ≤ b.1) :
    (insertKey x l).Pairwise fun a b => a.1 ≤ b.1 := by
  induction l with
  | nil => exact List.pairwise_singleton ..
  | cons y l ih =>
    obtain ⟨first, rest⟩ := List.pairwise_cons.1 h
    rw [insertKey]
    split
    case isTrue lt =>
      refine List.pairwise_cons.2 ⟨List.forall_mem_cons.2 ⟨lt.le, fun z hz => ?_⟩, h⟩
      exact lt.le.trans (first z hz)
    case isFalse ge =>
      refine List.pairwise_cons.2 ⟨fun z hz => ?_, ih rest⟩
      rcases List.mem_cons.1 ((insertKey_perm x l).mem_iff.1 hz) with rfl | hz
      · exact Nat.le_of_not_lt ge
      · exact first z hz

theorem sortKey_sorted {α : Type} (l : List (Nat × α)) : (sortKey l).Pairwise fun a b => a.1 ≤ b.1 := by
  suffices ∀ acc : List (Nat × α), acc.Pairwise (fun a b => a.1 ≤ b.1) →
      (l.foldl (fun acc x => insertKey x acc) acc).Pairwise fun a b => a.1 ≤ b.1 from this [] List.Pairwise.nil
  induction l with
  | nil => exact fun _ h => h
  | cons x l ih => exact fun acc h => ih _ (insertKey_sorted x h)

/-! ## Lists of keys -/

theorem nodup_eraseDups {α : Type} [BEq α] [LawfulBEq α] (l : List α) : l.eraseDups.Nodup := by
  induction h : l.length using Nat.strong_induction_on generalizing l with
  | _ n ih =>
    cases l with
    | nil => exact List.nodup_nil
    | cons a l =>
      rw [List.eraseDups_cons, List.nodup_cons]
      refine ⟨fun mem => ?_, ih _ ?_ _ rfl⟩
      · simpa using (List.mem_filter.1 (List.mem_eraseDups.1 mem)).2
      · exact h ▸ Nat.lt_succ_of_le (List.length_filter_le ..)

/-- A list with one value alone, any number of times. -/
theorem length_eraseDups_eq_one {α : Type} [BEq α] [LawfulBEq α] {l : List α} :
    l.eraseDups.length = 1 ↔ l ≠ [] ∧ ∀ a ∈ l, ∀ b ∈ l, a = b := by
  rw [List.length_eq_one_iff]
  constructor
  · rintro ⟨a, ha⟩
    have only : ∀ b ∈ l, b = a := fun b hb => List.mem_singleton.1 (ha ▸ List.mem_eraseDups.2 hb)
    refine ⟨?_, fun b hb c hc => (only b hb).trans (only c hc).symm⟩
    rintro rfl
    exact nomatch ha
  · rintro ⟨some, same⟩
    obtain ⟨a, l, rfl⟩ := List.exists_cons_of_ne_nil some
    have none : (l.filter fun b => !b == a) = [] := List.filter_eq_nil_iff.2 fun b hb => by
      simpa using same b (List.mem_cons_of_mem a hb) a List.mem_cons_self
    exact ⟨a, by rw [List.eraseDups_cons, none, List.eraseDups_nil]⟩

/-- The members of each key, key by key, are those that have one of the keys. -/
theorem flatMap_filter_perm {β : Type} (l : List (Nat × β)) {keys : List Nat} (one : keys.Nodup) :
    (keys.flatMap fun k => l.filter fun p => p.1 == k).Perm (l.filter fun p => decide (p.1 ∈ keys)) := by
  induction keys with
  | nil => simp
  | cons k keys ih =>
    obtain ⟨new, one⟩ := List.nodup_cons.1 one
    have cut := List.filter_append_perm (fun p : Nat × β => p.1 == k) (l.filter fun p => decide (p.1 ∈ k :: keys))
    rw [List.filter_filter, List.filter_filter] at cut
    have here : (fun p : Nat × β => p.1 == k && decide (p.1 ∈ k :: keys)) = fun p => p.1 == k := by
      funext p; grind
    have there : (fun p : Nat × β => !p.1 == k && decide (p.1 ∈ k :: keys)) = fun p => decide (p.1 ∈ keys) := by
      funext p; grind
    rw [here, there] at cut
    rw [List.flatMap_cons]
    exact ((ih one).append_left _).trans cut

/-! ## Cutting a list into groups of 32 -/

section Chunks
variable {α : Type}

@[simp] theorem chunks_nil (n : Nat) : chunks n ([] : List α) = [] := by cases n <;> rfl

theorem chunks_cons (n : Nat) {l : List α} (h : l ≠ []) : chunks (n + 1) l = l.take 32 :: chunks n (l.drop 32) :=
  if_neg (by simpa using h)

theorem chunks_flatten (n : Nat) : ∀ l : List α, (chunks n l).flatten = l.take (n * 32) := by
  induction n with
  | zero => intro l; rw [Nat.zero_mul, List.take_zero]; rfl
  | succ n ih =>
    intro l
    by_cases h : l = []
    · rw [h, chunks_nil, List.take_nil]; rfl
    · rw [chunks_cons n h, List.flatten_cons, ih, show (n + 1) * 32 = 32 + n * 32 by ring, List.take_add]

theorem chunks_mem (n : Nat) : ∀ l : List α, ∀ m ∈ chunks n l, m ≠ [] ∧ m.length ≤ 32 := by
  induction n with
  | zero => exact fun _ _ h => nomatch h
  | succ n ih =>
    intro l m hm
    by_cases h : l = []
    · rw [h, chunks_nil] at hm
      exact nomatch hm
    · rw [chunks_cons n h] at hm
      rcases List.mem_cons.1 hm with rfl | hm
      · exact ⟨by simpa using h, List.length_take_le ..⟩
      · exact ih _ m hm

/-- Where there are enough entries, every piece is whole. -/
theorem chunks_full (n : Nat) : ∀ l : List α, n * 32 ≤ l.length → (chunks n l).length = n ∧ ∀ m ∈ chunks n l, m.length = 32 := by
  induction n with
  | zero => exact fun _ _ => ⟨rfl, fun _ h => nomatch h⟩
  | succ n ih =>
    intro l enough
    have h : l ≠ [] := by rintro rfl; simp at enough
    obtain ⟨count, whole⟩ := ih (l.drop 32) (by rw [List.length_drop]; omega)
    rw [chunks_cons n h]
    refine ⟨congrArg (· + 1) count, List.forall_mem_cons.2 ⟨?_, whole⟩⟩
    rw [List.length_take]
    omega

/-- Every piece but the last is whole. -/
theorem chunks_dropLast (n : Nat) : ∀ l : List α, ∀ m ∈ (chunks n l).dropLast, m.length = 32 := by
  induction n with
  | zero => exact fun _ _ h => nomatch h
  | succ n ih =>
    intro l m hm
    by_cases h : l = []
    · rw [h, chunks_nil] at hm
      exact nomatch hm
    rw [chunks_cons n h] at hm
    by_cases rest : l.drop 32 = []
    · rw [rest, chunks_nil] at hm
      exact nomatch hm
    by_cases last : chunks n (l.drop 32) = []
    · rw [last] at hm
      exact nomatch hm
    · rw [List.dropLast_cons_of_ne_nil last] at hm
      rcases List.mem_cons.1 hm with rfl | hm
      · have more := List.length_pos_of_ne_nil rest
        rw [List.length_drop] at more
        rw [List.length_take]
        omega
      · exact ih _ m hm

end Chunks

/-! ## The new groups (R191) -/

/-- The members that share a key. -/
def membersOf (l : List (Nat × Nat)) (k : Nat) : List Nat := (l.filter fun p => p.1 == k).map Prod.snd

/-- The full groups of each key. -/
def fullRods (l : List (Nat × Nat)) : List (List Nat) :=
  (l.map Prod.fst).eraseDups.flatMap fun k => chunks ((membersOf l k).length / 32) (membersOf l k)

/-- The members that no full group takes, key by key. -/
def leftOver (l : List (Nat × Nat)) : List Nat :=
  (l.map Prod.fst).eraseDups.flatMap fun k => (membersOf l k).drop ((membersOf l k).length / 32 * 32)

section Rods
variable (l : List (Nat × Nat))

theorem rodGroups_eq : rodGroups l = fullRods l ++ chunks (leftOver l).length (leftOver l) := by
  simp only [rodGroups, List.flatMap_map]
  rfl

theorem fullRods_length : (fullRods l).length = ((l.map Prod.fst).eraseDups.map fun k => (membersOf l k).length / 32).sum := by
  rw [fullRods, List.length_flatMap]
  congr 1
  exact List.map_congr_left fun k _ => (chunks_full _ _ (Nat.div_mul_le_self ..)).1

theorem fullRods_whole : ∀ m ∈ fullRods l, m.length = 32 := by
  intro m hm
  obtain ⟨k, -, hm⟩ := List.mem_flatMap.1 hm
  exact (chunks_full _ _ (Nat.div_mul_le_self ..)).2 m hm

theorem fullRods_flatten : (fullRods l).flatten =
    (l.map Prod.fst).eraseDups.flatMap fun k => (membersOf l k).take ((membersOf l k).length / 32 * 32) := by
  rw [fullRods, ← List.flatMap_id, List.flatMap_assoc]
  simp only [List.flatMap_id, chunks_flatten]

theorem leftOver_chunks : (chunks (leftOver l).length (leftOver l)).flatten = leftOver l := by
  rw [chunks_flatten, List.take_of_length_le (by omega)]

theorem rodGroups_perm : (rodGroups l).flatten.Perm (l.map Prod.snd) := by
  have keys : (l.filter fun p => decide (p.1 ∈ (l.map Prod.fst).eraseDups)) = l := List.filter_eq_self.2 fun p hp =>
    decide_eq_true (List.mem_eraseDups.2 (List.mem_map_of_mem hp))
  have members := (flatMap_filter_perm l (nodup_eraseDups (l.map Prod.fst))).map Prod.snd
  rw [keys, List.map_flatMap] at members
  rw [rodGroups_eq, List.flatten_append, fullRods_flatten, leftOver_chunks, leftOver]
  refine (List.flatMap_append_perm ..).trans ?_
  simp only [List.take_append_drop]
  exact members

theorem rodGroups_mem : ∀ m ∈ rodGroups l, m ≠ [] ∧ m.length ≤ 32 := by
  intro m hm
  rw [rodGroups_eq] at hm
  rcases List.mem_append.1 hm with hm | hm
  · have whole := fullRods_whole l m hm
    exact ⟨List.ne_nil_of_length_pos (by omega), whole.le⟩
  · exact chunks_mem _ _ m hm

theorem rodGroups_dropLast : ∀ m ∈ (rodGroups l).dropLast, m.length = 32 := by
  intro m hm
  rw [rodGroups_eq] at hm
  by_cases none : chunks (leftOver l).length (leftOver l) = []
  · rw [none, List.append_nil] at hm
    exact fullRods_whole l m (List.mem_of_mem_dropLast hm)
  · rw [List.dropLast_append_of_ne_nil none] at hm
    rcases List.mem_append.1 hm with hm | hm
    · exact fullRods_whole l m hm
    · exact chunks_dropLast _ _ m hm

theorem rodGroups_take : ((rodGroups l).take (fullRods l).length).flatten = (fullRods l).flatten := by
  rw [rodGroups_eq, List.take_left]

theorem rodGroups_drop : ((rodGroups l).drop (fullRods l).length).flatten = leftOver l := by
  rw [rodGroups_eq, List.drop_left, leftOver_chunks]

end Rods

end Sys2Proof.Machine
end

section
/-!
PROOFS. REORDER from its issue to its completion (R185 to R189).
-/

namespace Sys2Proof.Machine

/-! ## The issue of a REORDER (R187, R188) -/

section Reorder
variable {s : State} {th : Thread} {x : X} {core : Bool} {n : Fin 8} {key b : Opd} {kind : KindSel} {colours : Byte}

/-- What keeps a thread from its REORDER: a call, an open signature or merge register, a cluster without REO, no mapped point. -/
def State.reorderBars (s : State) (th : Thread) (core : Bool) (n : Fin 8) (b : Opd) : Prop :=
  th.depth ≠ 0 ∨ (∃ c ∈ (s.group th.group).g.toList, hasBit c.signed th.rank = true) ∨
    (∃ m ∈ (s.team th.team).merge, m ≠ .closed) ∨ (core = false ∧ s.reoSet th = false) ∨ s.reorderPoint th b (n.val + 1) = none

theorem reorderBars_iff : s.reorderBars th core n b ↔ (th.depth != 0) = true ∨
    ((s.group th.group).g.toList.any fun c => hasBit c.signed th.rank) = true ∨
    ((s.team th.team).merge.any fun m => m != .closed) = true ∨ (!core && !s.reoSet th) = true ∨
    s.reorderPoint th b (n.val + 1) = none := by
  simp only [State.reorderBars, bne_iff_ne, List.any_eq_true, Bool.and_eq_true, Bool.not_eq_true']

variable (h : s.Runs th (.reorder x core n key b kind colours))
include h

theorem reorder_waits (busy : th.flagBits ≠ 0) : s.Ends (.reorder x core n key b kind colours) th s (.wait .flags) := by
  have hg : th.psel x.g = true := h.guard
  exact ends_issueG h.toIssues rfl (by rw [hg]; exact if_pos (bne_iff_ne.2 busy))

variable (idle : th.flagBits = 0)
include idle

theorem reorder_traps (bad : s.reorderBars th core n b) :
    s.Ends (.reorder x core n key b kind colours) th s (.trap .reorderState 0) := by
  have hg : th.psel x.g = true := h.guard
  refine ends_issueG h.toIssues rfl ?_
  rw [reorderBars_iff] at bad
  simp only [hg, idle]
  refine (if_neg Bool.false_ne_true).trans ((if_neg Bool.false_ne_true).trans ?_)
  split
  · rfl
  next depth =>
  split
  · rfl
  next signs =>
  split
  · rfl
  next merges =>
  split
  · rfl
  next reo =>
  split
  · rfl
  next point =>
    rw [point] at bad
    exact absurd bad (not_or.2 ⟨depth, not_or.2 ⟨signs, not_or.2 ⟨merges, not_or.2 ⟨reo, fun e => nomatch e⟩⟩⟩⟩)

theorem reorder_arrives (good : ¬s.reorderBars th core n b) {e : EqpRec} {k : Nat}
    (point : s.reorderPoint th b (n.val + 1) = some (e, k)) :
    let z := s.flushPoint th.id false none none
    let y := z.1.publish (z.1.hostOf th) (if core then .team else .clu) colours
    let r : ReorderRec := { core := core, key := s.rd32 th key, kbase := k, payload := s.rdRun th .b32 b (n.val + 1),
                            kind := kind, colours := colours, point := e, portable := th.portable,
                            parts := y.reorderParts th core, flush := z.2 }
    s.Ends (.reorder x core n key b kind colours) th
      ((y.modTh th.id fun u => { u with hold := .reorder, reorder := some r }).reorderCheck th.id) .gone := by
  have hg : th.psel x.g = true := h.guard
  refine ends_issueG h.toIssues rfl ?_
  rw [reorderBars_iff] at good
  simp only [not_or] at good
  obtain ⟨depth, signs, merges, reo, -⟩ := good
  simp only [hg, idle, point, if_neg depth, if_neg signs, if_neg merges, if_neg reo]
  rfl

end Reorder

/-! ## The arrival of the last participant (R186) -/

section Check
variable {q : State} {t : Nat} {r : ReorderRec} (waits : (q.th t).reorder = some r)
include waits

theorem reorderCheck_early (early : ∃ u ∈ q.parts r, ¬(u.hold = .reorder ∧ u.reorder.map ReorderRec.core = some r.core)) :
    q.reorderCheck t = q := by
  simp only [State.reorderCheck, waits]
  refine if_pos ?_
  rw [Bool.not_eq_true', List.all_eq_false]
  simpa using early

theorem reorderCheck_goes (all : ∀ u ∈ q.parts r, (u.hold = .reorder ∧ u.reorder.map ReorderRec.core = some r.core) ∧
    (q.team u.team).state = .resident) : q.reorderCheck t = q.reorderGo (q.parts r) := by
  have here : ((q.parts r).all fun u => u.hold == Hold.reorder && (u.reorder.map ReorderRec.core) == some r.core) = true :=
    List.all_eq_true.2 fun u hu => by
      obtain ⟨⟨hold, kind⟩, -⟩ := all u hu
      rw [hold, kind, beq_self_eq_true, beq_self_eq_true]
      rfl
  have away : ((q.parts r).filter fun u => (q.team u.team).state != .resident) = [] := List.filter_eq_nil_iff.2 fun u hu => by
    simpa using (all u hu).2
  simp only [State.reorderCheck, waits, here, away]
  rfl

end Check

/-! ## The completion (R189) -/

section Go
variable {q : State} {ps : List Thread}

/-- The state in which the deferred reductions of all participants are closed. -/
def State.reorderSettled (q : State) (ps : List Thread) : State :=
  q.closeSilently (ps.filterMap fun u => u.reorder.map ReorderRec.flush)

/-- A REORDER that fails as a whole: every participant takes 0x31 with the address `a` at its REORDER. -/
def State.reorderFails (q : State) (ps : List Thread) (a : Nat) : State :=
  ps.foldl (fun z u => z.enterFor u.id)
    (ps.foldl (fun z u => (z.modTh u.id fun v => { v with hold := .none, reorder := none }).raise u.id
      (plainTrap .reorderState (dword a) u.pc true (q.nextId * 8))) (q.reorderSettled ps))

/-- The resumption points of the participants. -/
def reorderPoints (ps : List Thread) : List EqpRec := ps.filterMap fun u => u.reorder.map ReorderRec.point

/-- The new groups, from the participants sorted by key and `%tid`. -/
def reorderRods (ps : List Thread) : List (List Nat) :=
  rodGroups ((sortKey (ps.map fun u => ((((u.reorder.map ReorderRec.key).getD 0).toNat * 2 ^ 64 + u.tid.toNat), u.id))).map
    fun p => (p.1 / 2 ^ 64, p.2))

theorem reorderGo_apart (apart : ∃ e ∈ reorderPoints ps, ∃ f ∈ reorderPoints ps, e ≠ f) :
    q.reorderGo ps = q.reorderFails ps 1 := by
  have several : (reorderPoints ps).eraseDups.length ≠ 1 := fun one => by
    obtain ⟨e, he, f, hf, differ⟩ := apart
    exact differ ((length_eraseDups_eq_one.1 one).2 e he f hf)
  exact if_pos (bne_iff_ne.2 several)

variable {e : EqpRec} (arrived : reorderPoints ps ≠ []) (same : ∀ f ∈ reorderPoints ps, f = e)
include arrived same

theorem reorderPoints_one : (reorderPoints ps).eraseDups.length = 1 :=
  length_eraseDups_eq_one.2 ⟨arrived, fun f hf g hg => (same f hf).trans (same g hg).symm⟩

theorem reorderGo_noCore (lacking : ∃ m ∈ reorderRods ps, q.rodCores m = []) : q.reorderGo ps = q.reorderFails ps 2 := by
  refine (if_neg fun several => bne_iff_ne.1 several (reorderPoints_one arrived same)).trans (if_pos ?_)
  obtain ⟨m, hm, empty⟩ := lacking
  exact List.any_eq_true.2 ⟨m, hm, List.isEmpty_iff.2 empty⟩

theorem reorderGo_forms (cores : ∀ m ∈ reorderRods ps, q.rodCores m ≠ []) :
    let old := (ps.map Thread.group).eraseDups
    let made := ((reorderRods ps).map fun m => (m, (q.reorderSettled ps).rodCores m)).zipIdx.foldl (fun (z : State × List Nat) p =>
      ((z.1.makeRod p.1.1 p.1.2 p.2).1, z.2 ++ [(z.1.makeRod p.1.1 p.1.2 p.2).2]))
      (old.foldl (fun z g => z.publishCore (z.group g).core 0xFF) (q.reorderSettled ps), [])
    q.reorderGo ps = made.2.foldl State.placeRod (old.foldl State.dissolve made.1) := by
  refine (if_neg fun several => bne_iff_ne.1 several (reorderPoints_one arrived same)).trans (if_neg fun lacking => ?_)
  obtain ⟨m, hm, empty⟩ := List.any_eq_true.1 lacking
  exact cores m hm (List.isEmpty_iff.1 empty)

end Go

end Sys2Proof.Machine
end

section
/-!
PROOFS. The beads of a REORDER and their places (R190, R192, R193).
-/

namespace Sys2Proof.Machine

/-! ## A bead in its store (R189, R190) -/

/-- The part of the state that the storage of a bead leaves as it is. -/
def State.seating (s : State) : List Thread × List Group × Holdings := (s.threads, s.groups, s.holdings)

section Beads
variable {s : State} {t : Nat}

theorem saveWrite_keeps (c : Context) (off : Nat) (bs : List Byte) :
    ((s.saveWrite c off bs).seating, (s.saveWrite c off bs).beads) = (s.seating, s.beads) := by
  have home (s : State) (pa : Nat) : ((s.homeWrite pa bs).seating, (s.homeWrite pa bs).beads) = (s.seating, s.beads) := by
    unfold State.homeWrite
    split <;> rfl
  exact (home _ _).trans (home s _)

theorem once_keeps (i : Instr) : ((s.once i).seating, (s.once i).beads) = (s.seating, s.beads) := by
  unfold State.once
  split <;> rfl

theorem areaFreed_keeps (ctx : Nat) : ((s.areaFreed ctx).seating, (s.areaFreed ctx).beads) = (s.seating, s.beads) :=
  foldl_view (π := fun z : State => (z.seating, z.beads)) (fun z c => once_keeps (s := z.modCore c.id _) _) _ s

/-- A bead that may have been given a range of the save area. -/
def Bead.stored (t : Nat) (o : Nat) (b : Bead) : Bead := if b.thread == t then { b with spill := some o } else b

/-- A new bead stays in its store, or is written to a range of the save area. -/
theorem storeBead_cases (s : State) (t : Nat) : s.storeBead t = s ∨ ∃ c off bs,
    s.storeBead t = { s.saveWrite c off bs with beads := (s.saveWrite c off bs).beads.map (Bead.stored t off) } := by
  unfold State.storeBead
  split
  · exact .inl rfl
  dsimp only
  split
  · exact .inl rfl
  split
  · exact .inl rfl
  · exact .inr ⟨_, _, _, rfl⟩

theorem spilled_keeps {s z : State} (keeps : (z.seating, z.beads) = (s.seating, s.beads)) (t off : Nat) :
    let y : State := { z with beads := z.beads.map (Bead.stored t off) }
    y.seating = s.seating ∧ (y.beads = s.beads ∨ ∃ o, y.beads = s.beads.map (Bead.stored t o)) := by
  obtain ⟨seating, beads⟩ := Prod.mk.inj keeps
  exact ⟨seating, .inr ⟨off, congrArg (List.map (Bead.stored t off)) beads⟩⟩

theorem storeBead_keeps (s : State) (t : Nat) : (s.storeBead t).seating = s.seating ∧
    ((s.storeBead t).beads = s.beads ∨ ∃ o, (s.storeBead t).beads = s.beads.map (Bead.stored t o)) := by
  rcases storeBead_cases s t with same | ⟨c, off, bs, spilled⟩
  · rw [same]
    exact ⟨rfl, .inl rfl⟩
  · rw [spilled]
    exact spilled_keeps (saveWrite_keeps c off bs) t off

theorem storeBead_find {b : Bead} (found : s.beads.find? (fun x => x.thread == t) = some b) :
    ∃ b', (s.storeBead t).beads.find? (fun x => x.thread == t) = some b' ∧ { b' with spill := b.spill } = b := by
  rcases (storeBead_keeps s t).2 with same | ⟨o, spilled⟩
  · exact ⟨b, by rw [same, found], rfl⟩
  · have key : (fun x : Bead => x.thread == t) ∘ Bead.stored t o = fun x => x.thread == t := by
      funext x
      by_cases h : x.thread = t <;> simp [Bead.stored, h]
    have own : b.thread = t := by simpa using List.find?_some found
    refine ⟨Bead.stored t o b, by rw [spilled, List.find?_map, key, found]; rfl, ?_⟩
    subst own
    simp [Bead.stored]

theorem dropBead_keeps (t : Nat) : ((s.dropBead t).seating, (s.dropBead t).beads) =
    (s.seating, s.beads.filter fun b => b.thread != t) := by
  unfold State.dropBead
  dsimp only
  split
  · exact areaFreed_keeps _
  · rfl

end Beads

/-! ## A participant becomes a bead (R190, R191) -/

/-- The bead of a thread, from what its REORDER recorded. -/
def ReorderRec.bead (r : ReorderRec) (t : Nat) : Bead :=
  { spill := none, thread := t, key := r.key.toNat, eqp := r.point.num, kbase := r.kbase, payload := r.payload
    fromPortable := r.portable }

/-- A thread that waits as a bead at a position of a new group. -/
def Thread.asBead (g n : Nat) (u : Thread) : Thread :=
  { u with group := g, rank := n, hold := .bead, clause := none, entered := false }

section MakeBead
variable {q : State} {g t n : Nat} {u : Thread} {r : ReorderRec} (stands : q.thread? t = some u) (waits : u.reorder = some r)
include stands waits

theorem makeBead_eq : q.makeBead g t n =
    ({ q.modTh t (Thread.asBead g n) with beads := q.beads ++ [r.bead t] } : State).storeBead t := by
  simp only [State.makeBead, th_of stands, waits, id_of_thread stands]
  rfl

theorem makeBead_threads : (q.makeBead g t n).threads = (q.modTh t (Thread.asBead g n)).threads := by
  rw [makeBead_eq stands waits]
  exact congrArg Prod.fst (storeBead_keeps _ t).1

theorem makeBead_find (fresh : ∀ b ∈ q.beads, b.thread ≠ t) :
    ∃ b, (q.makeBead g t n).beads.find? (fun b => b.thread == t) = some b ∧ b.key = r.key.toNat ∧ b.eqp = r.point.num ∧
      b.kbase = r.kbase ∧ b.payload = r.payload ∧ b.fromPortable = r.portable := by
  have absent : q.beads.find? (fun b => b.thread == t) = none := List.find?_eq_none.2 fun b hb => by simpa using fresh b hb
  have last : (q.beads ++ [r.bead t]).find? (fun b => b.thread == t) = some (r.bead t) := by
    rw [List.find?_append, absent, Option.none_or]
    exact List.find?_cons_of_pos (beq_self_eq_true t)
  obtain ⟨b, found, same⟩ := storeBead_find
    (s := { q.modTh t (Thread.asBead g n) with beads := q.beads ++ [r.bead t] }) (t := t) last
  rw [makeBead_eq stands waits]
  injection same with _ _ key eqp kbase payload portable
  exact ⟨b, found, key, eqp, kbase, payload, portable⟩

end MakeBead

/-! ## A thread crosses to a native image (R193) -/

/-- Where virtual registers land in a native image. -/
def landing (m : List (Nat × Bool × Nat)) (vs : List (Nat × Word)) : List (Nat × Word) :=
  vs.filterMap fun v => (m.find? fun e => e.1 == v.1).map fun e => (e.2.2, v.2)

/-- A thread that stands at a point of a native image with zeroed registers. -/
def Thread.atPoint (pc : DWord) (e : EqpRec) (u : Thread) : Thread :=
  { (u.standAt pc false e) with regs := Vector.replicate 128 0 }

/-- A thread that has crossed to a native image: its virtual registers stand where the map of the point puts them. -/
def Thread.arrive (pc : DWord) (e : EqpRec) (m : List (Nat × Bool × Nat)) (vs : List (Nat × Word)) (u : Thread) : Thread :=
  (u.atPoint pc e).putAll (landing m vs)

section Arrive
variable {m : List (Nat × Bool × Nat)} (native : ∀ e ∈ m, e.2.1 = false ∧ e.2.2 < 128)

include native in
theorem landing_lt (vs : List (Nat × Word)) : ∀ w ∈ landing m vs, w.1 < 128 := by
  intro w hw
  obtain ⟨v, -, h⟩ := List.mem_filterMap.1 hw
  obtain ⟨e, he, rfl⟩ := Option.map_eq_some_iff.1 h
  exact (native e (List.mem_of_find?_eq_some he)).2

theorem writeMap_absent {s : State} {t : Nat} {v : Nat × Word} {vs : List (Nat × Word)} (place : mapPlace false m v.1 = none) :
    s.writeMap t false m (v :: vs) = s.writeMap t false m vs := by
  show (match mapPlace false m v.1 with
    | none => s.writeMap t false m vs
    | some (false, n) => _
    | some (true, n) => _) = _
  rw [place]

theorem writeMap_register {s : State} {t n : Nat} {v : Nat × Word} {vs : List (Nat × Word)}
    (place : mapPlace false m v.1 = some (false, n)) :
    s.writeMap t false m (v :: vs) = (s.modTh t fun u => u.put n v.2).writeMap t false m vs := by
  show (match mapPlace false m v.1 with
    | none => _
    | some (false, n) => (s.modTh t fun u => u.put n v.2).writeMap t false m vs
    | some (true, _) => _) = _
  rw [place]

include native

theorem writeMap_native (vs : List (Nat × Word)) : ∀ (s : State) (t : Nat),
    s.writeMap t false m vs = (s.modTh t fun u => u.putAll (landing m vs), none) := by
  induction vs with
  | nil => exact fun s t => congrArg (·, none) (modTh_id s t).symm
  | cons v vs ih =>
    intro s t
    cases found : m.find? fun e => e.1 == v.1 with
    | none =>
      have off : landing m (v :: vs) = landing m vs := by simp only [landing, List.filterMap_cons, found, Option.map_none]
      have place : mapPlace false m v.1 = none := by simp only [mapPlace, found]; rfl
      rw [writeMap_absent place, off]
      exact ih s t
    | some e =>
      obtain ⟨k, overflow, n⟩ := e
      obtain rfl : overflow = false := (native _ (List.mem_of_find?_eq_some found)).1
      have on : landing m (v :: vs) = (n, v.2) :: landing m vs := by simp only [landing, List.filterMap_cons, found, Option.map_some]
      have place : mapPlace false m v.1 = some (false, n) := by simp only [mapPlace, found]; rfl
      rw [writeMap_register place, on, ih, modTh_modTh s fun u => (put_hold u _ _).2.1]
      rfl

theorem arriveAt_native (s : State) (t : Nat) (pc : DWord) (e : EqpRec) (vs : List (Nat × Word)) :
    s.arriveAt t pc false e m vs = s.modTh t (Thread.arrive pc e m vs) := by
  have moved : s.arriveAt t pc false e m vs = (s.modTh t (Thread.atPoint pc e)).modTh t fun u => u.putAll (landing m vs) := by
    simp only [State.arriveAt, Bool.false_and, Bool.false_eq_true, if_false, writeMap_native native]
    rfl
  rw [moved, modTh_modTh s (f := Thread.atPoint pc e) fun _ => rfl]
  rfl

theorem arrive_eq (u : Thread) (pc : DWord) (e : EqpRec) (vs : List (Nat × Word)) :
    u.arrive pc e m vs = { (u.atPoint pc e) with regs := (u.arrive pc e m vs).regs } :=
  putAll_eq _ _ (landing_lt native vs)

end Arrive

end Sys2Proof.Machine
end

section
/-!
PROOFS. The place of a new group on a core of its list, and where its threads then stand (R192, R193); the statement about REORDER.
-/

namespace Sys2Proof.Machine

/-! ## The registers of a thread that arrives (R193) -/

/-- The virtual registers that a bead carries. -/
def Bead.regs (b : Bead) : List (Nat × Word) := b.payload.mapIdx fun i w => (b.kbase + i, w)

theorem Bead.regs_nodup (b : Bead) : (b.regs.map Prod.fst).Nodup := by
  rw [List.Nodup, List.pairwise_iff_getElem]
  intro i j hi hj less
  simp only [Bead.regs, List.getElem_map, List.getElem_mapIdx]
  omega

theorem Bead.mem_regs {b : Bead} {v : Nat × Word} : v ∈ b.regs ↔ ∃ i, b.payload[i]? = some v.2 ∧ v.1 = b.kbase + i := by
  simp only [Bead.regs, List.mem_mapIdx, List.getElem?_eq_some_iff]
  constructor
  · rintro ⟨i, hi, rfl⟩
    exact ⟨i, ⟨hi, rfl⟩, rfl⟩
  · rintro ⟨i, ⟨hi, word⟩, place⟩
    exact ⟨i, hi, Prod.ext place.symm word⟩

section Registers
variable {m : List (Nat × Bool × Nat)} (native : ∀ e ∈ m, e.2.1 = false ∧ e.2.2 < 128)

theorem mem_landing {vs : List (Nat × Word)} {w : Nat × Word} :
    w ∈ landing m vs ↔ ∃ v ∈ vs, ∃ e, m.find? (fun e => e.1 == v.1) = some e ∧ (e.2.2, v.2) = w := by
  simp only [landing, List.mem_filterMap, Option.map_eq_some_iff]

/-- Two registers of a run do not land in one place, where no two places of the map are one. -/
theorem landing_nodup (apart : (m.map fun e => e.2.2).Nodup) {vs : List (Nat × Word)} (one : (vs.map Prod.fst).Nodup) :
    ((landing m vs).map Prod.fst).Nodup := by
  have places : (landing m vs).map Prod.fst =
      (vs.map Prod.fst).filterMap fun k => (m.find? fun e => e.1 == k).map fun e => e.2.2 := by
    rw [landing, List.map_filterMap, List.filterMap_map]
    congr 1
    funext v
    rw [Option.map_map]
    rfl
  rw [places]
  refine one.filterMap fun k l n hk hl => ?_
  obtain ⟨e, he, rfl⟩ := Option.map_eq_some_iff.1 hk
  obtain ⟨f, hf, same⟩ := Option.map_eq_some_iff.1 hl
  have key {k : Nat} {e : Nat × Bool × Nat} (found : m.find? (fun e => e.1 == k) = some e) : e.1 = k := by
    simpa using List.find?_some found
  have entries := List.inj_on_of_nodup_map apart (List.mem_of_find?_eq_some hf) (List.mem_of_find?_eq_some he) same
  rw [← key he, ← key hf, entries]

theorem atPoint_get (u : Thread) (pc : DWord) (e : EqpRec) {n : Nat} (hn : n < 128) : (u.atPoint pc e).get n = 0 := by
  rw [Thread.get, if_pos hn]
  simp [Thread.atPoint, Vector.getD, hn]

variable (u : Thread) (pc : DWord) (e : EqpRec) (b : Bead)
include native

theorem arrive_get (apart : (m.map fun e => e.2.2).Nodup) {i : Nat} {x : Word} (word : b.payload[i]? = some x)
    {f : Nat × Bool × Nat} (place : m.find? (fun f => f.1 == b.kbase + i) = some f) : (u.arrive pc e m b.regs).get f.2.2 = x :=
  putAll_get _ _ (landing_lt native _) (landing_nodup apart b.regs_nodup) (f.2.2, x)
    (mem_landing.2 ⟨(b.kbase + i, x), Bead.mem_regs.2 ⟨i, word, rfl⟩, f, place, rfl⟩)

theorem arrive_get_other {n : Nat} (hn : n < 128)
    (off : ∀ i, i < b.payload.length → ∀ f, m.find? (fun f => f.1 == b.kbase + i) = some f → f.2.2 ≠ n) :
    (u.arrive pc e m b.regs).get n = 0 := by
  refine (putAll_other _ _ (landing_lt native _) n fun mem => ?_).trans (atPoint_get u pc e hn)
  obtain ⟨w, hw, rfl⟩ := List.mem_map.1 mem
  obtain ⟨v, hv, f, found, rfl⟩ := mem_landing.1 hw
  obtain ⟨i, word, place⟩ := Bead.mem_regs.1 hv
  exact off i (List.getElem?_eq_some_iff.1 word).1 f (place ▸ found) rfl

end Registers

/-! ## One member of a placed group (R193) -/

/-- What a thread leaves behind at a REORDER: its predicates, flag counts and calls. -/
def Thread.leave (u : Thread) : Thread := { u with preds := 0, flags := Vector.replicate 12 0, depth := 0, reorder := none }

/-- A member of a group that is placed on a core leaves its bead and resumes. -/
def State.placeMember (c : Nat) (s : State) (u : Thread) : State :=
  match s.beads.find? fun x => x.thread == u.id with
  | none => s
  | some bd =>
    let e : EqpRec := (u.reorder.map ReorderRec.point).getD (u.eqp.getD ⟨bd.eqp, 0, 0⟩)
    match ((s.ctxOf u).objs.find? fun o => o.handle == e.handle).bind fun o => o.resumeAt (kindOf c) e with
    | none => s
    | some (pc, p, map) =>
      let f := (u.frames.headD (0, 0)).1
      let zeros := if p && 112 < f then (upto (f - 112)).map fun i => (128 + i, 0#32) else []
      ((s.modTh u.id Thread.leave).dropBead u.id).arriveAt u.id pc p e map (zeros ++ bd.regs)

theorem ctxOf_of_holdings {s z : State} (h : z.holdings = s.holdings) (u : Thread) : z.ctxOf u = s.ctxOf u := by
  injection h with contexts teams
  rw [State.ctxOf, State.ctxOf, State.ctx, State.ctx, State.ctx?, State.ctx?, State.team, State.team, contexts, teams]

/-- Thread `u` waits as a bead for a core, on whose kind its point `e` resumes at `pc` in a native image with the map `m`. -/
structure State.Waits (s : State) (c : Nat) (e : EqpRec) (pc : DWord) (m : List (Nat × Bool × Nat)) (u : Thread) : Prop where
  stands : s.thread? u.id = some u
  point : u.reorder.map ReorderRec.point = some e
  bead : ∃ b, s.beads.find? (fun b => b.thread == u.id) = some b
  image : ∃ o, (s.ctxOf u).objs.find? (fun o => o.handle == e.handle) = some o ∧ o.resumeAt (kindOf c) e = some (pc, false, m)

section Member
variable {s : State} {c : Nat} {e : EqpRec} {pc : DWord} {m : List (Nat × Bool × Nat)}
  (native : ∀ f ∈ m, f.2.1 = false ∧ f.2.2 < 128) {u : Thread} (waits : s.Waits c e pc m u)
include native waits

theorem placeMember_eq {b : Bead} (bead : s.beads.find? (fun b => b.thread == u.id) = some b) :
    s.placeMember c u = ((s.modTh u.id Thread.leave).dropBead u.id).modTh u.id (Thread.arrive pc e m b.regs) := by
  obtain ⟨o, object, resumes⟩ := waits.image
  have found : ((s.ctxOf u).objs.find? fun o => o.handle == e.handle).bind (fun o => o.resumeAt (kindOf c) e) =
      some (pc, false, m) := by
    rw [object, Option.bind_some, resumes]
  simp only [State.placeMember, bead, waits.point, Option.getD_some, found, arriveAt_native native]
  rfl

theorem placeMember_thread {b : Bead} (bead : s.beads.find? (fun b => b.thread == u.id) = some b) :
    (s.placeMember c u).thread? u.id = some (u.leave.arrive pc e m b.regs) := by
  have left : ((s.modTh u.id Thread.leave).dropBead u.id).thread? u.id = some u.leave :=
    (thread_threads (congrArg (fun v => v.1.1) (dropBead_keeps u.id)) u.id).trans (thread_modTh waits.stands)
  rw [placeMember_eq native waits bead]
  exact thread_modTh left fun v hv => by rw [arrive_eq native]; exact hv

theorem placeMember_keeps : (∀ k, k ≠ u.id → (s.placeMember c u).thread? k = s.thread? k) ∧
    (s.placeMember c u).groups = s.groups ∧ (s.placeMember c u).holdings = s.holdings ∧
    (s.placeMember c u).beads = s.beads.filter fun b => b.thread != u.id := by
  obtain ⟨b, bead⟩ := waits.bead
  have dropped := dropBead_keeps (s := s.modTh u.id Thread.leave) u.id
  rw [placeMember_eq native waits bead]
  refine ⟨fun k hk => ?_, congrArg (fun v => v.1.2.1) dropped, congrArg (fun v => v.1.2.2) dropped, congrArg Prod.snd dropped⟩
  rw [thread_modTh_other hk fun v hv => by rw [arrive_eq native]; exact hv,
    thread_threads (congrArg (fun v => v.1.1) dropped) k, thread_modTh_other hk]

/-- Another bead stays where it is. -/
theorem placeMember_bead {k : Nat} (hk : k ≠ u.id) :
    (s.placeMember c u).beads.find? (fun b => b.thread == k) = s.beads.find? fun b => b.thread == k := by
  obtain ⟨-, -, -, beads⟩ := placeMember_keeps native waits
  rw [beads, List.find?_filter]
  congr 1
  funext b
  grind

theorem placeMember_waits {v : Thread} (other : v.id ≠ u.id) (h : s.Waits c e pc m v) : (s.placeMember c u).Waits c e pc m v := by
  obtain ⟨threads, -, holdings, -⟩ := placeMember_keeps native waits
  refine ⟨(threads _ other).trans h.stands, h.point, ?_, ?_⟩
  · rw [placeMember_bead native waits other]
    exact h.bead
  · rw [ctxOf_of_holdings holdings]
    exact h.image

end Member

/-- The members of a group, placed one after the other. -/
theorem foldl_placeMember {c : Nat} {e : EqpRec} {pc : DWord} {m : List (Nat × Bool × Nat)}
    (native : ∀ f ∈ m, f.2.1 = false ∧ f.2.2 < 128) (l : List Thread) (one : (l.map Thread.id).Nodup) : ∀ s : State,
    (∀ u ∈ l, s.Waits c e pc m u) → let z := l.foldl (State.placeMember c) s
    z.groups = s.groups ∧ (∀ k, (∀ u ∈ l, u.id ≠ k) → z.thread? k = s.thread? k) ∧
      ∀ u ∈ l, ∀ b, s.beads.find? (fun b => b.thread == u.id) = some b →
        z.thread? u.id = some (u.leave.arrive pc e m b.regs) := by
  induction l with
  | nil => exact fun s _ => ⟨rfl, fun _ _ => rfl, fun _ h => absurd h List.not_mem_nil⟩
  | cons a l ih =>
    intro s wait
    obtain ⟨new, one⟩ := List.nodup_cons.1 one
    have other : ∀ u ∈ l, u.id ≠ a.id := fun u hu same => new (same ▸ List.mem_map_of_mem hu)
    have first := wait a List.mem_cons_self
    obtain ⟨threads, groups, -, -⟩ := placeMember_keeps native first
    obtain ⟨groups', threads', placed⟩ := ih one (s.placeMember c a) fun u hu =>
      placeMember_waits native first (other u hu) (wait u (List.mem_cons_of_mem a hu))
    refine ⟨groups'.trans groups, fun k hk => (threads' k fun u hu => hk u (List.mem_cons_of_mem a hu)).trans
      (threads k (hk a List.mem_cons_self).symm), fun u hu b bead => ?_⟩
    rcases List.mem_cons.1 hu with rfl | hu
    · exact (threads' _ other).trans (placeMember_thread native first bead)
    · exact placed u hu b ((placeMember_bead native first (other u hu)).trans bead)

/-! ## The placing of a group (R192) -/

/-- A group that has taken a position on a core. -/
def Group.seated (c grp stamp : Nat) (x : Group) : Group :=
  { x with core := c, grp := grp, resident := true, stamp := stamp, beadCores := [], beadNo := 0 }

/-- The state in which a group has taken a position on a core, which begins with an acquire. -/
def State.seatRod (q : State) (g c : Nat) : State :=
  (q.fresh.2.modGroup g (Group.seated c ((q.freeGrps c).headD 0) q.nextId)).acquireCore c

section Place
variable {q : State} {g c : Nat} {gr : Group} (group : q.groups.find? (fun x => x.id == g) = some gr)
include group

theorem placeRod_eq (takes : ((upto gr.beadCores.length).map fun i =>
    gr.beadCores.getD ((gr.beadNo + i) % gr.beadCores.length) 0).find? (fun c => q.fits c gr.slices (q.groupB g)) = some c) :
    q.placeRod g = (q.liveOf g).foldl (State.placeMember c) (q.seatRod g c) := by
  have record : q.group g = gr := by rw [State.group, group]; rfl
  unfold State.placeRod
  dsimp only
  rw [record, takes]
  rfl

theorem seatRod_group : (q.seatRod g c).group g = gr.seated c ((q.freeGrps c).headD 0) q.nextId := by
  have found := find_updBy_self Group.id (Group.seated c ((q.freeGrps c).headD 0) q.nextId) g (fun x hx => hx) q.groups
  rw [group] at found
  exact congrArg (fun o => o.getD default) found

omit group in
theorem mem_liveOf {u : Thread} : u ∈ q.liveOf g ↔ u ∈ q.threads ∧ u.group = g ∧ u.status = .live := by
  simp [State.liveOf]

/-- A group that is placed: the group itself, the threads that are none of its members, and its members. -/
theorem placeRod_places {e : EqpRec} {pc : DWord} {m : List (Nat × Bool × Nat)} (native : ∀ f ∈ m, f.2.1 = false ∧ f.2.2 < 128)
    (one : (q.threads.map Thread.id).Nodup)
    (takes : ((upto gr.beadCores.length).map fun i =>
      gr.beadCores.getD ((gr.beadNo + i) % gr.beadCores.length) 0).find? (fun c => q.fits c gr.slices (q.groupB g)) = some c)
    (wait : ∀ u ∈ q.liveOf g, (q.seatRod g c).Waits c e pc m u) :
    (q.placeRod g).group g = gr.seated c ((q.freeGrps c).headD 0) q.nextId ∧
      (∀ k, (∀ u ∈ q.liveOf g, u.id ≠ k) → (q.placeRod g).thread? k = q.thread? k) ∧
      ∀ u ∈ q.liveOf g, ∀ b, q.beads.find? (fun b => b.thread == u.id) = some b →
        (q.placeRod g).thread? u.id = some (u.leave.arrive pc e m b.regs) := by
  obtain ⟨groups, others, placed⟩ := foldl_placeMember native (q.liveOf g) (one.sublist (List.filter_sublist.map _)) _ wait
  rw [← placeRod_eq group takes] at groups others placed
  refine ⟨?_, others, placed⟩
  rw [State.group, groups]
  exact seatRod_group group

end Place

/-! ## The statement -/

/-- Settles O25: the issue of a REORDER by what bars it; its completion by its points and cores; the new groups by their cuts; a
bead by its record; a placed group member by member, and a member's registers by where its map puts them. -/
theorem reorderArrives : Obligations.ReorderArrives := by
  refine ⟨fun s th x core n key b kind colours => ?issue, fun q ps => ?complete, fun l => ?groups,
    fun q g t n u r stands waits => ?bead, fun q g c gr e pc m group distinct takes native apart members => ?place⟩
  case issue =>
    refine fun h => ⟨reorder_waits h, reorder_traps h, fun idle good e k => reorder_arrives h idle good, fun q t r waits =>
      ⟨reorderCheck_early waits, reorderCheck_goes waits⟩⟩
  case complete =>
    exact ⟨sortKey_sorted _, (sortKey_perm _).map Prod.snd |>.trans (by rw [List.map_map]; rfl), reorderGo_apart,
      fun e arrived same => ⟨reorderGo_noCore arrived same, reorderGo_forms arrived same⟩⟩
  case groups =>
    have full := fullRods_length l
    refine ⟨rodGroups_perm l, rodGroups_mem l, rodGroups_dropLast l, ?_, ?_⟩
    · exact full ▸ (rodGroups_take l).trans (fullRods_flatten l)
    · exact full ▸ rodGroups_drop l
  case bead =>
    have threads := makeBead_threads (g := g) (n := n) stands waits
    exact ⟨(thread_threads threads t).trans (thread_modTh stands),
      fun k hk => (thread_threads threads k).trans (thread_modTh_other hk), makeBead_find stands waits⟩
  case place =>
    have one : (q.threads.map Thread.id).Nodup := List.pairwise_map.2 distinct
    have wait : ∀ u ∈ q.liveOf g, (q.seatRod g c).Waits c e pc m u := fun u hu => by
      obtain ⟨hu, ofGroup, alive⟩ := mem_liveOf.1 hu
      obtain ⟨point, ⟨b, hb, own⟩, image⟩ := members u hu ofGroup alive
      refine ⟨find_of_mem_nodup one hu, point, ?_, image⟩
      exact Option.isSome_iff_exists.1 (List.find?_isSome.2 ⟨b, hb, beq_iff_eq.2 own⟩)
    obtain ⟨record, others, placed⟩ := placeRod_places group native one takes wait
    refine ⟨by rw [record]; rfl, by rw [record]; rfl, fun k away => others k fun u hu same => ?_,
      fun u hu ofGroup alive b bead => ?_⟩
    · obtain ⟨hu, ofGroup, alive⟩ := mem_liveOf.1 hu
      exact away u hu same ⟨ofGroup, alive⟩
    · have stands := placed u (mem_liveOf.2 ⟨hu, ofGroup, alive⟩) b bead
      have only := arrive_eq native u.leave pc e b.regs
      have get (n : Nat) := congrArg (fun w : Thread => w.get n) only
      rw [only] at stands
      exact ⟨_, stands, rfl, rfl, rfl, rfl, rfl, rfl, ofGroup, rfl, rfl, rfl, rfl, rfl, rfl, rfl, rfl, rfl, rfl, rfl, rfl, rfl, rfl, rfl,
        rfl, fun i x f word place => (get _).symm.trans (arrive_get native _ _ _ _ apart word place),
        fun n hn off => (get n).symm.trans (arrive_get_other native _ _ _ _ hn off)⟩

end Sys2Proof.Machine
end
